-- ==== Sys2Proof/Word.lean ====
section
/-! DEFINITION. The 32-bit register word and the byte, and the plainest operations on bit fields. -/

namespace Sys2Proof

/-- A register of the management space is 32 bits (R271). -/
abbrev Word := BitVec 32

/-- A byte of HBM or of a frame. -/
abbrev Byte := BitVec 8

/-- The bits `lsb` to `lsb + width - 1` of a number. -/
def bitsOf (v lsb width : Nat) : Nat := (v >>> lsb) % 2 ^ width

/-- Bit `i` of a number as a number. -/
def bitOf (v i : Nat) : Nat := (v >>> i) % 2

/-- A truth value as a bit. -/
def b2n (b : Bool) : Nat := if b then 1 else 0

/-- The two's complement reading of the low `width` bits. -/
def signedOf (v width : Nat) : Int :=
  if v % 2 ^ width < 2 ^ (width - 1) then (v % 2 ^ width : Nat)
  else (v % 2 ^ width : Nat) - (2 ^ width : Nat)

/-- The low `width` bits of an integer in two's complement. -/
def toField (v : Int) (width : Nat) : Nat := (v % (2 ^ width : Nat)).toNat

/-- The quotient rounded up. -/
def ceilDiv (a b : Nat) : Nat := (a + b - 1) / b

/-- Clamp of an integer. -/
def clampI (v lo hi : Int) : Int := if v < lo then lo else if hi < v then hi else v

end Sys2Proof
end

