-- ==== Sys2Proof/Syntax.lean ====
section
/-! DEFINITION. The commands of the block: one constructor for each row of the operation table. Every command carries
first the PTP time `t`, in ns, at which it reaches the module; `acc` is an accessor of R278 (0 to 15 the Aedwin sessions,
16 Ururi, 17 the boot application). Indices are bounded by their types; what else a command must satisfy is checked
in `WellFormed`. -/

namespace Sys2Proof

/-- A landing, lane, window or other index keeps its range in its type. -/
abbrev Accessor := Fin 18

/-- The on-chip SRAM that an uncorrectable error hits (R45): the Gallery symbol that holds a canvas
pixel of a window, a hall's line buffer or vestibule, a cache, or the staging of a DMA channel. -/
inductive SramUnit where
  | gallery (w : Fin 576) (row col : Nat)
  | lineBuffer (h : Fin 8)
  | vestibule (h : Fin 8)
  | cache
  | staging (d : Fin 64)
deriving DecidableEq, Repr

/-- What leaves service (R186): a hall, or some bytes of the Gallery from an offset. -/
inductive HwRegion where
  | hall (h : Fin 8)
  | gallery (ofs bytes : Nat)
deriving DecidableEq, Repr

/-- A sideband fragment as it is received (R232): channel, first, last and six bytes. -/
structure SbFrag where
  channel : BitVec 4
  first   : Bool
  last    : Bool
  data    : BitVec 48
deriving DecidableEq, Repr

/-- The egress port of a frame (R330): a host sub-port or an Ethernet-mode lane. -/
inductive TxPort where
  | host (s : Fin 8)
  | lane (n : Fin 144)
deriving DecidableEq, Repr

/-- A Pdelay message of an 802.1AS port (R347, R348): a request from the neighbour, a response with the neighbour's
receipt time of our request, or its follow-up with the time the response left; times in ns. -/
inductive PdelayMsg where
  | request (port : BitVec 80) (seq : BitVec 16)
  | response (seq : BitVec 16) (t2 : Nat)
  | followUp (seq : BitVec 16) (t3 : Nat)
deriving DecidableEq, Repr

/-- The layer-2 to layer-4 header of a frame received on a host sub-port, as far as the manual uses it: sub-port,
MAC addresses, priority of the tag when there is one, length from the destination MAC through the FCS, IP addresses, and whether
it carries UDP with its ports; an IPv4 address stands in the low 32 bits. A row that names its protocol fixes whether it is UDP. -/
structure RxHdr where
  sub    : Fin 8
  dmac   : BitVec 48
  smac   : BitVec 48
  pcp    : Option (BitVec 3)
  len    : Nat
  ipv6   : Bool
  src    : BitVec 128
  dst    : BitVec 128
  udp    : Bool
  sport  : BitVec 16
  dport  : BitVec 16
deriving DecidableEq, Repr

/-- Why a received host frame is dropped before dispatch (R298). -/
inductive RxDrop where
  | fcs | length | fragment | notMine
deriving DecidableEq, Repr

/-- One sample row data header and its bytes (R304). -/
structure Srd where
  row    : Nat
  offset : Nat
  data   : List Byte
deriving DecidableEq, Repr

/-- An RTP packet of SMPTE ST 2110-20 (R303, R304): version, payload type, SSRC, extended sequence number,
timestamp, marker and its rows. -/
structure RtpPacket where
  version : BitVec 2
  pt      : BitVec 7
  ssrc    : Word
  seq     : Word
  stamp   : Word
  marker  : Bool
  rows    : List Srd
deriving DecidableEq, Repr

/-- The header of an Aedwin frame (R313); `len` is the body length the frame states. The command names its type; a frame of a
session whose type R316 does not list comes as a request with that type in `other`. -/
structure AedHdr where
  magic   : BitVec 16
  version : BitVec 8
  sid     : BitVec 16
  len     : Nat
  seq     : Word
  ref     : Word
  other   : Option (BitVec 8)
deriving DecidableEq, Repr

/-- A received Aedwin frame: its outer header, its own header, body and tag. -/
structure AedFrame where
  rx   : RxHdr
  hdr  : AedHdr
  body : List Byte
  tag  : List Byte
deriving DecidableEq, Repr

/-- An entry of a MASKED_WRITE (R316) or of a MASKED record (R519). -/
structure MaskEntry where
  addr  : BitVec 26
  mask  : Word
  value : Word
deriving DecidableEq, Repr

/-- The port identities of a delay response (IEEE 1588-2019): of the port that sends it and of the one whose request it answers. -/
structure PtpPair where
  source     : BitVec 80
  requesting : BitVec 80
deriving DecidableEq, Repr

/-- The data of an Announce message that the BMCA compares, its logAnnounceInterval, −3 to 1 as 0 to 4, and the ST 2059-2 synchronization metadata TLV with it, which is held
and not used (R302, log 38). -/
structure Announce where
  gmId      : BitVec 64
  priority1 : BitVec 8
  clockClass : BitVec 8
  accuracy  : BitVec 8
  variance  : BitVec 16
  priority2 : BitVec 8
  steps     : BitVec 16
  interval  : Fin 5
  domain    : BitVec 8
  sender    : BitVec 80
  metadata  : List Byte
deriving DecidableEq, Repr

/-- The service class of an HBM request (R361). -/
inductive HbmClass where
  | rt | is | be | mt
deriving DecidableEq, Repr

/-- The master a burst read returns to (R369): a tile of a layer, a DMA channel, a page walk, a calibration read of a
window, the scrubber, a migration, the read of a read-modify-write, a tone-policy LUT read, or another. -/
inductive HbmClient where
  | tile (h : Fin 8) (n : Fin 33)
  | dma (d : Fin 64)
  | walk
  | calib (w : Fin 576)
  | migration
  | rmw
  | tone (h : Fin 8)
  | other
deriving DecidableEq, Repr

/-- What a burst read brings beside the stored burst: the error pattern on its 36 bytes, empty for none, and the corrections that
the on-die ECC of the device reports (R367). -/
structure BurstRet where
  err   : List Byte
  ondie : Nat
deriving DecidableEq, Repr

/-- The passing delay steps of a lane in one direction, by voltage step (R371): 32 of them, of 64 delay steps each. -/
abbrev Sweep := List (BitVec 64)

/-- A 64-byte unit to translate (R386): space, address, direction, master kind and master word of R390 and R392, whether it is
run-ahead, and the class of its request (R361). -/
structure XReq where
  asid   : Fin 16
  va     : BitVec 48
  write  : Bool
  kind   : Fin 8
  master : BitVec 16
  spec   : Bool
  cls    : HbmClass
deriving DecidableEq, Repr

/-- The MSG_START of a landing message (R249): source landing, hops taken, destination landing, broadcast, sequence number
of the source, and whether its CRC-32C is right. -/
structure MsgHead where
  src   : Fin 16
  hops  : BitVec 4
  dst   : Fin 16
  bcast : Bool
  seq   : BitVec 16
  crcOk : Bool
deriving DecidableEq, Repr

/-- One of the 14 entries of a VOTE (R250). -/
structure VoteEntry where
  margin  : BitVec 16
  landing : Fin 16
  phase   : BitVec 8
  inst    : BitVec 16
  demand  : Word
  budget  : Word
deriving DecidableEq, Repr

/-- The body of a VOTE (R250). -/
structure Vote where
  gen     : Word
  code    : BitVec 8
  landing : Fin 16
  counted : BitVec 16
  entries : List VoteEntry
deriving DecidableEq, Repr

/-- A bit error in the stored expected values of an exhibit (R495): the copy, the entry and the bits that changed. -/
structure CopyUpset where
  inB   : Bool
  index : Nat
  bits  : BitVec 64
deriving DecidableEq, Repr

/-- The data words of a mailbox request (R281). -/
structure Mbx4 where
  w0 : Word
  w1 : Word
  w2 : Word
  w3 : Word
deriving DecidableEq, Repr

/-- A block of an XMODEM-1K upload (R545): block number, its 1,024 bytes and the CRC-16 received with them. -/
structure XBlock where
  num  : BitVec 8
  data : List Byte
  crc  : BitVec 16
deriving DecidableEq, Repr


/-- What is shifted into the test access port (R561): whether TRST_N is high, without which the port stays in reset, the bits of the
instruction, and the bits that go in on TDI through the data register it selects, first bit first; none when no data is shifted. -/
structure TapScan where
  trstN : Bool
  ir    : BitVec 8
  dr    : List Bool
deriving DecidableEq, Repr

/-- The commands, in the order of the operation table. -/
inductive Instr where
  /-- CANVAS_TICK (R40). -/
  | canvasTick (t : Nat) (c : Fin 8)
  /-- PHASE_START (R17). -/
  | phaseStart (t : Nat) (c : Fin 8) (p : Fin 8)
  /-- TURNAROUND (R40). -/
  | turnaround (t : Nat) (c : Fin 8)
  /-- FENCE_HORIZON (R203). -/
  | fenceHorizon (t : Nat) (h : Fin 8) (n : Fin 33)
  /-- COMMIT_REQUEST (R24). -/
  | commitRequest (t : Nat) (acc : Accessor) (w0 w1 w2 w3 : Word)
  /-- ADMISSION_ANSWER (R30). -/
  | admissionAnswer (t : Nat)
  /-- COMMIT_CANCEL (R36). -/
  | commitCancel (t : Nat) (acc : Accessor)
  /-- COVERAGE_PASS_START (R157). -/
  | coveragePassStart (t : Nat) (h : Fin 8)
  /-- COVERAGE_PASS_DONE (R163). -/
  | coveragePassDone (t : Nat) (h : Fin 8)
  /-- LINE_SLOT_START (R225). -/
  | lineSlotStart (t : Nat) (w : Fin 576) (l : Nat)
  /-- WINDOW_FRAME_START (R233). -/
  | windowFrameStart (t : Nat) (w : Fin 576)
  /-- WINDOW_FRAME_END (R233). -/
  | windowFrameEnd (t : Nat) (w : Fin 576)
  /-- HALL_TICK_DONE (R93). -/
  | hallTickDone (t : Nat) (h : Fin 8)
  /-- WB_DONE (R85). -/
  | wbDone (t : Nat) (h : Fin 8)
  /-- HALL_KILL (R87). -/
  | hallKill (t : Nat) (acc : Accessor) (h : Fin 8)
  /-- SRAM_UE (R45). -/
  | sramUe (t : Nat) (u : SramUnit)
  /-- HW_REGION_LOSS (R186). -/
  | hwRegionLoss (t : Nat) (r : HwRegion)
  /-- READMISSION (R186). -/
  | readmission (t : Nat)
  /-- TONE_SWAP_CMD (R137). -/
  | toneSwapCmd (t : Nat) (acc : Accessor) (h : Fin 8)
  /-- LUT3D_SWAP_CMD (R137). -/
  | lut3dSwapCmd (t : Nat) (acc : Accessor) (h : Fin 8)
  /-- TONE_POLICY_RUN (R143). -/
  | tonePolicyRun (t : Nat) (c : Fin 8) (overrun : Bool)
  /-- STAT_CTL_WRITE (R141). -/
  | statCtlWrite (t : Nat) (acc : Accessor) (h : Fin 8) (v : Word)
  /-- FLIP_REQUEST (R193). -/
  | flipRequest (t : Nat) (acc : Accessor) (h : Fin 8) (n : Fin 33)
  /-- FLIP_WITHDRAW (R195). -/
  | flipWithdraw (t : Nat) (acc : Accessor) (h : Fin 8) (n : Fin 33)
  /-- FENCE_WRITE (R200). -/
  | fenceWrite (t : Nat) (acc : Accessor) (f : Fin 512) (v : Word)
  /-- LANE_HALT (R230). -/
  | laneHalt (t : Nat) (acc : Accessor) (n : Fin 144)
  /-- LANE_RESUME (R230). -/
  | laneResume (t : Nat) (acc : Accessor) (n : Fin 144)
  /-- LANE_FAILOVER (R231). -/
  | laneFailover (t : Nat) (acc : Accessor) (n : Fin 144)
  /-- LANE_FAILBACK (R231). -/
  | laneFailback (t : Nat) (acc : Accessor) (n : Fin 144)
  /-- STAIRLINE_TIME_SEND (R236). -/
  | stairlineTimeSend (t : Nat) (n : Fin 144)
  /-- TIME_ECHO_RX (R236). -/
  | timeEchoRx (t : Nat) (n : Fin 144) (seq : BitVec 16) (turn : Word)
  /-- ECHO_TIMEOUT (R236). -/
  | echoTimeout (t : Nat) (n : Fin 144)
  /-- SIDEBAND_RX (R235). -/
  | sidebandRx (t : Nat) (n : Fin 144) (f : SbFrag)
  /-- LRX_BLOCK_ERROR (R235). -/
  | lrxBlockError (t : Nat) (n : Fin 144)
  /-- LANE_RX_LOSS (R235). -/
  | laneRxLoss (t : Nat) (n : Fin 144)
  /-- LANE_TX_STOP (R540). -/
  | laneTxStop (t : Nat) (n : Fin 144)
  /-- SB_TX (R235). -/
  | sbTx (t : Nat) (acc : Accessor) (n : Fin 144) (w0 w1 : Word)
  /-- SB_RX (R235). -/
  | sbRx (t : Nat) (acc : Accessor) (n : Fin 144)
  /-- TIME_LAST (R242). -/
  | timeLast (t : Nat) (acc : Accessor) (n : Fin 144)
  /-- AS_SYNC_SEND (R347). -/
  | asSyncSend (t : Nat) (n : Fin 144)
  /-- AS_PDELAY_REQ_SEND (R347). -/
  | asPdelayReqSend (t : Nat) (n : Fin 144)
  /-- AS_PDELAY_RX (R348). -/
  | asPdelayRx (t : Nat) (n : Fin 144) (m : PdelayMsg)
  /-- AS_PDELAY_LOST (R348). -/
  | asPdelayLost (t : Nat) (n : Fin 144)
  /-- LANE_FRAME_DROP (R348). -/
  | laneFrameDrop (t : Nat) (n : Fin 144)
  /-- GATE_SWAP (R340). -/
  | gateSwap (t : Nat) (acc : Accessor) (n : Fin 144) (w0 w1 w2 : Word)
  /-- GATE_SWAP_ANSWER (R341). -/
  | gateSwapAnswer (t : Nat) (n : Fin 144)
  /-- GATE_SWAP_START (R340). -/
  | gateSwapStart (t : Nat) (n : Fin 144)
  /-- GATE_STOP (R343). -/
  | gateStop (t : Nat) (acc : Accessor) (n : Fin 144)
  /-- GATE_CANCEL (R342). -/
  | gateCancel (t : Nat) (acc : Accessor) (n : Fin 144)
  /-- GATE_INFO (R353). -/
  | gateInfo (t : Nat) (acc : Accessor) (n : Fin 144)
  /-- GATE_ENTRY (R339). -/
  | gateEntry (t : Nat) (n : Fin 144)
  /-- EGRESS_FRAME_START (R330). -/
  | egressFrameStart (t : Nat) (port : TxPort)
  /-- HELLO_SEND (R248). -/
  | helloSend (t : Nat) (k : Fin 8)
  /-- HELLO_RX (R248). -/
  | helloRx (t : Nat) (k : Fin 8) (landing : Fin 16) (topology : BitVec 2) (lanes skewed : Bool)
  /-- PORT_DOWN (R248). -/
  | portDown (t : Nat) (k : Fin 8)
  /-- LANDING_BLOCK_ERROR (R249). -/
  | landingBlockError (t : Nat) (k : Fin 8)
  /-- CONTENT_RX (R264). -/
  | contentRx (t : Nat) (k : Fin 8) (m : MsgHead) (set : BitVec 16) (asid : Fin 16) (va : BitVec 48) (data : List Byte) (full : BitVec 8)
  /-- PREPARE_RX (R256). -/
  | prepareRx (t : Nat) (k : Fin 8) (m : MsgHead) (gen : Word) (target : BitVec 64) (ref : Fin 8) (dryRun : Bool) (set : BitVec 16)
  /-- VOTE_RX (R256). -/
  | voteRx (t : Nat) (k : Fin 8) (m : MsgHead) (v : Vote)
  /-- DECIDE_DEADLINE (R256). -/
  | decideDeadline (t : Nat)
  /-- DECIDE_RESEND (R256). -/
  | decideResend (t : Nat) (k : Option (Fin 8))
  /-- DECIDE_RX (R258). -/
  | decideRx (t : Nat) (k : Fin 8) (m : MsgHead) (gen : Word) (target : BitVec 64) (commit : Bool) (code : BitVec 8) (landing : Fin 16)
  /-- DECIDE_MISS (R260). -/
  | decideMiss (t : Nat)
  /-- CASC_LOST (R260). -/
  | cascLost (t : Nat)
  /-- TIME_SYNC_SEND (R266). -/
  | timeSyncSend (t : Nat) (k : Fin 8)
  /-- TIME_SYNC_RX (R266). -/
  | timeSyncRx (t : Nat) (k : Fin 8) (m : MsgHead) (sent : Nat) (seq : BitVec 16)
  /-- LANDING_TIME_ECHO_RX (R266). -/
  | landingTimeEchoRx (t : Nat) (k : Fin 8) (m : MsgHead) (seq : BitVec 16) (turn : Word)
  /-- TICK_ALIGN_RX (R267). -/
  | tickAlignRx (t : Nat) (k : Fin 8) (m : MsgHead) (tree : BitVec 6) (tick : BitVec 64) (edge : Nat)
  /-- EVENT_MSG_RX (R265). -/
  | eventMsgRx (t : Nat) (k : Fin 8) (m : MsgHead) (ev : BitVec 16) (src : Fin 16) (time : Nat)
  /-- FENCE_MSG_RX (R265). -/
  | fenceMsgRx (t : Nat) (k : Fin 8) (m : MsgHead) (f : Fin 512) (v : Word)
  /-- GROUP_STATE_RX (R268). -/
  | groupStateRx (t : Nat) (k : Fin 8) (m : MsgHead) (g : Fin 8) (tick : BitVec 64) (ready : Bool) (counted : BitVec 16)
  /-- GROUP_GO_DEADLINE (R268). -/
  | groupGoDeadline (t : Nat) (g : Fin 8)
  /-- GROUP_GO_RX (R268). -/
  | groupGoRx (t : Nat) (k : Fin 8) (m : MsgHead) (g : Fin 8) (tick : BitVec 64) (flip : Bool)
  /-- JOIN_RX (R263). -/
  | joinRx (t : Nat) (k : Fin 8) (m : MsgHead) (gen : Word) (target : BitVec 64)
  /-- CASC_JOIN (R263). -/
  | cascJoin (t : Nat) (acc : Accessor) (landing : Fin 16)
  /-- PEER_EVT (R265). -/
  | peerEvt (t : Nat) (acc : Accessor)
  /-- REGISTER_WRITE (R276). -/
  | registerWrite (t : Nat) (acc : Accessor) (a : BitVec 26) (v : Word)
  /-- RC_READ (R275). -/
  | rcRead (t : Nat) (acc : Accessor) (a : BitVec 26)
  /-- IND_DATA (R280). -/
  | indData (t : Nat) (acc : Accessor) (page : BitVec 14) (wr : Option Word)
  /-- SNAP_NOW (R283). -/
  | snapNow (t : Nat) (acc : Accessor)
  /-- SNAP_AT_TICK (R283). -/
  | snapAtTick (t : Nat) (acc : Accessor) (c : Fin 8)
  /-- SNAP_AT (R294). -/
  | snapAt (t : Nat) (acc : Accessor) (w0 w1 : Word)
  /-- CFG_SCAN_DONE (R287). -/
  | cfgScanDone (t : Nat) (us : BitVec 10)
  /-- CFG_REFCRC_WRITE (R287). -/
  | cfgRefcrcWrite (t : Nat) (acc : Accessor) (v : Word)
  /-- EVT_N_PULSE_END (R292). -/
  | evtNPulseEnd (t : Nat) (i : Fin 4)
  /-- DOORBELL (R293). -/
  | doorbell (t : Nat) (acc : Accessor) (hi : Bool) (v : Word)
  /-- EPOCH_WRITE (R55). -/
  | epochWrite (t : Nat) (acc : Accessor) (c : Fin 8) (w0 w1 w2 : Word)
  /-- EPOCH_READ (R55). -/
  | epochRead (t : Nat) (acc : Accessor) (c : Fin 8)
  /-- TICK_NOW (R55). -/
  | tickNow (t : Nat) (acc : Accessor) (c : Fin 8)
  /-- COMMIT_ANSWER_READ (R55). -/
  | commitAnswerRead (t : Nat) (acc : Accessor)
  /-- SERIAL (R294). -/
  | serial (t : Nat) (acc : Accessor)
  /-- HOST_LINK_CHANGE (R299). -/
  | hostLinkChange (t : Nat) (s : Fin 8) (up fec : Bool)
  /-- PTP_SYNC_RX (R302). -/
  | ptpSyncRx (t : Nat) (rx : RxHdr) (sender : BitVec 80) (domain : BitVec 8) (seq : BitVec 16) (twoStep : Bool) (origin : Nat) (corr : Int)
  /-- PTP_FOLLOW_UP_RX (R302). -/
  | ptpFollowUpRx (t : Nat) (rx : RxHdr) (sender : BitVec 80) (domain : BitVec 8) (seq : BitVec 16) (origin : Nat) (corr : Int)
  /-- PTP_DELAY_RESP_RX (R302). -/
  | ptpDelayRespRx (t : Nat) (rx : RxHdr) (sender : PtpPair) (domain : BitVec 8) (seq : BitVec 16) (receipt : Nat) (corr : Int)
  /-- PTP_ANNOUNCE_RX (R302). -/
  | ptpAnnounceRx (t : Nat) (rx : RxHdr) (a : Announce)
  /-- PTP_MANAGEMENT_RX (R302). -/
  | ptpManagementRx (t : Nat) (rx : RxHdr)
  /-- PTP_ANNOUNCE_TIMEOUT (R302). -/
  | ptpAnnounceTimeout (t : Nat) (s : Fin 8)
  /-- PTP_DELAY_REQ_SEND (R302). -/
  | ptpDelayReqSend (t : Nat) (s : Fin 8)
  /-- PTP_PARENT (R325). -/
  | ptpParent (t : Nat) (acc : Accessor) (p : Fin 2)
  /-- ARP_RX (R301). -/
  | arpRx (t : Nat) (rx : RxHdr)
  /-- ND_RX (R301). -/
  | ndRx (t : Nat) (rx : RxHdr)
  /-- ICMP_ECHO_RX (R301). -/
  | icmpEchoRx (t : Nat) (rx : RxHdr) (body : List Byte)
  /-- MEMBERSHIP_QUERY_RX (R301). -/
  | membershipQueryRx (t : Nat) (rx : RxHdr)
  /-- RX_PACKET (R305). -/
  | rxPacket (t : Nat) (rx : RxHdr) (p : RtpPacket)
  /-- RX_MERGE_TIMEOUT (R309). -/
  | rxMergeTimeout (t : Nat) (r : Fin 256)
  /-- RX_LEG_LOSS (R309). -/
  | rxLegLoss (t : Nat) (r : Fin 256) (legB : Bool)
  /-- AED_OPEN (R314). -/
  | aedOpen (t : Nat) (f : AedFrame)
  /-- AED_AUTH (R314). -/
  | aedAuth (t : Nat) (f : AedFrame)
  /-- AED_CLOSE (R315). -/
  | aedClose (t : Nat) (f : AedFrame)
  /-- AED_KEEPALIVE (R315). -/
  | aedKeepalive (t : Nat) (f : AedFrame)
  /-- AED_READ (R316). -/
  | aedRead (t : Nat) (f : AedFrame)
  /-- AED_WRITE (R316). -/
  | aedWrite (t : Nat) (f : AedFrame)
  /-- AED_MASKED_WRITE (R316). -/
  | aedMaskedWrite (t : Nat) (f : AedFrame)
  /-- AED_SEQUENCE (R316). -/
  | aedSequence (t : Nat) (f : AedFrame)
  /-- AED_MAILBOX (R316). -/
  | aedMailbox (t : Nat) (f : AedFrame)
  /-- AED_SUBSCRIBE (R316). -/
  | aedSubscribe (t : Nat) (f : AedFrame)
  /-- AED_BULK_WRITE (R320). -/
  | aedBulkWrite (t : Nat) (f : AedFrame)
  /-- AED_BULK_DONE (R320). -/
  | aedBulkDone (t : Nat) (p : Fin 2)
  /-- AED_FENCE (R322). -/
  | aedFence (t : Nat) (f : AedFrame)
  /-- AED_COMMIT_REQUEST (R323). -/
  | aedCommitRequest (t : Nat) (f : AedFrame)
  /-- AED_CHALLENGE_TIMEOUT (R315). -/
  | aedChallengeTimeout (t : Nat) (i : Fin 16)
  /-- AED_IDLE_TIMEOUT (R315). -/
  | aedIdleTimeout (t : Nat) (i : Fin 16)
  /-- AED_GAP_TIMEOUT (R318). -/
  | aedGapTimeout (t : Nat) (i : Fin 16)
  /-- AED_EVENT_SEND (R321). -/
  | aedEventSend (t : Nat) (i : Fin 16)
  /-- KEY_LOAD (R327). -/
  | keyLoad (t : Nat) (acc : Accessor) (w0 w1 w2 : Word)
  /-- KEY_COMMIT (R327). -/
  | keyCommit (t : Nat) (acc : Accessor) (w0 : Word)
  /-- POLICER_RESET (R335). -/
  | policerReset (t : Nat) (acc : Accessor) (i : Fin 4096)
  /-- BUCKET_RESET (R337). -/
  | bucketReset (t : Nat) (acc : Accessor) (s : Fin 8) (mask : BitVec 8)
  /-- SHP_CTL_WRITE (R337). -/
  | shpCtlWrite (t : Nat) (acc : Accessor) (s : Fin 8) (tc : Fin 8) (v : Word)
  /-- SHP_BURST_WRITE (R337). -/
  | shpBurstWrite (t : Nat) (acc : Accessor) (s : Fin 8) (tc : Fin 8) (v : Word)
  /-- SAMPLER_PUBLISH (R346). -/
  | samplerPublish (t : Nat) (k : Fin 16)
  /-- SAMPLER_CTL_WRITE (R346). -/
  | samplerCtlWrite (t : Nat) (acc : Accessor) (k : Fin 16) (sel : Bool) (v : Word)
  /-- HBM_REQUEST (R363). -/
  | hbmRequest (t : Nat) (pa : BitVec 48) (len : Nat) (wr : Option (List (Option Byte))) (cls : HbmClass) (spec : Option (Fin 8))
  /-- NEIGHBOUR_REFRESH (R366). -/
  | neighbourRefresh (t : Nat) (pc : Fin 64) (bank : Fin 48) (row : Nat)
  /-- HBM_READ_DONE (R369). -/
  | hbmReadDone (t : Nat) (pa : BitVec 48) (ret : BurstRet) (cls : HbmClass) (cl : HbmClient)
  /-- AGE_PROMOTION (R362). -/
  | agePromotion (t : Nat) (pc : Fin 64) (k : Nat)
  /-- REFRESH_DUE (R365). -/
  | refreshDue (t : Nat) (pc : Fin 64) (bank : Fin 48)
  /-- STACK_TEMP_CHANGE (R365). -/
  | stackTempChange (t : Nat) (s : Fin 2) (temp : BitVec 8)
  /-- SCRUB_STEP (R370). -/
  | scrubStep (t : Nat) (pc : Fin 64) (ret : BurstRet)
  /-- PC_RETRAIN (R372). -/
  | pcRetrain (t : Nat) (acc : Accessor) (pc : Fin 64)
  /-- RETRAIN_SLICE (R372). -/
  | retrainSlice (t : Nat) (pc : Fin 64)
  /-- RETRAIN_SWEEP_DONE (R372). -/
  | retrainSweepDone (t : Nat) (pc : Fin 64) (sweeps : List Sweep) (verify : List (Nat × List Byte))
  /-- PC_RETIRE (R374). -/
  | pcRetire (t : Nat) (acc : Accessor) (pc : Fin 64)
  /-- SPARE_POLICY_RUN (R373). -/
  | sparePolicyRun (t : Nat) (overrun : Bool)
  /-- PC_LINK_LOSS (R374). -/
  | pcLinkLoss (t : Nat) (pc : Fin 64)
  /-- MIGRATION_START (R375). -/
  | migrationStart (t : Nat) (s : Fin 2)
  /-- MIGRATION_CHUNK (R375). -/
  | migrationChunk (t : Nat) (s : Fin 2) (ue : List (Fin 64))
  /-- MIGRATION_TARGET_FAIL (R375). -/
  | migrationTargetFail (t : Nat) (s : Fin 2)
  /-- ECC_LAST (R379). -/
  | eccLast (t : Nat) (acc : Accessor)
  /-- JOURNAL (R379). -/
  | journal (t : Nat) (acc : Accessor) (s : Fin 2)
  /-- CLASS_BYTES (R379). -/
  | classBytes (t : Nat) (acc : Accessor) (k : Fin 5)
  /-- TRANSLATE (R386). -/
  | translate (t : Nat) (r : XReq)
  /-- WALK_DONE (R384). -/
  | walkDone (t : Nat)
  /-- INV_REQUEST (R393). -/
  | invRequest (t : Nat) (acc : Accessor) (w0 w1 w2 : Word)
  /-- INV_DRAIN_DONE (R394). -/
  | invDrainDone (t : Nat)
  /-- SPACE_CTL_WRITE (R395). -/
  | spaceCtlWrite (t : Nat) (acc : Accessor) (a : Fin 16) (v : Word)
  /-- ROOT_WRITE (R395). -/
  | rootWrite (t : Nat) (acc : Accessor) (a : Fin 16) (hi : Bool) (v : Word)
  /-- FAULT_REC (R392). -/
  | faultRec (t : Nat) (acc : Accessor)
  /-- DMA_ENABLE (R405). -/
  | dmaEnable (t : Nat) (acc : Accessor) (d : Fin 64)
  /-- DMA_DISABLE (R426). -/
  | dmaDisable (t : Nat) (acc : Accessor) (d : Fin 64)
  /-- DMA_PAUSE (R424). -/
  | dmaPause (t : Nat) (acc : Accessor) (d : Fin 64)
  /-- DMA_RESUME (R424). -/
  | dmaResume (t : Nat) (acc : Accessor) (d : Fin 64)
  /-- DMA_KICK (R405). -/
  | dmaKick (t : Nat) (acc : Accessor) (d : Fin 64)
  /-- DMA_SKIP (R408). -/
  | dmaSkip (t : Nat) (acc : Accessor) (d : Fin 64)
  /-- DMA_PAUSED (R424). -/
  | dmaPaused (t : Nat) (d : Fin 64)
  /-- DESC_FETCH_DONE (R408). -/
  | descFetchDone (t : Nat) (d : Fin 64)
  /-- DESC_COMPLETE (R420). -/
  | descComplete (t : Nat) (d : Fin 64)
  /-- DMA_PERIPHERAL_REQUEST (R416). -/
  | dmaPeripheralRequest (t : Nat) (d : Fin 64) (units : Nat)
  /-- DMA_REQUEST_WITHDRAW (R416). -/
  | dmaRequestWithdraw (t : Nat) (d : Fin 64)
  /-- CQ_HEAD_WRITE (R422). -/
  | cqHeadWrite (t : Nat) (acc : Accessor) (d : Fin 64) (v : Word)
  /-- POSITION (R429). -/
  | position (t : Nat) (acc : Accessor) (d : Fin 64)
  /-- LAST_ADDR (R421). -/
  | lastAddr (t : Nat) (acc : Accessor) (d : Fin 64)
  /-- BYTES (R420). -/
  | bytes (t : Nat) (acc : Accessor) (d : Fin 64)
  /-- LAST_WHOLE (R429). -/
  | lastWhole (t : Nat) (acc : Accessor) (d : Fin 64)
  /-- CU_REGION_START (R433). -/
  | cuRegionStart (t : Nat) (u : Fin 64) (p : Fin 8)
  /-- CU_REGION_END (R438). -/
  | cuRegionEnd (t : Nat) (u : Fin 64) (ot : Nat) (up : List CopyUpset)
  /-- RUNNING_READ (R443). -/
  | runningRead (t : Nat) (acc : Accessor) (u : Fin 56)
  /-- RUNNING_WRITE (R443). -/
  | runningWrite (t : Nat) (acc : Accessor) (u : Fin 56) (w0 w1 : Word)
  /-- RESULT (R444). -/
  | result (t : Nat) (acc : Accessor) (u : Fin 56)
  /-- REFCLK_LOSS (R451). -/
  | refclkLoss (t : Nat)
  /-- REFCLK_REVERT (R451). -/
  | refclkRevert (t : Nat)
  /-- PLL_UNLOCK (R456). -/
  | pllUnlock (t : Nat) (i : Fin 88) (edges : Nat)
  /-- PLL_LOCK (R456). -/
  | pllLock (t : Nat) (i : Fin 88) (band : BitVec 8) (temp : BitVec 8)
  /-- CORE_RECAL (R457). -/
  | coreRecal (t : Nat) (acc : Accessor) (edges : Nat)
  /-- CORE_SWITCH_BACK (R457). -/
  | coreSwitchBack (t : Nat)
  /-- TIME_SOURCE_UPDATE (R463). -/
  | timeSourceUpdate (t : Nat) (src : Fin 4) (theta : Int)
  /-- TIME_SOURCE_LOSS (R464). -/
  | timeSourceLoss (t : Nat) (src : Fin 4)
  /-- TIME_SET (R465). -/
  | timeSet (t : Nat) (acc : Accessor) (w0 w1 w2 w3 : Word)
  /-- TIME_NOW (R474). -/
  | timeNow (t : Nat) (acc : Accessor)
  /-- TSYN_RECAL (R469). -/
  | tsynRecal (t : Nat) (acc : Accessor) (c : Fin 8)
  /-- PPS_OUT_RISE (R471). -/
  | ppsOutRise (t : Nat)
  /-- PPS_OUT_FALL (R471). -/
  | ppsOutFall (t : Nat)
  /-- PPS_IN_EDGE (R472). -/
  | ppsInEdge (t : Nat) (falling : Bool) (frac : Word)
  /-- PPS_IN_TS (R474). -/
  | ppsInTs (t : Nat) (acc : Accessor)
  /-- DECLARE (R486). -/
  | declare (t : Nat) (acc : Accessor) (ot : Nat) (slot : BitVec 8) (arg : BitVec 16) (w1 w2 w3 : Word)
  /-- DECL_TIMING (R486). -/
  | declTiming (t : Nat) (acc : Accessor) (ot : Nat) (slot : BitVec 8) (arg : BitVec 16) (w1 w2 w3 : Word)
  /-- LOAD_EXP (R486). -/
  | loadExp (t : Nat) (acc : Accessor) (ot : Nat) (slot : BitVec 8) (arg : BitVec 16) (w1 w2 w3 : Word)
  /-- ARM (R495). -/
  | arm (t : Nat) (acc : Accessor) (ot : Nat) (slot : BitVec 8) (arg : BitVec 16) (w1 w2 w3 : Word) (up : List CopyUpset)
  /-- END (R486). -/
  | endCmd (t : Nat) (acc : Accessor) (ot : Nat) (slot : BitVec 8) (arg : BitVec 16) (w1 w2 w3 : Word)
  /-- ACK (R497). -/
  | ack (t : Nat) (acc : Accessor) (ot : Nat) (slot : BitVec 8) (arg : BitVec 16) (w1 w2 w3 : Word)
  /-- IDENTIFY (R502). -/
  | identify (t : Nat) (acc : Accessor) (ot : Nat) (slot : BitVec 8) (arg : BitVec 16) (w1 w2 w3 : Word)
  /-- SET_PARAM (R490). -/
  | setParam (t : Nat) (acc : Accessor) (ot : Nat) (slot : BitVec 8) (arg : BitVec 16) (w1 w2 w3 : Word)
  /-- FW_ACTIVATE (R503). -/
  | fwActivate (t : Nat) (acc : Accessor) (ot : Nat) (slot : BitVec 8) (arg : BitVec 16) (w1 w2 w3 : Word) (img : Option (BitVec 16))
  /-- ALC_REPLY (R487). -/
  | alcReply (t : Nat) (acc : Accessor)
  /-- SEAL_REPLY (R487). -/
  | sealReply (t : Nat) (acc : Accessor)
  /-- EXHIBIT_PROGRESS (R481). -/
  | exhibitProgress (t : Nat) (ot : Nat) (slot : Fin 8)
  /-- EXP_COPY_CHECK (R495). -/
  | expCopyCheck (t : Nat) (ot : Nat) (slot : Fin 8) (up : List CopyUpset)
  /-- SEAL_CHANGE (R488). -/
  | sealChange (t : Nat) (ot : Nat) (opened : Bool)
  /-- OT_SAVE (R491). -/
  | otSave (t : Nat) (ot : Nat)
  /-- ALC_CLK_CHECK (R494). -/
  | alcClkCheck (t : Nat) (ot : Nat) (ppb : Nat)
  /-- ALCOVE_POWER_UP (R492). -/
  | alcovePowerUp (t : Nat) (opened : Bool)
  /-- ALC_WATCHDOG (R483). -/
  | alcWatchdog (t : Nat) (ot : Nat)
  /-- POWER_ON (R508). -/
  | powerOn (t : Nat) (mv : BitVec 17) (alcLost : Bool)
  /-- BOOT_RESET_RELEASE (R508). -/
  | bootResetRelease (t : Nat) (straps : BitVec 8) (refclk : Bool)
  /-- FW_IMAGE_CHECKED (R516). -/
  | fwImageChecked (t : Nat) (a b : Option (BitVec 16))
  /-- HBM_TRAINING_DONE (R357). -/
  | hbmTrainingDone (t : Nat) (dead : List (Fin 64)) (sweeps : List (Fin 64 × List Sweep))
  /-- IMAGE_RECORD_WRITE (R519). -/
  | imageRecordWrite (t : Nat) (a : BitVec 26) (ws : List Word)
  /-- IMAGE_RECORD_MASKED (R519). -/
  | imageRecordMasked (t : Nat) (es : List MaskEntry)
  /-- IMAGE_RECORD_MAILBOX (R519). -/
  | imageRecordMailbox (t : Nat) (page : BitVec 26) (item : BitVec 8) (ws : Mbx4)
  /-- IMAGE_RECORD_INDIRECT (R519). -/
  | imageRecordIndirect (t : Nat) (page : BitVec 26) (first : Word) (ws : List Word)
  /-- IMAGE_RECORD_HBM_LOAD (R519). -/
  | imageRecordHbmLoad (t : Nat) (asid : Fin 16) (va : BitVec 48) (data : List Byte)
  /-- IMAGE_RECORD_COMMIT (R521). -/
  | imageRecordCommit (t : Nat) (ref : Fin 8) (leadMs waitMs : Nat)
  /-- IMAGE_RECORD_END (R519). -/
  | imageRecordEnd (t : Nat)
  /-- BOOT_DONE (R508). -/
  | bootDone (t : Nat)
  /-- BOOT_COMMIT_REQUEST (R521). -/
  | bootCommitRequest (t : Nat)
  /-- PIN_RESET (R509). -/
  | pinReset (t : Nat)
  /-- RESET_RELEASE (R508). -/
  | resetRelease (t : Nat)
  /-- RST_MODULE (R511). -/
  | rstModule (t : Nat) (acc : Accessor)
  /-- SOFTWARE_RESET_EFFECT (R511). -/
  | softwareResetEffect (t : Nat)
  /-- RST_STANDBY (R511). -/
  | rstStandby (t : Nat) (acc : Accessor)
  /-- STEWARD_WATCHDOG (R509). -/
  | stewardWatchdog (t : Nat)
  /-- POWER_FAIL (R524). -/
  | powerFail (t : Nat) (ot : Nat) (ov : Bool)
  /-- POWER_FAIL_STOP (R524). -/
  | powerFailStop (t : Nat)
  /-- SAVE_COMPLETE (R525). -/
  | saveComplete (t : Nat) (whole : Bool)
  /-- HOLD_CAPACITY_MEASURED (R523). -/
  | holdCapacityMeasured (t : Nat) (ns : Nat)
  /-- HOLD_LEVEL_CHANGE (R523). -/
  | holdLevelChange (t : Nat) (mv : BitVec 17)
  /-- FLASH_ERASE (R515). -/
  | flashErase (t : Nat) (acc : Accessor) (w0 : Word)
  /-- FLASH_OP_DONE (R515). -/
  | flashOpDone (t : Nat) (verified : Bool)
  /-- THERMAL_SAMPLE (R527). -/
  | thermalSample (t : Nat) (ot : Nat) (tj : BitVec 8)
  /-- THERMAL_WINDOW_DROP (R529). -/
  | thermalWindowDrop (t : Nat)
  /-- SAVE_INFO (R532). -/
  | saveInfo (t : Nat) (acc : Accessor)
  /-- SAVE_GEN (R532). -/
  | saveGen (t : Nat) (acc : Accessor) (wr : Option Word)
  /-- OP_FW_SWITCH (R536). -/
  | opFwSwitch (t : Nat) (acc : Accessor) (target : BitVec 8) (ref : Fin 8)
  /-- OP_REEQUALISE (R537). -/
  | opReequalise (t : Nat) (acc : Accessor) (target : BitVec 8) (ref : Fin 8)
  /-- OP_IMAGE_SELECT (R538). -/
  | opImageSelect (t : Nat) (acc : Accessor) (target : BitVec 8) (ref : Fin 8)
  /-- OP_CANCEL (R535). -/
  | opCancel (t : Nat) (acc : Accessor) (kind : BitVec 4) (target : BitVec 8)
  /-- OP_ANSWER (R535). -/
  | opAnswer (t : Nat)
  /-- OP_START (R535). -/
  | opStart (t : Nat) (kind : BitVec 4) (target : BitVec 8)
  /-- FW_CHECK_DONE (R536). -/
  | fwCheckDone (t : Nat) (img : Option (BitVec 16))
  /-- FW_SWITCH_PREPARE (R536). -/
  | fwSwitchPrepare (t : Nat)
  /-- REEQ_DONE (R537). -/
  | reeqDone (t : Nat) (n : Fin 144) (ok : Bool)
  /-- LANE_POLICY_RUN (R540). -/
  | lanePolicyRun (t : Nat) (overrun : Bool)
  /-- OP_RECORD (R546). -/
  | opRecord (t : Nat) (acc : Accessor)
  /-- URURI_HELP (R543). -/
  | ururiHelp (t : Nat)
  /-- URURI_ID (R543). -/
  | ururiId (t : Nat)
  /-- URURI_LEVEL (R541). -/
  | ururiLevel (t : Nat) (n : Option Nat)
  /-- URURI_BAUD (R541). -/
  | ururiBaud (t : Nat) (n : Nat)
  /-- URURI_RD (R543). -/
  | ururiRd (t : Nat) (a : BitVec 26) (count : Nat)
  /-- URURI_WR (R543). -/
  | ururiWr (t : Nat) (a : BitVec 26) (v : Word)
  /-- URURI_WM (R543). -/
  | ururiWm (t : Nat) (a : BitVec 26) (m v : Word)
  /-- URURI_IND (R543). -/
  | ururiInd (t : Nat) (page : BitVec 26) (first : Word) (count : Nat)
  /-- URURI_INDW (R543). -/
  | ururiIndw (t : Nat) (page : BitVec 26) (first : Word) (v : Word)
  /-- URURI_MBX (R543). -/
  | ururiMbx (t : Nat) (page : BitVec 26) (item : BitVec 8) (ws : Option Mbx4)
  /-- URURI_EVT (R543). -/
  | ururiEvt (t : Nat) (raw : Bool)
  /-- URURI_SNAP (R543). -/
  | ururiSnap (t : Nat)
  /-- URURI_ADM (R543). -/
  | ururiAdm (t : Nat) (readm : Bool)
  /-- TEST_REG (R544). -/
  | testReg (t : Nat)
  /-- TEST_CLOCK (R544). -/
  | testClock (t : Nat)
  /-- TEST_FLASH (R544). -/
  | testFlash (t : Nat)
  /-- TEST_CRC (R544). -/
  | testCrc (t : Nat)
  /-- TEST_SRAM (R544). -/
  | testSram (t : Nat)
  /-- TEST_LANE (R544). -/
  | testLane (t : Nat) (n : Fin 144)
  /-- TEST_HBM (R544). -/
  | testHbm (t : Nat) (pc : Fin 64)
  /-- TEST_COMPLETE (R544). -/
  | testComplete (t : Nat) (errors : Nat)
  /-- URURI_LOAD (R545). -/
  | ururiLoad (t : Nat) (region : Fin 4)
  /-- XMODEM_BLOCK (R545). -/
  | xmodemBlock (t : Nat) (b : Option XBlock) (sigOk : Bool)
  /-- LOAD_TIMEOUT (R545). -/
  | loadTimeout (t : Nat)
  /-- URURI_IDLE_TIMEOUT (R541). -/
  | ururiIdleTimeout (t : Nat)
  /-- LANE_RX_LOCK (R235). -/
  | laneRxLock (t : Nat) (n : Fin 144)
  /-- HOST_FRAME_DROP (R298). -/
  | hostFrameDrop (t : Nat) (rx : RxHdr) (why : RxDrop)
  /-- MODULE_TICK (R568). -/
  | moduleTick (t : Nat)
  /-- TAP_INSTRUCTION (R561). -/
  | tapInstruction (t : Nat) (x : TapScan)
deriving DecidableEq, Repr

end Sys2Proof
end

