-- ==== Sys2Proof/Decode.lean ====
section
/-! DEFINITION. The decoder of table words. The commands of this block are operations and events, and the operation table
gives none of them any bits, so no word spells a command (log 3). -/

namespace Sys2Proof

/-- The command that a word spells by the table's bits: none, for every word. -/
def decodeTableWord (_nbits _w : Nat) : Option Instr := none

end Sys2Proof
end

