-- ==== Sys2Proof/Machine/Crc.lean ====
section
/-! DEFINITION. Cyclic redundancy codes: CRC-32C of R286 and the parametrised register of the check units
(R432, R433), bit by bit, and byte order helpers shared by the frame formats. -/

namespace Sys2Proof.Machine

/-- The bits of a byte, most significant first. -/
def byteBitsMsb (b : Byte) : List Bool := (List.range 8).map (fun i => b.getLsbD (7 - i))

/-- The bits of a byte, least significant first. -/
def byteBitsLsb (b : Byte) : List Bool := (List.range 8).map (fun i => b.getLsbD i)

/-- One step of a `w`-bit register that shifts left: the input bit meets the top bit. -/
def crcBit (w poly v : Nat) (b : Bool) : Nat :=
  let top := v.testBit (w - 1)
  let s := (v <<< 1) % 2 ^ w
  if top != b then s ^^^ poly else s

/-- The register after a string of bits. -/
def crcBits (w poly v : Nat) (bs : List Bool) : Nat := bs.foldl (crcBit w poly) v

/-- The low `w` bits in reverse order. -/
def reflectBits (w v : Nat) : Nat :=
  (List.range w).foldl (fun r i => if v.testBit i then r ||| 1 <<< (w - 1 - i) else r) 0

/-- The register of CRC-32C after some bytes (R286: polynomial 0x1EDC_6F41, input reflected). -/
def crc32cReg (v : Nat) (bs : List Byte) : Nat :=
  bs.foldl (fun v b => crcBits 32 0x1EDC6F41 v (byteBitsLsb b)) v

/-- CRC-32C of a string of bytes (R286). -/
def crc32c (bs : List Byte) : Word :=
  BitVec.ofNat 32 (reflectBits 32 (crc32cReg 0xFFFFFFFF bs) ^^^ 0xFFFFFFFF)

/-- The CRC-16 of XMODEM-1K (polynomial 0x1021, initial value 0). -/
def crc16Xmodem (bs : List Byte) : Nat :=
  bs.foldl (fun v b => crcBits 16 0x1021 v (byteBitsMsb b)) 0

/-- `n` bytes of a number, least significant first. -/
def bytesLE (n v : Nat) : List Byte := (List.range n).map (fun i => BitVec.ofNat 8 (v >>> (8 * i)))

/-- `n` bytes of a number, most significant first. -/
def bytesBE (n v : Nat) : List Byte := (bytesLE n v).reverse

/-- The number of a string of bytes, first byte most significant. -/
def ofBE (bs : List Byte) : Nat := bs.foldl (fun v b => v * 256 + b.toNat) 0

/-- The number of a string of bytes, first byte least significant. -/
def ofLE (bs : List Byte) : Nat := ofBE bs.reverse

/-- Bytes `off` to `off + n - 1`. -/
def slice (bs : List Byte) (off n : Nat) : List Byte := (bs.drop off).take n

/-- The bytes of a 32-bit word in network order (R313). -/
def wordBE (w : Word) : List Byte := bytesBE 4 w.toNat

/-- The 32-bit word at a byte offset in network order. -/
def wordAtBE (bs : List Byte) (off : Nat) : Word := BitVec.ofNat 32 (ofBE (slice bs off 4))

end Sys2Proof.Machine
end

