-- ==== Sys2Proof/Config.lean ====
section
/-! DEFINITION. What the manual leaves open or to the implementation: every constant here is opaque, so no proof
can see a value of it and a claim holds whatever it is. Each carries its entry of the assumption log. -/

namespace Sys2Proof

/-- Node `k` of table `j` where the formula of R129 has no value (the PQ decode beyond its pole). Log 20. -/
opaque Config.noNode : Nat → Nat → Word

/-- The free values of the model, drawn in order: each value the manual leaves undefined takes the next one. Log 10. -/
opaque Config.freeNat : Nat → Nat

/-- Which of the NaN patterns of binary16 a NaN is stored as: R83 gives none. Log 112. -/
opaque Config.f16Nan : BitVec 32 → Nat

/-- The value of the PI loop of R463 for the FCV values before it, the offset and the bandwidth. Log 24. -/
opaque Config.piLoop : List Int → Int → Nat → Int

/-- The control value of a tick synthesizer (R466) for its Δ, its slew rate and the FCV that TC runs on. Log 25. -/
opaque Config.tsynCv : Int → Nat → Int → Int

/-- The private key of the Alcove: it never leaves it (R482). Log 26. -/
opaque Config.alcovePriv : Nat

/-- The deterministic nonce of a signature of the Alcove, by the bytes signed and the attempt (R501). Log 26. -/
opaque Config.ecdsaNonce : List (BitVec 8) → Nat → Nat

/-- Bytes of the factory data: the manual does not give their coding (R514). Log 27. -/
opaque Config.factoryByte : Nat → BitVec 8

/-- The nonce of an Aedwin challenge (R314), by the number of the draw. Log 28. -/
opaque Config.nonce : Nat → List (BitVec 8)

/-- SW_ID of the Alcove firmware image of a version that the factory leaves, which the manual does not show (R502). Log 26. -/
opaque Config.swId : Nat → Word

/-- The words of an Alcove firmware image, by its staged words: the manual does not give the format that says so (R503). Log 26. -/
opaque Config.imageWords : List Word → Nat

/-- What a word of an MRAM firmware slot of the Alcove holds that nothing has written: the manual does not show the factory images (R503,
log 26). -/
opaque Config.alcSlotWord : Nat → Nat → Word

/-- The identifier of Aedwin session `i` (R313): the manual does not say how the module draws it. Log 40. -/
opaque Config.sessionId : Nat → Nat

/-- The latency that the landings between the coordinator and the peer of landing port `k` declare for the way to it (R253). Log 30. -/
opaque Config.pathHops : Nat → Nat

/-- The place in its block stream, modulo the lanes, where what a landing port sends at an instant begins (R247). Log 133. -/
opaque Config.blockPos : Nat → Nat → Nat

/-- Which of the lands of R557 and R553 that are left serves the next cell of the boundary register: the manual leaves the order to the BSDL file
(R562). Log 163. -/
opaque Config.boundaryOrder : Nat → Nat

/-- DSCP (0) and TTL (1) of the IP header of a management frame: the manual gives none. Log 41. -/
opaque Config.mgmtIp : Nat → Nat

end Sys2Proof
end

