-- ==== Sys2Proof/Machine/Float32.lean ====
section
/-! DEFINITION. IEEE 754 binary32 arithmetic as R79 and R122 fix it: round to nearest even at every operation, a
subnormal result replaced by zero of the same sign; and the exact or rounded conversions to and from binary16
(R71, R83), integers and rationals. A value is its bit pattern. -/

namespace Sys2Proof.Machine

/-- A binary32 value by its bit pattern. -/
abbrev F32 := BitVec 32

/-- A finite magnitude `man × 2 ^ exp` with its sign. -/
structure Fin32 where
  neg : Bool
  man : Nat
  exp : Int
deriving DecidableEq, Repr

def f32Nan : F32 := 0x7FC00000
def f32Zero : F32 := 0
def f32NegZero : F32 := 0x80000000
def f32One : F32 := 0x3F800000

def f32IsNan (a : F32) : Bool := bitsOf a.toNat 23 8 == 255 && bitsOf a.toNat 0 23 != 0
def f32IsInf (a : F32) : Bool := bitsOf a.toNat 0 31 == 0x7F800000
def f32Neg (a : F32) : Bool := a.getLsbD 31
def f32Inf (neg : Bool) : F32 := if neg then 0xFF800000 else 0x7F800000
def f32Zero' (neg : Bool) : F32 := if neg then f32NegZero else f32Zero

/-- The finite value of a pattern that is neither NaN nor infinity. -/
def f32Unpack (a : F32) : Fin32 :=
  let e := bitsOf a.toNat 23 8
  let m := bitsOf a.toNat 0 23
  if e = 0 then ⟨f32Neg a, m, -149⟩ else ⟨f32Neg a, m + 0x800000, (e : Int) - 150⟩

/-- `m / 2 ^ k` rounded to nearest, ties to even. -/
def shiftRne (m k : Nat) : Nat :=
  let q := m >>> k
  let r := m % 2 ^ k
  let h := 2 ^ k / 2
  if k = 0 then m else if h < r || (r == h && q % 2 == 1) then q + 1 else q

/-- The binary32 value nearest to `man × 2 ^ exp`. -/
def f32Round (neg : Bool) (man : Nat) (exp : Int) : F32 :=
  if man = 0 then f32Zero' neg
  else
    let len : Int := (Nat.log2 man : Int) + 1
    -- the exponent of the last place: 24 significant bits, not below 2 ^ (-149)
    let q : Int := max (len + exp - 24) (-149)
    let r := if exp < q then shiftRne man (q - exp).toNat else man <<< (exp - q).toNat
    let (r, q) := if r = 0x1000000 then (0x800000, q + 1) else (r, q)
    if r < 0x800000 then f32Zero' neg
    else if 104 < q then f32Inf neg
    else BitVec.ofNat 32 (b2n neg <<< 31 + (q + 150).toNat <<< 23 + (r - 0x800000))

/-- Fused multiply-add with one rounding (R78, R105). -/
def f32Fma (a b c : F32) : F32 :=
  if f32IsNan a || f32IsNan b || f32IsNan c then f32Nan
  else
    let sp := f32Neg a != f32Neg b
    let za := (f32Unpack a).man = 0 && !f32IsInf a
    let zb := (f32Unpack b).man = 0 && !f32IsInf b
    if f32IsInf a || f32IsInf b then
      if za || zb then f32Nan
      else if f32IsInf c && (f32Neg c != sp) then f32Nan
      else f32Inf sp
    else if f32IsInf c then c
    else
      let x := f32Unpack a
      let y := f32Unpack b
      let z := f32Unpack c
      let pm := x.man * y.man
      let pe := x.exp + y.exp
      let e := min pe z.exp
      let p : Int := (pm <<< (pe - e).toNat : Nat) * (if sp then -1 else 1)
      let w : Int := (z.man <<< (z.exp - e).toNat : Nat) * (if z.neg then -1 else 1)
      let s := p + w
      if s = 0 then
        (if pm = 0 ∧ z.man = 0 ∧ sp = true ∧ z.neg = true then f32NegZero else f32Zero)
      else f32Round (s < 0) s.natAbs e

def f32Add (a b : F32) : F32 := f32Fma a f32One b
def f32Flip (a : F32) : F32 := a ^^^ 0x80000000
def f32Sub (a b : F32) : F32 := if f32IsNan b then f32Nan else f32Add a (f32Flip b)
def f32Mul (a b : F32) : F32 := f32Fma a b f32NegZero

/-- The binary32 value nearest to a quotient of naturals. -/
def f32RoundDiv (neg : Bool) (n d : Nat) (e : Int) : F32 :=
  let k := Nat.log2 d + 40
  let q := (n <<< k) / d
  let r := (n <<< k) % d
  f32Round neg (2 * q + (if r = 0 then 0 else 1)) (e - (k : Int) - 1)

/-- Division (R76, R127). -/
def f32Div (a b : F32) : F32 :=
  if f32IsNan a || f32IsNan b then f32Nan
  else
    let s := f32Neg a != f32Neg b
    let x := f32Unpack a
    let y := f32Unpack b
    if f32IsInf a then (if f32IsInf b then f32Nan else f32Inf s)
    else if f32IsInf b then f32Zero' s
    else if y.man = 0 then (if x.man = 0 then f32Nan else f32Inf s)
    else f32RoundDiv s x.man y.man (x.exp - y.exp)

/-- The binary32 value nearest to a rational number. -/
def f32OfRat (q : Rat) : F32 := f32RoundDiv (q.num < 0) q.num.natAbs q.den 0

/-- The binary32 value nearest to a natural number. -/
def f32OfNat (n : Nat) : F32 := f32Round false n 0

/-- An order key: patterns that are no NaN compare as their keys. -/
def f32Key (a : F32) : Int :=
  if f32Neg a then - (bitsOf a.toNat 0 31 : Int) else (bitsOf a.toNat 0 31 : Int)

def f32Lt (a b : F32) : Bool := !(f32IsNan a) && !(f32IsNan b) && f32Key a < f32Key b
def f32Le (a b : F32) : Bool := !(f32IsNan a) && !(f32IsNan b) && f32Key a ≤ f32Key b
def f32Min (a b : F32) : F32 := if f32Lt b a then b else a
def f32Max (a b : F32) : F32 := if f32Lt a b then b else a

/-- A NaN taken as 0 (R569). -/
def f32NanZero (a : F32) : F32 := if f32IsNan a then f32Zero else a

/-- Clamp to [0, 1]. -/
def f32Clamp01 (a : F32) : F32 := f32Min (f32Max a f32Zero) f32One

/-- The floor of a finite value that is not negative; 0 for any other. -/
def f32Floor (a : F32) : Nat :=
  let x := f32Unpack a
  if f32IsNan a || f32IsInf a || x.neg then 0
  else if x.exp < 0 then x.man >>> (-x.exp).toNat else x.man <<< x.exp.toNat

/-- Round to the nearest integer, ties to even, of a finite value that is not negative. -/
def f32Rne (a : F32) : Nat :=
  let x := f32Unpack a
  if f32IsNan a || f32IsInf a || x.neg then 0
  else if x.exp < 0 then shiftRne x.man (-x.exp).toNat else x.man <<< x.exp.toNat

/-! ## binary16 -/

def f16IsNan (h : Nat) : Bool := bitsOf h 10 5 == 31 && bitsOf h 0 10 != 0
def f16IsInf (h : Nat) : Bool := bitsOf h 0 15 == 0x7C00

/-- The exact binary32 value of a binary16 pattern (R71). -/
def f32OfF16 (h : Nat) : F32 :=
  let e := bitsOf h 10 5
  let m := bitsOf h 0 10
  let neg := bitOf h 15 == 1
  if e = 31 then (if m = 0 then f32Inf neg else f32Nan)
  else if e = 0 then f32Round neg m (-24)
  else f32Round neg (m + 1024) ((e : Int) - 25)

/-- A binary16 sample with NaN taken as 0 and an infinity as 65,504 of its sign (R72, R132). -/
def f32OfF16Fin (h : Nat) : F32 :=
  if f16IsNan h then f32Zero
  else if f16IsInf h then f32Round (bitOf h 15 == 1) 65504 0
  else f32OfF16 h

/-- The binary16 pattern of a magnitude `man * 2^exp`, ties to even. -/
def f16Round (man : Nat) (exp : Int) : Nat :=
  if man = 0 then 0
  else
    let len : Int := (Nat.log2 man : Int) + 1
    let q : Int := max (len + exp - 11) (-24)
    let r := if exp < q then shiftRne man (q - exp).toNat else man <<< (exp - q).toNat
    let (r, q) := if r = 2048 then (1024, q + 1) else (r, q)
    if r < 1024 then r
    else if 5 < q then 0x7C00
    else (q + 25).toNat <<< 10 + (r - 1024)

/-- The binary16 pattern nearest to a binary32 value, ties to even (R83, R143); a NaN becomes some NaN (a free value, log 112). -/
def f16OfF32 (a : F32) : Nat :=
  let s := b2n (f32Neg a) <<< 15
  if f32IsNan a then (Config.f16Nan a / 1023 % 2) * 2 ^ 15 + 0x7C01 + Config.f16Nan a % 1023
  else if f32IsInf a then s + 0x7C00
  else s + f16Round (f32Unpack a).man (f32Unpack a).exp

/-- The binary16 pattern nearest to a quotient of naturals. -/
def f16OfDiv (n d : Nat) : Nat := f16Round (2 * (n <<< 60 / d) + b2n (n <<< 60 % d != 0)) (-61)

end Sys2Proof.Machine
end

