-- ==== Sys2Proof/Machine/RegMap.lean ====
section
/-! DEFINITION. The register map (R271, R272) and, for every page, the registers and fields its chapter's
table gives: offset, position, width, access code, reset value and, where the table stores another
value than the one written, the storing rule. Fields that read zero and are reserved are not listed. -/

namespace Sys2Proof.Machine

/-- The access codes of R10 and R275; `loc` marks the session-local fields of R273. -/
inductive Acc where
  | rw | ro | rc | rws | wos | wo | cmd | loc
deriving DecidableEq, Repr

/-- How a stored value differs from the written one: `bound` stores the nearest bound, `map a b` stores `b`
for `a`, `above m v` stores `v` for a value above `m`; `reqSrc` is the list of request sources of R415. -/
inductive Clamp where
  | none
  | bound (lo hi : Nat)
  | map (a b : Nat)
  | above (m v : Nat)
  | reqSrc
deriving DecidableEq, Repr

/-- One field of a register: its name, least significant bit, width, access code, PRV suffix, reset value
and storing rule. -/
structure Fld where
  name  : String
  lsb   : Nat
  width : Nat
  acc   : Acc
  prv   : Bool
  reset : Nat
  clamp : Clamp
deriving DecidableEq, Repr

/-- One row of a page's table: `bn` blocks of step `bstep`, each with `n` registers of step `step` from `off`. -/
structure RegRow where
  name  : String
  off   : Nat
  bn    : Nat
  bstep : Nat
  n     : Nat
  step  : Nat
  flds  : List Fld
deriving DecidableEq, Repr

/-- A field without PRV suffix and without storing rule. -/
def fp (name : String) (lsb width : Nat) (acc : Acc) (reset : Nat) : Fld :=
  { name := name, lsb := lsb, width := width, acc := acc, prv := false, reset := reset, clamp := .none }

/-- A field with the PRV suffix (R277). -/
def fpv (name : String) (lsb width : Nat) (acc : Acc) (reset : Nat) : Fld :=
  { name := name, lsb := lsb, width := width, acc := acc, prv := true, reset := reset, clamp := .none }

/-- A field with a storing rule. -/
def fc (name : String) (lsb width : Nat) (acc : Acc) (prv : Bool) (reset : Nat) (clamp : Clamp) : Fld :=
  { name := name, lsb := lsb, width := width, acc := acc, prv := prv, reset := reset, clamp := clamp }

/-- A single register. -/
def r1 (name : String) (off : Nat) (flds : List Fld) : RegRow :=
  { name := name, off := off, bn := 1, bstep := 0x1000, n := 1, step := 4, flds := flds }

/-- An array of registers. -/
def ra (name : String) (off n step : Nat) (flds : List Fld) : RegRow :=
  { name := name, off := off, bn := 1, bstep := 0x1000, n := n, step := step, flds := flds }

/-- A register of each of `bn` blocks. -/
def rb (name : String) (off bn bstep n step : Nat) (flds : List Fld) : RegRow :=
  { name := name, off := off, bn := bn, bstep := bstep, n := n, step := step, flds := flds }

/-- R273, part 0. -/
def rowsHeader_0 : List RegRow :=
  [ r1 "PAGE_ID" 0 [fp "instance" 0 16 .ro 0, fp "page" 16 8 .ro 0, fp "block" 24 8 .ro 0],
    r1 "PAGE_VER" 4 [fp "silicon" 0 8 .ro 0x42, fp "layout" 8 8 .ro 1],
    r1 "PAGE_CAP" 8 [fp "evt_group" 0 5 .ro 0, fp "evt_none" 5 1 .ro 0, fp "ind" 6 1 .ro 0, fp "mbx" 7 1 .ro 0, fp "feature" 16 16 .ro 0],
    r1 "PAGE_CTL" 0xC [fp "view_active" 0 1 .loc 0, fpv "lock" 1 1 .wos 0],
    r1 "PAGE_STATUS" 0x10 [fp "lock_violation" 0 1 .rc 0, fp "priv_denied" 1 1 .rc 0, fp "mbx_error" 2 1 .rc 0, fp "ind_range" 3 1 .rc 0],
    r1 "EVT_RAW" 0x14 [fp "raw" 0 32 .rc 0],
    r1 "EVT_ENABLE" 0x18 [fp "enable" 0 32 .rw 0],
    r1 "EVT_PENDING" 0x1C [fp "pending" 0 32 .rc 0],
    r1 "IND_ADDR" 0x20 [fp "addr" 0 32 .loc 0],
    r1 "IND_DATA" 0x24 [fp "data" 0 32 .rw 0],
    r1 "MBX_CTL" 0x28 [fp "item" 0 8 .loc 0, fp "write" 8 1 .loc 0, fp "go" 16 1 .loc 0, fp "valid" 24 1 .loc 0],
    ra "MBX_DATA" 0x30 4 4 [fp "data" 0 32 .loc 0],
    r1 "SNAP_CTL" 0x40 [fp "view" 0 1 .loc 0, fp "seq" 16 16 .ro 0],
    r1 "LOCK_VIOLATION" 0x44 [fp "count" 0 32 .rw 0] ]

/-- R273, part 1. -/
def rowsHeader_1 : List RegRow :=
  [ r1 "PRIV_LEVEL" 0x48 [fpv "level" 0 2 .rw 0] ]

/-- R273. -/
def rowsHeader : List RegRow :=
  rowsHeader_0 ++ rowsHeader_1

/-- R294, R53, R54, R191, part 0. -/
def rowsGlobal_0 : List RegRow :=
  [ r1 "MODULE_ID" 0x100 [fp "part" 0 16 .ro 0x144, fp "hbm" 16 4 .ro 0, fp "silicon" 24 8 .ro 0x42],
    r1 "SNAP_CMD" 0x140 [fp "now" 0 1 .cmd 0, fp "at_tick" 1 1 .cmd 0, fp "canvas" 2 3 .rw 0],
    r1 "SNAP_SEQ" 0x144 [fp "seq" 0 16 .ro 0],
    r1 "SNAP_STATUS" 0x148 [fp "armed" 0 1 .ro 0, fp "late" 1 1 .rc 0],
    r1 "CFG_CTL" 0x180 [fc "reaction" 0 2 .rw true 0 (.map 3 0)],
    r1 "CFG_REFCRC" 0x184 [fp "crc" 0 32 .rws 0],
    r1 "CFG_SCANCRC" 0x188 [fp "crc" 0 32 .ro 0],
    r1 "CFG_STATUS" 0x18C [fp "armed" 0 1 .ro 0, fp "mismatch" 1 1 .ro 0, fp "safe" 2 1 .ro 0, fp "ref_written" 3 1 .ro 0],
    r1 "CFG_SCANS" 0x190 [fp "count" 0 32 .rw 0],
    r1 "CFG_MISMATCHES" 0x194 [fp "count" 0 32 .rw 0],
    r1 "CFG_SCAN_US" 0x198 [fp "us" 0 10 .ro 0],
    r1 "LOCK_LAST" 0x1C0 [fp "page" 0 14 .ro 0, fp "accessor" 16 5 .ro 0],
    r1 "LOCK_TOTAL" 0x1C4 [fp "count" 0 32 .rw 0],
    rb "TICK_CTL" 0x400 8 0x40 1 4 [fp "enable" 0 1 .rws 0, fp "phases_m1" 4 3 .rws 0] ]

/-- R294, R53, R54, R191, part 1. -/
def rowsGlobal_1 : List RegRow :=
  [ rb "PERIOD_NUM" 0x404 8 0x40 1 4 [fp "num" 0 32 .rws 0x1312D00],
    rb "PERIOD_DEN" 0x408 8 0x40 1 4 [fp "den" 0 10 .rws 1],
    rb "PHASE_OFS_01" 0x40C 8 0x40 1 4 [fp "ofs0" 0 16 .ro 0, fp "ofs1" 16 16 .rws 0],
    rb "PHASE_OFS_23" 0x410 8 0x40 1 4 [fp "ofs2" 0 16 .rws 0, fp "ofs3" 16 16 .rws 0],
    rb "PHASE_OFS_45" 0x414 8 0x40 1 4 [fp "ofs4" 0 16 .rws 0, fp "ofs5" 16 16 .rws 0],
    rb "PHASE_OFS_67" 0x418 8 0x40 1 4 [fp "ofs6" 0 16 .rws 0, fp "ofs7" 16 16 .rws 0],
    rb "TICK_STATUS" 0x41C 8 0x40 1 4 [fp "running" 0 1 .ro 0, fp "coasting" 1 1 .ro 0, fp "slewing" 2 1 .ro 0, fp "in_gap" 3 1 .ro 0, fp "phase" 4 3 .ro 0],
    rb "CANVAS_GEN" 0x420 8 0x40 1 4 [fp "gen" 0 32 .ro 0],
    r1 "COMMIT_CTL" 0x600 [fc "horizon_us" 0 14 .rw false 0x1F4 (.bound 200 10000)],
    r1 "COMMIT_STATUS" 0x604 [fp "state" 0 2 .ro 0, fp "answered" 2 1 .ro 0, fp "outcome" 4 3 .ro 0, fp "code" 8 8 .ro 0],
    r1 "ACTIVE_GEN" 0x608 [fp "gen" 0 32 .ro 0],
    r1 "PENDING_GEN" 0x60C [fp "gen" 0 32 .ro 0],
    r1 "COMMIT_CMD" 0x610 [fp "cancel" 0 1 .cmd 0],
    r1 "ADMITTED_COUNT" 0x614 [fp "count" 0 32 .rw 0] ]

/-- R294, R53, R54, R191, part 2. -/
def rowsGlobal_2 : List RegRow :=
  [ r1 "REFUSED_COUNT" 0x618 [fp "count" 0 32 .rw 0],
    r1 "APPLIED_COUNT" 0x61C [fp "count" 0 32 .rw 0],
    r1 "CANCELLED_COUNT" 0x620 [fp "count" 0 32 .rw 0],
    r1 "CONTRACT_STATUS" 0x624 [fp "hw_loss" 0 1 .rc 0, fp "vin" 1 1 .rc 0, fp "thermal" 2 1 .rc 0, fp "sram_ue" 3 1 .rc 0, fp "kill" 4 1 .rc 0, fp "cfg_safe" 5 1 .rc 0],
    r1 "BREACH_LINES" 0x628 [fp "count" 0 32 .rw 0],
    r1 "BREACH_LAST" 0x62C [fp "window" 0 10 .ro 0, fp "cause" 16 4 .ro 0],
    r1 "ADM_CTL" 0x700 [fp "mt_pc" 0 12 .rws 0x100, fp "migr_rate" 12 12 .rws 0x800],
    r1 "ADM_BE" 0x704 [fp "be_reserve" 0 20 .rws 0],
    r1 "ADM_STATE" 0x708 [fp "pcs" 0 7 .ro 0x3E, fp "spares" 8 7 .ro 2, fp "migrating" 15 1 .ro 0],
    r1 "ADM_BUDGET" 0x70C [fp "bytes" 0 21 .ro 0x126800],
    r1 "READMIT_COUNT" 0x710 [fp "count" 0 32 .rw 0],
    r1 "SHED_STATUS" 0x714 [fp "windows" 0 10 .ro 0],
    r1 "DESCENT_LAYERS" 0x718 [fp "layers" 0 9 .ro 0] ]

/-- R294, R53, R54, R191. -/
def rowsGlobal : List RegRow :=
  rowsGlobal_0 ++ rowsGlobal_1 ++ rowsGlobal_2

/-- R90, part 0. -/
def rowsHall0_0 : List RegRow :=
  [ r1 "HALL_CTL" 0x100 [fp "enable" 0 1 .rws 0, fp "canvas" 1 3 .rws 0, fp "gang_log2" 4 2 .rws 0, fp "order_mode" 6 1 .rws 0],
    r1 "HALL_STATUS" 0x104 [fp "active" 0 1 .ro 0, fp "killed" 1 1 .ro 0, fp "lead" 2 1 .ro 0, fp "stripe" 3 3 .ro 0],
    r1 "CANVAS_SIZE" 0x108 [fp "w_m1" 0 16 .rws 0x77F, fp "h_m1" 16 15 .rws 0x437],
    r1 "STRIPE_X0" 0x10C [fp "x0" 0 17 .ro 0],
    r1 "STRIPE_W" 0x110 [fp "w" 0 17 .ro 0],
    r1 "BG_RG" 0x114 [fp "r" 0 16 .rws 0, fp "g" 16 16 .rws 0],
    r1 "BG_B" 0x118 [fp "b" 0 16 .rws 0],
    r1 "TICKS_COMPOSED" 0x11C [fp "count" 0 32 .rw 0],
    r1 "NONFINITE_COUNT" 0x120 [fp "count" 0 32 .rw 0],
    r1 "WB_CTL" 0x124 [fp "enable" 0 1 .rws 0, fp "format" 1 2 .rws 0, fp "phase" 3 3 .rws 0, fp "ring_m1" 6 4 .rws 0],
    r1 "WB_BASE_LO" 0x128 [fp "va_lo" 0 32 .rws 0],
    r1 "WB_BASE_HI" 0x12C [fp "va_hi" 0 16 .rws 0, fp "asid" 16 4 .rws 0],
    r1 "WB_STRIDE" 0x130 [fp "stride" 0 24 .rws 0],
    r1 "WB_RING_STEP" 0x134 [fp "step" 0 24 .rws 0] ]

/-- R90, part 1. -/
def rowsHall0_1 : List RegRow :=
  [ r1 "WB_INDEX" 0x138 [fp "buffer" 0 4 .ro 0],
    r1 "WB_DROPPED" 0x13C [fp "count" 0 32 .rw 0],
    ra "PHASE_MASK_LO" 0x140 8 8 [fp "layers" 0 32 .rws 0xFFFFFFFF],
    ra "PHASE_MASK_HI" 0x144 8 8 [fpv "balustrade" 0 1 .rws 1],
    r1 "HALL_CMD" 0x180 [fpv "kill" 0 1 .cmd 0],
    r1 "KILL_COUNT" 0x184 [fp "count" 0 32 .rw 0] ]

/-- R90. -/
def rowsHall0 : List RegRow :=
  rowsHall0_0 ++ rowsHall0_1

/-- R92, R150, R214, part 0. -/
def rowsHallVideo_0 : List RegRow :=
  [ rb "LAYER_CTL" 0x100 8 0x100 1 4 [fp "enable" 0 1 .rws 0, fp "kind" 1 2 .ro 0, fp "opaque_static" 3 1 .rws 0, fp "alpha_mode" 4 2 .rws 0, fp "blend" 6 1 .rws 0, fp "fault_mode" 7 2 .rws 0, fp "atomic_group" 9 4 .rws 0, fp "clut_bank" 13 1 .rws 0],
    rb "FORMAT" 0x104 8 0x100 1 4 [fp "fmt" 0 8 .rws 1],
    rb "SRC_BASE_LO" 0x108 8 0x100 1 4 [fp "va_lo" 0 32 .rws 0],
    rb "SRC_BASE_HI" 0x10C 8 0x100 1 4 [fp "va_hi" 0 16 .rws 0, fp "asid" 16 4 .rws 0],
    rb "SRC_STRIDE" 0x110 8 0x100 1 4 [fp "stride" 0 24 .rws 0],
    rb "P1_BASE_LO" 0x114 8 0x100 1 4 [fp "va_lo" 0 32 .rws 0],
    rb "P1_BASE_HI" 0x118 8 0x100 1 4 [fp "va_hi" 0 16 .rws 0],
    rb "P1_STRIDE" 0x11C 8 0x100 1 4 [fp "stride" 0 24 .rws 0],
    rb "P2_BASE_LO" 0x120 8 0x100 1 4 [fp "va_lo" 0 32 .rws 0],
    rb "P2_BASE_HI" 0x124 8 0x100 1 4 [fp "va_hi" 0 16 .rws 0],
    rb "P2_STRIDE" 0x128 8 0x100 1 4 [fp "stride" 0 24 .rws 0],
    rb "BUF_SIZE" 0x12C 8 0x100 1 4 [fp "w_m1" 0 16 .rws 0, fp "h_m1" 16 16 .rws 0],
    rb "SRC_XY" 0x130 8 0x100 1 4 [fp "x" 0 16 .rws 0, fp "y" 16 16 .rws 0],
    rb "SRC_WH" 0x134 8 0x100 1 4 [fp "w_m1" 0 16 .rws 0, fp "h_m1" 16 16 .rws 0] ]

/-- R92, R150, R214, part 1. -/
def rowsHallVideo_1 : List RegRow :=
  [ rb "DST_X" 0x138 8 0x100 1 4 [fp "x" 0 18 .rws 0],
    rb "DST_Y" 0x13C 8 0x100 1 4 [fp "y" 0 18 .rws 0],
    rb "DST_WH" 0x140 8 0x100 1 4 [fp "w_m1" 0 16 .rws 0, fp "h_m1" 16 16 .rws 0],
    rb "GLOBAL_ALPHA" 0x144 8 0x100 1 4 [fp "alpha" 0 16 .rws 0xFFFF],
    rb "Z_ORDER" 0x148 8 0x100 1 4 [fp "z" 0 8 .rws 0],
    rb "FAULT_RG" 0x14C 8 0x100 1 4 [fp "r" 0 16 .rws 0, fp "g" 16 16 .rws 0],
    rb "FAULT_BA" 0x150 8 0x100 1 4 [fp "b" 0 16 .rws 0, fp "a" 16 16 .rws 0x3C00],
    rb "DESCENT" 0x154 8 0x100 1 4 [fp "steps" 0 4 .rws 0, fp "policy" 4 2 .rws 0],
    rb "LAYER_STATUS" 0x158 8 0x100 1 4 [fp "shown" 0 1 .ro 0, fp "no_buffer" 1 1 .ro 1, fp "frozen" 2 1 .ro 0, fp "hidden" 3 1 .ro 0, fp "fault_tick" 4 1 .ro 0],
    rb "FAULT_TILES" 0x15C 8 0x100 1 4 [fp "count" 0 32 .rw 0],
    rb "CLR_CTL" 0x180 8 0x100 1 4 [fp "range" 0 1 .rws 0, fp "matrix" 1 2 .rws 0, fp "tf" 3 3 .rws 1, fp "prim" 6 1 .rws 0, fp "clip" 7 1 .rws 0],
    rb "CLR_WHITE" 0x184 8 0x100 1 4 [fp "sdr_white" 0 14 .rws 0xCB, fp "hlg_peak" 16 14 .rws 0x3E8],
    rb "CLIP_KP" 0x188 8 0x100 1 4 [fp "knee" 0 16 .rws 0x4000, fp "peak" 16 16 .rws 0x4400],
    rb "FLIP_CTL" 0x1C0 8 0x100 1 4 [fp "fence_mode" 0 2 .rws 0, fp "fence" 2 9 .rws 0, fp "commit_buf" 11 1 .rws 0, fp "timeout_drop" 12 1 .rws 0] ]

/-- R92, R150, R214, part 2. -/
def rowsHallVideo_2 : List RegRow :=
  [ rb "FENCE_TIME" 0x1C4 8 0x100 1 4 [fc "horizon_us" 0 14 .rws false 0x1F4 (.bound 20 10000), fp "timeout" 16 16 .rws 0],
    rb "NEXT_B0_LO" 0x1C8 8 0x100 1 4 [fp "va_lo" 0 32 .rw 0],
    rb "NEXT_B0_HI" 0x1CC 8 0x100 1 4 [fp "va_hi" 0 16 .rw 0],
    rb "NEXT_P1_LO" 0x1D0 8 0x100 1 4 [fp "va_lo" 0 32 .rw 0],
    rb "NEXT_P1_HI" 0x1D4 8 0x100 1 4 [fp "va_hi" 0 16 .rw 0],
    rb "NEXT_P2_LO" 0x1D8 8 0x100 1 4 [fp "va_lo" 0 32 .rw 0],
    rb "NEXT_P2_HI" 0x1DC 8 0x100 1 4 [fp "va_hi" 0 16 .rw 0],
    rb "FENCE_VALUE" 0x1E0 8 0x100 1 4 [fp "target" 0 32 .rw 0],
    rb "FLIP_CMD" 0x1E4 8 0x100 1 4 [fp "request" 0 1 .cmd 0, fp "withdraw" 1 1 .cmd 0],
    rb "FLIP_STATUS" 0x1E8 8 0x100 1 4 [fp "pending" 0 1 .ro 0, fp "ready" 1 1 .ro 0, fp "timed_out" 2 1 .ro 0, fp "group_held" 3 1 .ro 0, fp "bad_base" 4 1 .ro 0, fp "withdrawn" 5 1 .ro 0],
    rb "FLIPS" 0x1EC 8 0x100 1 4 [fp "count" 0 32 .rw 0],
    rb "NOT_READY" 0x1F0 8 0x100 1 4 [fp "count" 0 32 .rw 0],
    rb "GROUP_HELD" 0x1F4 8 0x100 1 4 [fp "count" 0 32 .rw 0],
    rb "EMPTY_TICKS" 0x1F8 8 0x100 1 4 [fp "count" 0 32 .rw 0] ]

/-- R92, R150, R214, part 3. -/
def rowsHallVideo_3 : List RegRow :=
  [ rb "LATE_FENCES" 0x1FC 8 0x100 1 4 [fp "count" 0 32 .rw 0] ]

/-- R92, R150, R214. -/
def rowsHallVideo : List RegRow :=
  rowsHallVideo_0 ++ rowsHallVideo_1 ++ rowsHallVideo_2 ++ rowsHallVideo_3

/-- R92, R150, R214, part 0. -/
def rowsHallGraphic_0 : List RegRow :=
  [ rb "LAYER_CTL" 0x100 12 0x100 1 4 [fp "enable" 0 1 .rws 0, fp "kind" 1 2 .ro 0, fp "opaque_static" 3 1 .rws 0, fp "alpha_mode" 4 2 .rws 0, fp "blend" 6 1 .rws 0, fp "fault_mode" 7 2 .rws 0, fp "atomic_group" 9 4 .rws 0, fp "clut_bank" 13 1 .rws 0],
    rb "FORMAT" 0x104 12 0x100 1 4 [fp "fmt" 0 8 .rws 1],
    rb "SRC_BASE_LO" 0x108 12 0x100 1 4 [fp "va_lo" 0 32 .rws 0],
    rb "SRC_BASE_HI" 0x10C 12 0x100 1 4 [fp "va_hi" 0 16 .rws 0, fp "asid" 16 4 .rws 0],
    rb "SRC_STRIDE" 0x110 12 0x100 1 4 [fp "stride" 0 24 .rws 0],
    rb "P1_BASE_LO" 0x114 12 0x100 1 4 [fp "va_lo" 0 32 .rws 0],
    rb "P1_BASE_HI" 0x118 12 0x100 1 4 [fp "va_hi" 0 16 .rws 0],
    rb "P1_STRIDE" 0x11C 12 0x100 1 4 [fp "stride" 0 24 .rws 0],
    rb "P2_BASE_LO" 0x120 12 0x100 1 4 [fp "va_lo" 0 32 .rws 0],
    rb "P2_BASE_HI" 0x124 12 0x100 1 4 [fp "va_hi" 0 16 .rws 0],
    rb "P2_STRIDE" 0x128 12 0x100 1 4 [fp "stride" 0 24 .rws 0],
    rb "BUF_SIZE" 0x12C 12 0x100 1 4 [fp "w_m1" 0 16 .rws 0, fp "h_m1" 16 16 .rws 0],
    rb "SRC_XY" 0x130 12 0x100 1 4 [fp "x" 0 16 .rws 0, fp "y" 16 16 .rws 0],
    rb "SRC_WH" 0x134 12 0x100 1 4 [fp "w_m1" 0 16 .rws 0, fp "h_m1" 16 16 .rws 0] ]

/-- R92, R150, R214, part 1. -/
def rowsHallGraphic_1 : List RegRow :=
  [ rb "DST_X" 0x138 12 0x100 1 4 [fp "x" 0 18 .rws 0],
    rb "DST_Y" 0x13C 12 0x100 1 4 [fp "y" 0 18 .rws 0],
    rb "DST_WH" 0x140 12 0x100 1 4 [fp "w_m1" 0 16 .rws 0, fp "h_m1" 16 16 .rws 0],
    rb "GLOBAL_ALPHA" 0x144 12 0x100 1 4 [fp "alpha" 0 16 .rws 0xFFFF],
    rb "Z_ORDER" 0x148 12 0x100 1 4 [fp "z" 0 8 .rws 0],
    rb "FAULT_RG" 0x14C 12 0x100 1 4 [fp "r" 0 16 .rws 0, fp "g" 16 16 .rws 0],
    rb "FAULT_BA" 0x150 12 0x100 1 4 [fp "b" 0 16 .rws 0, fp "a" 16 16 .rws 0x3C00],
    rb "DESCENT" 0x154 12 0x100 1 4 [fp "steps" 0 4 .rws 0, fp "policy" 4 2 .rws 0],
    rb "LAYER_STATUS" 0x158 12 0x100 1 4 [fp "shown" 0 1 .ro 0, fp "no_buffer" 1 1 .ro 1, fp "frozen" 2 1 .ro 0, fp "hidden" 3 1 .ro 0, fp "fault_tick" 4 1 .ro 0],
    rb "FAULT_TILES" 0x15C 12 0x100 1 4 [fp "count" 0 32 .rw 0],
    rb "CLR_CTL" 0x180 12 0x100 1 4 [fp "range" 0 1 .rws 0, fp "matrix" 1 2 .rws 0, fp "tf" 3 3 .rws 1, fp "prim" 6 1 .rws 0, fp "clip" 7 1 .rws 0],
    rb "CLR_WHITE" 0x184 12 0x100 1 4 [fp "sdr_white" 0 14 .rws 0xCB, fp "hlg_peak" 16 14 .rws 0x3E8],
    rb "CLIP_KP" 0x188 12 0x100 1 4 [fp "knee" 0 16 .rws 0x4000, fp "peak" 16 16 .rws 0x4400],
    rb "FLIP_CTL" 0x1C0 12 0x100 1 4 [fp "fence_mode" 0 2 .rws 0, fp "fence" 2 9 .rws 0, fp "commit_buf" 11 1 .rws 0, fp "timeout_drop" 12 1 .rws 0] ]

/-- R92, R150, R214, part 2. -/
def rowsHallGraphic_2 : List RegRow :=
  [ rb "FENCE_TIME" 0x1C4 12 0x100 1 4 [fc "horizon_us" 0 14 .rws false 0x1F4 (.bound 20 10000), fp "timeout" 16 16 .rws 0],
    rb "NEXT_B0_LO" 0x1C8 12 0x100 1 4 [fp "va_lo" 0 32 .rw 0],
    rb "NEXT_B0_HI" 0x1CC 12 0x100 1 4 [fp "va_hi" 0 16 .rw 0],
    rb "NEXT_P1_LO" 0x1D0 12 0x100 1 4 [fp "va_lo" 0 32 .rw 0],
    rb "NEXT_P1_HI" 0x1D4 12 0x100 1 4 [fp "va_hi" 0 16 .rw 0],
    rb "NEXT_P2_LO" 0x1D8 12 0x100 1 4 [fp "va_lo" 0 32 .rw 0],
    rb "NEXT_P2_HI" 0x1DC 12 0x100 1 4 [fp "va_hi" 0 16 .rw 0],
    rb "FENCE_VALUE" 0x1E0 12 0x100 1 4 [fp "target" 0 32 .rw 0],
    rb "FLIP_CMD" 0x1E4 12 0x100 1 4 [fp "request" 0 1 .cmd 0, fp "withdraw" 1 1 .cmd 0],
    rb "FLIP_STATUS" 0x1E8 12 0x100 1 4 [fp "pending" 0 1 .ro 0, fp "ready" 1 1 .ro 0, fp "timed_out" 2 1 .ro 0, fp "group_held" 3 1 .ro 0, fp "bad_base" 4 1 .ro 0, fp "withdrawn" 5 1 .ro 0],
    rb "FLIPS" 0x1EC 12 0x100 1 4 [fp "count" 0 32 .rw 0],
    rb "NOT_READY" 0x1F0 12 0x100 1 4 [fp "count" 0 32 .rw 0],
    rb "GROUP_HELD" 0x1F4 12 0x100 1 4 [fp "count" 0 32 .rw 0],
    rb "EMPTY_TICKS" 0x1F8 12 0x100 1 4 [fp "count" 0 32 .rw 0] ]

/-- R92, R150, R214, part 3. -/
def rowsHallGraphic_3 : List RegRow :=
  [ rb "LATE_FENCES" 0x1FC 12 0x100 1 4 [fp "count" 0 32 .rw 0] ]

/-- R92, R150, R214. -/
def rowsHallGraphic : List RegRow :=
  rowsHallGraphic_0 ++ rowsHallGraphic_1 ++ rowsHallGraphic_2 ++ rowsHallGraphic_3

/-- R92, R150, R214, part 0. -/
def rowsHallBal_0 : List RegRow :=
  [ r1 "LAYER_CTL" 0x100 [fp "enable" 0 1 .rws 0, fp "kind" 1 2 .ro 0, fp "opaque_static" 3 1 .rws 0, fp "alpha_mode" 4 2 .rws 0, fp "blend" 6 1 .rws 0, fp "fault_mode" 7 2 .rws 0, fp "atomic_group" 9 4 .rws 0, fp "clut_bank" 13 1 .rws 0],
    r1 "FORMAT" 0x104 [fp "fmt" 0 8 .rws 1],
    r1 "SRC_BASE_LO" 0x108 [fp "va_lo" 0 32 .rws 0],
    r1 "SRC_BASE_HI" 0x10C [fp "va_hi" 0 16 .rws 0, fp "asid" 16 4 .rws 0],
    r1 "SRC_STRIDE" 0x110 [fp "stride" 0 24 .rws 0],
    r1 "P1_BASE_LO" 0x114 [fp "va_lo" 0 32 .rws 0],
    r1 "P1_BASE_HI" 0x118 [fp "va_hi" 0 16 .rws 0],
    r1 "P1_STRIDE" 0x11C [fp "stride" 0 24 .rws 0],
    r1 "P2_BASE_LO" 0x120 [fp "va_lo" 0 32 .rws 0],
    r1 "P2_BASE_HI" 0x124 [fp "va_hi" 0 16 .rws 0],
    r1 "P2_STRIDE" 0x128 [fp "stride" 0 24 .rws 0],
    r1 "BUF_SIZE" 0x12C [fp "w_m1" 0 16 .rws 0, fp "h_m1" 16 16 .rws 0],
    r1 "SRC_XY" 0x130 [fp "x" 0 16 .rws 0, fp "y" 16 16 .rws 0],
    r1 "SRC_WH" 0x134 [fp "w_m1" 0 16 .rws 0, fp "h_m1" 16 16 .rws 0] ]

/-- R92, R150, R214, part 1. -/
def rowsHallBal_1 : List RegRow :=
  [ r1 "DST_X" 0x138 [fp "x" 0 18 .rws 0],
    r1 "DST_Y" 0x13C [fp "y" 0 18 .rws 0],
    r1 "DST_WH" 0x140 [fp "w_m1" 0 16 .rws 0, fp "h_m1" 16 16 .rws 0],
    r1 "GLOBAL_ALPHA" 0x144 [fp "alpha" 0 16 .rws 0xFFFF],
    r1 "Z_ORDER" 0x148 [fp "z" 0 8 .rws 0],
    r1 "FAULT_RG" 0x14C [fp "r" 0 16 .rws 0, fp "g" 16 16 .rws 0],
    r1 "FAULT_BA" 0x150 [fp "b" 0 16 .rws 0, fp "a" 16 16 .rws 0x3C00],
    r1 "DESCENT" 0x154 [fp "steps" 0 4 .rws 0, fp "policy" 4 2 .rws 0],
    r1 "LAYER_STATUS" 0x158 [fp "shown" 0 1 .ro 0, fp "no_buffer" 1 1 .ro 1, fp "frozen" 2 1 .ro 0, fp "hidden" 3 1 .ro 0, fp "fault_tick" 4 1 .ro 0],
    r1 "FAULT_TILES" 0x15C [fp "count" 0 32 .rw 0],
    r1 "CLR_CTL" 0x180 [fp "range" 0 1 .rws 0, fp "matrix" 1 2 .rws 0, fp "tf" 3 3 .rws 1, fp "prim" 6 1 .rws 0, fp "clip" 7 1 .rws 0],
    r1 "CLR_WHITE" 0x184 [fp "sdr_white" 0 14 .rws 0xCB, fp "hlg_peak" 16 14 .rws 0x3E8],
    r1 "CLIP_KP" 0x188 [fp "knee" 0 16 .rws 0x4000, fp "peak" 16 16 .rws 0x4400],
    r1 "FLIP_CTL" 0x1C0 [fp "fence_mode" 0 2 .rws 0, fp "fence" 2 9 .rws 0, fp "commit_buf" 11 1 .rws 0, fp "timeout_drop" 12 1 .rws 0] ]

/-- R92, R150, R214, part 2. -/
def rowsHallBal_2 : List RegRow :=
  [ r1 "FENCE_TIME" 0x1C4 [fc "horizon_us" 0 14 .rws false 0x1F4 (.bound 20 10000), fp "timeout" 16 16 .rws 0],
    r1 "NEXT_B0_LO" 0x1C8 [fp "va_lo" 0 32 .rw 0],
    r1 "NEXT_B0_HI" 0x1CC [fp "va_hi" 0 16 .rw 0],
    r1 "NEXT_P1_LO" 0x1D0 [fp "va_lo" 0 32 .rw 0],
    r1 "NEXT_P1_HI" 0x1D4 [fp "va_hi" 0 16 .rw 0],
    r1 "NEXT_P2_LO" 0x1D8 [fp "va_lo" 0 32 .rw 0],
    r1 "NEXT_P2_HI" 0x1DC [fp "va_hi" 0 16 .rw 0],
    r1 "FENCE_VALUE" 0x1E0 [fp "target" 0 32 .rw 0],
    r1 "FLIP_CMD" 0x1E4 [fp "request" 0 1 .cmd 0, fp "withdraw" 1 1 .cmd 0],
    r1 "FLIP_STATUS" 0x1E8 [fp "pending" 0 1 .ro 0, fp "ready" 1 1 .ro 0, fp "timed_out" 2 1 .ro 0, fp "group_held" 3 1 .ro 0, fp "bad_base" 4 1 .ro 0, fp "withdrawn" 5 1 .ro 0],
    r1 "FLIPS" 0x1EC [fp "count" 0 32 .rw 0],
    r1 "NOT_READY" 0x1F0 [fp "count" 0 32 .rw 0],
    r1 "GROUP_HELD" 0x1F4 [fp "count" 0 32 .rw 0],
    r1 "EMPTY_TICKS" 0x1F8 [fp "count" 0 32 .rw 0] ]

/-- R92, R150, R214, part 3. -/
def rowsHallBal_3 : List RegRow :=
  [ r1 "LATE_FENCES" 0x1FC [fp "count" 0 32 .rw 0] ]

/-- R92, R150, R214. -/
def rowsHallBal : List RegRow :=
  rowsHallBal_0 ++ rowsHallBal_1 ++ rowsHallBal_2 ++ rowsHallBal_3

/-- R118, part 0. -/
def rowsHall5_0 : List RegRow :=
  [ rb "SCALE_CTL" 0x100 8 0x40 1 4 [fp "h_taps" 0 4 .rws 2, fp "v_taps" 4 4 .rws 2, fp "h_taps_red" 8 4 .rws 1, fp "v_taps_red" 12 4 .rws 1, fp "coef_bank" 16 4 .rws 0, fp "desc_bank" 20 4 .rws 0, fp "edge_x" 24 2 .rws 0, fp "edge_y" 26 2 .rws 0, fp "chroma_h" 28 1 .rws 0, fp "chroma_v" 29 1 .rws 0],
    rb "INIT_X" 0x104 8 0x40 1 4 [fp "ofs" 0 20 .rws 0],
    rb "INIT_Y" 0x108 8 0x40 1 4 [fp "ofs" 0 20 .rws 0],
    rb "STEP_X_LO" 0x10C 8 0x40 1 4 [fp "step" 0 32 .ro 0],
    rb "STEP_X_HI" 0x110 8 0x40 1 4 [fp "step" 0 4 .ro 0],
    rb "STEP_Y_LO" 0x114 8 0x40 1 4 [fp "step" 0 32 .ro 0],
    rb "STEP_Y_HI" 0x118 8 0x40 1 4 [fp "step" 0 4 .ro 0],
    rb "SCALE_STATUS" 0x11C 8 0x40 1 4 [fp "reduced" 0 1 .ro 0, fp "halved" 1 1 .ro 0, fp "h_taps_eff" 2 4 .ro 0, fp "v_taps_eff" 6 4 .ro 0],
    rb "POOL_OFS" 0x120 8 0x40 1 4 [fp "ofs" 0 21 .ro 0],
    rb "POOL_BYTES" 0x124 8 0x40 1 4 [fp "bytes" 0 22 .ro 0],
    rb "SRC_COLS" 0x128 8 0x40 1 4 [fp "cols" 0 17 .ro 0],
    r1 "POOL_USED" 0x300 [fp "bytes" 0 22 .ro 0],
    r1 "POOL_REQ" 0x304 [fp "bytes" 0 23 .ro 0],
    r1 "LINEBUF_REFUSALS" 0x308 [fp "count" 0 32 .rw 0] ]

/-- R118, part 1. -/
def rowsHall5_1 : List RegRow :=
  [ r1 "POOL_CORRECTED" 0x30C [fp "count" 0 32 .rw 0] ]

/-- R118. -/
def rowsHall5 : List RegRow :=
  rowsHall5_0 ++ rowsHall5_1

/-- R151, part 0. -/
def rowsHall7_0 : List RegRow :=
  [ r1 "CANVAS_CLR" 0x100 [fp "prim" 0 1 .rws 0, fp "out_tf" 1 3 .rws 1, fp "tone_en" 4 1 .rws 0, fp "lut3d_en" 5 1 .rws 0, fp "tone_bank" 6 1 .ro 0, fp "lut3d_bank" 7 1 .ro 0],
    r1 "CLR_NITS" 0x104 [fp "ref_white" 0 14 .rws 0xCB, fp "out_white" 16 14 .rws 0xCB],
    r1 "HLG_NITS" 0x108 [fp "hlg_peak" 0 14 .rws 0x3E8],
    r1 "TONE_CMD" 0x10C [fp "swap_tone" 0 1 .cmd 0, fp "swap_lut3d" 1 1 .cmd 0],
    r1 "TONE_POLICY" 0x110 [fc "mode" 0 2 .rw false 1 (.map 3 1), fp "lut3d" 2 1 .rw 0],
    r1 "TONE_TARGET" 0x114 [fp "peak_nits" 0 14 .rw 0x3E8, fp "knee" 16 8 .rw 0xC0],
    r1 "TONE_RATE" 0x118 [fp "u_step" 0 16 .rw 0x40, fp "w_step" 16 8 .rw 1],
    r1 "POLICY_REPORT" 0x11C [fp "u_hi" 0 16 .ro 0, fp "w" 16 9 .ro 0, fp "valid" 31 1 .ro 0],
    r1 "POLICY_DEV" 0x120 [fp "dev" 0 16 .ro 0],
    r1 "TONE_SWAPS" 0x124 [fp "count" 0 32 .rw 0],
    r1 "TONE_MISSED" 0x128 [fp "count" 0 32 .rw 0],
    r1 "LUT3D_A_LO" 0x12C [fp "va_lo" 0 32 .rw 0],
    r1 "LUT3D_A_HI" 0x130 [fp "va_hi" 0 16 .rw 0, fp "asid" 16 4 .rw 0],
    r1 "LUT3D_B_LO" 0x134 [fp "va_lo" 0 32 .rw 0] ]

/-- R151, part 1. -/
def rowsHall7_1 : List RegRow :=
  [ r1 "LUT3D_B_HI" 0x138 [fp "va_hi" 0 16 .rw 0] ]

/-- R151. -/
def rowsHall7 : List RegRow :=
  rowsHall7_0 ++ rowsHall7_1

/-- R153. -/
def rowsHall10 : List RegRow :=
  [ r1 "STAT_CTL" 0x100 [fp "phase" 0 3 .rw 0, fp "hold" 3 1 .rw 0],
    r1 "STAT_TICK_LO" 0x104 [fp "tick" 0 32 .ro 0],
    r1 "STAT_TICK_HI" 0x108 [fp "tick" 0 32 .ro 0],
    r1 "STAT_PIXELS" 0x10C [fp "count" 0 32 .ro 0] ]

/-- R190. -/
def rowsHall11 : List RegRow :=
  [ r1 "COVER_CTL" 0x100 [fp "dyn_cull" 0 1 .rw 0, fp "runahead" 1 1 .rw 0],
    r1 "COVER_TILES" 0x104 [fp "entries" 0 18 .ro 0],
    r1 "COVER_CYCLES" 0x108 [fp "cycles" 0 17 .ro 0],
    r1 "CULL_GUAR" 0x10C [fp "count" 0 32 .rw 0],
    r1 "CULL_DYN" 0x110 [fp "count" 0 32 .rw 0],
    r1 "FETCH_UNITS" 0x114 [fp "count" 0 32 .rw 0],
    r1 "RUNAHEAD_UNITS" 0x118 [fp "count" 0 32 .rw 0],
    r1 "DISCARD_UNITS" 0x11C [fp "count" 0 32 .rw 0],
    r1 "DEFER_STATUS" 0x120 [fp "held" 0 5 .ro 0],
    r1 "DEFER_REPORTED" 0x124 [fp "count" 0 32 .rw 0],
    r1 "DEFER_DISCARDED" 0x128 [fp "count" 0 32 .rw 0],
    r1 "VEST_LEVEL" 0x12C [fp "units" 0 13 .ro 0] ]

/-- R215, part 0. -/
def rowsHall12_0 : List RegRow :=
  [ r1 "BAL_CTL" 0x100 [fpv "image" 0 2 .rws 0, fpv "verify" 2 1 .rws 0, fpv "cu" 3 6 .rws 0, fpv "phase" 9 3 .rws 0, fc "fallback_after" 12 4 .rws true 2 (.map 0 1)],
    r1 "BAL_LOCK" 0x104 [fpv "place_lock" 0 1 .wos 0, fpv "content_lock" 1 1 .wos 0, fpv "select_lock" 2 1 .wos 0],
    r1 "BAL_NEXT" 0x108 [fpv "image" 0 2 .rw 0],
    r1 "BAL_STATUS" 0x10C [fp "shown" 0 2 .ro 0, fp "fallback" 2 1 .ro 0, fp "fault_fill" 3 1 .ro 0, fp "run" 4 4 .ro 0],
    r1 "BAL_MISMATCHES" 0x110 [fpv "count" 0 32 .rw 0],
    r1 "BAL_REF_SUSPECT" 0x114 [fpv "count" 0 32 .rw 0],
    r1 "BAL_FALLBACKS" 0x118 [fpv "count" 0 32 .rw 0],
    r1 "FENCE_TIMEOUTS" 0x11C [fp "count" 0 32 .rw 0],
    r1 "FLIP_REPLACED" 0x120 [fp "count" 0 32 .rw 0],
    r1 "FLIP_BAD_BASE" 0x124 [fp "count" 0 32 .rw 0],
    r1 "FLIP_DECIDED" 0x128 [fp "count" 0 32 .rw 0],
    r1 "FLIP_LAYERS" 0x12C [fp "layers" 0 6 .ro 0],
    ra "BAL_IMG_LO" 0x140 4 16 [fpv "va_lo" 0 32 .rws 0],
    ra "BAL_IMG_HI" 0x144 4 16 [fpv "va_hi" 0 16 .rws 0] ]

/-- R215, part 1. -/
def rowsHall12_1 : List RegRow :=
  [ ra "BAL_EXP_LO" 0x148 4 16 [fpv "exp" 0 32 .rws 0],
    ra "BAL_EXP_HI" 0x14C 4 16 [fpv "exp" 0 32 .rws 0] ]

/-- R215. -/
def rowsHall12 : List RegRow :=
  rowsHall12_0 ++ rowsHall12_1

/-- R240, R154, part 0. -/
def rowsWin_0 : List RegRow :=
  [ r1 "WIN_CTL" 0x100 [fp "enable" 0 1 .rws 0, fp "canvas" 1 3 .rws 0, fp "phase" 4 3 .rws 0, fp "rotation" 7 2 .rws 0, fp "mirror" 9 1 .rws 0, fp "bitplane" 10 1 .rws 0, fp "subst" 11 1 .rws 0, fp "depth_m1" 12 4 .rws 7],
    r1 "WIN_XY" 0x104 [fp "x" 0 16 .rws 0, fp "y" 16 15 .rws 0],
    r1 "WIN_WH" 0x108 [fp "w_m1" 0 14 .rws 0, fp "h_m1" 16 14 .rws 0],
    r1 "WIN_LANE" 0x10C [fp "lane" 0 8 .rws 0, fp "group_log2" 8 2 .rws 0],
    r1 "WIN_S0" 0x110 [fp "s0" 0 26 .rws 0x3E8],
    r1 "WIN_SL" 0x114 [fp "sl" 0 24 .rws 0],
    r1 "WIN_BAND" 0x118 [fp "lines" 0 11 .rws 0x20],
    r1 "SAFE_RG" 0x11C [fp "r" 0 16 .rws 0, fp "g" 16 16 .rws 0],
    r1 "SAFE_B" 0x120 [fp "b" 0 16 .rws 0],
    r1 "GAL_OFS" 0x124 [fp "ofs" 0 27 .ro 0],
    r1 "GAL_BYTES" 0x128 [fp "bytes" 0 27 .ro 0],
    r1 "WIN_STATUS" 0x12C [fp "active" 0 1 .ro 0, fp "shed" 1 1 .ro 0, fp "on_spare" 2 1 .ro 0, fp "halted" 3 1 .ro 0, fp "late" 4 1 .ro 0],
    r1 "BREACH_LINES" 0x130 [fp "count" 0 32 .rw 0],
    r1 "SUBST_LINES" 0x134 [fp "count" 0 32 .rw 0] ]

/-- R240, R154, part 1. -/
def rowsWin_1 : List RegRow :=
  [ r1 "LINES_SENT" 0x138 [fp "count" 0 32 .rw 0],
    r1 "GAL_CORRECTED" 0x13C [fp "count" 0 32 .rw 0],
    r1 "ETH_DMAC_LO" 0x140 [fp "mac" 0 32 .rws 0],
    r1 "ETH_DMAC_HI" 0x144 [fp "mac" 0 16 .rws 0],
    r1 "ETH_VLAN" 0x148 [fp "vid" 0 12 .rws 0, fp "pcp" 12 3 .rws 0],
    ra "IP_DST" 0x14C 4 4 [fp "addr" 0 32 .rws 0],
    r1 "UDP_PORTS" 0x15C [fp "dst" 0 16 .rws 0, fp "src" 16 16 .rws 0],
    r1 "RTP_SSRC" 0x160 [fp "ssrc" 0 32 .rws 0],
    r1 "RTP_CTL" 0x164 [fp "pt" 0 7 .rws 0x60, fp "ipv6" 7 1 .rws 0, fp "dscp" 8 6 .rws 0, fp "ttl" 14 8 .rws 0x40],
    r1 "RTP_SEQ" 0x168 [fp "seq" 0 32 .ro 0],
    r1 "WCLR_CTL" 0x300 [fp "pre_lut" 0 1 .rws 0, fp "post_lut" 1 1 .rws 0, fp "lut_set" 2 5 .rws 0, fp "matrix_en" 7 1 .rws 0, fp "cal_fmt" 8 2 .rws 0, fp "dither" 10 2 .rws 0],
    r1 "WMAT_00" 0x304 [fp "m" 0 32 .rws 0x3F800000],
    r1 "WMAT_01" 0x308 [fp "m" 0 32 .rws 0],
    r1 "WMAT_02" 0x30C [fp "m" 0 32 .rws 0] ]

/-- R240, R154, part 2. -/
def rowsWin_2 : List RegRow :=
  [ r1 "WMAT_10" 0x310 [fp "m" 0 32 .rws 0],
    r1 "WMAT_11" 0x314 [fp "m" 0 32 .rws 0x3F800000],
    r1 "WMAT_12" 0x318 [fp "m" 0 32 .rws 0],
    r1 "WMAT_20" 0x31C [fp "m" 0 32 .rws 0],
    r1 "WMAT_21" 0x320 [fp "m" 0 32 .rws 0],
    r1 "WMAT_22" 0x324 [fp "m" 0 32 .rws 0x3F800000],
    r1 "WOFS_0" 0x328 [fp "o" 0 32 .rws 0],
    r1 "WOFS_1" 0x32C [fp "o" 0 32 .rws 0],
    r1 "WOFS_2" 0x330 [fp "o" 0 32 .rws 0],
    r1 "CAL_BASE_LO" 0x334 [fp "va_lo" 0 32 .rws 0],
    r1 "CAL_BASE_HI" 0x338 [fp "va_hi" 0 16 .rws 0, fp "asid" 16 4 .rws 0],
    r1 "CAL_STRIDE" 0x33C [fp "stride" 0 24 .rws 0],
    r1 "CAL_FAULTS" 0x340 [fp "count" 0 32 .rw 0] ]

/-- R240, R154. -/
def rowsWin : List RegRow :=
  rowsWin_0 ++ rowsWin_1 ++ rowsWin_2

/-- R241, part 0. -/
def rowsLane_0 : List RegRow :=
  [ r1 "LANE_CTL" 0x100 [fp "enable" 0 1 .rws 0, fp "mode" 1 3 .rws 0, fp "spare" 4 1 .rws 0, fp "fec" 5 2 .rws 0, fp "tx_invert" 7 1 .rws 0, fp "rx_invert" 8 1 .rws 0],
    r1 "LANE_RATE" 0x104 [fp "kbps" 0 25 .rws 0x9D5B34],
    r1 "LANE_STATUS" 0x108 [fp "tx_on" 0 1 .ro 0, fp "rx_lock" 1 1 .ro 0, fp "link_up" 2 1 .ro 0, fp "out_of_service" 3 1 .ro 0, fp "carrying" 4 1 .ro 0, fp "halted" 5 1 .ro 0, fp "carried_lane" 8 8 .ro 0],
    r1 "LANE_CMD" 0x10C [fpv "failover" 0 1 .cmd 0, fpv "failback" 1 1 .cmd 0, fpv "halt" 2 1 .cmd 0, fpv "resume" 3 1 .cmd 0],
    r1 "LINES_TX" 0x110 [fp "count" 0 32 .rw 0],
    r1 "SUBST_TX" 0x114 [fp "count" 0 32 .rw 0],
    r1 "HALT_LINES" 0x118 [fp "count" 0 32 .rw 0],
    r1 "RX_BLOCK_ERR" 0x11C [fp "count" 0 32 .rw 0],
    r1 "SB_RX_DROPPED" 0x120 [fp "count" 0 32 .rw 0],
    r1 "SLTIME_CTL" 0x124 [fp "enable" 0 1 .rw 0, fc "interval_log2" 1 4 .rw false 4 (.bound 0 10)],
    r1 "LINK_DELAY" 0x128 [fp "delay" 0 32 .ro 0],
    r1 "LANE_EVT" 0x12C [fp "breach" 0 1 .rc 0, fp "subst" 1 1 .rc 0, fp "cal_fault" 2 1 .rc 0, fp "gal_ue" 3 1 .rc 0, fp "failover" 4 1 .rc 0, fp "rx_loss" 5 1 .rc 0, fp "halt" 6 1 .rc 0, fp "sb_rx" 7 1 .rc 0, fp "echo_timeout" 8 1 .rc 0, fp "gate_swapped" 16 1 .rc 0, fp "gate_start_adjusted" 17 1 .rc 0, fp "gate_refused" 18 1 .rc 0, fp "gate_error" 19 1 .rc 0, fp "as_not_capable" 20 1 .rc 0],
    r1 "SRC_MAC_LO" 0x130 [fp "mac" 0 32 .rws 0],
    r1 "SRC_MAC_HI" 0x134 [fp "mac" 0 16 .rws 0] ]

/-- R241, part 1. -/
def rowsLane_1 : List RegRow :=
  [ ra "SRC_IP" 0x138 4 4 [fp "addr" 0 32 .rws 0] ]

/-- R241. -/
def rowsLane : List RegRow :=
  rowsLane_0 ++ rowsLane_1

/-- R269, part 0. -/
def rowsCascade_0 : List RegRow :=
  [ r1 "CASC_CTL" 0x100 [fp "enable" 0 1 .rws 0, fp "topology" 1 2 .rws 0],
    r1 "CASC_ID" 0x104 [fp "landing" 0 4 .rw 0],
    r1 "CASC_MEMBERS" 0x108 [fp "set" 0 16 .rws 1],
    r1 "CASC_BUDGET" 0x10C [fp "ns" 0 24 .rws 0x4E20],
    ra "PORT_CTL" 0x110 8 4 [fp "enable" 0 1 .rws 0, fp "width_log2" 1 3 .rws 2, fp "rate" 4 2 .rws 0, fp "uplink" 6 1 .rws 0, fp "peer" 7 4 .rws 0, fp "lane" 11 8 .rws 0, fp "spare_en" 19 1 .rws 0, fp "spare_lane" 20 8 .rws 0],
    ra "PORT_STATUS" 0x130 8 4 [fp "up" 0 1 .ro 0, fp "skew" 1 1 .ro 0, fp "peer_wrong" 2 1 .ro 0],
    ra "PORT_REACH" 0x150 8 4 [fp "set" 0 16 .rws 0],
    ra "PORT_DELAY" 0x170 8 4 [fp "delay" 0 32 .ro 0],
    ra "PORT_BLOCK_ERR" 0x190 8 4 [fp "count" 0 32 .rw 0],
    ra "MSG_CRC_ERR" 0x1B0 8 4 [fp "count" 0 32 .rw 0],
    ra "PART" 0x1D0 8 4 [fp "tree_canvas" 0 6 .rws 0, fp "x" 6 13 .rws 0, fp "y" 19 12 .rws 0],
    r1 "FENCE_EXPORT_LO" 0x1F0 [fp "groups" 0 32 .rws 0],
    r1 "FENCE_EXPORT_HI" 0x1F4 [fp "groups" 0 32 .rws 0],
    r1 "CASC_CONTENT" 0x1F8 [fp "rate" 0 20 .rws 0] ]

/-- R269, part 1. -/
def rowsCascade_1 : List RegRow :=
  [ r1 "CASC_SKEW_LIMIT" 0x1FC [fp "ns" 0 16 .rw 0x3E8],
    r1 "CASC_STATUS" 0x200 [fp "joined" 0 1 .ro 0, fp "diverged" 1 1 .ro 0, fp "wrapped" 2 1 .ro 0, fp "part_mismatch" 3 1 .rc 0],
    r1 "CASC_CMD" 0x204 [fp "landing" 0 4 .rw 0, fpv "join" 4 1 .cmd 0],
    r1 "CASC_JOIN_CODE" 0x208 [fp "code" 0 8 .ro 0],
    r1 "TICK_SKEW" 0x20C [fp "ns" 0 32 .ro 0],
    r1 "DECIDE_LATE" 0x210 [fp "count" 0 32 .rw 0],
    r1 "CONTENT_DROPPED" 0x214 [fp "count" 0 32 .rw 0],
    r1 "DUP_DROPPED" 0x218 [fp "count" 0 32 .rw 0],
    r1 "PEER_EVT_DROPPED" 0x21C [fp "count" 0 32 .rw 0] ]

/-- R269. -/
def rowsCascade : List RegRow :=
  rowsCascade_0 ++ rowsCascade_1

/-- R295. -/
def rowsEvents0 : List RegRow :=
  [ ra "EVT_RAW_ALL" 0x100 32 4 [fp "raw" 0 32 .rc 0],
    ra "EVT_ENABLE_ALL" 0x180 32 4 [fp "enable" 0 32 .rw 0],
    ra "EVT_PENDING_ALL" 0x200 32 4 [fp "pending" 0 32 .rc 0],
    r1 "EVT_N_STATUS" 0x280 [fp "low" 0 4 .ro 0],
    r1 "EVT_N_CTL" 0x284 [fp "pulse" 0 4 .rw 0],
    r1 "DOORBELL_LO" 0x288 [fp "ring" 0 32 .wo 0],
    r1 "DOORBELL_HI" 0x28C [fp "ring" 0 32 .wo 0] ]

/-- R216. -/
def rowsEvents1 : List RegRow :=
  [ ra "FENCE" 0x100 512 4 [fp "value" 0 32 .rw 0],
    r1 "FENCE_BACKWARD" 0x900 [fp "count" 0 32 .rw 0] ]

/-- R216. -/
def rowsEvents2 : List RegRow :=
  [ ra "FENCE_OWNER" 0x100 512 4 [fc "owner" 0 2 .rw false 0 (.map 3 0), fp "receiver" 2 8 .rw 0, fp "landing" 10 4 .rw 0, fp "peer_fence" 14 9 .rw 0] ]

/-- R325. -/
def rowsHost0 : List RegRow :=
  [ r1 "PORT_CTL" 0x100 [fp "enable" 0 1 .rws 1, fp "split" 1 2 .rws 0],
    r1 "LANE_POL" 0x104 [fp "tx_invert" 0 8 .rws 0, fp "rx_invert" 8 8 .rws 0],
    r1 "PORT_STATUS" 0x108 [fp "link_up" 0 4 .ro 0, fp "fec_lock" 4 4 .ro 0],
    rb "RX_FRAMES" 0x140 4 0x40 1 4 [fp "count" 0 32 .rw 0],
    rb "RX_FCS_ERR" 0x144 4 0x40 1 4 [fp "count" 0 32 .rw 0],
    rb "RX_NOT_MINE" 0x148 4 0x40 1 4 [fp "count" 0 32 .rw 0],
    rb "FEC_CORR" 0x14C 4 0x40 1 4 [fp "count" 0 32 .rw 0],
    rb "FEC_UNCORR" 0x150 4 0x40 1 4 [fp "count" 0 32 .rw 0],
    rb "TX_FRAMES" 0x154 4 0x40 1 4 [fp "count" 0 32 .rw 0] ]

/-- R325. -/
def rowsHost1 : List RegRow :=
  [ rb "SUB_MAC_LO" 0x100 4 0x40 1 4 [fp "mac" 0 32 .rws 0],
    rb "SUB_MAC_HI" 0x104 4 0x40 1 4 [fp "mac" 0 16 .rws 0],
    rb "SUB_IP4" 0x108 4 0x40 1 4 [fp "addr" 0 32 .rws 0],
    rb "SUB_IP4_CTL" 0x10C 4 0x40 1 4 [fp "prefix" 0 6 .rws 0x18, fp "vid" 6 12 .rws 0, fp "tagged" 18 1 .rws 0],
    rb "SUB_IP6" 0x110 4 0x40 1 4 [fp "index" 0 6 .rws 0, fp "valid" 6 1 .rws 0],
    rb "SUB_MAXFRAME" 0x114 4 0x40 1 4 [fp "bytes" 0 14 .rws 0x5F2] ]

/-- R326. -/
def rowsHost2 : List RegRow :=
  [ rb "ADDR6" 0x100 64 0x10 4 4 [fp "word" 0 32 .rws 0] ]

/-- R325. -/
def rowsHost3 : List RegRow :=
  [ r1 "PTP_CTL" 0x100 [fp "enable" 0 1 .rws 0, fp "ports" 1 8 .rws 0xFF, fp "domain" 9 7 .rws 0x7F, fp "ipv6" 16 1 .rws 0, fp "unicast_dreq" 17 1 .rws 0, fp "art" 18 4 .rws 3],
    r1 "PTP_STATE" 0x104 [fp "state0" 0 4 .ro 0, fp "state1" 4 4 .ro 0, fp "state2" 8 4 .ro 0, fp "state3" 12 4 .ro 0] ]

/-- R327. -/
def rowsHost4 : List RegRow :=
  [ r1 "AED_CTL" 0x100 [fpv "udp_port" 0 16 .rw 0xBE00, fpv "ports" 16 8 .rw 0xFF, fpv "open_observer" 24 1 .rw 0],
    r1 "AED_TIMING" 0x104 [fp "idle_s" 0 8 .rw 0x1E, fc "coalesce_us" 8 14 .rw false 0x64 (.bound 0 10000)],
    r1 "AED_BULK_CTL" 0x108 [fpv "chan0" 0 6 .rw 0x3E, fpv "chan1" 8 6 .rw 0x3F],
    r1 "AED_KEY_LOCK" 0x10C [fpv "lock" 0 8 .wos 0],
    r1 "AED_KEY_STATUS" 0x110 [fp "loaded" 0 8 .ro 0, fp "ceiling" 8 16 .ro 0],
    ra "SESS" 0x140 16 4 [fp "open" 0 1 .ro 0, fp "level" 1 2 .ro 0, fp "slot" 4 8 .ro 0, fp "subport" 12 3 .ro 0],
    r1 "AED_AUTH_FAIL" 0x180 [fp "count" 0 32 .rw 0],
    r1 "AED_DROPPED" 0x184 [fp "count" 0 32 .rw 0],
    r1 "AED_GAPS" 0x188 [fp "count" 0 32 .rw 0],
    r1 "AED_EVT_LOST" 0x18C [fp "count" 0 32 .rw 0],
    r1 "AED_BULK_FAULTS" 0x190 [fp "count" 0 32 .rw 0] ]

/-- R349. -/
def rowsHost5 : List RegRow :=
  [ rb "TC_CTL" 0x100 4 0x100 1 4 [fp "rx_deftc" 0 3 .rw 0],
    rb "TX_CLASS" 0x104 4 0x100 1 4 [fp "ptp" 0 3 .rw 7, fp "basic" 4 3 .rw 6, fp "aed_resp" 8 3 .rw 5, fp "aed_evt" 12 3 .rw 4],
    rb "SHP_RESET" 0x108 4 0x100 1 4 [fp "bucket_reset" 0 8 .cmd 0],
    rb "SHP_CTL" 0x110 4 0x100 8 8 [fp "enable" 0 1 .rw 0, fp "rate" 1 24 .rw 0],
    rb "SHP_BURST" 0x114 4 0x100 8 8 [fp "bytes" 0 24 .rw 0x4000],
    rb "TX_FRAMES_TC" 0x150 4 0x100 8 4 [fp "count" 0 32 .rw 0],
    rb "SHP_DEBT" 0x170 4 0x100 8 4 [fp "bytes" 0 24 .ro 0],
    rb "RX_FRAMES_TC" 0x190 4 0x100 8 4 [fp "count" 0 32 .rw 0] ]

/-- R350. -/
def rowsHost6 : List RegRow :=
  [ r1 "POL_CMD" 0x100 [fp "index" 0 12 .rw 0, fp "reset" 12 1 .cmd 0],
    r1 "FLT_NOMATCH" 0x104 [fp "count" 0 32 .rw 0] ]

/-- R351. -/
def rowsHost7 : List RegRow :=
  [ rb "SMP_CTL" 0x100 16 0x80 1 4 [fp "enable" 0 1 .rw 0, fc "interval_log2" 1 5 .rw false 0xA (.bound 0 20), fc "hist_shift" 6 5 .rw false 6 (.bound 0 24), fp "notify" 11 1 .rw 0],
    rb "SMP_SEL" 0x104 16 0x80 1 4 [fp "kind" 0 1 .rw 0, fp "port" 1 8 .rw 0, fp "tc" 9 3 .rw 0],
    rb "DEPTH_MIN" 0x108 16 0x80 1 4 [fp "bytes" 0 24 .ro 0],
    rb "DEPTH_MAX" 0x10C 16 0x80 1 4 [fp "bytes" 0 24 .ro 0],
    rb "DEPTH_LAST" 0x110 16 0x80 1 4 [fp "bytes" 0 24 .ro 0],
    rb "DELAY_MIN" 0x114 16 0x80 1 4 [fp "ns" 0 32 .ro 0],
    rb "DELAY_MAX" 0x118 16 0x80 1 4 [fp "ns" 0 32 .ro 0],
    rb "DELAY_LAST" 0x11C 16 0x80 1 4 [fp "ns" 0 32 .ro 0],
    rb "SMP_FRAMES" 0x120 16 0x80 1 4 [fp "frames" 0 32 .ro 0],
    rb "SMP_STATUS" 0x124 16 0x80 1 4 [fp "empty" 0 1 .ro 0, fp "seq" 16 16 .ro 0],
    rb "SMP_HIST" 0x140 16 0x80 16 4 [fp "count" 0 32 .rw 0] ]

/-- R328, part 0. -/
def rowsHost8_0 : List RegRow :=
  [ rb "RX_CTL" 0x100 16 0x80 1 4 [fp "enable" 0 1 .rws 0, fp "legs" 1 2 .rws 0, fp "ipv6" 3 1 .rws 0, fp "complete_only" 4 1 .rws 1, fp "forward" 5 1 .rws 0, fp "ssrc_check" 6 1 .rws 0, fp "fmt" 8 8 .rws 0x21, fp "pt" 16 7 .rws 0x60],
    rb "RX_LEG_A" 0x104 16 0x80 1 4 [fp "subport" 0 3 .rws 0],
    rb "RX_LEG_B" 0x108 16 0x80 1 4 [fp "subport" 0 3 .rws 0],
    rb "RX_DST_A" 0x10C 16 0x80 1 4 [fp "addr" 0 32 .rws 0],
    rb "RX_DST_B" 0x110 16 0x80 1 4 [fp "addr" 0 32 .rws 0],
    rb "RX_SRC_A" 0x114 16 0x80 1 4 [fp "addr" 0 32 .rws 0],
    rb "RX_SRC_B" 0x118 16 0x80 1 4 [fp "addr" 0 32 .rws 0],
    rb "RX_UDP" 0x11C 16 0x80 1 4 [fp "port_a" 0 16 .rws 0, fp "port_b" 16 16 .rws 0],
    rb "RX_SSRC" 0x120 16 0x80 1 4 [fp "ssrc" 0 32 .rws 0],
    rb "RX_BASE_LO" 0x124 16 0x80 1 4 [fp "va_lo" 0 32 .rws 0],
    rb "RX_BASE_HI" 0x128 16 0x80 1 4 [fp "va_hi" 0 16 .rws 0, fp "asid" 16 4 .rws 0, fp "ring_m1" 20 4 .rws 0],
    rb "RX_STRIDE" 0x12C 16 0x80 1 4 [fp "stride" 0 24 .rws 0],
    rb "RX_STEP" 0x130 16 0x80 1 4 [fp "step" 0 24 .rws 0],
    rb "RX_SIZE" 0x134 16 0x80 1 4 [fp "w_m1" 0 16 .rws 0, fp "h_m1" 16 16 .rws 0] ]

/-- R328, part 1. -/
def rowsHost8_1 : List RegRow :=
  [ rb "RX_RATE" 0x138 16 0x80 1 4 [fp "rate" 0 20 .rws 0, fp "merge" 20 8 .rws 0xA],
    rb "RX_FWD" 0x13C 16 0x80 1 4 [fp "set" 0 16 .rws 0],
    rb "RX_STATUS" 0x140 16 0x80 1 4 [fp "active" 0 1 .ro 0, fp "leg_a_seen" 1 1 .ro 0, fp "leg_b_seen" 2 1 .ro 0, fp "last_slot" 3 4 .ro 0],
    rb "RX_FRAMES" 0x144 16 0x80 1 4 [fp "count" 0 32 .rw 0],
    rb "RX_INCOMPLETE" 0x148 16 0x80 1 4 [fp "count" 0 32 .rw 0],
    rb "RX_PKTS_A" 0x14C 16 0x80 1 4 [fp "count" 0 32 .rw 0],
    rb "RX_PKTS_B" 0x150 16 0x80 1 4 [fp "count" 0 32 .rw 0],
    rb "RX_DUP" 0x154 16 0x80 1 4 [fp "count" 0 32 .rw 0],
    rb "RX_LATE" 0x158 16 0x80 1 4 [fp "count" 0 32 .rw 0],
    rb "RX_LOST" 0x15C 16 0x80 1 4 [fp "count" 0 32 .rw 0],
    rb "RX_ERRORS" 0x160 16 0x80 1 4 [fp "count" 0 32 .rw 0] ]

/-- R328. -/
def rowsHost8 : List RegRow :=
  rowsHost8_0 ++ rowsHost8_1

/-- R379, part 0. -/
def rowsHbm0_0 : List RegRow :=
  [ r1 "HBM_CTL" 0x100 [fc "ecc_mode" 0 2 .rw true 0 (.above 1 0), fc "nbr_k" 4 5 .rw false 0xB (.bound 8 16), fp "nbr_radius" 9 1 .rw 0],
    r1 "MAP_CTL" 0x104 [fp "order" 0 2 .ro 1, fpv "order_next" 4 2 .rw 1, fc "spares_next" 8 2 .rw true 1 (.map 3 2), fp "spares" 12 2 .ro 1],
    r1 "AGE_CTL" 0x108 [fc "is_us" 0 12 .rw false 0x14 (.map 0 1), fc "be_us" 12 12 .rw false 0x64 (.map 0 1)],
    r1 "AGE_MT" 0x10C [fc "mt_us" 0 16 .rw false 0x7D0 (.map 0 1)],
    r1 "REFRESH_CTL" 0x110 [fc "postpone_max" 0 4 .rw false 4 (.bound 1 8)],
    r1 "SPARE_POLICY" 0x114 [fc "mode" 0 2 .rw false 1 (.map 3 1), fp "ce_limit" 2 16 .rw 0x100, fp "ue_retire" 18 1 .rw 1],
    r1 "CAPACITY" 0x118 [fp "slots" 0 7 .ro 0x3E, fp "mib" 16 16 .ro 47616],
    r1 "PC_CMD" 0x11C [fp "pc" 0 6 .rw 0, fpv "retire" 8 1 .cmd 0, fpv "retrain" 9 1 .cmd 0],
    r1 "PC_CMD_STATUS" 0x120 [fp "code" 0 8 .ro 0],
    ra "MIGR_STATUS" 0x124 2 4 [fp "active" 0 1 .ro 0, fp "slot" 1 6 .ro 0, fp "source" 7 6 .ro 0, fp "target" 13 6 .ro 0, fp "span" 19 6 .ro 0, fp "spans" 25 6 .ro 0],
    r1 "STACK_TEMP" 0x12C [fp "t0" 0 8 .ro 0, fp "t1" 8 8 .ro 0, fp "hot0" 16 1 .ro 0, fp "hot1" 17 1 .ro 0],
    r1 "TRAIN_MIN" 0x130 [fc "steps" 0 6 .rw true 0x10 (.bound 8 63)],
    r1 "FWD_HITS" 0x140 [fp "count" 0 32 .rw 0],
    r1 "RAW_WAITS" 0x144 [fp "count" 0 32 .rw 0] ]

/-- R379, part 1. -/
def rowsHbm0_1 : List RegRow :=
  [ r1 "PROMOTED" 0x148 [fp "count" 0 32 .rw 0],
    r1 "RMW_WRITES" 0x14C [fp "count" 0 32 .rw 0],
    r1 "RMW_POISON" 0x150 [fp "count" 0 32 .rw 0],
    r1 "PA_RANGE_ERRORS" 0x154 [fp "count" 0 32 .rw 0],
    r1 "REF_FORCED" 0x158 [fp "count" 0 32 .rw 0],
    r1 "NBR_REFRESHES" 0x15C [fp "count" 0 32 .rw 0],
    r1 "SCRUB_PASSES" 0x160 [fp "count" 0 32 .rw 0],
    r1 "MIGR_UE" 0x164 [fp "count" 0 32 .rw 0] ]

/-- R379. -/
def rowsHbm0 : List RegRow :=
  rowsHbm0_0 ++ rowsHbm0_1

/-- R380. -/
def rowsHbm1 : List RegRow :=
  [ rb "PC_STATE" 0x100 64 0x10 1 4 [fp "state" 0 3 .ro 0, fp "degraded" 3 1 .ro 0, fp "slot" 4 6 .ro 0],
    rb "PC_CE" 0x104 64 0x10 1 4 [fp "count" 0 32 .rw 0],
    rb "PC_UE" 0x108 64 0x10 1 4 [fp "count" 0 32 .rw 0],
    rb "PC_ODECC" 0x10C 64 0x10 1 4 [fp "count" 0 32 .rw 0] ]

/-- R396. -/
def rowsXlat0 : List RegRow :=
  [ r1 "INV_STATUS" 0x100 [fp "busy" 0 1 .ro 0, fp "queued" 1 7 .ro 0],
    r1 "XLAT_HITS" 0x104 [fp "count" 0 32 .rw 0],
    r1 "XLAT_MISSES" 0x108 [fp "count" 0 32 .rw 0],
    r1 "WALK_READS" 0x10C [fp "count" 0 32 .rw 0],
    r1 "FAULTS" 0x110 [fp "count" 0 32 .rw 0],
    r1 "FAULT_LOST" 0x114 [fp "count" 0 32 .rw 0],
    r1 "INV_COUNT" 0x118 [fp "count" 0 32 .rw 0],
    r1 "INV_DRAIN_US" 0x11C [fp "us" 0 16 .ro 0],
    r1 "SPEC_FILLS" 0x120 [fp "count" 0 32 .rw 0] ]

/-- R397. -/
def rowsXlat1 : List RegRow :=
  [ rb "SPACE_CTL" 0x100 16 0x10 1 4 [fc "mode" 0 2 .rw true 0 (.map 3 0)],
    rb "ROOT_LO" 0x104 16 0x10 1 4 [fpv "root" 12 20 .rw 0],
    rb "ROOT_HI" 0x108 16 0x10 1 4 [fpv "root" 0 16 .rw 0],
    rb "AS_FAULTS" 0x10C 16 0x10 1 4 [fp "count" 0 32 .rw 0] ]

/-- R428, part 0. -/
def rowsDma_0 : List RegRow :=
  [ r1 "CH_CTL" 0x100 [fp "enable" 0 1 .rw 0, fp "prio" 1 3 .rw 0, fc "req_src" 4 8 .rw false 0 .reqSrc, fp "desc_asid" 12 4 .rw 0],
    r1 "CH_RES" 0x104 [fp "rate" 0 20 .rws 0],
    r1 "CH_HEAD_LO" 0x108 [fp "va_lo" 0 32 .rw 0],
    r1 "CH_HEAD_HI" 0x10C [fp "va_hi" 0 16 .rw 0],
    r1 "CH_CMD" 0x110 [fp "pause" 0 1 .cmd 0, fp "resume" 1 1 .cmd 0, fp "kick" 2 1 .cmd 0, fp "skip" 3 1 .cmd 0],
    r1 "CH_STATUS" 0x114 [fp "state" 0 3 .ro 0, fp "cause" 3 3 .ro 0, fp "backward" 6 1 .ro 0, fp "err" 8 8 .ro 0, fp "buf_units" 16 7 .ro 0],
    r1 "CH_EVT" 0x118 [fp "done" 0 1 .rc 0, fp "paused" 1 1 .rc 0, fp "desc_error" 2 1 .rc 0, fp "xlat_stop" 3 1 .rc 0, fp "abort" 4 1 .rc 0, fp "cq_full" 5 1 .rc 0, fp "tick_overrun" 6 1 .rc 0, fp "ue_stop" 7 1 .rc 0],
    r1 "CQ_CTL" 0x140 [fp "enable" 0 1 .rw 0, fc "size_log2" 1 4 .rw false 4 (.bound 4 12)],
    r1 "CQ_BASE_LO" 0x144 [fp "va_lo" 0 32 .rw 0],
    r1 "CQ_BASE_HI" 0x148 [fp "va_hi" 0 16 .rw 0],
    r1 "CQ_TAIL" 0x14C [fp "tail" 0 16 .ro 0],
    r1 "CQ_HEAD" 0x150 [fp "head" 0 16 .rw 0],
    r1 "DESC_DONE" 0x160 [fp "count" 0 32 .rw 0],
    r1 "PREEMPTS" 0x164 [fp "count" 0 32 .rw 0] ]

/-- R428, part 1. -/
def rowsDma_1 : List RegRow :=
  [ r1 "WD_P2M" 0x168 [fp "count" 0 32 .rw 0],
    r1 "WD_M2P" 0x16C [fp "count" 0 32 .rw 0],
    r1 "DESC_ERRORS" 0x170 [fp "count" 0 32 .rw 0],
    r1 "XLAT_STOPS" 0x174 [fp "count" 0 32 .rw 0],
    r1 "UE_STOPS" 0x178 [fp "count" 0 32 .rw 0],
    r1 "ABORTS" 0x17C [fp "count" 0 32 .rw 0],
    r1 "CQ_FULL_WAITS" 0x180 [fp "count" 0 32 .rw 0],
    r1 "TICK_OVERRUNS" 0x184 [fp "count" 0 32 .rw 0],
    r1 "MOVES_BACK" 0x188 [fp "count" 0 32 .rw 0] ]

/-- R428. -/
def rowsDma : List RegRow :=
  rowsDma_0 ++ rowsDma_1

/-- R430. -/
def rowsDmaEngine : List RegRow :=
  [ r1 "ENG_STATUS" 0x400 [fp "enabled" 0 7 .ro 0, fp "wide" 7 1 .ro 0],
    r1 "ENG_RES" 0x404 [fp "bytes" 0 20 .ro 0],
    r1 "ENG_MODE_CHANGES" 0x408 [fp "count" 0 32 .rw 0],
    r1 "CH_EVT_SUM_LO" 0x40C [fp "channels" 0 32 .rc 0],
    r1 "CH_EVT_SUM_HI" 0x410 [fp "channels" 0 32 .rc 0] ]

/-- R447, part 0. -/
def rowsCu_0 : List RegRow :=
  [ r1 "CU_CTL" 0x100 [fp "enable" 0 1 .rws 0, fp "compare" 1 1 .rws 0, fp "carry" 2 1 .rws 0, fp "refin" 3 1 .rws 1, fp "refout" 4 1 .rws 1, fp "width" 8 7 .rws 0x20],
    r1 "CU_TAP" 0x104 [fp "kind" 0 3 .rws 0, fp "stage" 3 1 .rws 0, fp "index" 4 10 .rws 0, fp "phases" 14 8 .rws 0xFF],
    r1 "CU_SEL" 0x108 [fp "window" 0 10 .rws 0, fp "any" 10 1 .rws 0],
    r1 "CU_LINES" 0x10C [fp "first" 0 14 .rws 0, fp "last" 16 14 .rws 0],
    r1 "CU_RECT_XY" 0x110 [fp "x" 0 16 .rws 0, fp "y" 16 15 .rws 0],
    r1 "CU_RECT_WH" 0x114 [fp "w_m1" 0 16 .rws 0, fp "h_m1" 16 15 .rws 0],
    r1 "CU_TAGM" 0x118 [fp "tag" 0 16 .rws 0, fp "mask" 16 16 .rws 0],
    r1 "CU_DECL" 0x11C [fp "per_tick" 0 5 .rws 1],
    r1 "CU_POLY_LO" 0x120 [fp "poly" 0 32 .rws 0x1EDC6F41],
    r1 "CU_POLY_HI" 0x124 [fp "poly" 0 32 .rws 0],
    r1 "CU_INIT_LO" 0x128 [fp "init" 0 32 .rws 0xFFFFFFFF],
    r1 "CU_INIT_HI" 0x12C [fp "init" 0 32 .rws 0],
    r1 "CU_XOR_LO" 0x130 [fp "xorout" 0 32 .rws 0xFFFFFFFF],
    r1 "CU_XOR_HI" 0x134 [fp "xorout" 0 32 .rws 0] ]

/-- R447, part 1. -/
def rowsCu_1 : List RegRow :=
  [ ra "CU_EXP_LO" 0x140 8 8 [fp "exp" 0 32 .rws 0],
    ra "CU_EXP_HI" 0x144 8 8 [fp "exp" 0 32 .rws 0],
    r1 "CU_STATUS" 0x180 [fp "active" 0 1 .ro 0, fp "in_region" 1 1 .ro 0, fp "frozen" 2 1 .ro 0, fp "bal" 3 1 .ro 0],
    r1 "CU_EVT" 0x184 [fp "mismatch" 0 1 .rc 0, fp "ref_suspect" 1 1 .rc 0, fp "incomplete" 2 1 .rc 0, fp "skipped" 3 1 .rc 0],
    r1 "CU_REGIONS" 0x188 [fp "count" 0 32 .rw 0],
    r1 "CU_MATCHES" 0x18C [fp "count" 0 32 .rw 0],
    r1 "CU_MISMATCHES" 0x190 [fp "count" 0 32 .rw 0],
    r1 "CU_REF_SUSPECT" 0x194 [fp "count" 0 32 .rw 0],
    r1 "CU_INCOMPLETE" 0x198 [fp "count" 0 32 .rw 0],
    r1 "CU_SKIPPED" 0x19C [fp "count" 0 32 .rw 0] ]

/-- R447. -/
def rowsCu : List RegRow :=
  rowsCu_0 ++ rowsCu_1

/-- R473. -/
def rowsClock0 : List RegRow :=
  [ r1 "REF_CTL" 0x100 [fc "sel" 0 2 .rw true 0 (.map 3 0), fpv "revert" 2 1 .rw 1],
    r1 "REF_STATUS" 0x104 [fp "refclk_ok" 0 1 .ro 0, fp "on_xo" 1 1 .ro 0],
    r1 "REF_RATIO" 0x108 [fp "rho" 0 32 .ro 0],
    r1 "CLK_CTL" 0x10C [fpv "core_recal" 0 1 .cmd 0, fp "lock_sel" 8 7 .rw 0],
    r1 "GUARD_CTL" 0x110 [fc "ceil_ppm" 0 14 .rw true 0x2710 (.bound 100 10000)],
    r1 "PLL_STATUS" 0x114 [fp "core_lock" 0 1 .ro 0, fp "hold_lock" 1 1 .ro 0, fp "hbm_lock" 2 2 .ro 0, fp "hp_lock" 4 2 .ro 0, fp "core_on_hold" 6 1 .ro 0],
    r1 "GUARD_SWALLOWED" 0x118 [fp "count" 0 32 .rw 0],
    r1 "RELOCKS" 0x11C [fp "count" 0 32 .rw 0],
    r1 "BAND_HITS" 0x120 [fp "count" 0 32 .rw 0],
    r1 "BAND_MISSES" 0x124 [fp "count" 0 32 .rw 0],
    r1 "PPS_CTL" 0x128 [fp "out_en" 0 1 .rw 0, fc "out_mode" 1 2 .rw false 0 (.map 3 0), fp "in_en" 3 1 .rw 0, fp "in_edge" 4 1 .rw 0, fp "width_us" 5 20 .rw 0x186A0],
    r1 "PPS_OFS" 0x12C [fp "ofs_ns" 0 32 .rw 0],
    r1 "PPS_IN_COUNT" 0x130 [fp "count" 0 32 .rw 0] ]

/-- R474. -/
def rowsClock1 : List RegRow :=
  [ r1 "TIME_CTL" 0x100 [fpv "src_pri" 0 2 .rw 1, fpv "src_sec" 2 2 .rw 0, fp "bw" 4 3 .rw 3],
    r1 "TIME_STEP" 0x104 [fpv "step_ns" 0 24 .rw 0x3E8],
    r1 "LOCK_NS" 0x108 [fp "ns" 0 16 .rw 0xC8],
    r1 "TIME_STATUS" 0x10C [fp "state" 0 2 .ro 0, fp "src_used" 2 2 .ro 0, fp "stepped" 4 1 .rc 0],
    r1 "TIME_FCV" 0x110 [fp "fcv" 0 32 .ro 0],
    r1 "TIME_OFFSET" 0x114 [fp "theta" 0 32 .ro 0],
    r1 "TIME_STEPS" 0x118 [fp "count" 0 32 .rw 0],
    r1 "COAST_COUNT" 0x11C [fp "count" 0 32 .rw 0] ]

/-- R475. -/
def rowsClock2 : List RegRow :=
  [ rb "TSYN_CTL" 0x100 8 0x20 1 4 [fp "phase_step_allow" 0 1 .rw 0, fc "slew_ns_s" 1 14 .rw false 0x64 (.bound 1 10000), fc "step_thr_us" 16 16 .rw false 0xA (.map 0 1)],
    rb "TSYN_CMD" 0x104 8 0x20 1 4 [fpv "recal" 0 1 .cmd 0],
    rb "TSYN_DELTA" 0x108 8 0x20 1 4 [fp "delta" 0 32 .ro 0],
    rb "TSYN_CV" 0x10C 8 0x20 1 4 [fp "cv" 0 32 .ro 0],
    rb "TSYN_SLACK" 0x110 8 0x20 1 4 [fp "ns" 0 24 .ro 0],
    rb "TSYN_STATUS" 0x114 8 0x20 1 4 [fp "lock" 0 1 .ro 0, fp "relock" 1 1 .ro 0, fp "stepping" 2 1 .ro 0, fp "spur_warn" 3 1 .ro 0],
    rb "TSYN_STEPS" 0x118 8 0x20 1 4 [fp "count" 0 32 .rw 0] ]

/-- R476. -/
def rowsClock3 : List RegRow :=
  [ ra "QPLL_STATUS" 0x100 36 4 [fp "lock0" 0 1 .ro 0, fp "lock1" 1 1 .ro 0, fp "spur_warn0" 2 1 .ro 0, fp "spur_warn1" 3 1 .ro 0, fp "d0" 4 2 .ro 1, fp "d1" 6 2 .ro 1] ]

/-- R531. -/
def rowsPower0 : List RegRow :=
  [ r1 "PWR_STATUS" 0x100 [fp "vin_ok" 0 1 .ro 0, fp "hold_ok" 1 1 .ro 0, fp "charging" 2 1 .ro 0],
    r1 "VIN_MV" 0x104 [fp "mv" 0 17 .ro 0],
    r1 "HOLD_MV" 0x108 [fp "mv" 0 17 .ro 0],
    r1 "HOLD_UF" 0x10C [fp "uf" 0 12 .ro 0],
    r1 "PWR_IN" 0x110 [fp "dw" 0 16 .ro 0],
    r1 "RST_CMD" 0x114 [fpv "module" 0 1 .cmd 0, fpv "standby" 1 1 .cmd 0],
    r1 "RST_STATUS" 0x118 [fp "refused" 0 1 .rc 0],
    r1 "RST_CAUSE" 0x11C [fp "kind" 0 3 .ro 0, fp "hbm_kept" 3 1 .ro 0],
    r1 "RESET_COUNT" 0x120 [fp "count" 0 32 .rw 0],
    r1 "PF_COUNT" 0x124 [fp "count" 0 32 .rw 0],
    r1 "THERM_CTL" 0x128 [fc "t1" 0 7 .rw true 0x62 (.bound 70 98), fc "t2" 8 7 .rw true 0x65 (.bound 75 101)],
    r1 "THERM_STATUS" 0x12C [fp "level" 0 2 .ro 0, fp "l2_nofit" 2 1 .ro 0, fp "tj" 8 8 .ro 0, fp "tj_peak" 16 8 .rc 0],
    r1 "THERM_DROPPED" 0x130 [fp "windows" 0 10 .ro 0] ]

/-- R532. -/
def rowsPower1 : List RegRow :=
  [ r1 "STRAPS" 0x100 [fp "straps" 0 8 .ro 0],
    r1 "STATUS" 0x104 [fp "defaulted" 0 1 .ro 0, fp "cfg_a_ok" 1 1 .ro 0, fp "cfg_b_ok" 2 1 .ro 0, fp "cfg_used" 3 1 .ro 0, fp "fw_used" 4 1 .ro 0, fp "fw_a_ok" 5 1 .ro 0, fp "fw_b_ok" 6 1 .ro 0, fp "recovery" 7 1 .ro 0, fp "cfg_skipped" 8 1 .ro 0, fp "apply_stopped" 9 1 .ro 0, fp "saved" 10 1 .ro 0, fp "tc_unlocked" 11 1 .ro 0, fp "done" 12 1 .ro 0, fp "commit_code" 24 8 .ro 0],
    r1 "CFG_SEQ_A" 0x108 [fp "seq" 0 32 .ro 0],
    r1 "CFG_SEQ_B" 0x10C [fp "seq" 0 32 .ro 0],
    r1 "BOOT_CTL" 0x110 [fc "cfg_next" 0 2 .rw true 0 (.map 3 0)],
    r1 "BOOT_TIME_MS" 0x114 [fp "ms" 0 16 .ro 0],
    r1 "APPLY_ERRORS" 0x118 [fp "count" 0 32 .rw 0],
    r1 "FLASH_STATUS" 0x11C [fp "busy" 0 1 .ro 0, fp "error" 1 1 .rc 0] ]

/-- R546. -/
def rowsSteward : List RegRow :=
  [ r1 "FW_STATUS" 0x100 [fp "minor" 0 8 .ro 0, fp "major" 8 8 .ro 0, fp "slot" 16 1 .ro 0, fp "switch_pending" 17 1 .ro 0],
    r1 "LANE_POLICY" 0x104 [fc "mode" 0 2 .rw false 1 (.map 3 1), fp "err_limit" 2 16 .rw 0x40, fp "auto_failback" 18 1 .rw 0],
    r1 "OP_STATUS" 0x108 [fp "running" 0 3 .ro 0, fp "kinds" 16 16 .ro 0],
    r1 "OP_DONE" 0x10C [fp "count" 0 32 .rw 0],
    r1 "OP_REFUSED" 0x110 [fp "count" 0 32 .rw 0],
    r1 "POLICY_OVERRUNS" 0x114 [fp "count" 0 32 .rw 0],
    r1 "URURI_CTL" 0x118 [fc "baud" 0 3 .rw false 0 (.above 3 0), fp "level" 4 2 .ro 0, fp "ceiling" 6 2 .ro 0],
    r1 "TEST_STATUS" 0x11C [fp "running" 0 1 .ro 0, fp "pass" 1 1 .ro 0, fp "test" 4 4 .ro 0, fp "errors" 16 16 .ro 0] ]


/-! ## The page directory (R272) -/

/-- The blocks of the directory, in its order. -/
inductive Block where
  | glob | hall | win | hostport | hbm | xlat | dma | cu | clock | cascade | powerBoot | events | steward
  | alcove | lane
deriving DecidableEq, Repr

/-- A page: its block, the instance index and the page within the instance. -/
structure Page where
  block : Block
  inst  : Nat
  page  : Nat
deriving DecidableEq, Repr

/-- The block code of PAGE_ID.block (R272). -/
def Block.code : Block → Nat
  | .glob => 0x01 | .hall => 0x02 | .win => 0x03 | .lane => 0x04 | .hostport => 0x05 | .hbm => 0x06
  | .xlat => 0x07 | .dma => 0x08 | .cu => 0x09 | .clock => 0x0A | .cascade => 0x0B | .powerBoot => 0x0C
  | .events => 0x0D | .steward => 0x0E | .alcove => 0x0F

/-- The minimum privilege of a block (R272). -/
def Block.minLevel : Block → Nat
  | .glob => 1 | .hall => 1 | .win => 1 | .lane => 1 | .hostport => 2 | .hbm => 2 | .xlat => 2 | .dma => 1
  | .cu => 1 | .clock => 2 | .cascade => 1 | .powerBoot => 2 | .events => 1 | .steward => 2 | .alcove => 3

/-- The event group a page shows in its header, none for WIN (R272). -/
def Page.evtGroup (p : Page) : Option Nat :=
  match p.block with
  | .glob => some 2 | .hall => some (4 + p.inst) | .win => none | .hostport => some 17 | .hbm => some 18
  | .xlat => some 20 | .dma => some 21 | .cu => some (22 + p.inst / 32) | .clock => some 0
  | .cascade => some 2 | .powerBoot => some 1 | .events => some 28 | .steward => some 26 | .alcove => some 24
  | .lane => some (12 + p.inst / 32)

/-- The page at a page number (address bits [25:12]), for the pages the directory and its chapters define
(R271, R272); the pages of CU[56] to CU[63] read zero outside the Alcove and are none here. -/
def pageOf (n : Nat) : Option Page :=
  if n = 0 then some ⟨.glob, 0, 0⟩
  else if 0x100 ≤ n ∧ n < 0x180 ∧ n % 16 ≤ 12 then some ⟨.hall, (n - 0x100) / 16, n % 16⟩
  else if 0x200 ≤ n ∧ n < 0x440 then some ⟨.win, n - 0x200, 0⟩
  else if 0x440 ≤ n ∧ n < 0x450 then some ⟨.hostport, 0, n % 16⟩
  else if 0x450 ≤ n ∧ n < 0x460 ∧ n % 16 ≠ 2 ∧ n % 16 ≠ 4 ∧ n % 16 ≠ 6 ∧ n % 16 ≠ 7 then
    some ⟨.hostport, 1, n % 16⟩
  else if 0x500 ≤ n ∧ n < 0x503 then some ⟨.hbm, 0, n - 0x500⟩
  else if 0x600 ≤ n ∧ n < 0x602 then some ⟨.xlat, 0, n - 0x600⟩
  else if 0x610 ≤ n ∧ n < 0x650 then some ⟨.dma, n - 0x610, 0⟩
  else if 0x700 ≤ n ∧ n < 0x738 then some ⟨.cu, n - 0x700, 0⟩
  else if 0x800 ≤ n ∧ n < 0x804 then some ⟨.clock, 0, n - 0x800⟩
  else if n = 0x900 then some ⟨.cascade, 0, 0⟩
  else if 0xA00 ≤ n ∧ n < 0xA02 then some ⟨.powerBoot, 0, n - 0xA00⟩
  else if 0xB00 ≤ n ∧ n < 0xB03 then some ⟨.events, 0, n - 0xB00⟩
  else if n = 0xC00 then some ⟨.steward, 0, 0⟩
  else if n = 0xF00 then some ⟨.alcove, 0, 0⟩
  else if 0x3000 ≤ n ∧ n < 0x3090 then some ⟨.lane, n - 0x3000, 0⟩
  else none

/-- The page number of a page: the inverse of `pageOf`. -/
def Page.number (p : Page) : Nat :=
  match p.block with
  | .glob => 0 | .hall => 0x100 + 16 * p.inst + p.page | .win => 0x200 + p.inst
  | .hostport => 0x440 + 16 * p.inst + p.page | .hbm => 0x500 + p.page | .xlat => 0x600 + p.page
  | .dma => 0x610 + p.inst | .cu => 0x700 + p.inst | .clock => 0x800 + p.page | .cascade => 0x900
  | .powerBoot => 0xA00 + p.page | .events => 0xB00 + p.page | .steward => 0xC00 | .alcove => 0xF00
  | .lane => 0x3000 + p.inst

/-- The block-specific rows of a page. -/
def Page.rows (p : Page) : List RegRow :=
  match p.block with
  | .glob => rowsGlobal
  | .hall =>
    match p.page with
    | 0 => rowsHall0 | 1 => rowsHallVideo | 2 => rowsHallGraphic | 3 => rowsHallGraphic | 4 => rowsHallBal
    | 5 => rowsHall5 | 7 => rowsHall7 | 10 => rowsHall10 | 11 => rowsHall11 | 12 => rowsHall12
    | _ => []
  | .win => rowsWin
  | .hostport =>
    match p.page with
    | 0 => rowsHost0 | 1 => rowsHost1 | 2 => rowsHost2 | 3 => rowsHost3 | 4 => rowsHost4 | 5 => rowsHost5
    | 6 => rowsHost6 | 7 => rowsHost7 | _ => rowsHost8
  | .hbm => match p.page with | 0 => rowsHbm0 | 1 => rowsHbm1 | _ => []
  | .xlat => match p.page with | 0 => rowsXlat0 | _ => rowsXlat1
  | .dma => if p.inst = 0 then rowsDma ++ rowsDmaEngine else rowsDma
  | .cu => rowsCu
  | .clock =>
    match p.page with
    | 0 => rowsClock0 | 1 => rowsClock1 | 2 => rowsClock2 | _ => rowsClock3
  | .cascade => rowsCascade
  | .powerBoot => match p.page with | 0 => rowsPower0 | _ => rowsPower1
  | .events => match p.page with | 0 => rowsEvents0 | 1 => rowsEvents1 | _ => rowsEvents2
  | .steward => rowsSteward
  | .alcove => []
  | .lane => rowsLane

/-- Whether a row holds the register at a page offset. -/
def RegRow.hit (r : RegRow) (off : Nat) : Bool :=
  let x := off - r.off
  r.off ≤ off && x / r.bstep < r.bn && (x % r.bstep) / r.step < r.n && (x % r.bstep) % r.step == 0

/-- The page of an address. -/
def pageAt (a : Nat) : Option Page := pageOf (a / 0x1000)

/-- The row of the register at an address; the header comes first (R273). -/
def rowAt (a : Nat) : Option RegRow :=
  match pageAt a with
  | none => none
  | some p =>
    if a % 0x1000 < 0x100 then rowsHeader.find? (fun r => r.hit (a % 0x1000))
    else p.rows.find? (fun r => r.hit (a % 0x1000))

/-- The fields of a register, with what its instance changes: the layer kind and the whole balustrade block are set by position
(R91, R92; a page header keeps its access codes, R89), PTP_CTL exists in HOSTPORT[0] only (R325) and PRIV_LEVEL resets to the
block minimum (R273). -/
def fldsAt (a : Nat) : List Fld :=
  match pageAt a, rowAt a with
  | some p, some r =>
    if a % 0x1000 = 0x48 then r.flds.map (fun f => { f with reset := p.block.minLevel })
    else match p.block with
      | .hostport =>
        if p.inst = 1 ∧ p.page = 3 ∧ a % 0x1000 = 0x100 then [] else r.flds
      | .hall =>
        match p.page with
        | 2 | 3 => r.flds.map (fun f =>
            if f.name = "kind" then { f with reset := 1 }
            else if r.name = "DST_WH" then { f with acc := .ro } else f)
        | 4 => if a % 0x1000 < 0x100 then r.flds else r.flds.map (fun f =>
            let f := if r.name = "DST_WH" then { f with acc := .ro }
              else if f.acc = .rws ∨ f.acc = .rw ∨ f.acc = .cmd then { f with prv := true } else f
            if f.name = "kind" then { f with reset := 2 } else f)
        | _ => r.flds
      | _ => r.flds
  | _, _ => []

/-- The mask of a field. -/
def Fld.mask (f : Fld) : Nat := (2 ^ f.width - 1) <<< f.lsb

/-- PC_STATE of a PC after start-up training with every PC working: one spare in each stack (R357). -/
def trainedState (p : Nat) : Nat := if p % 32 = 31 then 2 else 1 + 16 * (if p < 32 then p else p - 1)

/-- The reset value of the register at an address, before what the module itself computes; the capacity is that of code H48
(R1, R379). -/
def resetWord (a : Nat) : Word :=
  if 0x501100 ≤ a ∧ a < 0x501500 ∧ a % 16 = 0 then BitVec.ofNat 32 (trainedState ((a - 0x501100) / 16))
  else BitVec.ofNat 32 ((fldsAt a).foldl (fun w f => w + (f.reset % 2 ^ f.width) <<< f.lsb) 0)

/-- The bits of a register whose field satisfies `q`. -/
def maskWhere (a : Nat) (q : Fld → Bool) : Word :=
  BitVec.ofNat 32 ((fldsAt a).foldl (fun w f => if q f then w ||| f.mask else w) 0)

/-- The layer block of layer `n` of hall `h`: eight video layers, twenty-four graphic layers and the
balustrade on pages 1 to 4 (R89). -/
def layerBase (h n : Nat) : Nat :=
  0x100000 + h * 0x10000 +
    (if n < 8 then 0x1100 + n * 0x100 else if n < 20 then 0x2100 + (n - 8) * 0x100
     else if n < 32 then 0x3100 + (n - 20) * 0x100 else 0x4100)

/-- A field by its register address, least significant bit and width. -/
structure FieldRef where
  addr  : Nat
  lsb   : Nat
  width : Nat
deriving DecidableEq, Repr

end Sys2Proof.Machine
end

