-- ==== Sys2Proof/Machine/RegNames.lean ====
section
/-! DEFINITION. The addresses `A.<REGISTER>` of the registers the meanings name, and their fields
`F.<REGISTER>.<field>`, from the tables of the chapters. The indices are those of the manual: canvas `c`, hall `h`,
layer `n`, window `w`, lane `n`, sub-port `s` of host port `p`, receiver `r`, channel `d`, unit `u`, and `i` or `j` within an
array. -/

namespace Sys2Proof.Machine

/-- The block of receiver `r` (R328). -/
def rxBase (r : Nat) : Nat :=
  0x440000 + r / 128 * 0x10000 + (8 + r % 128 / 16) * 0x1000 + 0x100 + r % 16 * 0x80

def A.ABORTS (d : Nat) : Nat := 0x610000 + d * 0x1000 + 0x17C
def A.ACTIVE_GEN : Nat := 0x608
def A.ADDR6 (i j : Nat) : Nat := 0x442100 + i * 0x10 + j * 4
def A.ADMITTED_COUNT : Nat := 0x614
def A.ADM_BE : Nat := 0x704
def A.ADM_BUDGET : Nat := 0x70C
def A.ADM_CTL : Nat := 0x700
def A.ADM_STATE : Nat := 0x708
def A.AED_AUTH_FAIL : Nat := 0x444180
def A.AED_BULK_CTL : Nat := 0x444108
def A.AED_BULK_FAULTS : Nat := 0x444190
def A.AED_CTL : Nat := 0x444100
def A.AED_DROPPED : Nat := 0x444184
def A.AED_EVT_LOST : Nat := 0x44418C
def A.AED_GAPS : Nat := 0x444188
def A.AED_KEY_LOCK : Nat := 0x44410C
def A.AED_KEY_STATUS : Nat := 0x444110
def A.AED_TIMING : Nat := 0x444104
def A.AGE_CTL : Nat := 0x500108
def A.AGE_MT : Nat := 0x50010C
def A.APPLIED_COUNT : Nat := 0x61C
def A.APPLY_ERRORS : Nat := 0xA01118
def A.AS_FAULTS (a : Nat) : Nat := 0x60110C + a * 0x10
def A.BAL_CTL (h : Nat) : Nat := 0x10C000 + h * 0x10000 + 0x100
def A.BAL_EXP_HI (h i : Nat) : Nat := 0x10C000 + h * 0x10000 + 0x14C + i * 16
def A.BAL_EXP_LO (h i : Nat) : Nat := 0x10C000 + h * 0x10000 + 0x148 + i * 16
def A.BAL_FALLBACKS (h : Nat) : Nat := 0x10C000 + h * 0x10000 + 0x118
def A.BAL_IMG_HI (h i : Nat) : Nat := 0x10C000 + h * 0x10000 + 0x144 + i * 16
def A.BAL_IMG_LO (h i : Nat) : Nat := 0x10C000 + h * 0x10000 + 0x140 + i * 16
def A.BAL_LOCK (h : Nat) : Nat := 0x10C000 + h * 0x10000 + 0x104
def A.BAL_MISMATCHES (h : Nat) : Nat := 0x10C000 + h * 0x10000 + 0x110
def A.BAL_NEXT (h : Nat) : Nat := 0x10C000 + h * 0x10000 + 0x108
def A.BAL_REF_SUSPECT (h : Nat) : Nat := 0x10C000 + h * 0x10000 + 0x114
def A.BAL_STATUS (h : Nat) : Nat := 0x10C000 + h * 0x10000 + 0x10C
def A.BAND_HITS : Nat := 0x800120
def A.BAND_MISSES : Nat := 0x800124
def A.BG_B (h : Nat) : Nat := 0x100000 + h * 0x10000 + 0x118
def A.BG_RG (h : Nat) : Nat := 0x100000 + h * 0x10000 + 0x114
def A.BOOT_CTL : Nat := 0xA01110
def A.BOOT_TIME_MS : Nat := 0xA01114
def A.BREACH_LAST : Nat := 0x62C
def A.BREACH_LINES : Nat := 0x628
def A.BUF_SIZE (h n : Nat) : Nat := layerBase h n + 0x2C
def A.CAL_BASE_HI (w : Nat) : Nat := 0x200000 + w * 0x1000 + 0x338
def A.CAL_BASE_LO (w : Nat) : Nat := 0x200000 + w * 0x1000 + 0x334
def A.CAL_FAULTS (w : Nat) : Nat := 0x200000 + w * 0x1000 + 0x340
def A.CAL_STRIDE (w : Nat) : Nat := 0x200000 + w * 0x1000 + 0x33C
def A.CANCELLED_COUNT : Nat := 0x620
def A.CANVAS_CLR (h : Nat) : Nat := 0x107000 + h * 0x10000 + 0x100
def A.CANVAS_GEN (c : Nat) : Nat := 0x420 + c * 0x40
def A.CANVAS_SIZE (h : Nat) : Nat := 0x100000 + h * 0x10000 + 0x108
def A.CAPACITY : Nat := 0x500118
def A.CASC_BUDGET : Nat := 0x90010C
def A.CASC_CMD : Nat := 0x900204
def A.CASC_CONTENT : Nat := 0x9001F8
def A.CASC_CTL : Nat := 0x900100
def A.CASC_ID : Nat := 0x900104
def A.CASC_JOIN_CODE : Nat := 0x900208
def A.CASC_MEMBERS : Nat := 0x900108
def A.CASC_SKEW_LIMIT : Nat := 0x9001FC
def A.CASC_STATUS : Nat := 0x900200
def A.CFG_CTL : Nat := 0x180
def A.CFG_MISMATCHES : Nat := 0x194
def A.CFG_REFCRC : Nat := 0x184
def A.CFG_SCANCRC : Nat := 0x188
def A.CFG_SCANS : Nat := 0x190
def A.CFG_SCAN_US : Nat := 0x198
def A.CFG_SEQ_A : Nat := 0xA01108
def A.CFG_SEQ_B : Nat := 0xA0110C
def A.CFG_STATUS : Nat := 0x18C
def A.CH_CMD (d : Nat) : Nat := 0x610000 + d * 0x1000 + 0x110
def A.CH_CTL (d : Nat) : Nat := 0x610000 + d * 0x1000 + 0x100
def A.CH_EVT (d : Nat) : Nat := 0x610000 + d * 0x1000 + 0x118
def A.CH_EVT_SUM_HI : Nat := 0x610410
def A.CH_EVT_SUM_LO : Nat := 0x61040C
def A.CH_HEAD_HI (d : Nat) : Nat := 0x610000 + d * 0x1000 + 0x10C
def A.CH_HEAD_LO (d : Nat) : Nat := 0x610000 + d * 0x1000 + 0x108
def A.CH_RES (d : Nat) : Nat := 0x610000 + d * 0x1000 + 0x104
def A.CH_STATUS (d : Nat) : Nat := 0x610000 + d * 0x1000 + 0x114
def A.CLIP_KP (h n : Nat) : Nat := layerBase h n + 0x88
def A.CLK_CTL : Nat := 0x80010C
def A.CLR_CTL (h n : Nat) : Nat := layerBase h n + 0x80
def A.CLR_NITS (h : Nat) : Nat := 0x107000 + h * 0x10000 + 0x104
def A.CLR_WHITE (h n : Nat) : Nat := layerBase h n + 0x84
def A.COAST_COUNT : Nat := 0x80111C
def A.COMMIT_CMD : Nat := 0x610
def A.COMMIT_CTL : Nat := 0x600
def A.COMMIT_STATUS : Nat := 0x604
def A.CONTENT_DROPPED : Nat := 0x900214
def A.CONTRACT_STATUS : Nat := 0x624
def A.COVER_CTL (h : Nat) : Nat := 0x10B000 + h * 0x10000 + 0x100
def A.COVER_CYCLES (h : Nat) : Nat := 0x10B000 + h * 0x10000 + 0x108
def A.COVER_TILES (h : Nat) : Nat := 0x10B000 + h * 0x10000 + 0x104
def A.CQ_BASE_HI (d : Nat) : Nat := 0x610000 + d * 0x1000 + 0x148
def A.CQ_BASE_LO (d : Nat) : Nat := 0x610000 + d * 0x1000 + 0x144
def A.CQ_CTL (d : Nat) : Nat := 0x610000 + d * 0x1000 + 0x140
def A.CQ_FULL_WAITS (d : Nat) : Nat := 0x610000 + d * 0x1000 + 0x180
def A.CQ_HEAD (d : Nat) : Nat := 0x610000 + d * 0x1000 + 0x150
def A.CQ_TAIL (d : Nat) : Nat := 0x610000 + d * 0x1000 + 0x14C
def A.CULL_DYN (h : Nat) : Nat := 0x10B000 + h * 0x10000 + 0x110
def A.CULL_GUAR (h : Nat) : Nat := 0x10B000 + h * 0x10000 + 0x10C
def A.CU_CTL (u : Nat) : Nat := 0x700000 + u * 0x1000 + 0x100
def A.CU_DECL (u : Nat) : Nat := 0x700000 + u * 0x1000 + 0x11C
def A.CU_EVT (u : Nat) : Nat := 0x700000 + u * 0x1000 + 0x184
def A.CU_EXP_HI (u i : Nat) : Nat := 0x700000 + u * 0x1000 + 0x144 + i * 8
def A.CU_EXP_LO (u i : Nat) : Nat := 0x700000 + u * 0x1000 + 0x140 + i * 8
def A.CU_INCOMPLETE (u : Nat) : Nat := 0x700000 + u * 0x1000 + 0x198
def A.CU_INIT_HI (u : Nat) : Nat := 0x700000 + u * 0x1000 + 0x12C
def A.CU_INIT_LO (u : Nat) : Nat := 0x700000 + u * 0x1000 + 0x128
def A.CU_LINES (u : Nat) : Nat := 0x700000 + u * 0x1000 + 0x10C
def A.CU_MATCHES (u : Nat) : Nat := 0x700000 + u * 0x1000 + 0x18C
def A.CU_MISMATCHES (u : Nat) : Nat := 0x700000 + u * 0x1000 + 0x190
def A.CU_POLY_HI (u : Nat) : Nat := 0x700000 + u * 0x1000 + 0x124
def A.CU_POLY_LO (u : Nat) : Nat := 0x700000 + u * 0x1000 + 0x120
def A.CU_RECT_WH (u : Nat) : Nat := 0x700000 + u * 0x1000 + 0x114
def A.CU_RECT_XY (u : Nat) : Nat := 0x700000 + u * 0x1000 + 0x110
def A.CU_REF_SUSPECT (u : Nat) : Nat := 0x700000 + u * 0x1000 + 0x194
def A.CU_REGIONS (u : Nat) : Nat := 0x700000 + u * 0x1000 + 0x188
def A.CU_SEL (u : Nat) : Nat := 0x700000 + u * 0x1000 + 0x108
def A.CU_SKIPPED (u : Nat) : Nat := 0x700000 + u * 0x1000 + 0x19C
def A.CU_STATUS (u : Nat) : Nat := 0x700000 + u * 0x1000 + 0x180
def A.CU_TAGM (u : Nat) : Nat := 0x700000 + u * 0x1000 + 0x118
def A.CU_TAP (u : Nat) : Nat := 0x700000 + u * 0x1000 + 0x104
def A.CU_XOR_HI (u : Nat) : Nat := 0x700000 + u * 0x1000 + 0x134
def A.CU_XOR_LO (u : Nat) : Nat := 0x700000 + u * 0x1000 + 0x130
def A.DECIDE_LATE : Nat := 0x900210
def A.DEFER_DISCARDED (h : Nat) : Nat := 0x10B000 + h * 0x10000 + 0x128
def A.DEFER_REPORTED (h : Nat) : Nat := 0x10B000 + h * 0x10000 + 0x124
def A.DEFER_STATUS (h : Nat) : Nat := 0x10B000 + h * 0x10000 + 0x120
def A.DELAY_LAST (k : Nat) : Nat := 0x44711C + k * 0x80
def A.DELAY_MAX (k : Nat) : Nat := 0x447118 + k * 0x80
def A.DELAY_MIN (k : Nat) : Nat := 0x447114 + k * 0x80
def A.DEPTH_LAST (k : Nat) : Nat := 0x447110 + k * 0x80
def A.DEPTH_MAX (k : Nat) : Nat := 0x44710C + k * 0x80
def A.DEPTH_MIN (k : Nat) : Nat := 0x447108 + k * 0x80
def A.DESCENT (h n : Nat) : Nat := layerBase h n + 0x54
def A.DESCENT_LAYERS : Nat := 0x718
def A.DESC_DONE (d : Nat) : Nat := 0x610000 + d * 0x1000 + 0x160
def A.DESC_ERRORS (d : Nat) : Nat := 0x610000 + d * 0x1000 + 0x170
def A.DISCARD_UNITS (h : Nat) : Nat := 0x10B000 + h * 0x10000 + 0x11C
def A.DOORBELL_HI : Nat := 0xB0028C
def A.DOORBELL_LO : Nat := 0xB00288
def A.DST_WH (h n : Nat) : Nat := layerBase h n + 0x40
def A.DST_X (h n : Nat) : Nat := layerBase h n + 0x38
def A.DST_Y (h n : Nat) : Nat := layerBase h n + 0x3C
def A.DUP_DROPPED : Nat := 0x900218
def A.EMPTY_TICKS (h n : Nat) : Nat := layerBase h n + 0xF8
def A.ENG_MODE_CHANGES : Nat := 0x610408
def A.ENG_RES : Nat := 0x610404
def A.ENG_STATUS : Nat := 0x610400
def A.ETH_DMAC_HI (w : Nat) : Nat := 0x200000 + w * 0x1000 + 0x144
def A.ETH_DMAC_LO (w : Nat) : Nat := 0x200000 + w * 0x1000 + 0x140
def A.ETH_VLAN (w : Nat) : Nat := 0x200000 + w * 0x1000 + 0x148
def A.EVT_ENABLE_ALL (i : Nat) : Nat := 0xB00180 + i * 4
def A.EVT_N_CTL : Nat := 0xB00284
def A.EVT_N_STATUS : Nat := 0xB00280
def A.EVT_PENDING_ALL (i : Nat) : Nat := 0xB00200 + i * 4
def A.EVT_RAW_ALL (i : Nat) : Nat := 0xB00100 + i * 4
def A.FAULTS : Nat := 0x600110
def A.FAULT_BA (h n : Nat) : Nat := layerBase h n + 0x50
def A.FAULT_LOST : Nat := 0x600114
def A.FAULT_RG (h n : Nat) : Nat := layerBase h n + 0x4C
def A.FAULT_TILES (h n : Nat) : Nat := layerBase h n + 0x5C
def A.FENCE (i : Nat) : Nat := 0xB01100 + i * 4
def A.FENCE_BACKWARD : Nat := 0xB01900
def A.FENCE_EXPORT_HI : Nat := 0x9001F4
def A.FENCE_EXPORT_LO : Nat := 0x9001F0
def A.FENCE_OWNER (i : Nat) : Nat := 0xB02100 + i * 4
def A.FENCE_TIME (h n : Nat) : Nat := layerBase h n + 0xC4
def A.FENCE_TIMEOUTS (h : Nat) : Nat := 0x10C000 + h * 0x10000 + 0x11C
def A.FENCE_VALUE (h n : Nat) : Nat := layerBase h n + 0xE0
def A.FETCH_UNITS (h : Nat) : Nat := 0x10B000 + h * 0x10000 + 0x114
def A.FLASH_STATUS : Nat := 0xA0111C
def A.FLIPS (h n : Nat) : Nat := layerBase h n + 0xEC
def A.FLIP_BAD_BASE (h : Nat) : Nat := 0x10C000 + h * 0x10000 + 0x124
def A.FLIP_CMD (h n : Nat) : Nat := layerBase h n + 0xE4
def A.FLIP_CTL (h n : Nat) : Nat := layerBase h n + 0xC0
def A.FLIP_DECIDED (h : Nat) : Nat := 0x10C000 + h * 0x10000 + 0x128
def A.FLIP_LAYERS (h : Nat) : Nat := 0x10C000 + h * 0x10000 + 0x12C
def A.FLIP_REPLACED (h : Nat) : Nat := 0x10C000 + h * 0x10000 + 0x120
def A.FLIP_STATUS (h n : Nat) : Nat := layerBase h n + 0xE8
def A.FLT_NOMATCH : Nat := 0x446104
def A.FORMAT (h n : Nat) : Nat := layerBase h n + 0x4
def A.FWD_HITS : Nat := 0x500140
def A.FW_STATUS : Nat := 0xC00100
def A.GAL_BYTES (w : Nat) : Nat := 0x200000 + w * 0x1000 + 0x128
def A.GAL_CORRECTED (w : Nat) : Nat := 0x200000 + w * 0x1000 + 0x13C
def A.GAL_OFS (w : Nat) : Nat := 0x200000 + w * 0x1000 + 0x124
def A.GLOBAL_ALPHA (h n : Nat) : Nat := layerBase h n + 0x44
def A.GROUP_HELD (h n : Nat) : Nat := layerBase h n + 0xF4
def A.GUARD_SWALLOWED : Nat := 0x800118
def A.HALL_CMD (h : Nat) : Nat := 0x100000 + h * 0x10000 + 0x180
def A.HALL_CTL (h : Nat) : Nat := 0x100000 + h * 0x10000 + 0x100
def A.HALL_STATUS (h : Nat) : Nat := 0x100000 + h * 0x10000 + 0x104
def A.HALT_LINES (n : Nat) : Nat := 0x3000000 + n * 0x1000 + 0x118
def A.HBM_CTL : Nat := 0x500100
def A.HLG_NITS (h : Nat) : Nat := 0x107000 + h * 0x10000 + 0x108
def A.HOLD_MV : Nat := 0xA00108
def A.HOLD_UF : Nat := 0xA0010C
def A.HP_PORT_CTL (p : Nat) : Nat := 0x440000 + p * 0x10000 + 0x100
def A.HP_PORT_STATUS (p : Nat) : Nat := 0x440000 + p * 0x10000 + 0x108
def A.HP_RX_FRAMES (p s : Nat) : Nat := 0x440000 + p * 0x10000 + 0x140 + s * 0x40
def A.IND_ADDR (pg : Nat) : Nat := pg * 0x1000 + 0x20
def A.IND_DATA (pg : Nat) : Nat := pg * 0x1000 + 0x24
def A.INIT_X (h v : Nat) : Nat := 0x105000 + h * 0x10000 + 0x104 + v * 0x40
def A.INIT_Y (h v : Nat) : Nat := 0x105000 + h * 0x10000 + 0x108 + v * 0x40
def A.INV_COUNT : Nat := 0x600118
def A.INV_DRAIN_US : Nat := 0x60011C
def A.INV_STATUS : Nat := 0x600100
def A.IP_DST (w i : Nat) : Nat := 0x200000 + w * 0x1000 + 0x14C + i * 4
def A.KILL_COUNT (h : Nat) : Nat := 0x100000 + h * 0x10000 + 0x184
def A.LANE_CMD (n : Nat) : Nat := 0x3000000 + n * 0x1000 + 0x10C
def A.LANE_CTL (n : Nat) : Nat := 0x3000000 + n * 0x1000 + 0x100
def A.LANE_EVT (n : Nat) : Nat := 0x3000000 + n * 0x1000 + 0x12C
def A.LANE_POLICY : Nat := 0xC00104
def A.LANE_RATE (n : Nat) : Nat := 0x3000000 + n * 0x1000 + 0x104
def A.LANE_STATUS (n : Nat) : Nat := 0x3000000 + n * 0x1000 + 0x108
def A.LATE_FENCES (h n : Nat) : Nat := layerBase h n + 0xFC
def A.LAYER_CTL (h n : Nat) : Nat := layerBase h n + 0x0
def A.LAYER_STATUS (h n : Nat) : Nat := layerBase h n + 0x58
def A.LINEBUF_REFUSALS (h : Nat) : Nat := 0x105000 + h * 0x10000 + 0x308
def A.LINES_SENT (w : Nat) : Nat := 0x200000 + w * 0x1000 + 0x138
def A.LINES_TX (n : Nat) : Nat := 0x3000000 + n * 0x1000 + 0x110
def A.LINK_DELAY (n : Nat) : Nat := 0x3000000 + n * 0x1000 + 0x128
def A.LOCK_LAST : Nat := 0x1C0
def A.LOCK_NS : Nat := 0x801108
def A.LOCK_TOTAL : Nat := 0x1C4
def A.LOCK_VIOLATION (pg : Nat) : Nat := pg * 0x1000 + 0x44
def A.LUT3D_A_HI (h : Nat) : Nat := 0x107000 + h * 0x10000 + 0x130
def A.LUT3D_A_LO (h : Nat) : Nat := 0x107000 + h * 0x10000 + 0x12C
def A.LUT3D_B_HI (h : Nat) : Nat := 0x107000 + h * 0x10000 + 0x138
def A.LUT3D_B_LO (h : Nat) : Nat := 0x107000 + h * 0x10000 + 0x134
def A.MAP_CTL : Nat := 0x500104
def A.MBX_CTL (pg : Nat) : Nat := pg * 0x1000 + 0x28
def A.MBX_DATA (pg i : Nat) : Nat := pg * 0x1000 + 0x30 + i * 4
def A.MIGR_STATUS (i : Nat) : Nat := 0x500124 + i * 4
def A.MIGR_UE : Nat := 0x500164
def A.MOVES_BACK (d : Nat) : Nat := 0x610000 + d * 0x1000 + 0x188
def A.MSG_CRC_ERR (i : Nat) : Nat := 0x9001B0 + i * 4
def A.NBR_REFRESHES : Nat := 0x50015C
def A.NEXT_B0_HI (h n : Nat) : Nat := layerBase h n + 0xCC
def A.NEXT_B0_LO (h n : Nat) : Nat := layerBase h n + 0xC8
def A.NEXT_P1_HI (h n : Nat) : Nat := layerBase h n + 0xD4
def A.NEXT_P1_LO (h n : Nat) : Nat := layerBase h n + 0xD0
def A.NEXT_P2_HI (h n : Nat) : Nat := layerBase h n + 0xDC
def A.NEXT_P2_LO (h n : Nat) : Nat := layerBase h n + 0xD8
def A.NONFINITE_COUNT (h : Nat) : Nat := 0x100000 + h * 0x10000 + 0x120
def A.NOT_READY (h n : Nat) : Nat := layerBase h n + 0xF0
def A.OP_DONE : Nat := 0xC0010C
def A.OP_REFUSED : Nat := 0xC00110
def A.OP_STATUS : Nat := 0xC00108
def A.P1_BASE_HI (h n : Nat) : Nat := layerBase h n + 0x18
def A.P1_BASE_LO (h n : Nat) : Nat := layerBase h n + 0x14
def A.P1_STRIDE (h n : Nat) : Nat := layerBase h n + 0x1C
def A.P2_BASE_HI (h n : Nat) : Nat := layerBase h n + 0x24
def A.P2_BASE_LO (h n : Nat) : Nat := layerBase h n + 0x20
def A.P2_STRIDE (h n : Nat) : Nat := layerBase h n + 0x28
def A.PAGE_CTL (pg : Nat) : Nat := pg * 0x1000 + 0xC
def A.PAGE_STATUS (pg : Nat) : Nat := pg * 0x1000 + 0x10
def A.PART (i : Nat) : Nat := 0x9001D0 + i * 4
def A.PA_RANGE_ERRORS : Nat := 0x500154
def A.PC_CE (pc : Nat) : Nat := 0x501104 + pc * 0x10
def A.PC_CMD : Nat := 0x50011C
def A.PC_CMD_STATUS : Nat := 0x500120
def A.PC_STATE (pc : Nat) : Nat := 0x501100 + pc * 0x10
def A.PC_UE (pc : Nat) : Nat := 0x501108 + pc * 0x10
def A.PC_ODECC (pc : Nat) : Nat := 0x50110C + pc * 0x10
def A.PEER_EVT_DROPPED : Nat := 0x90021C
def A.PENDING_GEN : Nat := 0x60C
def A.PERIOD_DEN (c : Nat) : Nat := 0x408 + c * 0x40
def A.PERIOD_NUM (c : Nat) : Nat := 0x404 + c * 0x40
def A.PF_COUNT : Nat := 0xA00124
def A.PHASE_MASK_HI (h i : Nat) : Nat := 0x100000 + h * 0x10000 + 0x144 + i * 8
def A.PHASE_MASK_LO (h i : Nat) : Nat := 0x100000 + h * 0x10000 + 0x140 + i * 8
def A.PHASE_OFS_01 (c : Nat) : Nat := 0x40C + c * 0x40
def A.PHASE_OFS_23 (c : Nat) : Nat := 0x410 + c * 0x40
def A.PHASE_OFS_45 (c : Nat) : Nat := 0x414 + c * 0x40
def A.PHASE_OFS_67 (c : Nat) : Nat := 0x418 + c * 0x40
def A.PLL_STATUS : Nat := 0x800114
def A.POLICY_DEV (h : Nat) : Nat := 0x107000 + h * 0x10000 + 0x120
def A.POLICY_OVERRUNS : Nat := 0xC00114
def A.POLICY_REPORT (h : Nat) : Nat := 0x107000 + h * 0x10000 + 0x11C
def A.POL_CMD : Nat := 0x446100
def A.POOL_BYTES (h v : Nat) : Nat := 0x105000 + h * 0x10000 + 0x124 + v * 0x40
def A.POOL_CORRECTED (h : Nat) : Nat := 0x100000 + h * 0x10000 + 0x530C
def A.POOL_OFS (h v : Nat) : Nat := 0x105000 + h * 0x10000 + 0x120 + v * 0x40
def A.POOL_REQ (h : Nat) : Nat := 0x105000 + h * 0x10000 + 0x304
def A.POOL_USED (h : Nat) : Nat := 0x105000 + h * 0x10000 + 0x300
def A.PORT_BLOCK_ERR (i : Nat) : Nat := 0x900190 + i * 4
def A.PORT_CTL (i : Nat) : Nat := 0x900110 + i * 4
def A.PORT_DELAY (i : Nat) : Nat := 0x900170 + i * 4
def A.PORT_REACH (i : Nat) : Nat := 0x900150 + i * 4
def A.PORT_STATUS (i : Nat) : Nat := 0x900130 + i * 4
def A.PPS_CTL : Nat := 0x800128
def A.PPS_OFS : Nat := 0x80012C
def A.PPS_IN_COUNT : Nat := 0x800130
def A.PREEMPTS (d : Nat) : Nat := 0x610000 + d * 0x1000 + 0x164
def A.PRIV_LEVEL (pg : Nat) : Nat := pg * 0x1000 + 0x48
def A.PROMOTED : Nat := 0x500148
def A.PTP_CTL (p : Nat) : Nat := 0x443000 + p * 0x10000 + 0x100
def A.PTP_STATE (p : Nat) : Nat := 0x443000 + p * 0x10000 + 0x104
def A.PWR_IN : Nat := 0xA00110
def A.PWR_STATUS : Nat := 0xA00100
def A.QPLL_STATUS (i : Nat) : Nat := 0x803100 + i * 4
def A.RAW_WAITS : Nat := 0x500144
def A.READMIT_COUNT : Nat := 0x710
def A.REFRESH_CTL : Nat := 0x500110
def A.REFUSED_COUNT : Nat := 0x618
def A.REF_CTL : Nat := 0x800100
def A.REF_FORCED : Nat := 0x500158
def A.REF_RATIO : Nat := 0x800108
def A.REF_STATUS : Nat := 0x800104
def A.RELOCKS : Nat := 0x80011C
def A.RESET_COUNT : Nat := 0xA00120
def A.RMW_POISON : Nat := 0x500150
def A.RMW_WRITES : Nat := 0x50014C
def A.ROOT_HI (a : Nat) : Nat := 0x601108 + a * 0x10
def A.ROOT_LO (a : Nat) : Nat := 0x601104 + a * 0x10
def A.RST_CAUSE : Nat := 0xA0011C
def A.RST_CMD : Nat := 0xA00114
def A.RST_STATUS : Nat := 0xA00118
def A.RTP_CTL (w : Nat) : Nat := 0x200000 + w * 0x1000 + 0x164
def A.RTP_SEQ (w : Nat) : Nat := 0x200000 + w * 0x1000 + 0x168
def A.RTP_SSRC (w : Nat) : Nat := 0x200000 + w * 0x1000 + 0x160
def A.RUNAHEAD_UNITS (h : Nat) : Nat := 0x10B000 + h * 0x10000 + 0x118
def A.RX_BASE_HI (r : Nat) : Nat := rxBase r + 0x28
def A.RX_BASE_LO (r : Nat) : Nat := rxBase r + 0x24
def A.RX_BLOCK_ERR (n : Nat) : Nat := 0x3000000 + n * 0x1000 + 0x11C
def A.RX_CTL (r : Nat) : Nat := rxBase r + 0x0
def A.RX_DST_A (r : Nat) : Nat := rxBase r + 0xC
def A.RX_DST_B (r : Nat) : Nat := rxBase r + 0x10
def A.RX_DUP (r : Nat) : Nat := rxBase r + 0x54
def A.RX_ERRORS (r : Nat) : Nat := rxBase r + 0x60
def A.RX_FCS_ERR (p s : Nat) : Nat := 0x440000 + p * 0x10000 + 0x144 + s * 0x40
def A.RX_FRAMES (r : Nat) : Nat := rxBase r + 0x44
def A.RX_FRAMES_TC (p s i : Nat) : Nat := 0x445000 + p * 0x10000 + 0x190 + s * 0x100 + i * 4
def A.RX_FWD (r : Nat) : Nat := rxBase r + 0x3C
def A.RX_INCOMPLETE (r : Nat) : Nat := rxBase r + 0x48
def A.RX_LATE (r : Nat) : Nat := rxBase r + 0x58
def A.RX_LEG_A (r : Nat) : Nat := rxBase r + 0x4
def A.RX_LEG_B (r : Nat) : Nat := rxBase r + 0x8
def A.RX_LOST (r : Nat) : Nat := rxBase r + 0x5C
def A.RX_NOT_MINE (p s : Nat) : Nat := 0x440000 + p * 0x10000 + 0x148 + s * 0x40
def A.FEC_CORR (p s : Nat) : Nat := 0x440000 + p * 0x10000 + 0x14C + s * 0x40
def A.FEC_UNCORR (p s : Nat) : Nat := 0x440000 + p * 0x10000 + 0x150 + s * 0x40
def A.RX_PKTS_A (r : Nat) : Nat := rxBase r + 0x4C
def A.RX_PKTS_B (r : Nat) : Nat := rxBase r + 0x50
def A.RX_RATE (r : Nat) : Nat := rxBase r + 0x38
def A.RX_SIZE (r : Nat) : Nat := rxBase r + 0x34
def A.RX_SRC_A (r : Nat) : Nat := rxBase r + 0x14
def A.RX_SRC_B (r : Nat) : Nat := rxBase r + 0x18
def A.RX_SSRC (r : Nat) : Nat := rxBase r + 0x20
def A.RX_STATUS (r : Nat) : Nat := rxBase r + 0x40
def A.RX_STEP (r : Nat) : Nat := rxBase r + 0x30
def A.RX_STRIDE (r : Nat) : Nat := rxBase r + 0x2C
def A.RX_UDP (r : Nat) : Nat := rxBase r + 0x1C
def A.SAFE_B (w : Nat) : Nat := 0x200000 + w * 0x1000 + 0x120
def A.SAFE_RG (w : Nat) : Nat := 0x200000 + w * 0x1000 + 0x11C
def A.SB_RX_DROPPED (n : Nat) : Nat := 0x3000000 + n * 0x1000 + 0x120
def A.SCALE_CTL (h v : Nat) : Nat := 0x105000 + h * 0x10000 + 0x100 + v * 0x40
def A.SCALE_STATUS (h v : Nat) : Nat := 0x105000 + h * 0x10000 + 0x11C + v * 0x40
def A.SCRUB_PASSES : Nat := 0x500160
def A.SESS (i : Nat) : Nat := 0x444140 + i * 4
def A.SHED_STATUS : Nat := 0x714
def A.SHP_BURST (p s i : Nat) : Nat := 0x445000 + p * 0x10000 + 0x114 + s * 0x100 + i * 8
def A.SHP_CTL (p s i : Nat) : Nat := 0x445000 + p * 0x10000 + 0x110 + s * 0x100 + i * 8
def A.SHP_DEBT (p s i : Nat) : Nat := 0x445000 + p * 0x10000 + 0x170 + s * 0x100 + i * 4
def A.SHP_RESET (p s : Nat) : Nat := 0x445000 + p * 0x10000 + 0x108 + s * 0x100
def A.SLTIME_CTL (n : Nat) : Nat := 0x3000000 + n * 0x1000 + 0x124
def A.SMP_CTL (k : Nat) : Nat := 0x447100 + k * 0x80
def A.SMP_FRAMES (k : Nat) : Nat := 0x447120 + k * 0x80
def A.SMP_HIST (k i : Nat) : Nat := 0x447140 + k * 0x80 + i * 4
def A.SMP_SEL (k : Nat) : Nat := 0x447104 + k * 0x80
def A.SMP_STATUS (k : Nat) : Nat := 0x447124 + k * 0x80
def A.SNAP_CMD : Nat := 0x140
def A.SNAP_CTL (pg : Nat) : Nat := pg * 0x1000 + 0x40
def A.SNAP_SEQ : Nat := 0x144
def A.SNAP_STATUS : Nat := 0x148
def A.SPACE_CTL (a : Nat) : Nat := 0x601100 + a * 0x10
def A.SPARE_POLICY : Nat := 0x500114
def A.SPEC_FILLS : Nat := 0x600120
def A.SRC_BASE_HI (h n : Nat) : Nat := layerBase h n + 0xC
def A.SRC_BASE_LO (h n : Nat) : Nat := layerBase h n + 0x8
def A.SRC_COLS (h v : Nat) : Nat := 0x105000 + h * 0x10000 + 0x128 + v * 0x40
def A.SRC_IP (n i : Nat) : Nat := 0x3000000 + n * 0x1000 + 0x138 + i * 4
def A.SRC_MAC_HI (n : Nat) : Nat := 0x3000000 + n * 0x1000 + 0x134
def A.SRC_MAC_LO (n : Nat) : Nat := 0x3000000 + n * 0x1000 + 0x130
def A.SRC_STRIDE (h n : Nat) : Nat := layerBase h n + 0x10
def A.SRC_WH (h n : Nat) : Nat := layerBase h n + 0x34
def A.SRC_XY (h n : Nat) : Nat := layerBase h n + 0x30
def A.STACK_TEMP : Nat := 0x50012C
def A.STATUS : Nat := 0xA01104
def A.STAT_CTL (h : Nat) : Nat := 0x10A000 + h * 0x10000 + 0x100
def A.STAT_PIXELS (h : Nat) : Nat := 0x10A000 + h * 0x10000 + 0x10C
def A.STAT_TICK_HI (h : Nat) : Nat := 0x10A000 + h * 0x10000 + 0x108
def A.STAT_TICK_LO (h : Nat) : Nat := 0x10A000 + h * 0x10000 + 0x104
def A.STEP_X_HI (h v : Nat) : Nat := 0x105000 + h * 0x10000 + 0x110 + v * 0x40
def A.STEP_X_LO (h v : Nat) : Nat := 0x105000 + h * 0x10000 + 0x10C + v * 0x40
def A.STEP_Y_HI (h v : Nat) : Nat := 0x105000 + h * 0x10000 + 0x118 + v * 0x40
def A.STEP_Y_LO (h v : Nat) : Nat := 0x105000 + h * 0x10000 + 0x114 + v * 0x40
def A.STRAPS : Nat := 0xA01100
def A.STRIPE_W (h : Nat) : Nat := 0x100000 + h * 0x10000 + 0x110
def A.STRIPE_X0 (h : Nat) : Nat := 0x100000 + h * 0x10000 + 0x10C
def A.SUBST_LINES (w : Nat) : Nat := 0x200000 + w * 0x1000 + 0x134
def A.SUBST_TX (n : Nat) : Nat := 0x3000000 + n * 0x1000 + 0x114
def A.SUB_IP4 (p s : Nat) : Nat := 0x441000 + p * 0x10000 + 0x108 + s * 0x40
def A.SUB_IP4_CTL (p s : Nat) : Nat := 0x441000 + p * 0x10000 + 0x10C + s * 0x40
def A.SUB_IP6 (p s : Nat) : Nat := 0x441000 + p * 0x10000 + 0x110 + s * 0x40
def A.SUB_MAC_HI (p s : Nat) : Nat := 0x441000 + p * 0x10000 + 0x104 + s * 0x40
def A.SUB_MAC_LO (p s : Nat) : Nat := 0x441000 + p * 0x10000 + 0x100 + s * 0x40
def A.SUB_MAXFRAME (p s : Nat) : Nat := 0x441000 + p * 0x10000 + 0x114 + s * 0x40
def A.TC_CTL (p s : Nat) : Nat := 0x445000 + p * 0x10000 + 0x100 + s * 0x100
def A.TEST_STATUS : Nat := 0xC0011C
def A.THERM_CTL : Nat := 0xA00128
def A.THERM_DROPPED : Nat := 0xA00130
def A.THERM_STATUS : Nat := 0xA0012C
def A.TICKS_COMPOSED (h : Nat) : Nat := 0x100000 + h * 0x10000 + 0x11C
def A.TICK_CTL (c : Nat) : Nat := 0x400 + c * 0x40
def A.TICK_OVERRUNS (d : Nat) : Nat := 0x610000 + d * 0x1000 + 0x184
def A.TICK_SKEW : Nat := 0x90020C
def A.TICK_STATUS (c : Nat) : Nat := 0x41C + c * 0x40
def A.TIME_CTL : Nat := 0x801100
def A.TIME_FCV : Nat := 0x801110
def A.TIME_OFFSET : Nat := 0x801114
def A.TIME_STATUS : Nat := 0x80110C
def A.TIME_STEP : Nat := 0x801104
def A.TIME_STEPS : Nat := 0x801118
def A.TONE_CMD (h : Nat) : Nat := 0x107000 + h * 0x10000 + 0x10C
def A.TONE_MISSED (h : Nat) : Nat := 0x107000 + h * 0x10000 + 0x128
def A.TONE_POLICY (h : Nat) : Nat := 0x107000 + h * 0x10000 + 0x110
def A.TONE_RATE (h : Nat) : Nat := 0x107000 + h * 0x10000 + 0x118
def A.TONE_SWAPS (h : Nat) : Nat := 0x107000 + h * 0x10000 + 0x124
def A.TONE_TARGET (h : Nat) : Nat := 0x107000 + h * 0x10000 + 0x114
def A.TRAIN_MIN : Nat := 0x500130
def A.TSYN_CMD (c : Nat) : Nat := 0x802104 + c * 0x20
def A.TSYN_CTL (c : Nat) : Nat := 0x802100 + c * 0x20
def A.TSYN_CV (c : Nat) : Nat := 0x80210C + c * 0x20
def A.TSYN_DELTA (c : Nat) : Nat := 0x802108 + c * 0x20
def A.TSYN_SLACK (c : Nat) : Nat := 0x802110 + c * 0x20
def A.TSYN_STATUS (c : Nat) : Nat := 0x802114 + c * 0x20
def A.TSYN_STEPS (c : Nat) : Nat := 0x802118 + c * 0x20
def A.TX_CLASS (p s : Nat) : Nat := 0x445000 + p * 0x10000 + 0x104 + s * 0x100
def A.TX_FRAMES (p s : Nat) : Nat := 0x440000 + p * 0x10000 + 0x154 + s * 0x40
def A.TX_FRAMES_TC (p s i : Nat) : Nat := 0x445000 + p * 0x10000 + 0x150 + s * 0x100 + i * 4
def A.UDP_PORTS (w : Nat) : Nat := 0x200000 + w * 0x1000 + 0x15C
def A.UE_STOPS (d : Nat) : Nat := 0x610000 + d * 0x1000 + 0x178
def A.URURI_CTL : Nat := 0xC00118
def A.VEST_LEVEL (h : Nat) : Nat := 0x10B000 + h * 0x10000 + 0x12C
def A.VIN_MV : Nat := 0xA00104
def A.WALK_READS : Nat := 0x60010C
def A.WB_BASE_HI (h : Nat) : Nat := 0x100000 + h * 0x10000 + 0x12C
def A.WB_BASE_LO (h : Nat) : Nat := 0x100000 + h * 0x10000 + 0x128
def A.WB_CTL (h : Nat) : Nat := 0x100000 + h * 0x10000 + 0x124
def A.WB_DROPPED (h : Nat) : Nat := 0x100000 + h * 0x10000 + 0x13C
def A.WB_INDEX (h : Nat) : Nat := 0x100000 + h * 0x10000 + 0x138
def A.WB_RING_STEP (h : Nat) : Nat := 0x100000 + h * 0x10000 + 0x134
def A.WB_STRIDE (h : Nat) : Nat := 0x100000 + h * 0x10000 + 0x130
def A.WCLR_CTL (w : Nat) : Nat := 0x200000 + w * 0x1000 + 0x300
def A.WD_M2P (d : Nat) : Nat := 0x610000 + d * 0x1000 + 0x16C
def A.WD_P2M (d : Nat) : Nat := 0x610000 + d * 0x1000 + 0x168
def A.WIN_BAND (w : Nat) : Nat := 0x200000 + w * 0x1000 + 0x118
def A.WIN_BREACH_LINES (w : Nat) : Nat := 0x200000 + w * 0x1000 + 0x130
def A.WIN_CTL (w : Nat) : Nat := 0x200000 + w * 0x1000 + 0x100
def A.WIN_LANE (w : Nat) : Nat := 0x200000 + w * 0x1000 + 0x10C
def A.WIN_S0 (w : Nat) : Nat := 0x200000 + w * 0x1000 + 0x110
def A.WIN_SL (w : Nat) : Nat := 0x200000 + w * 0x1000 + 0x114
def A.WIN_STATUS (w : Nat) : Nat := 0x200000 + w * 0x1000 + 0x12C
def A.WIN_WH (w : Nat) : Nat := 0x200000 + w * 0x1000 + 0x108
def A.WIN_XY (w : Nat) : Nat := 0x200000 + w * 0x1000 + 0x104
def A.WMAT_00 (w : Nat) : Nat := 0x200000 + w * 0x1000 + 0x304
def A.WMAT_01 (w : Nat) : Nat := 0x200000 + w * 0x1000 + 0x308
def A.WMAT_02 (w : Nat) : Nat := 0x200000 + w * 0x1000 + 0x30C
def A.WMAT_10 (w : Nat) : Nat := 0x200000 + w * 0x1000 + 0x310
def A.WMAT_11 (w : Nat) : Nat := 0x200000 + w * 0x1000 + 0x314
def A.WMAT_12 (w : Nat) : Nat := 0x200000 + w * 0x1000 + 0x318
def A.WMAT_20 (w : Nat) : Nat := 0x200000 + w * 0x1000 + 0x31C
def A.WMAT_21 (w : Nat) : Nat := 0x200000 + w * 0x1000 + 0x320
def A.WMAT_22 (w : Nat) : Nat := 0x200000 + w * 0x1000 + 0x324
def A.WOFS_0 (w : Nat) : Nat := 0x200000 + w * 0x1000 + 0x328
def A.WOFS_1 (w : Nat) : Nat := 0x200000 + w * 0x1000 + 0x32C
def A.WOFS_2 (w : Nat) : Nat := 0x200000 + w * 0x1000 + 0x330
def A.XLAT_HITS : Nat := 0x600104
def A.XLAT_MISSES : Nat := 0x600108
def A.XLAT_STOPS (d : Nat) : Nat := 0x610000 + d * 0x1000 + 0x174
def A.Z_ORDER (h n : Nat) : Nat := layerBase h n + 0x48

def F.ABORTS.count (d : Nat) : FieldRef := ⟨A.ABORTS d, 0, 32⟩
def F.ACTIVE_GEN.gen : FieldRef := ⟨A.ACTIVE_GEN, 0, 32⟩
def F.ADMITTED_COUNT.count : FieldRef := ⟨A.ADMITTED_COUNT, 0, 32⟩
def F.ADM_BE.be_reserve : FieldRef := ⟨A.ADM_BE, 0, 20⟩
def F.ADM_BUDGET.bytes : FieldRef := ⟨A.ADM_BUDGET, 0, 21⟩
def F.ADM_CTL.migr_rate : FieldRef := ⟨A.ADM_CTL, 12, 12⟩
def F.ADM_CTL.mt_pc : FieldRef := ⟨A.ADM_CTL, 0, 12⟩
def F.ADM_STATE.migrating : FieldRef := ⟨A.ADM_STATE, 15, 1⟩
def F.ADM_STATE.pcs : FieldRef := ⟨A.ADM_STATE, 0, 7⟩
def F.ADM_STATE.spares : FieldRef := ⟨A.ADM_STATE, 8, 7⟩
def F.AED_AUTH_FAIL.count : FieldRef := ⟨A.AED_AUTH_FAIL, 0, 32⟩
def F.AED_BULK_CTL.chan0 : FieldRef := ⟨A.AED_BULK_CTL, 0, 6⟩
def F.AED_BULK_CTL.chan1 : FieldRef := ⟨A.AED_BULK_CTL, 8, 6⟩
def F.AED_BULK_FAULTS.count : FieldRef := ⟨A.AED_BULK_FAULTS, 0, 32⟩
def F.AED_CTL.open_observer : FieldRef := ⟨A.AED_CTL, 24, 1⟩
def F.AED_CTL.ports : FieldRef := ⟨A.AED_CTL, 16, 8⟩
def F.AED_CTL.udp_port : FieldRef := ⟨A.AED_CTL, 0, 16⟩
def F.AED_DROPPED.count : FieldRef := ⟨A.AED_DROPPED, 0, 32⟩
def F.AED_EVT_LOST.count : FieldRef := ⟨A.AED_EVT_LOST, 0, 32⟩
def F.AED_GAPS.count : FieldRef := ⟨A.AED_GAPS, 0, 32⟩
def F.AED_KEY_LOCK.lock : FieldRef := ⟨A.AED_KEY_LOCK, 0, 8⟩
def F.AED_KEY_STATUS.ceiling : FieldRef := ⟨A.AED_KEY_STATUS, 8, 16⟩
def F.AED_KEY_STATUS.loaded : FieldRef := ⟨A.AED_KEY_STATUS, 0, 8⟩
def F.AED_TIMING.coalesce_us : FieldRef := ⟨A.AED_TIMING, 8, 14⟩
def F.AED_TIMING.idle_s : FieldRef := ⟨A.AED_TIMING, 0, 8⟩
def F.AGE_CTL.be_us : FieldRef := ⟨A.AGE_CTL, 12, 12⟩
def F.AGE_CTL.is_us : FieldRef := ⟨A.AGE_CTL, 0, 12⟩
def F.AGE_MT.mt_us : FieldRef := ⟨A.AGE_MT, 0, 16⟩
def F.APPLIED_COUNT.count : FieldRef := ⟨A.APPLIED_COUNT, 0, 32⟩
def F.APPLY_ERRORS.count : FieldRef := ⟨A.APPLY_ERRORS, 0, 32⟩
def F.AS_FAULTS.count (a : Nat) : FieldRef := ⟨A.AS_FAULTS a, 0, 32⟩
def F.BAL_CTL.cu (h : Nat) : FieldRef := ⟨A.BAL_CTL h, 3, 6⟩
def F.BAL_CTL.fallback_after (h : Nat) : FieldRef := ⟨A.BAL_CTL h, 12, 4⟩
def F.BAL_CTL.image (h : Nat) : FieldRef := ⟨A.BAL_CTL h, 0, 2⟩
def F.BAL_CTL.phase (h : Nat) : FieldRef := ⟨A.BAL_CTL h, 9, 3⟩
def F.BAL_CTL.verify (h : Nat) : FieldRef := ⟨A.BAL_CTL h, 2, 1⟩
def F.BAL_EXP_HI.exp (h i : Nat) : FieldRef := ⟨A.BAL_EXP_HI h i, 0, 32⟩
def F.BAL_EXP_LO.exp (h i : Nat) : FieldRef := ⟨A.BAL_EXP_LO h i, 0, 32⟩
def F.BAL_FALLBACKS.count (h : Nat) : FieldRef := ⟨A.BAL_FALLBACKS h, 0, 32⟩
def F.BAL_IMG_HI.va_hi (h i : Nat) : FieldRef := ⟨A.BAL_IMG_HI h i, 0, 16⟩
def F.BAL_IMG_LO.va_lo (h i : Nat) : FieldRef := ⟨A.BAL_IMG_LO h i, 0, 32⟩
def F.BAL_LOCK.content_lock (h : Nat) : FieldRef := ⟨A.BAL_LOCK h, 1, 1⟩
def F.BAL_LOCK.place_lock (h : Nat) : FieldRef := ⟨A.BAL_LOCK h, 0, 1⟩
def F.BAL_LOCK.select_lock (h : Nat) : FieldRef := ⟨A.BAL_LOCK h, 2, 1⟩
def F.BAL_MISMATCHES.count (h : Nat) : FieldRef := ⟨A.BAL_MISMATCHES h, 0, 32⟩
def F.BAL_NEXT.image (h : Nat) : FieldRef := ⟨A.BAL_NEXT h, 0, 2⟩
def F.BAL_REF_SUSPECT.count (h : Nat) : FieldRef := ⟨A.BAL_REF_SUSPECT h, 0, 32⟩
def F.BAL_STATUS.fallback (h : Nat) : FieldRef := ⟨A.BAL_STATUS h, 2, 1⟩
def F.BAL_STATUS.fault_fill (h : Nat) : FieldRef := ⟨A.BAL_STATUS h, 3, 1⟩
def F.BAL_STATUS.run (h : Nat) : FieldRef := ⟨A.BAL_STATUS h, 4, 4⟩
def F.BAL_STATUS.shown (h : Nat) : FieldRef := ⟨A.BAL_STATUS h, 0, 2⟩
def F.BAND_HITS.count : FieldRef := ⟨A.BAND_HITS, 0, 32⟩
def F.BAND_MISSES.count : FieldRef := ⟨A.BAND_MISSES, 0, 32⟩
def F.BG_B.b (h : Nat) : FieldRef := ⟨A.BG_B h, 0, 16⟩
def F.BG_RG.g (h : Nat) : FieldRef := ⟨A.BG_RG h, 16, 16⟩
def F.BG_RG.r (h : Nat) : FieldRef := ⟨A.BG_RG h, 0, 16⟩
def F.BOOT_CTL.cfg_next : FieldRef := ⟨A.BOOT_CTL, 0, 2⟩
def F.BOOT_TIME_MS.ms : FieldRef := ⟨A.BOOT_TIME_MS, 0, 16⟩
def F.BREACH_LAST.cause : FieldRef := ⟨A.BREACH_LAST, 16, 4⟩
def F.BREACH_LAST.window : FieldRef := ⟨A.BREACH_LAST, 0, 10⟩
def F.BREACH_LINES.count : FieldRef := ⟨A.BREACH_LINES, 0, 32⟩
def F.BUF_SIZE.h_m1 (h n : Nat) : FieldRef := ⟨A.BUF_SIZE h n, 16, 16⟩
def F.BUF_SIZE.w_m1 (h n : Nat) : FieldRef := ⟨A.BUF_SIZE h n, 0, 16⟩
def F.CAL_BASE_HI.asid (w : Nat) : FieldRef := ⟨A.CAL_BASE_HI w, 16, 4⟩
def F.CAL_BASE_HI.va_hi (w : Nat) : FieldRef := ⟨A.CAL_BASE_HI w, 0, 16⟩
def F.CAL_BASE_LO.va_lo (w : Nat) : FieldRef := ⟨A.CAL_BASE_LO w, 0, 32⟩
def F.CAL_FAULTS.count (w : Nat) : FieldRef := ⟨A.CAL_FAULTS w, 0, 32⟩
def F.CAL_STRIDE.stride (w : Nat) : FieldRef := ⟨A.CAL_STRIDE w, 0, 24⟩
def F.CANCELLED_COUNT.count : FieldRef := ⟨A.CANCELLED_COUNT, 0, 32⟩
def F.CANVAS_CLR.lut3d_bank (h : Nat) : FieldRef := ⟨A.CANVAS_CLR h, 7, 1⟩
def F.CANVAS_CLR.lut3d_en (h : Nat) : FieldRef := ⟨A.CANVAS_CLR h, 5, 1⟩
def F.CANVAS_CLR.out_tf (h : Nat) : FieldRef := ⟨A.CANVAS_CLR h, 1, 3⟩
def F.CANVAS_CLR.prim (h : Nat) : FieldRef := ⟨A.CANVAS_CLR h, 0, 1⟩
def F.CANVAS_CLR.tone_bank (h : Nat) : FieldRef := ⟨A.CANVAS_CLR h, 6, 1⟩
def F.CANVAS_CLR.tone_en (h : Nat) : FieldRef := ⟨A.CANVAS_CLR h, 4, 1⟩
def F.CANVAS_SIZE.h_m1 (h : Nat) : FieldRef := ⟨A.CANVAS_SIZE h, 16, 15⟩
def F.CANVAS_SIZE.w_m1 (h : Nat) : FieldRef := ⟨A.CANVAS_SIZE h, 0, 16⟩
def F.CAPACITY.mib : FieldRef := ⟨A.CAPACITY, 16, 16⟩
def F.CAPACITY.slots : FieldRef := ⟨A.CAPACITY, 0, 7⟩
def F.CASC_BUDGET.ns : FieldRef := ⟨A.CASC_BUDGET, 0, 24⟩
def F.CASC_CMD.landing : FieldRef := ⟨A.CASC_CMD, 0, 4⟩
def F.CASC_CONTENT.rate : FieldRef := ⟨A.CASC_CONTENT, 0, 20⟩
def F.CASC_CTL.enable : FieldRef := ⟨A.CASC_CTL, 0, 1⟩
def F.CASC_CTL.topology : FieldRef := ⟨A.CASC_CTL, 1, 2⟩
def F.CASC_ID.landing : FieldRef := ⟨A.CASC_ID, 0, 4⟩
def F.CASC_JOIN_CODE.code : FieldRef := ⟨A.CASC_JOIN_CODE, 0, 8⟩
def F.CASC_MEMBERS.set : FieldRef := ⟨A.CASC_MEMBERS, 0, 16⟩
def F.CASC_SKEW_LIMIT.ns : FieldRef := ⟨A.CASC_SKEW_LIMIT, 0, 16⟩
def F.CASC_STATUS.diverged : FieldRef := ⟨A.CASC_STATUS, 1, 1⟩
def F.CASC_STATUS.joined : FieldRef := ⟨A.CASC_STATUS, 0, 1⟩
def F.CASC_STATUS.part_mismatch : FieldRef := ⟨A.CASC_STATUS, 3, 1⟩
def F.CASC_STATUS.wrapped : FieldRef := ⟨A.CASC_STATUS, 2, 1⟩
def F.CFG_CTL.reaction : FieldRef := ⟨A.CFG_CTL, 0, 2⟩
def F.CFG_MISMATCHES.count : FieldRef := ⟨A.CFG_MISMATCHES, 0, 32⟩
def F.CFG_SCANS.count : FieldRef := ⟨A.CFG_SCANS, 0, 32⟩
def F.CFG_SCAN_US.us : FieldRef := ⟨A.CFG_SCAN_US, 0, 10⟩
def F.CFG_SEQ_A.seq : FieldRef := ⟨A.CFG_SEQ_A, 0, 32⟩
def F.CFG_SEQ_B.seq : FieldRef := ⟨A.CFG_SEQ_B, 0, 32⟩
def F.CFG_STATUS.armed : FieldRef := ⟨A.CFG_STATUS, 0, 1⟩
def F.CFG_STATUS.mismatch : FieldRef := ⟨A.CFG_STATUS, 1, 1⟩
def F.CFG_STATUS.ref_written : FieldRef := ⟨A.CFG_STATUS, 3, 1⟩
def F.CFG_STATUS.safe : FieldRef := ⟨A.CFG_STATUS, 2, 1⟩
def F.CH_CMD.kick (d : Nat) : FieldRef := ⟨A.CH_CMD d, 2, 1⟩
def F.CH_CMD.pause (d : Nat) : FieldRef := ⟨A.CH_CMD d, 0, 1⟩
def F.CH_CMD.resume (d : Nat) : FieldRef := ⟨A.CH_CMD d, 1, 1⟩
def F.CH_CMD.skip (d : Nat) : FieldRef := ⟨A.CH_CMD d, 3, 1⟩
def F.CH_CTL.desc_asid (d : Nat) : FieldRef := ⟨A.CH_CTL d, 12, 4⟩
def F.CH_CTL.enable (d : Nat) : FieldRef := ⟨A.CH_CTL d, 0, 1⟩
def F.CH_CTL.prio (d : Nat) : FieldRef := ⟨A.CH_CTL d, 1, 3⟩
def F.CH_CTL.req_src (d : Nat) : FieldRef := ⟨A.CH_CTL d, 4, 8⟩
def F.CH_EVT.abort (d : Nat) : FieldRef := ⟨A.CH_EVT d, 4, 1⟩
def F.CH_EVT.cq_full (d : Nat) : FieldRef := ⟨A.CH_EVT d, 5, 1⟩
def F.CH_EVT.desc_error (d : Nat) : FieldRef := ⟨A.CH_EVT d, 2, 1⟩
def F.CH_EVT.done (d : Nat) : FieldRef := ⟨A.CH_EVT d, 0, 1⟩
def F.CH_EVT.paused (d : Nat) : FieldRef := ⟨A.CH_EVT d, 1, 1⟩
def F.CH_EVT.tick_overrun (d : Nat) : FieldRef := ⟨A.CH_EVT d, 6, 1⟩
def F.CH_EVT.ue_stop (d : Nat) : FieldRef := ⟨A.CH_EVT d, 7, 1⟩
def F.CH_EVT.xlat_stop (d : Nat) : FieldRef := ⟨A.CH_EVT d, 3, 1⟩
def F.CH_EVT_SUM_HI.channels : FieldRef := ⟨A.CH_EVT_SUM_HI, 0, 32⟩
def F.CH_EVT_SUM_LO.channels : FieldRef := ⟨A.CH_EVT_SUM_LO, 0, 32⟩
def F.CH_HEAD_HI.va_hi (d : Nat) : FieldRef := ⟨A.CH_HEAD_HI d, 0, 16⟩
def F.CH_HEAD_LO.va_lo (d : Nat) : FieldRef := ⟨A.CH_HEAD_LO d, 0, 32⟩
def F.CH_RES.rate (d : Nat) : FieldRef := ⟨A.CH_RES d, 0, 20⟩
def F.CH_STATUS.backward (d : Nat) : FieldRef := ⟨A.CH_STATUS d, 6, 1⟩
def F.CH_STATUS.buf_units (d : Nat) : FieldRef := ⟨A.CH_STATUS d, 16, 7⟩
def F.CH_STATUS.cause (d : Nat) : FieldRef := ⟨A.CH_STATUS d, 3, 3⟩
def F.CH_STATUS.err (d : Nat) : FieldRef := ⟨A.CH_STATUS d, 8, 8⟩
def F.CH_STATUS.state (d : Nat) : FieldRef := ⟨A.CH_STATUS d, 0, 3⟩
def F.CLIP_KP.knee (h n : Nat) : FieldRef := ⟨A.CLIP_KP h n, 0, 16⟩
def F.CLIP_KP.peak (h n : Nat) : FieldRef := ⟨A.CLIP_KP h n, 16, 16⟩
def F.CLK_CTL.core_recal : FieldRef := ⟨A.CLK_CTL, 0, 1⟩
def F.CLK_CTL.lock_sel : FieldRef := ⟨A.CLK_CTL, 8, 7⟩
def F.CLR_CTL.clip (h n : Nat) : FieldRef := ⟨A.CLR_CTL h n, 7, 1⟩
def F.CLR_CTL.matrix (h n : Nat) : FieldRef := ⟨A.CLR_CTL h n, 1, 2⟩
def F.CLR_CTL.prim (h n : Nat) : FieldRef := ⟨A.CLR_CTL h n, 6, 1⟩
def F.CLR_CTL.range (h n : Nat) : FieldRef := ⟨A.CLR_CTL h n, 0, 1⟩
def F.CLR_CTL.tf (h n : Nat) : FieldRef := ⟨A.CLR_CTL h n, 3, 3⟩
def F.CLR_NITS.out_white (h : Nat) : FieldRef := ⟨A.CLR_NITS h, 16, 14⟩
def F.CLR_NITS.ref_white (h : Nat) : FieldRef := ⟨A.CLR_NITS h, 0, 14⟩
def F.CLR_WHITE.hlg_peak (h n : Nat) : FieldRef := ⟨A.CLR_WHITE h n, 16, 14⟩
def F.CLR_WHITE.sdr_white (h n : Nat) : FieldRef := ⟨A.CLR_WHITE h n, 0, 14⟩
def F.COAST_COUNT.count : FieldRef := ⟨A.COAST_COUNT, 0, 32⟩
def F.COMMIT_CMD.cancel : FieldRef := ⟨A.COMMIT_CMD, 0, 1⟩
def F.COMMIT_CTL.horizon_us : FieldRef := ⟨A.COMMIT_CTL, 0, 14⟩
def F.COMMIT_STATUS.answered : FieldRef := ⟨A.COMMIT_STATUS, 2, 1⟩
def F.COMMIT_STATUS.code : FieldRef := ⟨A.COMMIT_STATUS, 8, 8⟩
def F.COMMIT_STATUS.outcome : FieldRef := ⟨A.COMMIT_STATUS, 4, 3⟩
def F.COMMIT_STATUS.state : FieldRef := ⟨A.COMMIT_STATUS, 0, 2⟩
def F.CONTENT_DROPPED.count : FieldRef := ⟨A.CONTENT_DROPPED, 0, 32⟩
def F.CONTRACT_STATUS.cfg_safe : FieldRef := ⟨A.CONTRACT_STATUS, 5, 1⟩
def F.CONTRACT_STATUS.hw_loss : FieldRef := ⟨A.CONTRACT_STATUS, 0, 1⟩
def F.CONTRACT_STATUS.kill : FieldRef := ⟨A.CONTRACT_STATUS, 4, 1⟩
def F.CONTRACT_STATUS.sram_ue : FieldRef := ⟨A.CONTRACT_STATUS, 3, 1⟩
def F.CONTRACT_STATUS.thermal : FieldRef := ⟨A.CONTRACT_STATUS, 2, 1⟩
def F.CONTRACT_STATUS.vin : FieldRef := ⟨A.CONTRACT_STATUS, 1, 1⟩
def F.COVER_CTL.dyn_cull (h : Nat) : FieldRef := ⟨A.COVER_CTL h, 0, 1⟩
def F.COVER_CTL.runahead (h : Nat) : FieldRef := ⟨A.COVER_CTL h, 1, 1⟩
def F.COVER_CYCLES.cycles (h : Nat) : FieldRef := ⟨A.COVER_CYCLES h, 0, 17⟩
def F.COVER_TILES.entries (h : Nat) : FieldRef := ⟨A.COVER_TILES h, 0, 18⟩
def F.CQ_BASE_HI.va_hi (d : Nat) : FieldRef := ⟨A.CQ_BASE_HI d, 0, 16⟩
def F.CQ_BASE_LO.va_lo (d : Nat) : FieldRef := ⟨A.CQ_BASE_LO d, 0, 32⟩
def F.CQ_CTL.enable (d : Nat) : FieldRef := ⟨A.CQ_CTL d, 0, 1⟩
def F.CQ_CTL.size_log2 (d : Nat) : FieldRef := ⟨A.CQ_CTL d, 1, 4⟩
def F.CQ_FULL_WAITS.count (d : Nat) : FieldRef := ⟨A.CQ_FULL_WAITS d, 0, 32⟩
def F.CQ_HEAD.head (d : Nat) : FieldRef := ⟨A.CQ_HEAD d, 0, 16⟩
def F.CQ_TAIL.tail (d : Nat) : FieldRef := ⟨A.CQ_TAIL d, 0, 16⟩
def F.CULL_DYN.count (h : Nat) : FieldRef := ⟨A.CULL_DYN h, 0, 32⟩
def F.CULL_GUAR.count (h : Nat) : FieldRef := ⟨A.CULL_GUAR h, 0, 32⟩
def F.CU_CTL.carry (u : Nat) : FieldRef := ⟨A.CU_CTL u, 2, 1⟩
def F.CU_CTL.compare (u : Nat) : FieldRef := ⟨A.CU_CTL u, 1, 1⟩
def F.CU_CTL.enable (u : Nat) : FieldRef := ⟨A.CU_CTL u, 0, 1⟩
def F.CU_CTL.refin (u : Nat) : FieldRef := ⟨A.CU_CTL u, 3, 1⟩
def F.CU_CTL.refout (u : Nat) : FieldRef := ⟨A.CU_CTL u, 4, 1⟩
def F.CU_CTL.width (u : Nat) : FieldRef := ⟨A.CU_CTL u, 8, 7⟩
def F.CU_DECL.per_tick (u : Nat) : FieldRef := ⟨A.CU_DECL u, 0, 5⟩
def F.CU_EVT.incomplete (u : Nat) : FieldRef := ⟨A.CU_EVT u, 2, 1⟩
def F.CU_EVT.mismatch (u : Nat) : FieldRef := ⟨A.CU_EVT u, 0, 1⟩
def F.CU_EVT.ref_suspect (u : Nat) : FieldRef := ⟨A.CU_EVT u, 1, 1⟩
def F.CU_EVT.skipped (u : Nat) : FieldRef := ⟨A.CU_EVT u, 3, 1⟩
def F.CU_EXP_HI.exp (u i : Nat) : FieldRef := ⟨A.CU_EXP_HI u i, 0, 32⟩
def F.CU_EXP_LO.exp (u i : Nat) : FieldRef := ⟨A.CU_EXP_LO u i, 0, 32⟩
def F.CU_INCOMPLETE.count (u : Nat) : FieldRef := ⟨A.CU_INCOMPLETE u, 0, 32⟩
def F.CU_INIT_HI.init (u : Nat) : FieldRef := ⟨A.CU_INIT_HI u, 0, 32⟩
def F.CU_INIT_LO.init (u : Nat) : FieldRef := ⟨A.CU_INIT_LO u, 0, 32⟩
def F.CU_LINES.first (u : Nat) : FieldRef := ⟨A.CU_LINES u, 0, 14⟩
def F.CU_LINES.last (u : Nat) : FieldRef := ⟨A.CU_LINES u, 16, 14⟩
def F.CU_MATCHES.count (u : Nat) : FieldRef := ⟨A.CU_MATCHES u, 0, 32⟩
def F.CU_MISMATCHES.count (u : Nat) : FieldRef := ⟨A.CU_MISMATCHES u, 0, 32⟩
def F.CU_POLY_HI.poly (u : Nat) : FieldRef := ⟨A.CU_POLY_HI u, 0, 32⟩
def F.CU_POLY_LO.poly (u : Nat) : FieldRef := ⟨A.CU_POLY_LO u, 0, 32⟩
def F.CU_RECT_WH.h_m1 (u : Nat) : FieldRef := ⟨A.CU_RECT_WH u, 16, 15⟩
def F.CU_RECT_WH.w_m1 (u : Nat) : FieldRef := ⟨A.CU_RECT_WH u, 0, 16⟩
def F.CU_RECT_XY.x (u : Nat) : FieldRef := ⟨A.CU_RECT_XY u, 0, 16⟩
def F.CU_RECT_XY.y (u : Nat) : FieldRef := ⟨A.CU_RECT_XY u, 16, 15⟩
def F.CU_REF_SUSPECT.count (u : Nat) : FieldRef := ⟨A.CU_REF_SUSPECT u, 0, 32⟩
def F.CU_REGIONS.count (u : Nat) : FieldRef := ⟨A.CU_REGIONS u, 0, 32⟩
def F.CU_SEL.any (u : Nat) : FieldRef := ⟨A.CU_SEL u, 10, 1⟩
def F.CU_SEL.window (u : Nat) : FieldRef := ⟨A.CU_SEL u, 0, 10⟩
def F.CU_SKIPPED.count (u : Nat) : FieldRef := ⟨A.CU_SKIPPED u, 0, 32⟩
def F.CU_STATUS.active (u : Nat) : FieldRef := ⟨A.CU_STATUS u, 0, 1⟩
def F.CU_STATUS.bal (u : Nat) : FieldRef := ⟨A.CU_STATUS u, 3, 1⟩
def F.CU_STATUS.frozen (u : Nat) : FieldRef := ⟨A.CU_STATUS u, 2, 1⟩
def F.CU_STATUS.in_region (u : Nat) : FieldRef := ⟨A.CU_STATUS u, 1, 1⟩
def F.CU_TAGM.mask (u : Nat) : FieldRef := ⟨A.CU_TAGM u, 16, 16⟩
def F.CU_TAGM.tag (u : Nat) : FieldRef := ⟨A.CU_TAGM u, 0, 16⟩
def F.CU_TAP.index (u : Nat) : FieldRef := ⟨A.CU_TAP u, 4, 10⟩
def F.CU_TAP.kind (u : Nat) : FieldRef := ⟨A.CU_TAP u, 0, 3⟩
def F.CU_TAP.phases (u : Nat) : FieldRef := ⟨A.CU_TAP u, 14, 8⟩
def F.CU_TAP.stage (u : Nat) : FieldRef := ⟨A.CU_TAP u, 3, 1⟩
def F.CU_XOR_HI.xorout (u : Nat) : FieldRef := ⟨A.CU_XOR_HI u, 0, 32⟩
def F.CU_XOR_LO.xorout (u : Nat) : FieldRef := ⟨A.CU_XOR_LO u, 0, 32⟩
def F.DECIDE_LATE.count : FieldRef := ⟨A.DECIDE_LATE, 0, 32⟩
def F.DEFER_DISCARDED.count (h : Nat) : FieldRef := ⟨A.DEFER_DISCARDED h, 0, 32⟩
def F.DEFER_REPORTED.count (h : Nat) : FieldRef := ⟨A.DEFER_REPORTED h, 0, 32⟩
def F.DEFER_STATUS.held (h : Nat) : FieldRef := ⟨A.DEFER_STATUS h, 0, 5⟩
def F.DELAY_LAST.ns (k : Nat) : FieldRef := ⟨A.DELAY_LAST k, 0, 32⟩
def F.DELAY_MAX.ns (k : Nat) : FieldRef := ⟨A.DELAY_MAX k, 0, 32⟩
def F.DELAY_MIN.ns (k : Nat) : FieldRef := ⟨A.DELAY_MIN k, 0, 32⟩
def F.DEPTH_LAST.bytes (k : Nat) : FieldRef := ⟨A.DEPTH_LAST k, 0, 24⟩
def F.DEPTH_MAX.bytes (k : Nat) : FieldRef := ⟨A.DEPTH_MAX k, 0, 24⟩
def F.DEPTH_MIN.bytes (k : Nat) : FieldRef := ⟨A.DEPTH_MIN k, 0, 24⟩
def F.DESCENT.policy (h n : Nat) : FieldRef := ⟨A.DESCENT h n, 4, 2⟩
def F.DESCENT.steps (h n : Nat) : FieldRef := ⟨A.DESCENT h n, 0, 4⟩
def F.DESCENT_LAYERS.layers : FieldRef := ⟨A.DESCENT_LAYERS, 0, 9⟩
def F.DESC_DONE.count (d : Nat) : FieldRef := ⟨A.DESC_DONE d, 0, 32⟩
def F.DESC_ERRORS.count (d : Nat) : FieldRef := ⟨A.DESC_ERRORS d, 0, 32⟩
def F.DISCARD_UNITS.count (h : Nat) : FieldRef := ⟨A.DISCARD_UNITS h, 0, 32⟩
def F.DST_WH.h_m1 (h n : Nat) : FieldRef := ⟨A.DST_WH h n, 16, 16⟩
def F.DST_WH.w_m1 (h n : Nat) : FieldRef := ⟨A.DST_WH h n, 0, 16⟩
def F.DST_X.x (h n : Nat) : FieldRef := ⟨A.DST_X h n, 0, 18⟩
def F.DST_Y.y (h n : Nat) : FieldRef := ⟨A.DST_Y h n, 0, 18⟩
def F.DUP_DROPPED.count : FieldRef := ⟨A.DUP_DROPPED, 0, 32⟩
def F.EMPTY_TICKS.count (h n : Nat) : FieldRef := ⟨A.EMPTY_TICKS h n, 0, 32⟩
def F.ENG_MODE_CHANGES.count : FieldRef := ⟨A.ENG_MODE_CHANGES, 0, 32⟩
def F.ENG_RES.bytes : FieldRef := ⟨A.ENG_RES, 0, 20⟩
def F.ENG_STATUS.enabled : FieldRef := ⟨A.ENG_STATUS, 0, 7⟩
def F.ENG_STATUS.wide : FieldRef := ⟨A.ENG_STATUS, 7, 1⟩
def F.ETH_DMAC_HI.mac (w : Nat) : FieldRef := ⟨A.ETH_DMAC_HI w, 0, 16⟩
def F.ETH_DMAC_LO.mac (w : Nat) : FieldRef := ⟨A.ETH_DMAC_LO w, 0, 32⟩
def F.ETH_VLAN.pcp (w : Nat) : FieldRef := ⟨A.ETH_VLAN w, 12, 3⟩
def F.ETH_VLAN.vid (w : Nat) : FieldRef := ⟨A.ETH_VLAN w, 0, 12⟩
def F.EVT_ENABLE_ALL.enable (i : Nat) : FieldRef := ⟨A.EVT_ENABLE_ALL i, 0, 32⟩
def F.EVT_N_CTL.pulse : FieldRef := ⟨A.EVT_N_CTL, 0, 4⟩
def F.EVT_N_STATUS.low : FieldRef := ⟨A.EVT_N_STATUS, 0, 4⟩
def F.EVT_PENDING_ALL.pending (i : Nat) : FieldRef := ⟨A.EVT_PENDING_ALL i, 0, 32⟩
def F.EVT_RAW_ALL.raw (i : Nat) : FieldRef := ⟨A.EVT_RAW_ALL i, 0, 32⟩
def F.FAULTS.count : FieldRef := ⟨A.FAULTS, 0, 32⟩
def F.FAULT_BA.a (h n : Nat) : FieldRef := ⟨A.FAULT_BA h n, 16, 16⟩
def F.FAULT_BA.b (h n : Nat) : FieldRef := ⟨A.FAULT_BA h n, 0, 16⟩
def F.FAULT_LOST.count : FieldRef := ⟨A.FAULT_LOST, 0, 32⟩
def F.FAULT_RG.g (h n : Nat) : FieldRef := ⟨A.FAULT_RG h n, 16, 16⟩
def F.FAULT_RG.r (h n : Nat) : FieldRef := ⟨A.FAULT_RG h n, 0, 16⟩
def F.FAULT_TILES.count (h n : Nat) : FieldRef := ⟨A.FAULT_TILES h n, 0, 32⟩
def F.FENCE_BACKWARD.count : FieldRef := ⟨A.FENCE_BACKWARD, 0, 32⟩
def F.FENCE_EXPORT_HI.groups : FieldRef := ⟨A.FENCE_EXPORT_HI, 0, 32⟩
def F.FENCE_EXPORT_LO.groups : FieldRef := ⟨A.FENCE_EXPORT_LO, 0, 32⟩
def F.FENCE_OWNER.landing (i : Nat) : FieldRef := ⟨A.FENCE_OWNER i, 10, 4⟩
def F.FENCE_OWNER.owner (i : Nat) : FieldRef := ⟨A.FENCE_OWNER i, 0, 2⟩
def F.FENCE_OWNER.peer_fence (i : Nat) : FieldRef := ⟨A.FENCE_OWNER i, 14, 9⟩
def F.FENCE_OWNER.receiver (i : Nat) : FieldRef := ⟨A.FENCE_OWNER i, 2, 8⟩
def F.FENCE_TIME.horizon_us (h n : Nat) : FieldRef := ⟨A.FENCE_TIME h n, 0, 14⟩
def F.FENCE_TIME.timeout (h n : Nat) : FieldRef := ⟨A.FENCE_TIME h n, 16, 16⟩
def F.FENCE_TIMEOUTS.count (h : Nat) : FieldRef := ⟨A.FENCE_TIMEOUTS h, 0, 32⟩
def F.FETCH_UNITS.count (h : Nat) : FieldRef := ⟨A.FETCH_UNITS h, 0, 32⟩
def F.FLASH_STATUS.busy : FieldRef := ⟨A.FLASH_STATUS, 0, 1⟩
def F.FLASH_STATUS.error : FieldRef := ⟨A.FLASH_STATUS, 1, 1⟩
def F.FLIPS.count (h n : Nat) : FieldRef := ⟨A.FLIPS h n, 0, 32⟩
def F.FLIP_BAD_BASE.count (h : Nat) : FieldRef := ⟨A.FLIP_BAD_BASE h, 0, 32⟩
def F.FLIP_CMD.request (h n : Nat) : FieldRef := ⟨A.FLIP_CMD h n, 0, 1⟩
def F.FLIP_CMD.withdraw (h n : Nat) : FieldRef := ⟨A.FLIP_CMD h n, 1, 1⟩
def F.FLIP_CTL.commit_buf (h n : Nat) : FieldRef := ⟨A.FLIP_CTL h n, 11, 1⟩
def F.FLIP_CTL.fence (h n : Nat) : FieldRef := ⟨A.FLIP_CTL h n, 2, 9⟩
def F.FLIP_CTL.fence_mode (h n : Nat) : FieldRef := ⟨A.FLIP_CTL h n, 0, 2⟩
def F.FLIP_CTL.timeout_drop (h n : Nat) : FieldRef := ⟨A.FLIP_CTL h n, 12, 1⟩
def F.FLIP_DECIDED.count (h : Nat) : FieldRef := ⟨A.FLIP_DECIDED h, 0, 32⟩
def F.FLIP_LAYERS.layers (h : Nat) : FieldRef := ⟨A.FLIP_LAYERS h, 0, 6⟩
def F.FLIP_REPLACED.count (h : Nat) : FieldRef := ⟨A.FLIP_REPLACED h, 0, 32⟩
def F.FLIP_STATUS.bad_base (h n : Nat) : FieldRef := ⟨A.FLIP_STATUS h n, 4, 1⟩
def F.FLIP_STATUS.group_held (h n : Nat) : FieldRef := ⟨A.FLIP_STATUS h n, 3, 1⟩
def F.FLIP_STATUS.pending (h n : Nat) : FieldRef := ⟨A.FLIP_STATUS h n, 0, 1⟩
def F.FLIP_STATUS.ready (h n : Nat) : FieldRef := ⟨A.FLIP_STATUS h n, 1, 1⟩
def F.FLIP_STATUS.timed_out (h n : Nat) : FieldRef := ⟨A.FLIP_STATUS h n, 2, 1⟩
def F.FLIP_STATUS.withdrawn (h n : Nat) : FieldRef := ⟨A.FLIP_STATUS h n, 5, 1⟩
def F.FLT_NOMATCH.count : FieldRef := ⟨A.FLT_NOMATCH, 0, 32⟩
def F.FORMAT.fmt (h n : Nat) : FieldRef := ⟨A.FORMAT h n, 0, 8⟩
def F.FWD_HITS.count : FieldRef := ⟨A.FWD_HITS, 0, 32⟩
def F.FW_STATUS.major : FieldRef := ⟨A.FW_STATUS, 8, 8⟩
def F.FW_STATUS.minor : FieldRef := ⟨A.FW_STATUS, 0, 8⟩
def F.FW_STATUS.slot : FieldRef := ⟨A.FW_STATUS, 16, 1⟩
def F.FW_STATUS.switch_pending : FieldRef := ⟨A.FW_STATUS, 17, 1⟩
def F.GAL_BYTES.bytes (w : Nat) : FieldRef := ⟨A.GAL_BYTES w, 0, 27⟩
def F.GAL_CORRECTED.count (w : Nat) : FieldRef := ⟨A.GAL_CORRECTED w, 0, 32⟩
def F.GAL_OFS.ofs (w : Nat) : FieldRef := ⟨A.GAL_OFS w, 0, 27⟩
def F.GLOBAL_ALPHA.alpha (h n : Nat) : FieldRef := ⟨A.GLOBAL_ALPHA h n, 0, 16⟩
def F.GROUP_HELD.count (h n : Nat) : FieldRef := ⟨A.GROUP_HELD h n, 0, 32⟩
def F.GUARD_SWALLOWED.count : FieldRef := ⟨A.GUARD_SWALLOWED, 0, 32⟩
def F.HALL_CMD.kill (h : Nat) : FieldRef := ⟨A.HALL_CMD h, 0, 1⟩
def F.HALL_CTL.canvas (h : Nat) : FieldRef := ⟨A.HALL_CTL h, 1, 3⟩
def F.HALL_CTL.enable (h : Nat) : FieldRef := ⟨A.HALL_CTL h, 0, 1⟩
def F.HALL_CTL.gang_log2 (h : Nat) : FieldRef := ⟨A.HALL_CTL h, 4, 2⟩
def F.HALL_CTL.order_mode (h : Nat) : FieldRef := ⟨A.HALL_CTL h, 6, 1⟩
def F.HALL_STATUS.active (h : Nat) : FieldRef := ⟨A.HALL_STATUS h, 0, 1⟩
def F.HALL_STATUS.killed (h : Nat) : FieldRef := ⟨A.HALL_STATUS h, 1, 1⟩
def F.HALL_STATUS.lead (h : Nat) : FieldRef := ⟨A.HALL_STATUS h, 2, 1⟩
def F.HALL_STATUS.stripe (h : Nat) : FieldRef := ⟨A.HALL_STATUS h, 3, 3⟩
def F.HALT_LINES.count (n : Nat) : FieldRef := ⟨A.HALT_LINES n, 0, 32⟩
def F.HBM_CTL.ecc_mode : FieldRef := ⟨A.HBM_CTL, 0, 2⟩
def F.HBM_CTL.nbr_radius : FieldRef := ⟨A.HBM_CTL, 9, 1⟩
def F.HLG_NITS.hlg_peak (h : Nat) : FieldRef := ⟨A.HLG_NITS h, 0, 14⟩
def F.HOLD_MV.mv : FieldRef := ⟨A.HOLD_MV, 0, 17⟩
def F.HOLD_UF.uf : FieldRef := ⟨A.HOLD_UF, 0, 12⟩
def F.HP_PORT_CTL.enable (p : Nat) : FieldRef := ⟨A.HP_PORT_CTL p, 0, 1⟩
def F.HP_PORT_CTL.split (p : Nat) : FieldRef := ⟨A.HP_PORT_CTL p, 1, 2⟩
def F.HP_PORT_STATUS.fec_lock (p : Nat) : FieldRef := ⟨A.HP_PORT_STATUS p, 4, 4⟩
def F.HP_PORT_STATUS.link_up (p : Nat) : FieldRef := ⟨A.HP_PORT_STATUS p, 0, 4⟩
def F.HP_RX_FRAMES.count (p s : Nat) : FieldRef := ⟨A.HP_RX_FRAMES p s, 0, 32⟩
def F.INIT_X.ofs (h v : Nat) : FieldRef := ⟨A.INIT_X h v, 0, 20⟩
def F.INIT_Y.ofs (h v : Nat) : FieldRef := ⟨A.INIT_Y h v, 0, 20⟩
def F.INV_COUNT.count : FieldRef := ⟨A.INV_COUNT, 0, 32⟩
def F.INV_DRAIN_US.us : FieldRef := ⟨A.INV_DRAIN_US, 0, 16⟩
def F.INV_STATUS.busy : FieldRef := ⟨A.INV_STATUS, 0, 1⟩
def F.INV_STATUS.queued : FieldRef := ⟨A.INV_STATUS, 1, 7⟩
def F.IP_DST.addr (w i : Nat) : FieldRef := ⟨A.IP_DST w i, 0, 32⟩
def F.KILL_COUNT.count (h : Nat) : FieldRef := ⟨A.KILL_COUNT h, 0, 32⟩
def F.LANE_CMD.failback (n : Nat) : FieldRef := ⟨A.LANE_CMD n, 1, 1⟩
def F.LANE_CMD.failover (n : Nat) : FieldRef := ⟨A.LANE_CMD n, 0, 1⟩
def F.LANE_CMD.halt (n : Nat) : FieldRef := ⟨A.LANE_CMD n, 2, 1⟩
def F.LANE_CMD.resume (n : Nat) : FieldRef := ⟨A.LANE_CMD n, 3, 1⟩
def F.LANE_CTL.enable (n : Nat) : FieldRef := ⟨A.LANE_CTL n, 0, 1⟩
def F.LANE_CTL.fec (n : Nat) : FieldRef := ⟨A.LANE_CTL n, 5, 2⟩
def F.LANE_CTL.mode (n : Nat) : FieldRef := ⟨A.LANE_CTL n, 1, 3⟩
def F.LANE_CTL.spare (n : Nat) : FieldRef := ⟨A.LANE_CTL n, 4, 1⟩
def F.LANE_EVT.as_not_capable (n : Nat) : FieldRef := ⟨A.LANE_EVT n, 20, 1⟩
def F.LANE_EVT.breach (n : Nat) : FieldRef := ⟨A.LANE_EVT n, 0, 1⟩
def F.LANE_EVT.cal_fault (n : Nat) : FieldRef := ⟨A.LANE_EVT n, 2, 1⟩
def F.LANE_EVT.echo_timeout (n : Nat) : FieldRef := ⟨A.LANE_EVT n, 8, 1⟩
def F.LANE_EVT.failover (n : Nat) : FieldRef := ⟨A.LANE_EVT n, 4, 1⟩
def F.LANE_EVT.gal_ue (n : Nat) : FieldRef := ⟨A.LANE_EVT n, 3, 1⟩
def F.LANE_EVT.gate_error (n : Nat) : FieldRef := ⟨A.LANE_EVT n, 19, 1⟩
def F.LANE_EVT.gate_refused (n : Nat) : FieldRef := ⟨A.LANE_EVT n, 18, 1⟩
def F.LANE_EVT.gate_start_adjusted (n : Nat) : FieldRef := ⟨A.LANE_EVT n, 17, 1⟩
def F.LANE_EVT.gate_swapped (n : Nat) : FieldRef := ⟨A.LANE_EVT n, 16, 1⟩
def F.LANE_EVT.halt (n : Nat) : FieldRef := ⟨A.LANE_EVT n, 6, 1⟩
def F.LANE_EVT.rx_loss (n : Nat) : FieldRef := ⟨A.LANE_EVT n, 5, 1⟩
def F.LANE_EVT.sb_rx (n : Nat) : FieldRef := ⟨A.LANE_EVT n, 7, 1⟩
def F.LANE_EVT.subst (n : Nat) : FieldRef := ⟨A.LANE_EVT n, 1, 1⟩
def F.LANE_POLICY.auto_failback : FieldRef := ⟨A.LANE_POLICY, 18, 1⟩
def F.LANE_POLICY.err_limit : FieldRef := ⟨A.LANE_POLICY, 2, 16⟩
def F.LANE_POLICY.mode : FieldRef := ⟨A.LANE_POLICY, 0, 2⟩
def F.LANE_RATE.kbps (n : Nat) : FieldRef := ⟨A.LANE_RATE n, 0, 25⟩
def F.LANE_STATUS.carried_lane (n : Nat) : FieldRef := ⟨A.LANE_STATUS n, 8, 8⟩
def F.LANE_STATUS.carrying (n : Nat) : FieldRef := ⟨A.LANE_STATUS n, 4, 1⟩
def F.LANE_STATUS.halted (n : Nat) : FieldRef := ⟨A.LANE_STATUS n, 5, 1⟩
def F.LANE_STATUS.link_up (n : Nat) : FieldRef := ⟨A.LANE_STATUS n, 2, 1⟩
def F.LANE_STATUS.out_of_service (n : Nat) : FieldRef := ⟨A.LANE_STATUS n, 3, 1⟩
def F.LANE_STATUS.rx_lock (n : Nat) : FieldRef := ⟨A.LANE_STATUS n, 1, 1⟩
def F.LANE_STATUS.tx_on (n : Nat) : FieldRef := ⟨A.LANE_STATUS n, 0, 1⟩
def F.LATE_FENCES.count (h n : Nat) : FieldRef := ⟨A.LATE_FENCES h n, 0, 32⟩
def F.LAYER_CTL.alpha_mode (h n : Nat) : FieldRef := ⟨A.LAYER_CTL h n, 4, 2⟩
def F.LAYER_CTL.atomic_group (h n : Nat) : FieldRef := ⟨A.LAYER_CTL h n, 9, 4⟩
def F.LAYER_CTL.blend (h n : Nat) : FieldRef := ⟨A.LAYER_CTL h n, 6, 1⟩
def F.LAYER_CTL.clut_bank (h n : Nat) : FieldRef := ⟨A.LAYER_CTL h n, 13, 1⟩
def F.LAYER_CTL.enable (h n : Nat) : FieldRef := ⟨A.LAYER_CTL h n, 0, 1⟩
def F.LAYER_CTL.fault_mode (h n : Nat) : FieldRef := ⟨A.LAYER_CTL h n, 7, 2⟩
def F.LAYER_CTL.opaque_static (h n : Nat) : FieldRef := ⟨A.LAYER_CTL h n, 3, 1⟩
def F.LAYER_STATUS.fault_tick (h n : Nat) : FieldRef := ⟨A.LAYER_STATUS h n, 4, 1⟩
def F.LAYER_STATUS.frozen (h n : Nat) : FieldRef := ⟨A.LAYER_STATUS h n, 2, 1⟩
def F.LAYER_STATUS.hidden (h n : Nat) : FieldRef := ⟨A.LAYER_STATUS h n, 3, 1⟩
def F.LAYER_STATUS.no_buffer (h n : Nat) : FieldRef := ⟨A.LAYER_STATUS h n, 1, 1⟩
def F.LAYER_STATUS.shown (h n : Nat) : FieldRef := ⟨A.LAYER_STATUS h n, 0, 1⟩
def F.LINEBUF_REFUSALS.count (h : Nat) : FieldRef := ⟨A.LINEBUF_REFUSALS h, 0, 32⟩
def F.LINES_SENT.count (w : Nat) : FieldRef := ⟨A.LINES_SENT w, 0, 32⟩
def F.LINES_TX.count (n : Nat) : FieldRef := ⟨A.LINES_TX n, 0, 32⟩
def F.LINK_DELAY.delay (n : Nat) : FieldRef := ⟨A.LINK_DELAY n, 0, 32⟩
def F.LOCK_LAST.accessor : FieldRef := ⟨A.LOCK_LAST, 16, 5⟩
def F.LOCK_LAST.page : FieldRef := ⟨A.LOCK_LAST, 0, 14⟩
def F.LOCK_NS.ns : FieldRef := ⟨A.LOCK_NS, 0, 16⟩
def F.LOCK_TOTAL.count : FieldRef := ⟨A.LOCK_TOTAL, 0, 32⟩
def F.LOCK_VIOLATION.count (pg : Nat) : FieldRef := ⟨A.LOCK_VIOLATION pg, 0, 32⟩
def F.LUT3D_A_HI.asid (h : Nat) : FieldRef := ⟨A.LUT3D_A_HI h, 16, 4⟩
def F.LUT3D_A_HI.va_hi (h : Nat) : FieldRef := ⟨A.LUT3D_A_HI h, 0, 16⟩
def F.LUT3D_A_LO.va_lo (h : Nat) : FieldRef := ⟨A.LUT3D_A_LO h, 0, 32⟩
def F.LUT3D_B_HI.va_hi (h : Nat) : FieldRef := ⟨A.LUT3D_B_HI h, 0, 16⟩
def F.LUT3D_B_LO.va_lo (h : Nat) : FieldRef := ⟨A.LUT3D_B_LO h, 0, 32⟩
def F.MAP_CTL.order : FieldRef := ⟨A.MAP_CTL, 0, 2⟩
def F.MAP_CTL.order_next : FieldRef := ⟨A.MAP_CTL, 4, 2⟩
def F.MAP_CTL.spares : FieldRef := ⟨A.MAP_CTL, 12, 2⟩
def F.MAP_CTL.spares_next : FieldRef := ⟨A.MAP_CTL, 8, 2⟩
def F.MIGR_STATUS.active (i : Nat) : FieldRef := ⟨A.MIGR_STATUS i, 0, 1⟩
def F.MIGR_STATUS.slot (i : Nat) : FieldRef := ⟨A.MIGR_STATUS i, 1, 6⟩
def F.MIGR_STATUS.source (i : Nat) : FieldRef := ⟨A.MIGR_STATUS i, 7, 6⟩
def F.MIGR_STATUS.span (i : Nat) : FieldRef := ⟨A.MIGR_STATUS i, 19, 6⟩
def F.MIGR_STATUS.spans (i : Nat) : FieldRef := ⟨A.MIGR_STATUS i, 25, 6⟩
def F.MIGR_STATUS.target (i : Nat) : FieldRef := ⟨A.MIGR_STATUS i, 13, 6⟩
def F.MIGR_UE.count : FieldRef := ⟨A.MIGR_UE, 0, 32⟩
def F.MOVES_BACK.count (d : Nat) : FieldRef := ⟨A.MOVES_BACK d, 0, 32⟩
def F.MSG_CRC_ERR.count (i : Nat) : FieldRef := ⟨A.MSG_CRC_ERR i, 0, 32⟩
def F.NBR_REFRESHES.count : FieldRef := ⟨A.NBR_REFRESHES, 0, 32⟩
def F.NEXT_B0_HI.va_hi (h n : Nat) : FieldRef := ⟨A.NEXT_B0_HI h n, 0, 16⟩
def F.NEXT_B0_LO.va_lo (h n : Nat) : FieldRef := ⟨A.NEXT_B0_LO h n, 0, 32⟩
def F.NEXT_P1_HI.va_hi (h n : Nat) : FieldRef := ⟨A.NEXT_P1_HI h n, 0, 16⟩
def F.NEXT_P1_LO.va_lo (h n : Nat) : FieldRef := ⟨A.NEXT_P1_LO h n, 0, 32⟩
def F.NEXT_P2_HI.va_hi (h n : Nat) : FieldRef := ⟨A.NEXT_P2_HI h n, 0, 16⟩
def F.NEXT_P2_LO.va_lo (h n : Nat) : FieldRef := ⟨A.NEXT_P2_LO h n, 0, 32⟩
def F.NONFINITE_COUNT.count (h : Nat) : FieldRef := ⟨A.NONFINITE_COUNT h, 0, 32⟩
def F.NOT_READY.count (h n : Nat) : FieldRef := ⟨A.NOT_READY h n, 0, 32⟩
def F.OP_DONE.count : FieldRef := ⟨A.OP_DONE, 0, 32⟩
def F.OP_REFUSED.count : FieldRef := ⟨A.OP_REFUSED, 0, 32⟩
def F.OP_STATUS.kinds : FieldRef := ⟨A.OP_STATUS, 16, 16⟩
def F.OP_STATUS.running : FieldRef := ⟨A.OP_STATUS, 0, 3⟩
def F.P1_BASE_HI.va_hi (h n : Nat) : FieldRef := ⟨A.P1_BASE_HI h n, 0, 16⟩
def F.P1_BASE_LO.va_lo (h n : Nat) : FieldRef := ⟨A.P1_BASE_LO h n, 0, 32⟩
def F.P1_STRIDE.stride (h n : Nat) : FieldRef := ⟨A.P1_STRIDE h n, 0, 24⟩
def F.P2_BASE_HI.va_hi (h n : Nat) : FieldRef := ⟨A.P2_BASE_HI h n, 0, 16⟩
def F.P2_BASE_LO.va_lo (h n : Nat) : FieldRef := ⟨A.P2_BASE_LO h n, 0, 32⟩
def F.P2_STRIDE.stride (h n : Nat) : FieldRef := ⟨A.P2_STRIDE h n, 0, 24⟩
def F.PAGE_STATUS.ind_range (pg : Nat) : FieldRef := ⟨A.PAGE_STATUS pg, 3, 1⟩
def F.PAGE_STATUS.lock_violation (pg : Nat) : FieldRef := ⟨A.PAGE_STATUS pg, 0, 1⟩
def F.PAGE_STATUS.mbx_error (pg : Nat) : FieldRef := ⟨A.PAGE_STATUS pg, 2, 1⟩
def F.PAGE_STATUS.priv_denied (pg : Nat) : FieldRef := ⟨A.PAGE_STATUS pg, 1, 1⟩
def F.PART.tree_canvas (i : Nat) : FieldRef := ⟨A.PART i, 0, 6⟩
def F.PA_RANGE_ERRORS.count : FieldRef := ⟨A.PA_RANGE_ERRORS, 0, 32⟩
def F.PC_CE.count (pc : Nat) : FieldRef := ⟨A.PC_CE pc, 0, 32⟩
def F.PC_CMD.pc : FieldRef := ⟨A.PC_CMD, 0, 6⟩
def F.PC_CMD_STATUS.code : FieldRef := ⟨A.PC_CMD_STATUS, 0, 8⟩
def F.PC_STATE.degraded (pc : Nat) : FieldRef := ⟨A.PC_STATE pc, 3, 1⟩
def F.PC_STATE.slot (pc : Nat) : FieldRef := ⟨A.PC_STATE pc, 4, 6⟩
def F.PC_STATE.state (pc : Nat) : FieldRef := ⟨A.PC_STATE pc, 0, 3⟩
def F.PC_UE.count (pc : Nat) : FieldRef := ⟨A.PC_UE pc, 0, 32⟩
def F.PC_ODECC.count (pc : Nat) : FieldRef := ⟨A.PC_ODECC pc, 0, 32⟩
def F.PEER_EVT_DROPPED.count : FieldRef := ⟨A.PEER_EVT_DROPPED, 0, 32⟩
def F.PERIOD_DEN.den (c : Nat) : FieldRef := ⟨A.PERIOD_DEN c, 0, 10⟩
def F.PERIOD_NUM.num (c : Nat) : FieldRef := ⟨A.PERIOD_NUM c, 0, 32⟩
def F.PF_COUNT.count : FieldRef := ⟨A.PF_COUNT, 0, 32⟩
def F.PHASE_MASK_HI.balustrade (h i : Nat) : FieldRef := ⟨A.PHASE_MASK_HI h i, 0, 1⟩
def F.PHASE_MASK_LO.layers (h i : Nat) : FieldRef := ⟨A.PHASE_MASK_LO h i, 0, 32⟩
def F.PHASE_OFS_01.ofs0 (c : Nat) : FieldRef := ⟨A.PHASE_OFS_01 c, 0, 16⟩
def F.PHASE_OFS_01.ofs1 (c : Nat) : FieldRef := ⟨A.PHASE_OFS_01 c, 16, 16⟩
def F.PHASE_OFS_23.ofs2 (c : Nat) : FieldRef := ⟨A.PHASE_OFS_23 c, 0, 16⟩
def F.PHASE_OFS_23.ofs3 (c : Nat) : FieldRef := ⟨A.PHASE_OFS_23 c, 16, 16⟩
def F.PHASE_OFS_45.ofs4 (c : Nat) : FieldRef := ⟨A.PHASE_OFS_45 c, 0, 16⟩
def F.PHASE_OFS_45.ofs5 (c : Nat) : FieldRef := ⟨A.PHASE_OFS_45 c, 16, 16⟩
def F.PHASE_OFS_67.ofs6 (c : Nat) : FieldRef := ⟨A.PHASE_OFS_67 c, 0, 16⟩
def F.PHASE_OFS_67.ofs7 (c : Nat) : FieldRef := ⟨A.PHASE_OFS_67 c, 16, 16⟩
def F.PLL_STATUS.core_lock : FieldRef := ⟨A.PLL_STATUS, 0, 1⟩
def F.PLL_STATUS.core_on_hold : FieldRef := ⟨A.PLL_STATUS, 6, 1⟩
def F.PLL_STATUS.hbm_lock : FieldRef := ⟨A.PLL_STATUS, 2, 2⟩
def F.PLL_STATUS.hold_lock : FieldRef := ⟨A.PLL_STATUS, 1, 1⟩
def F.PLL_STATUS.hp_lock : FieldRef := ⟨A.PLL_STATUS, 4, 2⟩
def F.POLICY_DEV.dev (h : Nat) : FieldRef := ⟨A.POLICY_DEV h, 0, 16⟩
def F.POLICY_OVERRUNS.count : FieldRef := ⟨A.POLICY_OVERRUNS, 0, 32⟩
def F.POLICY_REPORT.u_hi (h : Nat) : FieldRef := ⟨A.POLICY_REPORT h, 0, 16⟩
def F.POLICY_REPORT.valid (h : Nat) : FieldRef := ⟨A.POLICY_REPORT h, 31, 1⟩
def F.POLICY_REPORT.w (h : Nat) : FieldRef := ⟨A.POLICY_REPORT h, 16, 9⟩
def F.POL_CMD.index : FieldRef := ⟨A.POL_CMD, 0, 12⟩
def F.POOL_BYTES.bytes (h v : Nat) : FieldRef := ⟨A.POOL_BYTES h v, 0, 22⟩
def F.POOL_CORRECTED.count (h : Nat) : FieldRef := ⟨A.POOL_CORRECTED h, 0, 32⟩
def F.POOL_OFS.ofs (h v : Nat) : FieldRef := ⟨A.POOL_OFS h v, 0, 21⟩
def F.POOL_REQ.bytes (h : Nat) : FieldRef := ⟨A.POOL_REQ h, 0, 23⟩
def F.POOL_USED.bytes (h : Nat) : FieldRef := ⟨A.POOL_USED h, 0, 22⟩
def F.PORT_BLOCK_ERR.count (i : Nat) : FieldRef := ⟨A.PORT_BLOCK_ERR i, 0, 32⟩
def F.PORT_CTL.enable (i : Nat) : FieldRef := ⟨A.PORT_CTL i, 0, 1⟩
def F.PORT_CTL.lane (i : Nat) : FieldRef := ⟨A.PORT_CTL i, 11, 8⟩
def F.PORT_CTL.peer (i : Nat) : FieldRef := ⟨A.PORT_CTL i, 7, 4⟩
def F.PORT_CTL.rate (i : Nat) : FieldRef := ⟨A.PORT_CTL i, 4, 2⟩
def F.PORT_CTL.spare_en (i : Nat) : FieldRef := ⟨A.PORT_CTL i, 19, 1⟩
def F.PORT_CTL.spare_lane (i : Nat) : FieldRef := ⟨A.PORT_CTL i, 20, 8⟩
def F.PORT_CTL.uplink (i : Nat) : FieldRef := ⟨A.PORT_CTL i, 6, 1⟩
def F.PORT_CTL.width_log2 (i : Nat) : FieldRef := ⟨A.PORT_CTL i, 1, 3⟩
def F.PORT_DELAY.delay (i : Nat) : FieldRef := ⟨A.PORT_DELAY i, 0, 32⟩
def F.PORT_REACH.set (i : Nat) : FieldRef := ⟨A.PORT_REACH i, 0, 16⟩
def F.PORT_STATUS.peer_wrong (i : Nat) : FieldRef := ⟨A.PORT_STATUS i, 2, 1⟩
def F.PORT_STATUS.skew (i : Nat) : FieldRef := ⟨A.PORT_STATUS i, 1, 1⟩
def F.PORT_STATUS.up (i : Nat) : FieldRef := ⟨A.PORT_STATUS i, 0, 1⟩
def F.PPS_OFS.ofs_ns : FieldRef := ⟨A.PPS_OFS, 0, 32⟩
def F.PPS_CTL.in_edge : FieldRef := ⟨A.PPS_CTL, 4, 1⟩
def F.PPS_CTL.width_us : FieldRef := ⟨A.PPS_CTL, 5, 20⟩
def F.PPS_CTL.in_en : FieldRef := ⟨A.PPS_CTL, 3, 1⟩
def F.PPS_CTL.out_en : FieldRef := ⟨A.PPS_CTL, 0, 1⟩
def F.PPS_CTL.out_mode : FieldRef := ⟨A.PPS_CTL, 1, 2⟩
def F.PPS_IN_COUNT.count : FieldRef := ⟨A.PPS_IN_COUNT, 0, 32⟩
def F.PREEMPTS.count (d : Nat) : FieldRef := ⟨A.PREEMPTS d, 0, 32⟩
def F.PRIV_LEVEL.level (pg : Nat) : FieldRef := ⟨A.PRIV_LEVEL pg, 0, 2⟩
def F.PROMOTED.count : FieldRef := ⟨A.PROMOTED, 0, 32⟩
def F.PTP_CTL.domain (p : Nat) : FieldRef := ⟨A.PTP_CTL p, 9, 7⟩
def F.PTP_CTL.enable (p : Nat) : FieldRef := ⟨A.PTP_CTL p, 0, 1⟩
def F.PTP_CTL.ipv6 (p : Nat) : FieldRef := ⟨A.PTP_CTL p, 16, 1⟩
def F.PTP_CTL.ports (p : Nat) : FieldRef := ⟨A.PTP_CTL p, 1, 8⟩
def F.PTP_CTL.unicast_dreq (p : Nat) : FieldRef := ⟨A.PTP_CTL p, 17, 1⟩
def F.PTP_STATE.state0 (p : Nat) : FieldRef := ⟨A.PTP_STATE p, 0, 4⟩
def F.PTP_STATE.state1 (p : Nat) : FieldRef := ⟨A.PTP_STATE p, 4, 4⟩
def F.PTP_STATE.state2 (p : Nat) : FieldRef := ⟨A.PTP_STATE p, 8, 4⟩
def F.PTP_STATE.state3 (p : Nat) : FieldRef := ⟨A.PTP_STATE p, 12, 4⟩
def F.PWR_STATUS.charging : FieldRef := ⟨A.PWR_STATUS, 2, 1⟩
def F.PWR_STATUS.hold_ok : FieldRef := ⟨A.PWR_STATUS, 1, 1⟩
def F.PWR_STATUS.vin_ok : FieldRef := ⟨A.PWR_STATUS, 0, 1⟩
def F.QPLL_STATUS.d0 (i : Nat) : FieldRef := ⟨A.QPLL_STATUS i, 4, 2⟩
def F.QPLL_STATUS.d1 (i : Nat) : FieldRef := ⟨A.QPLL_STATUS i, 6, 2⟩
def F.QPLL_STATUS.lock0 (i : Nat) : FieldRef := ⟨A.QPLL_STATUS i, 0, 1⟩
def F.QPLL_STATUS.lock1 (i : Nat) : FieldRef := ⟨A.QPLL_STATUS i, 1, 1⟩
def F.QPLL_STATUS.spur_warn0 (i : Nat) : FieldRef := ⟨A.QPLL_STATUS i, 2, 1⟩
def F.QPLL_STATUS.spur_warn1 (i : Nat) : FieldRef := ⟨A.QPLL_STATUS i, 3, 1⟩
def F.RAW_WAITS.count : FieldRef := ⟨A.RAW_WAITS, 0, 32⟩
def F.READMIT_COUNT.count : FieldRef := ⟨A.READMIT_COUNT, 0, 32⟩
def F.REFRESH_CTL.postpone_max : FieldRef := ⟨A.REFRESH_CTL, 0, 4⟩
def F.REFUSED_COUNT.count : FieldRef := ⟨A.REFUSED_COUNT, 0, 32⟩
def F.REF_CTL.revert : FieldRef := ⟨A.REF_CTL, 2, 1⟩
def F.REF_CTL.sel : FieldRef := ⟨A.REF_CTL, 0, 2⟩
def F.REF_FORCED.count : FieldRef := ⟨A.REF_FORCED, 0, 32⟩
def F.REF_RATIO.rho : FieldRef := ⟨A.REF_RATIO, 0, 32⟩
def F.REF_STATUS.on_xo : FieldRef := ⟨A.REF_STATUS, 1, 1⟩
def F.REF_STATUS.refclk_ok : FieldRef := ⟨A.REF_STATUS, 0, 1⟩
def F.RELOCKS.count : FieldRef := ⟨A.RELOCKS, 0, 32⟩
def F.RESET_COUNT.count : FieldRef := ⟨A.RESET_COUNT, 0, 32⟩
def F.RMW_POISON.count : FieldRef := ⟨A.RMW_POISON, 0, 32⟩
def F.RMW_WRITES.count : FieldRef := ⟨A.RMW_WRITES, 0, 32⟩
def F.ROOT_HI.root (a : Nat) : FieldRef := ⟨A.ROOT_HI a, 0, 16⟩
def F.ROOT_LO.root (a : Nat) : FieldRef := ⟨A.ROOT_LO a, 12, 20⟩
def F.RST_CAUSE.hbm_kept : FieldRef := ⟨A.RST_CAUSE, 3, 1⟩
def F.RST_CAUSE.kind : FieldRef := ⟨A.RST_CAUSE, 0, 3⟩
def F.RST_CMD.module : FieldRef := ⟨A.RST_CMD, 0, 1⟩
def F.RST_CMD.standby : FieldRef := ⟨A.RST_CMD, 1, 1⟩
def F.RST_STATUS.refused : FieldRef := ⟨A.RST_STATUS, 0, 1⟩
def F.RTP_CTL.dscp (w : Nat) : FieldRef := ⟨A.RTP_CTL w, 8, 6⟩
def F.RTP_CTL.ipv6 (w : Nat) : FieldRef := ⟨A.RTP_CTL w, 7, 1⟩
def F.RTP_CTL.pt (w : Nat) : FieldRef := ⟨A.RTP_CTL w, 0, 7⟩
def F.RTP_CTL.ttl (w : Nat) : FieldRef := ⟨A.RTP_CTL w, 14, 8⟩
def F.RTP_SEQ.seq (w : Nat) : FieldRef := ⟨A.RTP_SEQ w, 0, 32⟩
def F.RTP_SSRC.ssrc (w : Nat) : FieldRef := ⟨A.RTP_SSRC w, 0, 32⟩
def F.RUNAHEAD_UNITS.count (h : Nat) : FieldRef := ⟨A.RUNAHEAD_UNITS h, 0, 32⟩
def F.RX_BASE_HI.asid (r : Nat) : FieldRef := ⟨A.RX_BASE_HI r, 16, 4⟩
def F.RX_BASE_HI.ring_m1 (r : Nat) : FieldRef := ⟨A.RX_BASE_HI r, 20, 4⟩
def F.RX_BASE_HI.va_hi (r : Nat) : FieldRef := ⟨A.RX_BASE_HI r, 0, 16⟩
def F.RX_BASE_LO.va_lo (r : Nat) : FieldRef := ⟨A.RX_BASE_LO r, 0, 32⟩
def F.RX_BLOCK_ERR.count (n : Nat) : FieldRef := ⟨A.RX_BLOCK_ERR n, 0, 32⟩
def F.RX_CTL.complete_only (r : Nat) : FieldRef := ⟨A.RX_CTL r, 4, 1⟩
def F.RX_CTL.enable (r : Nat) : FieldRef := ⟨A.RX_CTL r, 0, 1⟩
def F.RX_CTL.fmt (r : Nat) : FieldRef := ⟨A.RX_CTL r, 8, 8⟩
def F.RX_CTL.forward (r : Nat) : FieldRef := ⟨A.RX_CTL r, 5, 1⟩
def F.RX_CTL.ipv6 (r : Nat) : FieldRef := ⟨A.RX_CTL r, 3, 1⟩
def F.RX_CTL.legs (r : Nat) : FieldRef := ⟨A.RX_CTL r, 1, 2⟩
def F.RX_CTL.pt (r : Nat) : FieldRef := ⟨A.RX_CTL r, 16, 7⟩
def F.RX_CTL.ssrc_check (r : Nat) : FieldRef := ⟨A.RX_CTL r, 6, 1⟩
def F.RX_DST_A.addr (r : Nat) : FieldRef := ⟨A.RX_DST_A r, 0, 32⟩
def F.RX_DST_B.addr (r : Nat) : FieldRef := ⟨A.RX_DST_B r, 0, 32⟩
def F.RX_DUP.count (r : Nat) : FieldRef := ⟨A.RX_DUP r, 0, 32⟩
def F.RX_ERRORS.count (r : Nat) : FieldRef := ⟨A.RX_ERRORS r, 0, 32⟩
def F.RX_FCS_ERR.count (p s : Nat) : FieldRef := ⟨A.RX_FCS_ERR p s, 0, 32⟩
def F.RX_FRAMES.count (r : Nat) : FieldRef := ⟨A.RX_FRAMES r, 0, 32⟩
def F.RX_FRAMES_TC.count (p s i : Nat) : FieldRef := ⟨A.RX_FRAMES_TC p s i, 0, 32⟩
def F.RX_FWD.set (r : Nat) : FieldRef := ⟨A.RX_FWD r, 0, 16⟩
def F.RX_INCOMPLETE.count (r : Nat) : FieldRef := ⟨A.RX_INCOMPLETE r, 0, 32⟩
def F.RX_LATE.count (r : Nat) : FieldRef := ⟨A.RX_LATE r, 0, 32⟩
def F.RX_LEG_A.subport (r : Nat) : FieldRef := ⟨A.RX_LEG_A r, 0, 3⟩
def F.RX_LEG_B.subport (r : Nat) : FieldRef := ⟨A.RX_LEG_B r, 0, 3⟩
def F.RX_LOST.count (r : Nat) : FieldRef := ⟨A.RX_LOST r, 0, 32⟩
def F.RX_NOT_MINE.count (p s : Nat) : FieldRef := ⟨A.RX_NOT_MINE p s, 0, 32⟩
def F.FEC_CORR.count (p s : Nat) : FieldRef := ⟨A.FEC_CORR p s, 0, 32⟩
def F.FEC_UNCORR.count (p s : Nat) : FieldRef := ⟨A.FEC_UNCORR p s, 0, 32⟩
def F.RX_PKTS_A.count (r : Nat) : FieldRef := ⟨A.RX_PKTS_A r, 0, 32⟩
def F.RX_PKTS_B.count (r : Nat) : FieldRef := ⟨A.RX_PKTS_B r, 0, 32⟩
def F.RX_RATE.merge (r : Nat) : FieldRef := ⟨A.RX_RATE r, 20, 8⟩
def F.RX_RATE.rate (r : Nat) : FieldRef := ⟨A.RX_RATE r, 0, 20⟩
def F.RX_SIZE.h_m1 (r : Nat) : FieldRef := ⟨A.RX_SIZE r, 16, 16⟩
def F.RX_SIZE.w_m1 (r : Nat) : FieldRef := ⟨A.RX_SIZE r, 0, 16⟩
def F.RX_SRC_A.addr (r : Nat) : FieldRef := ⟨A.RX_SRC_A r, 0, 32⟩
def F.RX_SRC_B.addr (r : Nat) : FieldRef := ⟨A.RX_SRC_B r, 0, 32⟩
def F.RX_SSRC.ssrc (r : Nat) : FieldRef := ⟨A.RX_SSRC r, 0, 32⟩
def F.RX_STATUS.active (r : Nat) : FieldRef := ⟨A.RX_STATUS r, 0, 1⟩
def F.RX_STATUS.last_slot (r : Nat) : FieldRef := ⟨A.RX_STATUS r, 3, 4⟩
def F.RX_STATUS.leg_a_seen (r : Nat) : FieldRef := ⟨A.RX_STATUS r, 1, 1⟩
def F.RX_STATUS.leg_b_seen (r : Nat) : FieldRef := ⟨A.RX_STATUS r, 2, 1⟩
def F.RX_STEP.step (r : Nat) : FieldRef := ⟨A.RX_STEP r, 0, 24⟩
def F.RX_STRIDE.stride (r : Nat) : FieldRef := ⟨A.RX_STRIDE r, 0, 24⟩
def F.RX_UDP.port_a (r : Nat) : FieldRef := ⟨A.RX_UDP r, 0, 16⟩
def F.RX_UDP.port_b (r : Nat) : FieldRef := ⟨A.RX_UDP r, 16, 16⟩
def F.SAFE_B.b (w : Nat) : FieldRef := ⟨A.SAFE_B w, 0, 16⟩
def F.SAFE_RG.g (w : Nat) : FieldRef := ⟨A.SAFE_RG w, 16, 16⟩
def F.SAFE_RG.r (w : Nat) : FieldRef := ⟨A.SAFE_RG w, 0, 16⟩
def F.SB_RX_DROPPED.count (n : Nat) : FieldRef := ⟨A.SB_RX_DROPPED n, 0, 32⟩
def F.SCALE_CTL.chroma_h (h v : Nat) : FieldRef := ⟨A.SCALE_CTL h v, 28, 1⟩
def F.SCALE_CTL.chroma_v (h v : Nat) : FieldRef := ⟨A.SCALE_CTL h v, 29, 1⟩
def F.SCALE_CTL.coef_bank (h v : Nat) : FieldRef := ⟨A.SCALE_CTL h v, 16, 4⟩
def F.SCALE_CTL.desc_bank (h v : Nat) : FieldRef := ⟨A.SCALE_CTL h v, 20, 4⟩
def F.SCALE_CTL.edge_x (h v : Nat) : FieldRef := ⟨A.SCALE_CTL h v, 24, 2⟩
def F.SCALE_CTL.edge_y (h v : Nat) : FieldRef := ⟨A.SCALE_CTL h v, 26, 2⟩
def F.SCALE_CTL.h_taps (h v : Nat) : FieldRef := ⟨A.SCALE_CTL h v, 0, 4⟩
def F.SCALE_CTL.h_taps_red (h v : Nat) : FieldRef := ⟨A.SCALE_CTL h v, 8, 4⟩
def F.SCALE_CTL.v_taps (h v : Nat) : FieldRef := ⟨A.SCALE_CTL h v, 4, 4⟩
def F.SCALE_CTL.v_taps_red (h v : Nat) : FieldRef := ⟨A.SCALE_CTL h v, 12, 4⟩
def F.SCALE_STATUS.h_taps_eff (h v : Nat) : FieldRef := ⟨A.SCALE_STATUS h v, 2, 4⟩
def F.SCALE_STATUS.halved (h v : Nat) : FieldRef := ⟨A.SCALE_STATUS h v, 1, 1⟩
def F.SCALE_STATUS.reduced (h v : Nat) : FieldRef := ⟨A.SCALE_STATUS h v, 0, 1⟩
def F.SCALE_STATUS.v_taps_eff (h v : Nat) : FieldRef := ⟨A.SCALE_STATUS h v, 6, 4⟩
def F.SCRUB_PASSES.count : FieldRef := ⟨A.SCRUB_PASSES, 0, 32⟩
def F.SESS.level (i : Nat) : FieldRef := ⟨A.SESS i, 1, 2⟩
def F.SESS.open (i : Nat) : FieldRef := ⟨A.SESS i, 0, 1⟩
def F.SESS.slot (i : Nat) : FieldRef := ⟨A.SESS i, 4, 8⟩
def F.SESS.subport (i : Nat) : FieldRef := ⟨A.SESS i, 12, 3⟩
def F.SHED_STATUS.windows : FieldRef := ⟨A.SHED_STATUS, 0, 10⟩
def F.SHP_BURST.bytes (p s i : Nat) : FieldRef := ⟨A.SHP_BURST p s i, 0, 24⟩
def F.SHP_CTL.enable (p s i : Nat) : FieldRef := ⟨A.SHP_CTL p s i, 0, 1⟩
def F.SHP_CTL.rate (p s i : Nat) : FieldRef := ⟨A.SHP_CTL p s i, 1, 24⟩
def F.SHP_DEBT.bytes (p s i : Nat) : FieldRef := ⟨A.SHP_DEBT p s i, 0, 24⟩
def F.SLTIME_CTL.enable (n : Nat) : FieldRef := ⟨A.SLTIME_CTL n, 0, 1⟩
def F.SMP_CTL.enable (k : Nat) : FieldRef := ⟨A.SMP_CTL k, 0, 1⟩
def F.SMP_CTL.hist_shift (k : Nat) : FieldRef := ⟨A.SMP_CTL k, 6, 5⟩
def F.SMP_CTL.notify (k : Nat) : FieldRef := ⟨A.SMP_CTL k, 11, 1⟩
def F.SMP_FRAMES.frames (k : Nat) : FieldRef := ⟨A.SMP_FRAMES k, 0, 32⟩
def F.SMP_HIST.count (k i : Nat) : FieldRef := ⟨A.SMP_HIST k i, 0, 32⟩
def F.SMP_SEL.kind (k : Nat) : FieldRef := ⟨A.SMP_SEL k, 0, 1⟩
def F.SMP_SEL.port (k : Nat) : FieldRef := ⟨A.SMP_SEL k, 1, 8⟩
def F.SMP_SEL.tc (k : Nat) : FieldRef := ⟨A.SMP_SEL k, 9, 3⟩
def F.SMP_STATUS.empty (k : Nat) : FieldRef := ⟨A.SMP_STATUS k, 0, 1⟩
def F.SMP_STATUS.seq (k : Nat) : FieldRef := ⟨A.SMP_STATUS k, 16, 16⟩
def F.SNAP_CMD.at_tick : FieldRef := ⟨A.SNAP_CMD, 1, 1⟩
def F.SNAP_CMD.canvas : FieldRef := ⟨A.SNAP_CMD, 2, 3⟩
def F.SNAP_CMD.now : FieldRef := ⟨A.SNAP_CMD, 0, 1⟩
def F.SNAP_SEQ.seq : FieldRef := ⟨A.SNAP_SEQ, 0, 16⟩
def F.SNAP_STATUS.armed : FieldRef := ⟨A.SNAP_STATUS, 0, 1⟩
def F.SNAP_STATUS.late : FieldRef := ⟨A.SNAP_STATUS, 1, 1⟩
def F.SPACE_CTL.mode (a : Nat) : FieldRef := ⟨A.SPACE_CTL a, 0, 2⟩
def F.SPARE_POLICY.ce_limit : FieldRef := ⟨A.SPARE_POLICY, 2, 16⟩
def F.SPARE_POLICY.mode : FieldRef := ⟨A.SPARE_POLICY, 0, 2⟩
def F.SPARE_POLICY.ue_retire : FieldRef := ⟨A.SPARE_POLICY, 18, 1⟩
def F.SPEC_FILLS.count : FieldRef := ⟨A.SPEC_FILLS, 0, 32⟩
def F.SRC_BASE_HI.asid (h n : Nat) : FieldRef := ⟨A.SRC_BASE_HI h n, 16, 4⟩
def F.SRC_BASE_HI.va_hi (h n : Nat) : FieldRef := ⟨A.SRC_BASE_HI h n, 0, 16⟩
def F.SRC_BASE_LO.va_lo (h n : Nat) : FieldRef := ⟨A.SRC_BASE_LO h n, 0, 32⟩
def F.SRC_COLS.cols (h v : Nat) : FieldRef := ⟨A.SRC_COLS h v, 0, 17⟩
def F.SRC_IP.addr (n i : Nat) : FieldRef := ⟨A.SRC_IP n i, 0, 32⟩
def F.SRC_MAC_HI.mac (n : Nat) : FieldRef := ⟨A.SRC_MAC_HI n, 0, 16⟩
def F.SRC_MAC_LO.mac (n : Nat) : FieldRef := ⟨A.SRC_MAC_LO n, 0, 32⟩
def F.SRC_STRIDE.stride (h n : Nat) : FieldRef := ⟨A.SRC_STRIDE h n, 0, 24⟩
def F.SRC_WH.h_m1 (h n : Nat) : FieldRef := ⟨A.SRC_WH h n, 16, 16⟩
def F.SRC_WH.w_m1 (h n : Nat) : FieldRef := ⟨A.SRC_WH h n, 0, 16⟩
def F.SRC_XY.x (h n : Nat) : FieldRef := ⟨A.SRC_XY h n, 0, 16⟩
def F.SRC_XY.y (h n : Nat) : FieldRef := ⟨A.SRC_XY h n, 16, 16⟩
def F.STACK_TEMP.hot0 : FieldRef := ⟨A.STACK_TEMP, 16, 1⟩
def F.STACK_TEMP.hot1 : FieldRef := ⟨A.STACK_TEMP, 17, 1⟩
def F.STACK_TEMP.t0 : FieldRef := ⟨A.STACK_TEMP, 0, 8⟩
def F.STACK_TEMP.t1 : FieldRef := ⟨A.STACK_TEMP, 8, 8⟩
def F.STATUS.apply_stopped : FieldRef := ⟨A.STATUS, 9, 1⟩
def F.STATUS.cfg_a_ok : FieldRef := ⟨A.STATUS, 1, 1⟩
def F.STATUS.cfg_b_ok : FieldRef := ⟨A.STATUS, 2, 1⟩
def F.STATUS.cfg_skipped : FieldRef := ⟨A.STATUS, 8, 1⟩
def F.STATUS.cfg_used : FieldRef := ⟨A.STATUS, 3, 1⟩
def F.STATUS.commit_code : FieldRef := ⟨A.STATUS, 24, 8⟩
def F.STATUS.defaulted : FieldRef := ⟨A.STATUS, 0, 1⟩
def F.STATUS.done : FieldRef := ⟨A.STATUS, 12, 1⟩
def F.STATUS.fw_a_ok : FieldRef := ⟨A.STATUS, 5, 1⟩
def F.STATUS.fw_b_ok : FieldRef := ⟨A.STATUS, 6, 1⟩
def F.STATUS.fw_used : FieldRef := ⟨A.STATUS, 4, 1⟩
def F.STATUS.recovery : FieldRef := ⟨A.STATUS, 7, 1⟩
def F.STATUS.saved : FieldRef := ⟨A.STATUS, 10, 1⟩
def F.STATUS.tc_unlocked : FieldRef := ⟨A.STATUS, 11, 1⟩
def F.STAT_CTL.hold (h : Nat) : FieldRef := ⟨A.STAT_CTL h, 3, 1⟩
def F.STAT_CTL.phase (h : Nat) : FieldRef := ⟨A.STAT_CTL h, 0, 3⟩
def F.STAT_PIXELS.count (h : Nat) : FieldRef := ⟨A.STAT_PIXELS h, 0, 32⟩
def F.STAT_TICK_HI.tick (h : Nat) : FieldRef := ⟨A.STAT_TICK_HI h, 0, 32⟩
def F.STAT_TICK_LO.tick (h : Nat) : FieldRef := ⟨A.STAT_TICK_LO h, 0, 32⟩
def F.STEP_X_HI.step (h v : Nat) : FieldRef := ⟨A.STEP_X_HI h v, 0, 4⟩
def F.STEP_X_LO.step (h v : Nat) : FieldRef := ⟨A.STEP_X_LO h v, 0, 32⟩
def F.STEP_Y_HI.step (h v : Nat) : FieldRef := ⟨A.STEP_Y_HI h v, 0, 4⟩
def F.STEP_Y_LO.step (h v : Nat) : FieldRef := ⟨A.STEP_Y_LO h v, 0, 32⟩
def F.STRAPS.straps : FieldRef := ⟨A.STRAPS, 0, 8⟩
def F.STRIPE_W.w (h : Nat) : FieldRef := ⟨A.STRIPE_W h, 0, 17⟩
def F.STRIPE_X0.x0 (h : Nat) : FieldRef := ⟨A.STRIPE_X0 h, 0, 17⟩
def F.SUBST_LINES.count (w : Nat) : FieldRef := ⟨A.SUBST_LINES w, 0, 32⟩
def F.SUBST_TX.count (n : Nat) : FieldRef := ⟨A.SUBST_TX n, 0, 32⟩
def F.SUB_IP4.addr (p s : Nat) : FieldRef := ⟨A.SUB_IP4 p s, 0, 32⟩
def F.SUB_IP4_CTL.tagged (p s : Nat) : FieldRef := ⟨A.SUB_IP4_CTL p s, 18, 1⟩
def F.SUB_IP4_CTL.vid (p s : Nat) : FieldRef := ⟨A.SUB_IP4_CTL p s, 6, 12⟩
def F.SUB_IP6.index (p s : Nat) : FieldRef := ⟨A.SUB_IP6 p s, 0, 6⟩
def F.SUB_IP6.valid (p s : Nat) : FieldRef := ⟨A.SUB_IP6 p s, 6, 1⟩
def F.SUB_MAC_HI.mac (p s : Nat) : FieldRef := ⟨A.SUB_MAC_HI p s, 0, 16⟩
def F.SUB_MAC_LO.mac (p s : Nat) : FieldRef := ⟨A.SUB_MAC_LO p s, 0, 32⟩
def F.SUB_MAXFRAME.bytes (p s : Nat) : FieldRef := ⟨A.SUB_MAXFRAME p s, 0, 14⟩
def F.TC_CTL.rx_deftc (p s : Nat) : FieldRef := ⟨A.TC_CTL p s, 0, 3⟩
def F.TEST_STATUS.errors : FieldRef := ⟨A.TEST_STATUS, 16, 16⟩
def F.TEST_STATUS.pass : FieldRef := ⟨A.TEST_STATUS, 1, 1⟩
def F.TEST_STATUS.running : FieldRef := ⟨A.TEST_STATUS, 0, 1⟩
def F.TEST_STATUS.test : FieldRef := ⟨A.TEST_STATUS, 4, 4⟩
def F.THERM_CTL.t1 : FieldRef := ⟨A.THERM_CTL, 0, 7⟩
def F.THERM_CTL.t2 : FieldRef := ⟨A.THERM_CTL, 8, 7⟩
def F.THERM_DROPPED.windows : FieldRef := ⟨A.THERM_DROPPED, 0, 10⟩
def F.THERM_STATUS.l2_nofit : FieldRef := ⟨A.THERM_STATUS, 2, 1⟩
def F.THERM_STATUS.level : FieldRef := ⟨A.THERM_STATUS, 0, 2⟩
def F.THERM_STATUS.tj : FieldRef := ⟨A.THERM_STATUS, 8, 8⟩
def F.THERM_STATUS.tj_peak : FieldRef := ⟨A.THERM_STATUS, 16, 8⟩
def F.TICKS_COMPOSED.count (h : Nat) : FieldRef := ⟨A.TICKS_COMPOSED h, 0, 32⟩
def F.TICK_CTL.enable (c : Nat) : FieldRef := ⟨A.TICK_CTL c, 0, 1⟩
def F.TICK_CTL.phases_m1 (c : Nat) : FieldRef := ⟨A.TICK_CTL c, 4, 3⟩
def F.TICK_OVERRUNS.count (d : Nat) : FieldRef := ⟨A.TICK_OVERRUNS d, 0, 32⟩
def F.TICK_SKEW.ns : FieldRef := ⟨A.TICK_SKEW, 0, 32⟩
def F.TICK_STATUS.coasting (c : Nat) : FieldRef := ⟨A.TICK_STATUS c, 1, 1⟩
def F.TICK_STATUS.in_gap (c : Nat) : FieldRef := ⟨A.TICK_STATUS c, 3, 1⟩
def F.TICK_STATUS.phase (c : Nat) : FieldRef := ⟨A.TICK_STATUS c, 4, 3⟩
def F.TICK_STATUS.running (c : Nat) : FieldRef := ⟨A.TICK_STATUS c, 0, 1⟩
def F.TICK_STATUS.slewing (c : Nat) : FieldRef := ⟨A.TICK_STATUS c, 2, 1⟩
def F.TIME_CTL.bw : FieldRef := ⟨A.TIME_CTL, 4, 3⟩
def F.TIME_CTL.src_pri : FieldRef := ⟨A.TIME_CTL, 0, 2⟩
def F.TIME_CTL.src_sec : FieldRef := ⟨A.TIME_CTL, 2, 2⟩
def F.TIME_FCV.fcv : FieldRef := ⟨A.TIME_FCV, 0, 32⟩
def F.TIME_OFFSET.theta : FieldRef := ⟨A.TIME_OFFSET, 0, 32⟩
def F.TIME_STATUS.src_used : FieldRef := ⟨A.TIME_STATUS, 2, 2⟩
def F.TIME_STATUS.state : FieldRef := ⟨A.TIME_STATUS, 0, 2⟩
def F.TIME_STATUS.stepped : FieldRef := ⟨A.TIME_STATUS, 4, 1⟩
def F.TIME_STEP.step_ns : FieldRef := ⟨A.TIME_STEP, 0, 24⟩
def F.TIME_STEPS.count : FieldRef := ⟨A.TIME_STEPS, 0, 32⟩
def F.TONE_CMD.swap_lut3d (h : Nat) : FieldRef := ⟨A.TONE_CMD h, 1, 1⟩
def F.TONE_CMD.swap_tone (h : Nat) : FieldRef := ⟨A.TONE_CMD h, 0, 1⟩
def F.TONE_MISSED.count (h : Nat) : FieldRef := ⟨A.TONE_MISSED h, 0, 32⟩
def F.TONE_POLICY.lut3d (h : Nat) : FieldRef := ⟨A.TONE_POLICY h, 2, 1⟩
def F.TONE_POLICY.mode (h : Nat) : FieldRef := ⟨A.TONE_POLICY h, 0, 2⟩
def F.TONE_RATE.u_step (h : Nat) : FieldRef := ⟨A.TONE_RATE h, 0, 16⟩
def F.TONE_RATE.w_step (h : Nat) : FieldRef := ⟨A.TONE_RATE h, 16, 8⟩
def F.TONE_SWAPS.count (h : Nat) : FieldRef := ⟨A.TONE_SWAPS h, 0, 32⟩
def F.TONE_TARGET.knee (h : Nat) : FieldRef := ⟨A.TONE_TARGET h, 16, 8⟩
def F.TONE_TARGET.peak_nits (h : Nat) : FieldRef := ⟨A.TONE_TARGET h, 0, 14⟩
def F.TRAIN_MIN.steps : FieldRef := ⟨A.TRAIN_MIN, 0, 6⟩
def F.TSYN_CMD.recal (c : Nat) : FieldRef := ⟨A.TSYN_CMD c, 0, 1⟩
def F.TSYN_CTL.phase_step_allow (c : Nat) : FieldRef := ⟨A.TSYN_CTL c, 0, 1⟩
def F.TSYN_CTL.slew_ns_s (c : Nat) : FieldRef := ⟨A.TSYN_CTL c, 1, 14⟩
def F.TSYN_CTL.step_thr_us (c : Nat) : FieldRef := ⟨A.TSYN_CTL c, 16, 16⟩
def F.TSYN_CV.cv (c : Nat) : FieldRef := ⟨A.TSYN_CV c, 0, 32⟩
def F.TSYN_DELTA.delta (c : Nat) : FieldRef := ⟨A.TSYN_DELTA c, 0, 32⟩
def F.TSYN_SLACK.ns (c : Nat) : FieldRef := ⟨A.TSYN_SLACK c, 0, 24⟩
def F.TSYN_STATUS.lock (c : Nat) : FieldRef := ⟨A.TSYN_STATUS c, 0, 1⟩
def F.TSYN_STATUS.relock (c : Nat) : FieldRef := ⟨A.TSYN_STATUS c, 1, 1⟩
def F.TSYN_STATUS.spur_warn (c : Nat) : FieldRef := ⟨A.TSYN_STATUS c, 3, 1⟩
def F.TSYN_STATUS.stepping (c : Nat) : FieldRef := ⟨A.TSYN_STATUS c, 2, 1⟩
def F.TSYN_STEPS.count (c : Nat) : FieldRef := ⟨A.TSYN_STEPS c, 0, 32⟩
def F.TX_CLASS.aed_evt (p s : Nat) : FieldRef := ⟨A.TX_CLASS p s, 12, 3⟩
def F.TX_CLASS.aed_resp (p s : Nat) : FieldRef := ⟨A.TX_CLASS p s, 8, 3⟩
def F.TX_CLASS.basic (p s : Nat) : FieldRef := ⟨A.TX_CLASS p s, 4, 3⟩
def F.TX_CLASS.ptp (p s : Nat) : FieldRef := ⟨A.TX_CLASS p s, 0, 3⟩
def F.TX_FRAMES.count (p s : Nat) : FieldRef := ⟨A.TX_FRAMES p s, 0, 32⟩
def F.TX_FRAMES_TC.count (p s i : Nat) : FieldRef := ⟨A.TX_FRAMES_TC p s i, 0, 32⟩
def F.UDP_PORTS.dst (w : Nat) : FieldRef := ⟨A.UDP_PORTS w, 0, 16⟩
def F.UDP_PORTS.src (w : Nat) : FieldRef := ⟨A.UDP_PORTS w, 16, 16⟩
def F.UE_STOPS.count (d : Nat) : FieldRef := ⟨A.UE_STOPS d, 0, 32⟩
def F.URURI_CTL.baud : FieldRef := ⟨A.URURI_CTL, 0, 3⟩
def F.URURI_CTL.ceiling : FieldRef := ⟨A.URURI_CTL, 6, 2⟩
def F.URURI_CTL.level : FieldRef := ⟨A.URURI_CTL, 4, 2⟩
def F.VEST_LEVEL.units (h : Nat) : FieldRef := ⟨A.VEST_LEVEL h, 0, 13⟩
def F.PWR_IN.dw : FieldRef := ⟨A.PWR_IN, 0, 16⟩
def F.VIN_MV.mv : FieldRef := ⟨A.VIN_MV, 0, 17⟩
def F.WALK_READS.count : FieldRef := ⟨A.WALK_READS, 0, 32⟩
def F.WB_BASE_HI.asid (h : Nat) : FieldRef := ⟨A.WB_BASE_HI h, 16, 4⟩
def F.WB_BASE_HI.va_hi (h : Nat) : FieldRef := ⟨A.WB_BASE_HI h, 0, 16⟩
def F.WB_BASE_LO.va_lo (h : Nat) : FieldRef := ⟨A.WB_BASE_LO h, 0, 32⟩
def F.WB_CTL.enable (h : Nat) : FieldRef := ⟨A.WB_CTL h, 0, 1⟩
def F.WB_CTL.format (h : Nat) : FieldRef := ⟨A.WB_CTL h, 1, 2⟩
def F.WB_CTL.phase (h : Nat) : FieldRef := ⟨A.WB_CTL h, 3, 3⟩
def F.WB_CTL.ring_m1 (h : Nat) : FieldRef := ⟨A.WB_CTL h, 6, 4⟩
def F.WB_DROPPED.count (h : Nat) : FieldRef := ⟨A.WB_DROPPED h, 0, 32⟩
def F.WB_INDEX.buffer (h : Nat) : FieldRef := ⟨A.WB_INDEX h, 0, 4⟩
def F.WB_RING_STEP.step (h : Nat) : FieldRef := ⟨A.WB_RING_STEP h, 0, 24⟩
def F.WB_STRIDE.stride (h : Nat) : FieldRef := ⟨A.WB_STRIDE h, 0, 24⟩
def F.WCLR_CTL.cal_fmt (w : Nat) : FieldRef := ⟨A.WCLR_CTL w, 8, 2⟩
def F.WCLR_CTL.dither (w : Nat) : FieldRef := ⟨A.WCLR_CTL w, 10, 2⟩
def F.WCLR_CTL.lut_set (w : Nat) : FieldRef := ⟨A.WCLR_CTL w, 2, 5⟩
def F.WCLR_CTL.matrix_en (w : Nat) : FieldRef := ⟨A.WCLR_CTL w, 7, 1⟩
def F.WCLR_CTL.post_lut (w : Nat) : FieldRef := ⟨A.WCLR_CTL w, 1, 1⟩
def F.WCLR_CTL.pre_lut (w : Nat) : FieldRef := ⟨A.WCLR_CTL w, 0, 1⟩
def F.WD_M2P.count (d : Nat) : FieldRef := ⟨A.WD_M2P d, 0, 32⟩
def F.WD_P2M.count (d : Nat) : FieldRef := ⟨A.WD_P2M d, 0, 32⟩
def F.WIN_BAND.lines (w : Nat) : FieldRef := ⟨A.WIN_BAND w, 0, 11⟩
def F.WIN_BREACH_LINES.count (w : Nat) : FieldRef := ⟨A.WIN_BREACH_LINES w, 0, 32⟩
def F.WIN_CTL.bitplane (w : Nat) : FieldRef := ⟨A.WIN_CTL w, 10, 1⟩
def F.WIN_CTL.canvas (w : Nat) : FieldRef := ⟨A.WIN_CTL w, 1, 3⟩
def F.WIN_CTL.depth_m1 (w : Nat) : FieldRef := ⟨A.WIN_CTL w, 12, 4⟩
def F.WIN_CTL.enable (w : Nat) : FieldRef := ⟨A.WIN_CTL w, 0, 1⟩
def F.WIN_CTL.mirror (w : Nat) : FieldRef := ⟨A.WIN_CTL w, 9, 1⟩
def F.WIN_CTL.phase (w : Nat) : FieldRef := ⟨A.WIN_CTL w, 4, 3⟩
def F.WIN_CTL.rotation (w : Nat) : FieldRef := ⟨A.WIN_CTL w, 7, 2⟩
def F.WIN_CTL.subst (w : Nat) : FieldRef := ⟨A.WIN_CTL w, 11, 1⟩
def F.WIN_LANE.group_log2 (w : Nat) : FieldRef := ⟨A.WIN_LANE w, 8, 2⟩
def F.WIN_LANE.lane (w : Nat) : FieldRef := ⟨A.WIN_LANE w, 0, 8⟩
def F.WIN_S0.s0 (w : Nat) : FieldRef := ⟨A.WIN_S0 w, 0, 26⟩
def F.WIN_SL.sl (w : Nat) : FieldRef := ⟨A.WIN_SL w, 0, 24⟩
def F.WIN_STATUS.active (w : Nat) : FieldRef := ⟨A.WIN_STATUS w, 0, 1⟩
def F.WIN_STATUS.halted (w : Nat) : FieldRef := ⟨A.WIN_STATUS w, 3, 1⟩
def F.WIN_STATUS.late (w : Nat) : FieldRef := ⟨A.WIN_STATUS w, 4, 1⟩
def F.WIN_STATUS.on_spare (w : Nat) : FieldRef := ⟨A.WIN_STATUS w, 2, 1⟩
def F.WIN_STATUS.shed (w : Nat) : FieldRef := ⟨A.WIN_STATUS w, 1, 1⟩
def F.WIN_WH.h_m1 (w : Nat) : FieldRef := ⟨A.WIN_WH w, 16, 14⟩
def F.WIN_WH.w_m1 (w : Nat) : FieldRef := ⟨A.WIN_WH w, 0, 14⟩
def F.WIN_XY.x (w : Nat) : FieldRef := ⟨A.WIN_XY w, 0, 16⟩
def F.WIN_XY.y (w : Nat) : FieldRef := ⟨A.WIN_XY w, 16, 15⟩
def F.XLAT_HITS.count : FieldRef := ⟨A.XLAT_HITS, 0, 32⟩
def F.XLAT_MISSES.count : FieldRef := ⟨A.XLAT_MISSES, 0, 32⟩
def F.XLAT_STOPS.count (d : Nat) : FieldRef := ⟨A.XLAT_STOPS d, 0, 32⟩
def F.Z_ORDER.z (h n : Nat) : FieldRef := ⟨A.Z_ORDER h n, 0, 8⟩

end Sys2Proof.Machine
end

