-- ==== Sys2Proof/Machine/Format.lean ====
section
/-! DEFINITION. Pixel formats: the table of R70, the decoding of stored samples to code values (R71, R72) and the CLUT
entries (R73). -/

namespace Sys2Proof.Machine

/-- A view of the registers: staged, active or pending. -/
abbrev View := Nat → Word

/-- A field through a view. -/
def fv (rd : View) (r : FieldRef) : Nat := bitsOf (rd r.addr).toNat r.lsb r.width

/-- A 48-bit address from its two halves. -/
def va48 (lo hi : Nat) : Nat := lo + hi * 2 ^ 32

/-- A row of the format table: allowed kinds, planes, horizontal and vertical chroma subsampling, pixels per group,
bytes per group of each plane, bits per pixel, sample depth and the class of layout. -/
structure Fmt where
  video   : Bool
  graphic : Bool
  bal     : Bool
  planes  : Nat
  hsub    : Bool
  vsub    : Bool
  ppg     : Nat
  gb      : List Nat
  bpp     : Nat
  depth   : Nat
  ycc     : Bool
  index   : Bool
  float   : Bool
  alpha   : Bool
deriving DecidableEq, Repr

/-- A packed RGB format of one plane. -/
def fmtRgb (v g b : Bool) (bytes depth : Nat) (float alpha : Bool) : Fmt :=
  ⟨v, g, b, 1, false, false, 1, [bytes], 8 * bytes, depth, false, false, float, alpha⟩

/-- An index format. -/
def fmtIdx (b : Bool) (ppg : Nat) : Fmt := ⟨false, true, b, 1, false, false, ppg, [1], 8 / ppg, 16, false, true, false, true⟩

/-- A pgroup format. -/
def fmtPg (hsub ycc : Bool) (ppg bytes depth : Nat) : Fmt :=
  ⟨true, false, false, 1, hsub, false, ppg, [bytes], 8 * bytes / ppg, depth, ycc, false, false, false⟩

/-- A planar YCbCr format. -/
def fmtPl (planes : Nat) (hsub vsub : Bool) (ppg : Nat) (gb : List Nat) (bpp depth : Nat) : Fmt :=
  ⟨true, false, false, planes, hsub, vsub, ppg, gb, bpp, depth, true, false, false, false⟩

/-- The format table (R70). The bytes per group of a plane with vertical subsampling are per pair of lines there; here
they are per group of one line of that plane. -/
def fmtInfo (code : Nat) : Option Fmt :=
  match code with
  | 0x01 => some (fmtRgb true true true 4 8 false true)
  | 0x02 => some (fmtRgb true true false 4 8 false true)
  | 0x03 => some (fmtRgb true true false 3 8 false false)
  | 0x04 => some (fmtRgb false true false 2 6 false false)
  | 0x05 => some (fmtRgb true true true 4 10 false true)
  | 0x06 => some (fmtRgb true true false 8 16 false true)
  | 0x07 => some (fmtRgb true true true 8 16 true true)
  | 0x10 => some (fmtIdx false 8)
  | 0x11 => some (fmtIdx false 4)
  | 0x12 => some (fmtIdx false 2)
  | 0x13 => some (fmtIdx true 1)
  | 0x20 => some (fmtPg true true 2 4 8)
  | 0x21 => some (fmtPg true true 2 5 10)
  | 0x22 => some (fmtPg true true 2 6 12)
  | 0x23 => some (fmtPg false true 4 15 10)
  | 0x24 => some (fmtPg false false 4 15 10)
  | 0x25 => some (fmtPg false false 2 9 12)
  | 0x30 => some (fmtPl 2 true true 2 [2, 2] 12 8)
  | 0x31 => some (fmtPl 2 true true 2 [4, 4] 24 10)
  | 0x32 => some (fmtPl 2 true false 2 [4, 4] 32 10)
  | 0x33 => some (fmtPl 3 true true 2 [2, 1, 1] 12 8)
  | 0x34 => some (fmtPl 3 false false 1 [2, 2, 2] 48 16)
  | _ => none

/-- The bytes one line of `width` pixels needs in plane `k` (R67). -/
def Fmt.lineBytes (f : Fmt) (k width : Nat) : Nat := ceilDiv width f.ppg * f.gb.getD k 0

/-- The planes of a layer as they are read: base and stride of each, in one address space. -/
structure Planes where
  asid : Nat
  base : List Nat
  stride : List Nat
deriving DecidableEq, Repr

/-- A reader of device-virtual memory: a byte of an address space, none where the read faults. -/
abbrev Mem := Nat → Nat → Option Byte

/-- `n` bytes at offset `k` of line `y` of plane `i` (R68). -/
def planeBytes (mem : Mem) (p : Planes) (i y k n : Nat) : Option (List Byte) :=
  (List.range n).mapM fun j => mem p.asid (p.base.getD i 0 + y * p.stride.getD i 0 + k + j)

/-- The `n` bytes of a group at offset `k` of line `y`, of which only those that hold `len` bits from bit `b` on are read. -/
def groupBytes (mem : Mem) (p : Planes) (y k n b len : Nat) : Option (List Byte) :=
  (List.range n).mapM fun j =>
    if b / 8 ≤ j ∧ 8 * j < b + len then mem p.asid (p.base.getD 0 0 + y * p.stride.getD 0 0 + k + j) else some 0

/-- The first byte of a plane that holds a column: a column of a packed 4:2:2 group is held from its luma sample on (R70, R71; DEDUCED,
log 154). -/
def Fmt.colByte (f : Fmt) (q x : Nat) : Nat :=
  let gb := f.gb.getD q 0
  x / f.ppg * gb + (if f.hsub && f.planes == 1 then x % 2 * (3 * f.depth / 8) else x % f.ppg * gb / f.ppg)

/-- Sample `i` of `n` bits of a group packed most significant bit first. -/
def pgSample (bs : List Byte) (i n : Nat) : Nat := bitsOf (ofBE bs) (8 * bs.length - n * (i + 1)) n

/-- An unsigned sample of `n` bits as a code value (R71). -/
def codeOf (n v : Nat) : F32 := f32RoundDiv false v (2 ^ n - 1) 0

/-- Raw samples of one pixel with their depths: three colour channels and alpha where the format has it. A binary16
sample has depth 0 here. -/
abbrev Raw := List (Nat × Nat)

/-- The raw colour samples of a pixel of a format without subsampling, or its luma sample alone (R71). The CLUT of an index
format is read by `clut`. -/
def rawPixel (mem : Mem) (clut : Nat → List Nat) (p : Planes) (code x y : Nat) : Option Raw :=
  let le (i k n : Nat) : Option Nat := (planeBytes mem p i y k n).map ofLE
  match code with
  | 0x01 => (planeBytes mem p 0 y (4 * x) 4).map fun b => b.map (fun v => (v.toNat, 8))
  | 0x02 => (planeBytes mem p 0 y (4 * x) 4).map fun b =>
      [2, 1, 0, 3].map (fun i => ((b.getD i 0).toNat, 8))
  | 0x03 => (planeBytes mem p 0 y (3 * x) 3).map fun b => b.map (fun v => (v.toNat, 8))
  | 0x04 => (le 0 (2 * x) 2).map fun w => [(bitsOf w 11 5, 5), (bitsOf w 5 6, 6), (bitsOf w 0 5, 5)]
  | 0x05 => (le 0 (4 * x) 4).map fun w =>
      [(bitsOf w 0 10, 10), (bitsOf w 10 10, 10), (bitsOf w 20 10, 10), (bitsOf w 30 2, 2)]
  | 0x06 => (le 0 (8 * x) 8).map fun w => (List.range 4).map (fun i => (bitsOf w (16 * i) 16, 16))
  | 0x07 => (le 0 (8 * x) 8).map fun w => (List.range 4).map (fun i => (bitsOf w (16 * i) 16, 0))
  | 0x10 => (planeBytes mem p 0 y (x / 8) 1).map fun b => (clut (pgSample b (x % 8) 1)).map (·, 16)
  | 0x11 => (planeBytes mem p 0 y (x / 4) 1).map fun b => (clut (pgSample b (x % 4) 2)).map (·, 16)
  | 0x12 => (planeBytes mem p 0 y (x / 2) 1).map fun b => (clut (pgSample b (x % 2) 4)).map (·, 16)
  | 0x13 => (planeBytes mem p 0 y x 1).map fun b => (clut (pgSample b 0 8)).map (·, 16)
  | 0x20 => (groupBytes mem p y (4 * (x / 2)) 4 (8 * (1 + 2 * (x % 2))) 8).map fun b => [(pgSample b (1 + 2 * (x % 2)) 8, 8)]
  | 0x21 => (groupBytes mem p y (5 * (x / 2)) 5 (10 * (1 + 2 * (x % 2))) 10).map fun b => [(pgSample b (1 + 2 * (x % 2)) 10, 10)]
  | 0x22 => (groupBytes mem p y (6 * (x / 2)) 6 (12 * (1 + 2 * (x % 2))) 12).map fun b => [(pgSample b (1 + 2 * (x % 2)) 12, 12)]
  | 0x23 => (groupBytes mem p y (15 * (x / 4)) 15 (30 * (x % 4)) 30).map fun b =>
      [1, 0, 2].map (fun i => (pgSample b (3 * (x % 4) + i) 10, 10))
  | 0x24 => (groupBytes mem p y (15 * (x / 4)) 15 (30 * (x % 4)) 30).map fun b =>
      [0, 1, 2].map (fun i => (pgSample b (3 * (x % 4) + i) 10, 10))
  | 0x25 => (groupBytes mem p y (9 * (x / 2)) 9 (36 * (x % 2)) 36).map fun b =>
      [0, 1, 2].map (fun i => (pgSample b (3 * (x % 2) + i) 12, 12))
  | 0x30 => (planeBytes mem p 0 y x 1).map fun b => [((b.getD 0 0).toNat, 8)]
  | 0x31 => (le 0 (2 * x) 2).map fun w => [(bitsOf w 6 10, 10)]
  | 0x32 => (le 0 (2 * x) 2).map fun w => [(bitsOf w 6 10, 10)]
  | 0x33 => (planeBytes mem p 0 y x 1).map fun b => [((b.getD 0 0).toNat, 8)]
  | 0x34 => do
      let a ← le 0 (2 * x) 2
      let b ← le 1 (2 * x) 2
      let c ← le 2 (2 * x) 2
      pure [(a, 16), (b, 16), (c, 16)]
  | _ => none

/-- The raw chroma samples of a subsampled format at chroma column `x` and chroma line `y` of the buffer (R71). -/
def rawChroma (mem : Mem) (p : Planes) (code x y : Nat) : Option Raw :=
  let le (i k n : Nat) : Option Nat := (planeBytes mem p i y k n).map ofLE
  match code with
  | 0x20 => (groupBytes mem p y (4 * x) 4 0 24).map fun b => [(pgSample b 0 8, 8), (pgSample b 2 8, 8)]
  | 0x21 => (groupBytes mem p y (5 * x) 5 0 30).map fun b => [(pgSample b 0 10, 10), (pgSample b 2 10, 10)]
  | 0x22 => (groupBytes mem p y (6 * x) 6 0 36).map fun b => [(pgSample b 0 12, 12), (pgSample b 2 12, 12)]
  | 0x30 => (planeBytes mem p 1 y (2 * x) 2).map fun b => b.map (fun v => (v.toNat, 8))
  | 0x31 | 0x32 => (le 1 (4 * x) 4).map fun w => [(bitsOf w 6 10, 10), (bitsOf w 22 10, 10)]
  | 0x33 => do
      let a ← planeBytes mem p 1 y x 1
      let b ← planeBytes mem p 2 y x 1
      pure [((a.getD 0 0).toNat, 8), ((b.getD 0 0).toNat, 8)]
  | _ => none

/-- A raw sample as a code value (R71, R72). -/
def sampleCode (s : Nat × Nat) : F32 := if s.2 = 0 then f32OfF16Fin s.1 else codeOf s.2 s.1

/-- Whether a raw sample is one of the non-finite samples of R72. -/
def sampleNonFinite (s : Nat × Nat) : Bool := s.2 == 0 && (f16IsNan s.1 || f16IsInf s.1)

end Sys2Proof.Machine
end

