-- ==== Sys2Proof/Machine/Transfer.lean ====
section
/-! DEFINITION. The transfer functions of R129, their node tables and the evaluator of R130, and the matrices and
luma weights of R121 and R124 to R126. A node is its formula evaluated in fixed point with `fxP` fraction bits and
rounded once to binary32 (DEDUCED, log 21: the working precision stands for the exact value). -/

namespace Sys2Proof.Machine

/-- Fraction bits of the fixed-point working precision. -/
def fxP : Nat := 220
def fxOne : Int := (2 ^ fxP : Nat)
def fxMul (a b : Int) : Int := (a * b) / fxOne
def fxDiv (a b : Int) : Int := (a * fxOne) / b
def fxOfRat (q : Rat) : Int := (q.num * fxOne) / (q.den : Int)

/-- The series of `2 atanh z`, `n` terms left, the power `zp = z ^ (2 i + 1)`. -/
def fxAtanh2 (zz : Int) : Nat → Nat → Int → Int
  | 0, _, _ => 0
  | n + 1, i, zp => 2 * zp / ((2 * i + 1 : Nat) : Int) + fxAtanh2 zz n (i + 1) (fxMul zp zz)

/-- `ln m` for `m` in [1, 2). -/
def fxLnUnit (m : Int) : Int :=
  let z := fxDiv (m - fxOne) (m + fxOne)
  fxAtanh2 (fxMul z z) 80 0 z

/-- `ln 2`. -/
def fxLn2 : Int := fxAtanh2 (fxOne / 9) 80 0 (fxOne / 3)

/-- `ln x` for `x > 0`. -/
def fxLn (x : Int) : Int :=
  let l : Int := (Nat.log2 x.toNat : Int) - (fxP : Int)
  let m := if l < 0 then x * (2 ^ (-l).toNat : Nat) else x / (2 ^ l.toNat : Nat)
  fxLnUnit m + l * fxLn2

/-- The exponential series, `n` terms left, the current term `t = r ^ i / i!`. -/
def fxExpSeries (r : Int) : Nat → Nat → Int → Int
  | 0, _, _ => 0
  | n + 1, i, t => t + fxExpSeries r n (i + 1) (fxMul t r / ((i + 1 : Nat) : Int))

/-- `exp x`. -/
def fxExp (x : Int) : Int :=
  let n := x / fxLn2
  let e := fxExpSeries (x - n * fxLn2) 56 0 fxOne
  if n < 0 then e / (2 ^ (-n).toNat : Nat) else e * (2 ^ n.toNat : Nat)

/-- `x ^ q` for `x ≥ 0` and a rational exponent. -/
def fxPow (x : Int) (q : Rat) : Int :=
  if x ≤ 0 then 0 else fxExp (fxLn x * q.num / (q.den : Int))

/-- Round a fixed-point value to binary32. -/
def fxRound (x : Int) : F32 := f32Round (x < 0) x.natAbs (-(fxP : Int))

def pqM1 : Rat := 2610 / 16384
def pqM2 : Rat := 2523 * 128 / 4096
def pqC1 : Rat := 3424 / 4096
def pqC2 : Rat := 2413 * 32 / 4096
def pqC3 : Rat := 2392 * 32 / 4096
def hlgA : Rat := 17883277 / 100000000
def hlgB : Rat := 28466892 / 100000000
def hlgC : Rat := 55991073 / 100000000

/-- The decode functions of R129 at an exact argument; none where the formula has no value. -/
def tfDecode (tf : Nat) (e : Int) : Option Int :=
  match tf with
  | 1 => some (if e ≤ fxOfRat (4045 / 100000) then e * 100 / 1292
      else fxPow ((e + fxOfRat (55 / 1000)) * 1000 / 1055) (12 / 5))
  | 2 => some (fxPow e (11 / 5))
  | 3 => some (fxPow e (12 / 5))
  | 4 =>
    let p := fxPow e (1 / pqM2)
    let d := fxOfRat pqC2 - fxMul (fxOfRat pqC3) p
    if d ≤ 0 then none else some (fxPow (fxDiv (max (p - fxOfRat pqC1) 0) d) (1 / pqM1))
  | 5 => some (if e ≤ fxOne / 2 then fxMul e e / 3
      else (fxExp (fxDiv (e - fxOfRat hlgC) (fxOfRat hlgA)) + fxOfRat hlgB) / 12)
  | _ => some e

/-- The encode functions: the exact inverses of R129. -/
def tfEncode (tf : Nat) (y : Int) : Option Int :=
  match tf with
  | 1 => some (if y ≤ fxOfRat (4045 / 1292000) then y * 1292 / 100
      else fxPow y (5 / 12) * 1055 / 1000 - fxOfRat (55 / 1000))
  | 2 => some (fxPow y (5 / 11))
  | 3 => some (fxPow y (5 / 12))
  | 4 =>
    let p := fxPow y pqM1
    some (fxPow (fxDiv (fxOfRat pqC1 + fxMul (fxOfRat pqC2) p) (fxOne + fxMul (fxOfRat pqC3) p)) pqM2)
  | 5 => some (if y ≤ fxOne / 12 then fxPow (3 * y) (1 / 2)
      else fxMul (fxOfRat hlgA) (fxLn (12 * y - fxOfRat hlgB)) + fxOfRat hlgC)
  | _ => some y

/-- The position of node `k` (R130). -/
def nodeX (k : Nat) : Int :=
  let e : Int := ((k / 256 : Nat) : Int) - 20
  let m := fxOne * ((256 + k % 256 : Nat) : Int) / 256
  if e < 0 then m / (2 ^ (-e).toNat : Nat) else m * (2 ^ e.toNat : Nat)

/-- Node `T[k]` of table `j` in the order of R152: sRGB, gamma 2.2, gamma 2.4, PQ and HLG, each a decode then encode pair. -/
def tfNode (j k : Nat) : F32 :=
  match (if j % 2 = 0 then tfDecode (j / 2 + 1) (nodeX k) else tfEncode (j / 2 + 1) (nodeX k)) with
  | some y => fxRound y
  | none => Config.noNode j k

/-- The transfer evaluator (R130): `enc` selects the encode table of function `tf`. -/
def tfEval (enc : Bool) (tf : Nat) (x : F32) : F32 :=
  if tf = 0 then f32NanZero x
  else
    let j := 2 * (tf - 1) + b2n enc
    let x := f32NanZero x
    let neg := f32Neg x
    let x := x &&& 0x7FFFFFFF
    let hdr := tf = 4 ∨ tf = 5
    let x := if hdr then (if neg then f32Zero else f32Min x f32One) else x
    let x := f32Min x 0x40000000
    let e : Int := (bitsOf x.toNat 23 8 : Int) - 127
    let m := bitsOf x.toNat 0 23
    let y :=
      if x = 0x40000000 then tfNode j 5376
      else if e < -20 then f32Mul (f32Mul x 0x49800000) (tfNode j 0)
      else
        let k := (e + 20).toNat * 256 + m >>> 15
        let f := f32Round false (m % 0x8000) (-15)
        f32Fma f (f32Sub (tfNode j (k + 1)) (tfNode j k)) (tfNode j k)
    if neg && !hdr then f32Flip y else y

def tfDec (tf : Nat) (x : F32) : F32 := tfEval false tf x
def tfEnc (tf : Nat) (x : F32) : F32 := tfEval true tf x

/-! ## Matrices -/

/-- A three by three matrix as three rows. -/
abbrev Mat (α : Type) := List (List α)

def matAt (m : Mat Rat) (i j : Nat) : Rat := (m.getD i []).getD j 0

/-- The exact product of two matrices. -/
def matMul (a b : Mat Rat) : Mat Rat :=
  (List.range 3).map fun i => (List.range 3).map fun j =>
    matAt a i 0 * matAt b 0 j + matAt a i 1 * matAt b 1 j + matAt a i 2 * matAt b 2 j

/-- The exact inverse, by cofactors. -/
def matInv (m : Mat Rat) : Mat Rat :=
  let c (i j : Nat) : Rat :=
    matAt m ((i + 1) % 3) ((j + 1) % 3) * matAt m ((i + 2) % 3) ((j + 2) % 3)
      - matAt m ((i + 1) % 3) ((j + 2) % 3) * matAt m ((i + 2) % 3) ((j + 1) % 3)
  let det := matAt m 0 0 * c 0 0 + matAt m 0 1 * c 0 1 + matAt m 0 2 * c 0 2
  (List.range 3).map fun i => (List.range 3).map fun j => c j i / det

/-- The R′G′B′ rows of a non-constant-luminance Y′CbCr (R124). -/
def yccRows (kr kb : Rat) : Mat Rat :=
  let kg := 1 - kr - kb
  [[1, 0, 2 * (1 - kr)], [1, -2 * kb * (1 - kb) / kg, -2 * kr * (1 - kr) / kg], [1, 2 * (1 - kb), 0]]

def ictcpMat : Mat Rat :=
  [[1 / 2, 1 / 2, 0], [6610 / 4096, -13613 / 4096, 7003 / 4096], [17933 / 4096, -17390 / 4096, -543 / 4096]]
def lmsMat : Mat Rat :=
  [[1688 / 4096, 2146 / 4096, 262 / 4096], [683 / 4096, 2951 / 4096, 462 / 4096],
   [99 / 4096, 309 / 4096, 3688 / 4096]]

/-- RGB to XYZ from chromaticities and D65 white. -/
def primMat (xr yr xg yg xb yb : Rat) : Mat Rat :=
  let p : Mat Rat := [[xr / yr, xg / yg, xb / yb], [1, 1, 1],
    [(1 - xr - yr) / yr, (1 - xg - yg) / yg, (1 - xb - yb) / yb]]
  let xw : Rat := 3127 / 10000
  let yw : Rat := 3290 / 10000
  let w : List Rat := [xw / yw, 1, (1 - xw - yw) / yw]
  let q := matInv p
  let s := (List.range 3).map fun i => matAt q i 0 * w.getD 0 0 + matAt q i 1 * w.getD 1 0 + matAt q i 2 * w.getD 2 0
  (List.range 3).map fun i => (List.range 3).map fun j => matAt p i j * s.getD j 0

def mat709 : Mat Rat := primMat (64 / 100) (33 / 100) (30 / 100) (60 / 100) (15 / 100) (6 / 100)
def mat2020 : Mat Rat := primMat (708 / 1000) (292 / 1000) (170 / 1000) (797 / 1000) (131 / 1000) (46 / 1000)

def matF32 (m : Mat Rat) : Mat F32 := m.map (fun r => r.map f32OfRat)

/-- Matrix 1, 2 or 3 of R124 in binary32. -/
def matrix1 (code : Nat) : Mat F32 :=
  match code with
  | 1 => matF32 (yccRows (2126 / 10000) (722 / 10000))
  | 2 => matF32 (yccRows (2627 / 10000) (593 / 10000))
  | _ => matF32 (matInv ictcpMat)

/-- Matrix 2 of R125. -/
def matrix2 : Mat F32 := matF32 (matInv lmsMat)

/-- The primaries conversion from code `a` to code `b` (R126). -/
def matPrim (a b : Nat) : Mat F32 :=
  if a = 0 ∧ b = 1 then matF32 (matMul (matInv mat2020) mat709) else matF32 (matMul (matInv mat709) mat2020)

/-- The luma weights of the working space (R121). -/
def lumaW (prim : Nat) : List F32 :=
  if prim = 0 then [f32OfRat (2126 / 10000), f32OfRat (7152 / 10000), f32OfRat (722 / 10000)]
  else [f32OfRat (2627 / 10000), f32OfRat (6780 / 10000), f32OfRat (593 / 10000)]

/-- Component `i` of a vector. -/
def vAt (v : List F32) (i : Nat) : F32 := v.getD i f32Zero

/-- The matrix product in the evaluation order of R122. -/
def matVec (m : Mat F32) (v : List F32) : List F32 :=
  m.map fun r => f32Fma (vAt r 2) (vAt v 2) (f32Fma (vAt r 1) (vAt v 1) (f32Mul (vAt r 0) (vAt v 0)))

/-- The luminance of R127 and R133. -/
def lumaOf (prim : Nat) (v : List F32) : F32 :=
  let k := lumaW prim
  f32Fma (vAt k 2) (vAt v 2) (f32Fma (vAt k 1) (vAt v 1) (f32Mul (vAt k 0) (vAt v 0)))

/-- The constants of page 9 from address 81,920 in the order of R152. -/
def pageConsts : List F32 :=
  (matrix1 1).flatten ++ (matrix1 2).flatten ++ (matrix1 3).flatten ++ matrix2.flatten
    ++ (matPrim 0 1).flatten ++ (matPrim 1 0).flatten ++ lumaW 0 ++ lumaW 1

end Sys2Proof.Machine
end

