-- ==== Sys2Proof/Machine/Colour.lean ====
section
/-! DEFINITION. The colour pipeline: the conversion L of a layer (R123 to R127), the blend (R76 to R79), the tone
stage (R132, R133), output encoding (R134), the 3D LUT (R135), the stored forms (R83, R136) and the window stages
(R146 to R149). -/

namespace Sys2Proof.Machine

/-- The colour settings of a layer. -/
structure LayerClr where
  narrow : Bool
  matrix : Nat
  tf     : Nat
  prim   : Nat
  clip   : Bool
  sdr    : Nat
  hlg    : Nat
  knee   : Nat
  peak   : Nat
deriving DecidableEq, Repr

/-- The range step of one channel (R123): `chroma` for Cb, Cr, Ct, Cp. -/
def rangeStep (narrow chroma : Bool) (n : Nat) (c : F32) : F32 :=
  let full : Rat := (2 ^ n - 1 : Nat)
  let (a, b) : Rat × Rat :=
    if narrow then
      if chroma then (full / (224 * 2 ^ (n - 8) : Nat), -4 / 7) else (full / (219 * 2 ^ (n - 8) : Nat), -16 / 219)
    else if chroma then (1, -((2 ^ (n - 1) : Nat) : Rat) / full) else (1, 0)
  f32Fma c (f32OfRat a) (f32OfRat b)

/-- The depth of a channel of a format (R123): RGB565 has 5, 6 and 5. For depths below 8 the narrow constants use the
exact power of two (R123 states the formula; DEDUCED, log 22). -/
def chanDepth (code depth i : Nat) : Nat := if code = 0x04 then (if i = 1 then 6 else 5) else depth

/-- The narrow range step for a depth below 8, where 2^(n-8) is a fraction. -/
def rangeStepLow (narrow : Bool) (n : Nat) (c : F32) : F32 :=
  let full : Rat := (2 ^ n - 1 : Nat)
  if narrow then f32Fma c (f32OfRat (full * (2 ^ (8 - n) : Nat) / 219)) (f32OfRat (-16 / 219))
  else f32Fma c f32One f32Zero

/-- The soft clip (R127). -/
def softClip (prim knee peak : Nat) (w : List F32) : List F32 :=
  let k := f32OfF16 knee
  let p := f32OfF16 peak
  let y := lumaOf prim w
  if f32Lt k y then
    let r := f32Sub y k
    let q := f32Sub p k
    let y' := f32Add k (f32Div (f32Mul r q) (f32Add r q))
    w.map fun v => f32Mul v (f32Div y' y)
  else w

/-- The conversion L of code values to the working space (steps 3 to 8 of R120). `prim` and `ref` are the canvas's working
primaries and reference white. -/
def convertL (code : Nat) (f : Fmt) (c : LayerClr) (prim ref : Nat) (v : List F32) : List F32 :=
  let e := if f.float then v else v.zipIdx.map fun (x : F32 × Nat) =>
    let n := chanDepth code f.depth x.2
    if n < 8 then rangeStepLow c.narrow n x.1 else rangeStep c.narrow (f.ycc && x.2 != 0) n x.1
  let m := if c.matrix = 0 then e else matVec (matrix1 c.matrix) e
  let l := m.map (tfDec c.tf)
  let l := if c.matrix = 3 then matVec matrix2 l else l
  let num : Nat := if c.tf = 4 then 10000 else if c.tf = 5 then c.hlg else c.sdr
  let w := l.map fun x => f32Mul x (f32OfRat ((num : Rat) / ref))
  let w := if c.prim = prim then w else matVec (matPrim c.prim prim) w
  if c.clip then softClip prim c.knee c.peak w else w

/-- One blend (R78): over or additive. -/
def blendStep (additive : Bool) (d : List F32) (s : List F32 × F32) : List F32 :=
  let k := f32Sub f32One s.2
  d.zipIdx.map fun (x : F32 × Nat) =>
    if additive then f32Add x.1 (vAt s.1 x.2) else f32Fma x.1 k (vAt s.1 x.2)

/-- Cs and As of a layer sample (R76, R77), or under opaque_static (R80). `uns` says that the format is unsigned. -/
def layerSample (conv : List F32 → List F32) (mode alpha16 : Nat) (opaqueS uns : Bool) (cp : List F32) (a : F32) :
    List F32 × F32 :=
  let a := if opaqueS then f32One else a
  let g := if opaqueS then f32One else f32RoundDiv false alpha16 65535 0
  let unmul (x : F32) : F32 :=
    let q := f32Div x a
    if uns then f32Min q f32One else q
  let scaled (w : List F32) : List F32 := w.map fun x => f32Mul x a
  let (cs, as) : List F32 × F32 :=
    match mode with
    | 0 => if f32Lt f32Zero a then (scaled (conv (cp.map unmul)), a) else (conv cp, f32Zero)
    | 1 => (scaled (conv cp), a)
    | _ => (conv cp, f32One)
  (cs.map fun x => f32Mul g x, f32Mul g as)

/-- The lookup of R132 through an entry reader of binary16 patterns. -/
def lut4096 (entry : Nat → Nat) (v : F32) : F32 :=
  let v := f32Clamp01 (f32NanZero v)
  let p := f32Mul v (f32OfNat 4095)
  let i := f32Floor p
  let f := f32Sub p (f32OfNat i)
  let (i, f) := if 4095 ≤ i then (4094, f32One) else (i, f)
  let l (k : Nat) : F32 := f32OfF16Fin (entry k)
  f32Fma f (f32Sub (l (i + 1)) (l i)) (l i)

/-- The value u of R133. -/
def toneU (prim ref : Nat) (d : List F32) : F32 :=
  let y := f32NanZero (lumaOf prim d)
  if f32Lt f32Zero y then tfEnc 4 (f32Mul y (f32OfRat ((ref : Rat) / 10000))) else f32Zero

/-- The output encoding (R134). -/
def outEncode (tf ref outWhite hlg : Nat) (d : List F32) : List F32 :=
  let k : Rat := if tf = 4 then (ref : Rat) / 10000 else if tf = 5 then (ref : Rat) / hlg else (ref : Rat) / outWhite
  d.map fun x => tfEnc tf (f32Mul x (f32OfRat k))

/-- Order of the axes by descending fraction, ties in R, G, B order (R135). -/
def axisOrder (f : List F32) : List Nat :=
  let ins (l : List Nat) (k : Nat) : List Nat :=
    (l.takeWhile fun j => f32Le (vAt f k) (vAt f j)) ++ k :: (l.dropWhile fun j => f32Le (vAt f k) (vAt f j))
  (List.range 3).foldl ins []

/-- The cell of the 3D LUT that a value lies in, and its fractions there (R135). -/
def lutCell (e : List F32) : List Nat × List F32 :=
  let p := e.map fun x => f32Mul (f32Clamp01 (f32NanZero x)) (f32OfNat 32)
  let i := p.map fun x => min (f32Floor x) 31
  (i, (p.zip i).map fun (x : F32 × Nat) => f32Sub x.1 (f32OfNat x.2))

/-- Corner `n` of the path through the cell of a value, from 0 to 3 (R135). -/
def lutCorner (e : List F32) (n : Nat) : List Nat :=
  let c := lutCell e
  let ord := axisOrder c.2
  (List.range 3).map fun a => c.1.getD a 0 + (if ord.idxOf a < n then 1 else 0)

/-- The 3D LUT (R135); `node r g b c` is the 16-bit value of channel `c`. -/
def lut3d (node : Nat → Nat → Nat → Nat → Nat) (e : List F32) : List F32 :=
  let f := (lutCell e).2
  let ord := axisOrder f
  let val (n c : Nat) : F32 :=
    let q := lutCorner e n
    codeOf 16 (node (q.getD 0 0) (q.getD 1 0) (q.getD 2 0) c)
  (List.range 3).map fun c =>
    (List.range 3).foldl (fun out n =>
      f32Fma (vAt f (ord.getD n 0)) (f32Sub (val (n + 1) c) (val n c)) out) (val 0 c)

/-- An encoded value at `n` bits, rounded to nearest even (R136). -/
def quantRne (n : Nat) (e : F32) : Nat :=
  f32Rne (f32Mul (f32Clamp01 (f32NanZero e)) (f32OfNat (2 ^ n - 1)))

/-- The dither number B of R149. -/
def ditherB (x y : Nat) : Nat :=
  let a := x ^^^ y
  bitOf a 0 * 32 + bitOf y 0 * 16 + bitOf a 1 * 8 + bitOf y 1 * 4 + bitOf a 2 * 2 + bitOf y 2

/-- The quantisation of R149 at depth `d`. -/
def quantise (dither d x y n : Nat) (v : F32) : Nat :=
  let v := f32Clamp01 (f32NanZero v)
  let (x, y) := if dither = 2 then (x + 3 * (n % 8), y + 5 * (n % 8)) else (x, y)
  let t := if dither = 1 ∨ dither = 2 then f32OfRat (((ditherB (x % 8) (y % 8) : Nat) + (1 / 2 : Rat)) / 64)
    else f32OfRat (1 / 2)
  min (f32Floor (f32Fma v (f32OfNat (2 ^ d - 1)) t)) (2 ^ d - 1)

/-- The window matrix with its offset (R146). -/
def windowMat (m : Mat F32) (o v : List F32) : List F32 :=
  m.zipIdx.map fun (r : List F32 × Nat) =>
    f32Fma (vAt r.1 2) (vAt v 2) (f32Fma (vAt r.1 1) (vAt v 1) (f32Fma (vAt r.1 0) (vAt v 0) (vAt o r.2)))

/-- The calibration of a pixel from its record (R148). -/
def calibrate (fmt : Nat) (rec : List Byte) (v : List F32) : List F32 :=
  if fmt = 1 then
    v.zipIdx.map fun (x : F32 × Nat) =>
      f32Mul x.1 (f32RoundDiv false (ofLE (slice rec (2 * x.2) 2)) 16384 0)
  else
    let m (k : Nat) : F32 :=
      let s := signedOf (ofLE (slice rec (2 * k) 2)) 16
      f32Round (s < 0) s.natAbs (-14)
    matVec [[m 0, m 1, m 2], [m 3, m 4, m 5], [m 6, m 7, m 8]] v

end Sys2Proof.Machine
end

