-- ==== Sys2Proof/Machine/Scaler.lean ====
section
/-! DEFINITION. The polyphase scaler of the video layers: steps and positions (R95 to R97), taps and weights (R100 to
R102), the filter (R105), edges (R107), chroma siting (R108) and the halved vertical fetch (R112), and the source
columns of the line-buffer pool (R114). -/

namespace Sys2Proof.Machine

/-- The step of an axis in units of 2^-32 source pixels (R95). -/
def scaleStep (s d : Nat) : Nat := (s * 2 ^ 32 + d / 2) / d

/-- The source position of destination column `j` (R97). -/
def scalePos (step : Nat) (ofs : Int) (j : Nat) : Int :=
  (((2 * j + 1) * step / 2 : Nat) : Int) - 2 ^ 31 + ofs * 2 ^ 16

/-- The source index of a position. -/
def posIndex (pos : Int) : Int := pos / 2 ^ 32

/-- The phase of a position, 0 to 63. -/
def posPhase (pos : Int) : Nat := ((pos % 2 ^ 32) / 2 ^ 26).toNat

/-- The chroma position of a luma position with siting offset `sit` (R108). -/
def chromaPos (pos : Int) (sit : Nat) : Int := (pos - (sit : Int) * 2 ^ 31) / 2

/-- The first source index of an `n`-tap filter at a position (R100). -/
def firstTap (n : Nat) (pos : Int) : Int :=
  if n = 1 then posIndex pos else posIndex pos - (n / 2 : Nat) + 1

/-- The weights of an `n`-tap filter from a table of `len` entries per phase (R102). -/
def tapWeights (table : Nat → Nat → Int) (len n : Nat) (pos : Int) : List F32 :=
  let ph := posPhase pos
  let w (c : Int) : F32 := f32Round (c < 0) c.natAbs (-10)
  if n = 1 then [w (table ph (len / 2 - 1) + table ph (len / 2))]
  else (List.range n).map fun k => w (table ph (k + len / 2 - n / 2))

/-- A source axis: its extent, its corner in the buffer, the buffer's size and the line spacing (2 when halved). -/
structure Axis where
  s       : Nat
  origin  : Nat
  buf     : Nat
  spacing : Nat
deriving DecidableEq, Repr

/-- The buffer index that a tap at source index `x` reads under an edge mode, and whether it lies outside (R107, R112). -/
def edgeMap (mode : Nat) (a : Axis) (x : Int) : Nat × Bool :=
  let outside : Bool := decide (x < 0 ∨ (a.s : Int) ≤ x)
  let into (i : Int) : Nat := a.origin + a.spacing * (clampI i 0 (a.s - 1)).toNat
  match mode with
  | 1 => (into (if x < 0 then -x else if (a.s : Int) - 1 < x then 2 * (a.s - 1) - x else x), outside)
  | 2 => ((clampI (a.origin + a.spacing * x) 0 (a.buf - 1)).toNat, outside)
  | _ => (into x, outside)

/-- The parameters of one filtered channel group: axes, positions, taps, weights and edge modes. -/
structure Filt where
  ax : Axis
  ay : Axis
  firstX : Int
  firstY : Int
  wx : List F32
  wy : List F32
  edgeX : Nat
  edgeY : Nat
deriving DecidableEq, Repr

/-- The vertical filter of one source column, then none where a tap is invalid (R105, R110). The sampler hears whether the
tap lies outside in an axis whose edge mode fades alpha (R107). -/
def filtColumn (f : Filt) (smp : Nat → Nat → Bool → Option F32) (x : Int) : Option F32 :=
  let cx := edgeMap f.edgeX f.ax x
  f.wy.zipIdx.foldlM (fun (acc : F32) (w : F32 × Nat) =>
    let cy := edgeMap f.edgeY f.ay (f.firstY + (w.2 : Int))
    (smp cx.1 cy.1 (cx.2 && f.edgeX == 3 || cy.2 && f.edgeY == 3)).map fun v => f32Fma w.1 v acc) f32Zero

/-- The filtered sample: vertical, then horizontal (R105). -/
def filtSample (f : Filt) (smp : Nat → Nat → Bool → Option F32) : Option F32 :=
  f.wx.zipIdx.foldlM (fun (acc : F32) (w : F32 × Nat) =>
    (filtColumn f smp (f.firstX + (w.2 : Int))).map fun v => f32Fma w.1 v acc) f32Zero

/-- The least and greatest index of some indices. -/
def spanOf : List Nat → Nat × Nat
  | [] => (0, 0)
  | x :: l => (l.foldl min x, l.foldl max x)

/-- Least and greatest index that the taps of columns `ja` to `jb` read after the edge rule, given each column's first tap:
the mapped ends where the mapping keeps the order, else over every tap (R114). -/
def tapRange (mode : Nat) (a : Axis) (first : Nat → Int) (n ja jb : Nat) : Nat × Nat :=
  let m (x : Int) : Nat := (edgeMap mode a x).1
  if mode = 1 then
    spanOf ((List.range (jb + 1 - ja)).flatMap fun i => (List.range n).map fun (k : Nat) => m (first (ja + i) + (k : Int)))
  else (m (first ja), m (first jb + (n : Int) - 1))

/-- The source columns of R114 for the columns `ja` to `jb`, as first and last. -/
def srcSpan (mode : Nat) (a : Axis) (step : Nat) (ofs : Int) (n ja jb : Nat) : Nat × Nat :=
  tapRange mode a (fun j => firstTap n (scalePos step ofs j)) n ja jb

end Sys2Proof.Machine
end

