-- ==== Sys2Proof/Machine/Table.lean ====
section
/-! DEFINITION. A sparse table: the one form in which the model holds an array of like things by index. It lists
the indices whose entry differs from what an unlisted index reads as, in rising order. -/

namespace Sys2Proof.Machine

/-- A sparse table by index. -/
abbrev Tab (α : Type) := List (Nat × α)

variable {α : Type}

/-- The entry at an index; `d` is what an unlisted index reads as. -/
def Tab.get (d : Nat → α) : Tab α → Nat → α
  | [], k => d k
  | e :: m, k => if e.1 = k then e.2 else Tab.get d m k

/-- Insert an entry before the first larger index. -/
def Tab.insert (k : Nat) (v : α) : Tab α → Tab α
  | [] => [(k, v)]
  | e :: m => if k < e.1 then (k, v) :: e :: m else e :: Tab.insert k v m

/-- Drop the entries at an index. -/
def Tab.erase (k : Nat) (m : Tab α) : Tab α := m.filter (fun e => e.1 != k)

/-- Write the entry at an index; an entry equal to the default is not listed. -/
def Tab.set [DecidableEq α] (d : Nat → α) (m : Tab α) (k : Nat) (v : α) : Tab α :=
  if v = d k then Tab.erase k m else Tab.insert k v (Tab.erase k m)

/-- The indices listed are strictly rising. -/
def Tab.sorted : Tab α → Bool
  | [] => true
  | e :: m => m.all (fun f => e.1 < f.1) && Tab.sorted m

/-- The canonical form: indices strictly rising and no entry equal to the default. -/
def Tab.wf [DecidableEq α] (d : Nat → α) (m : Tab α) : Bool :=
  Tab.sorted m && m.all (fun e => decide (e.2 ≠ d e.1))

end Sys2Proof.Machine
end

