-- ==== Sys2Proof/Machine/State.lean ====
section
/-! DEFINITION. The state of the module as plain data. Registers live in sparse tables whose defaults are the reset
values of the register map; what the chapters describe beside registers has records of its own. -/

namespace Sys2Proof.Machine

/-! ## Registers -/

/-- The register file: `stored` holds every register with the staged value of its RWS fields, `active` the active
values and `pend` the pending bank of RWS fields (R23, R25, R275), `dry` the bank of a dry run (R26), `held` the counters of
the last snapshot (R283), `loc` the session-local fields by accessor (R278), `ind` the words of the indirect
spaces by page and address (R280) and `heldInd` their counters at the last snapshot. -/
structure Regs where
  stored  : Tab Word
  active  : Tab Word
  pend    : Tab Word
  dry     : Tab Word
  held    : Tab Word
  loc     : Tab Word
  ind     : Tab Word
  heldInd : Tab Word
deriving DecidableEq, Repr

/-- An instant at which something starts: of the canvas time of a canvas (R466), or of TC where none is named. -/
structure When where
  canvas : Option Nat
  at'    : Nat
deriving DecidableEq, Repr

/-! ## Commits (R24 to R39, R255 to R260) -/

/-- A commit or dry run from acceptance on. `due` is TICK_TIME(ref, T) on the stream of its acceptance, `horizon` is the horizon
in force at its arrival (R36), `cancelAt` a held cancel, `level` the requester's level (R38), `sess` the Aedwin session that
asked (R323), `taken` the descent steps of its admission by layer key and `why` the resource of the last step of each layer
(R189), `canvases` those it still has to apply on, `globals` whether the fields of no canvas are
still to be applied (R33). -/
structure Commit where
  gen       : Word
  target    : Nat
  ref       : Nat
  cascade   : Bool
  dryRun    : Bool
  level     : Nat
  sess      : Option Nat
  due       : Nat
  arrival   : Nat
  horizon   : Nat
  cancelAt  : Option Nat
  taken     : Tab Nat
  why       : Tab Nat
  canvases  : List Nat
  globals   : Bool
  refWrit   : Bool
deriving DecidableEq, Repr

/-- The answer of R30: generation, code, binding resource, its margin and the target. -/
structure Answer where
  gen    : Word
  code   : Nat
  res    : Nat
  margin : Int
  target : Nat
deriving DecidableEq, Repr

/-- The run-time of one canvas: the last tick generated, the first tick of a new stream while the gap of R21 lasts,
whether the new stream restarts its timing, whether the turnaround before the next tick has taken place, the instant of the last
tick, the phase last composed in the tick, the instant of the edge that the last tick made (R16), and the instants at which
new streams taken while the canvas was left disabled still raise TIMING_RESTART (R21), and whether an exit with cause 4 lasts on it: 0
no, 1 since an earlier tick, 2 with a line of this one (R45, R50). -/
structure Canvas where
  tick    : Nat
  gapTo   : Option Nat
  restart : Bool
  turned  : Bool
  inst    : Nat
  composed : Option Nat
  edge    : Nat
  owed    : List Nat
  sramExit : Nat
deriving DecidableEq, Repr

/-! ## Layers and flips (R193 to R213) -/

/-- What the horizon of a tick found of a pending entry (R203): the tick, the fence mode, fence and horizon of the generation it was
judged by, and whether the entry was ready. -/
structure Judged where
  tick  : Nat
  mode  : Nat
  fence : Nat
  hz    : Nat
  ready : Bool
deriving DecidableEq, Repr

/-- A pending flip entry: plane bases, balustrade image, fence target, the instant it was queued, the decisions it missed, what the
horizons since found (R203), and its marks. -/
structure Entry where
  b0       : Nat
  b1       : Nat
  b2       : Nat
  image    : Nat
  target   : Word
  born     : Nat
  misses   : Nat
  judged   : List Judged
  timedOut : Bool
  late     : Bool
deriving DecidableEq, Repr

/-- A layer at run time: the bases it shows, its pending entry, the descent steps in force (bit i is step i of R183) and the instant
of the last decision (R195). -/
structure Layer where
  b0    : Nat
  b1    : Nat
  b2    : Nat
  entry : Option Entry
  steps : Nat
  decided : Option Nat
deriving DecidableEq, Repr

/-! ## Halls -/

/-- A composed pixel: the blended value D (R78) and the encoded value of R135, both per channel. -/
structure Pix where
  d : List F32
  e : List F32
deriving DecidableEq, Repr

/-- The tag of run-ahead data (R164): the generation, the layer by key, the plane bases it was fetched from and their address
space. -/
structure Tag where
  gen   : Word
  layer : Nat
  bases : List Nat
  asid  : Nat
deriving DecidableEq, Repr

/-- What a run-ahead unit is fetched for, as its request entered (R163, R164): the hall, the canvas and the tick, and the tags of the
layers that it can be of. -/
structure Ahead where
  hall   : Nat
  canvas : Nat
  tick   : Nat
  tags   : Tab Tag
deriving DecidableEq, Repr

/-- The tag of a layer among them. -/
def Ahead.tag (a : Ahead) (n : Nat) : Tag := Tab.get (fun _ => { gen := 0, layer := 0, bases := [], asid := 0 }) a.tags n

/-- A unit that waits for its walk (R384), and of run-ahead before its tick what it is fetched for (R163). -/
structure XWait where
  req   : XReq
  ahead : Option Ahead
deriving DecidableEq, Repr

/-- A deferred fault of run-ahead fetch (R165): its tag and the record it would write. -/
structure Held where
  tag    : Tag
  va     : Nat
  kind   : Nat
  master : Nat
  code   : Nat
  level  : Nat
deriving DecidableEq, Repr

/-- A coverage pass begun for a tick to come (R157, R159): the canvas and the tick, the layers that cover dynamically (R161), what
it culled by kind, layer and tile (R162), and whether it has ended. -/
structure Pass where
  canvas : Nat
  tick   : Nat
  dyn    : List Nat
  culled : List (Nat × Nat × Nat)
  done   : Bool
deriving DecidableEq, Repr

/-- A composed row of a hall: the row, need(r) of R178 and whether a window reads it. -/
structure RowNeed where
  row  : Nat
  need : Nat
  win  : Bool
deriving DecidableEq, Repr

/-- A piece of a source line in the line-buffer pool (R113): whether of the chroma ring, its line and first column, and its
samples with their depths by column, none where a sample is invalid (R110). For a format whose chroma has full resolution the
samples of a column are those of both halves of its slot. `struck` lists the columns of the piece, counted from its first, whose
samples come from data that failed in on-chip SRAM (R43, R45). -/
structure PoolLine where
  chroma  : Bool
  line    : Nat
  x0      : Nat
  samples : List (Option (List (Nat × Nat)))
  struck  : List Nat
deriving DecidableEq, Repr

/-- A hall at run time: the vestibule's units by tag and unit address (R163, R164), its deferred faults (R165), the layers whose
run-ahead stopped at a full store, each with the canvas and tick until which it did (R165), the coverage passes begun for ticks to
come, in the order of their ticks (R157), the layers that cover dynamically in this tick (R161), the rows of the phase still
to be composed, in order (R224), the line-buffer pool by layer (R113), the rows that depend on failed SRAM data (R45), the
tiles of the phase substituted by layer (R81), the units whose fetch failed in it by layer and address, those that it took from the
vestibule, those by layer, plane and address that wait for a stack whose traffic is held (R456), the tone policy's curve and blend weight, the histogram of a gang that its run merges and whether it has a tone curve or a 3D LUT to
swap (R143 to R145), the histograms being measured and those of the last
completed tick (R140, R141), the instant of a kill, whether a kill waits for the commit that applies at its instant (R88), whether it is out of service or its SRAM failed in this tick, the
balustrade's fallback and fault fill as its region asked for them and as latched for the next tick (R213), the rows
awaiting write-back that depend on failed SRAM data, and the words of the 3D LUT banks blended from such data (R45). -/
structure Hall where
  vest     : List (Tag × Nat)
  deferred : List Held
  stopped  : List (Nat × Nat × Nat)
  passes   : List Pass
  dynNow   : List Nat
  todo     : List RowNeed
  pool     : Tab (List PoolLine)
  ueRows   : List Nat
  faulted  : List (Nat × Nat × Nat)
  badUnits : List (Nat × Nat)
  taken    : List (Nat × Nat)
  waits    : List (Nat × Nat × Nat)
  cur      : Tab Rat
  weight   : Nat
  hist     : Tab Nat
  done     : Tab Nat
  doneTick : Option Nat
  doneN    : Nat
  count    : Nat
  policyBusy : Bool
  policyMode : Nat
  ready      : Bool
  lutReady   : Bool
  lutWaits   : Bool
  bins       : List Nat
  killedAt : Option Nat
  killDue  : Bool
  outOfService : Bool
  sramUe   : Bool
  fallNext : Bool
  fillNext : Bool
  fallTick : Bool
  fillTick : Bool
  wbUe     : List Nat
  lutUe    : List Nat
deriving DecidableEq, Repr

/-! ## Windows and lanes -/

/-- A window at run time: the output codes of the hold row, three a pixel (R224), the lines and payload CRC registers of the
frame by lane of its group (R232), the canvas pixels with an uncorrectable symbol, the instant its
region of the Gallery left service, until the re-admission of that loss applies (R186), and whether a frame is open. -/
structure Win where
  hold : Option (List Nat)
  sent : Nat
  crcs : List Nat
  ue   : List (Nat × Nat)
  gone : Option Nat
  open' : Bool
deriving DecidableEq, Repr

/-- A sideband fragment: channel, first, last and six bytes (R232). -/
structure Frag where
  channel : Nat
  first   : Bool
  last    : Bool
  data    : List Byte
deriving DecidableEq, Repr

/-- An Ethernet header as the module sends it: MAC addresses, tag as priority and VID, EtherType (R237). -/
structure EthHdr where
  dmac  : Nat
  smac  : Nat
  tag   : Option (Nat × Nat)
  etype : Nat
deriving DecidableEq, Repr

/-- The IP and UDP fields of a datagram the module sends. -/
structure IpHdr where
  ipv6  : Bool
  src   : Nat
  dst   : Nat
  sport : Nat
  dport : Nat
  dscp  : Nat
  ttl   : Nat
deriving DecidableEq, Repr

/-- What a frame carries: a packet of Stairline-over-Ethernet with its 16-byte header (R238), an SMPTE ST 2110-20 packet with
its IPv4 header checksum, its UDP checksum and its RTP packet (R239), an Aedwin frame, an 802.1AS or PTP message with its
fields, or a reply of the basic protocols (R301). -/
inductive Payload where
  | soe (hdr data : List Byte)
  | rtp (ip : IpHdr) (ipSum udpSum : Nat) (packet : List Byte)
  | aedwin (ip : IpHdr) (frame : List Byte)
  | ptp (ip : IpHdr) (kind domain : Nat) (seq : Nat) (time : Nat) (ident : Nat)
  | asMsg (kind : Nat) (seq : Nat) (time : Nat) (ident : Nat)
  | asFollowUp (seq : Nat) (time : Nat) (ident : Nat) (info : List Byte)
  | announce (seq : Nat) (a : Announce)
  | basic (kind : Nat) (dst : Nat) (body : List Byte)
deriving DecidableEq, Repr

/-- A frame waiting for egress: its class, its length from the destination MAC through the FCS, the instant it was
queued, whether it was counted as not fitting (R339), its header and content; of the last packet of a line the window and
whether the line is a substitute (R227). -/
structure TxFrame where
  tc    : Nat
  len   : Nat
  enq   : Nat
  noFit : Bool
  eth   : EthHdr
  body  : Payload
  line  : Option (Nat × Bool) := none
deriving DecidableEq, Repr

/-- A token bucket in units of 1/256,000 byte: its level and the instant it was last brought up to date (R334,
R336). -/
structure Bucket where
  level : Int
  last  : Nat
deriving DecidableEq, Repr

/-- A lane at run time: sideband queues (R235), the sequence number and instant of the last TIME message, those of the messages whose
echoes are awaited, oldest first, whether a TIME message waits for idle time (R233), the last samples of the link delay (R236), a halt or resume in progress
(R230), the gate list's base and start with its k, those of a swap pending (R339, R340), and the 802.1AS exchange with the second of the last Announce (R348). -/
structure Lane where
  sbTx     : List Frag
  sbRx     : List Frag
  timeSeq  : Nat
  timeAt   : Nat
  echoes   : List (Nat × Nat)
  timeDue  : Bool
  samples  : List Int
  resumeAt : Option Nat
  base     : Nat
  startAt  : Nat
  startK   : Nat
  swapBase : Nat
  swapAt   : Option Nat
  swapK    : Nat
  asSeq    : Nat
  asAnn    : Nat
  pdSeq    : Nat
  pdT1     : Nat
  pdT2     : Nat
  pdT4     : Nat
  pdPrev   : Option (Nat × Nat)
  pdLost   : Nat
  moveTo   : Option Nat
  moveAt   : Nat
  txDead   : Bool
deriving DecidableEq, Repr

/-- The measurement of a sampler in its current interval (R345). -/
structure Sampler where
  minD  : Nat
  maxD  : Nat
  minT  : Nat
  maxT  : Nat
  lastT : Nat
  count : Nat
deriving DecidableEq, Repr

/-! ## Host ports (R297 to R311) -/

/-- A PTP port of a host sub-port: the best Announce heard of a qualified master, the MAC and the IP address it came from, the foreign masters with
the instants of their Announces that still count, the last Sync with its correction and
Delay_Req of its exchange and the means they give (R302). -/
structure PtpPort where
  ann     : Option Announce
  mac     : Nat
  ip      : Nat
  foreign : List (Nat × List Nat)
  syncSeq : Nat
  t1      : Nat
  t2      : Nat
  twoStep : Bool
  corr    : Int
  reqSeq  : Nat
  t3      : Option Nat
  delay   : Int
  offset  : Int
deriving DecidableEq, Repr

/-- A receiver at run time: the ring slot and RTP timestamp of the frame in progress, the bytes written to it, the sequence
numbers accepted (R308), those of the frame in progress with its lowest, whether that is its first, the number from which missing
ones count and whether its last has come (R309, R435), whether an abandoned frame's timestamp is kept to pass over (`moved`,
R310), the timestamps and slots of the frames before whose slots stand, with the bytes written to them (R305, R308, R311), the deadline after the marker (R309), the last
arrival on each leg, and the units to forward (R311). -/
structure Recv where
  slot     : Nat
  started  : Bool
  fresh    : Bool
  moved    : Bool
  past     : List (Nat × Nat × List (Nat × Nat))
  stamp    : Nat
  bytes    : Nat
  spans    : List (Nat × Nat)
  seqs     : List Nat
  frame    : List Nat
  top      : Nat
  firstSeq : Nat
  known    : Bool
  base     : Nat
  lastSeq  : Nat
  ended    : Bool
  due      : Option Nat
  lastA    : Nat
  lastB    : Nat
  sentUnits : List Nat
deriving DecidableEq, Repr

/-! ## Aedwin (R312 to R323) -/

/-- Where a session's frames come from and go to: sub-port, MAC, address and UDP port of the host, and the module's own
address. -/
structure Peer where
  sub  : Nat
  mac  : Nat
  ipv6 : Bool
  addr : Nat
  port : Nat
  own  : Nat
deriving DecidableEq, Repr

/-- An entry of an EVENT frame: event, count and time of its first occurrence (R321). -/
structure EvEntry where
  ev    : Nat
  count : Nat
  time  : Nat
deriving DecidableEq, Repr

/-- A held request (R318) with its arrival and the commit horizon in force then (R28). -/
structure HeldReq where
  type : Nat
  seq  : Nat
  body : List Byte
  at'  : Nat
  horizon : Nat
deriving DecidableEq, Repr

/-- A session: its peer, whether keyless, session key, sequence numbers, held requests, the last eight requests
executed with their responses, empty where none was sent, subscription, unsent event entries with the lost count, the instant of the last valid frame, the start of an
open gap, and the bulk writes not yet done as request number and bytes. -/
structure Sess where
  peer    : Peer
  keyless : Bool
  key     : List Byte
  txSeq   : Nat
  last    : Nat
  held    : List HeldReq
  stored  : List (Nat × List Byte)
  subs    : List Nat
  events  : List EvEntry
  lost    : Nat
  heard   : Nat
  gapAt   : Option Nat
  bulks   : List Nat
deriving DecidableEq, Repr

/-- An outstanding challenge: the session it will open, peer, key slot, requested level, the nonces and its start. -/
structure Challenge where
  sid   : Nat
  peer  : Peer
  slot  : Nat
  level : Nat
  nc    : List Byte
  nm    : List Byte
  at'   : Nat
deriving DecidableEq, Repr

/-- A bulk write in the staging of a host port (R320): session, request number, address space, address and data left. -/
structure Bulk where
  sess : Nat
  seq  : Nat
  asid : Nat
  va   : Nat
  data : List Byte
deriving DecidableEq, Repr

/-! ## HBM (R356 to R382) -/

/-- A request in a PC queue (R362, R363): 64-byte unit address, write or read, of a run-ahead read before its tick what it is fetched for (R163),
the bytes of the unit it touches, its class as 0 RT, 1 IS, 2 BE, 3 MT, whether it has been promoted, the class that a waiting read lends a write, whether a read has been issued
to the PC, and its arrival. -/
structure HReq where
  pc    : Nat
  pa    : Nat
  write : Bool
  spec  : Option Ahead
  ens   : List Nat
  cls   : Nat
  promo : Bool
  lent  : Nat
  issued : Bool
  at'   : Nat
deriving DecidableEq, Repr

/-- A burst that the source of a migration keeps while its copy has been written on the target (R375): its number within the slot, its
bytes, and whether it is uncorrectable or comes from failed staging. -/
structure Kept where
  burst  : Nat
  data   : List Byte
  bad    : Bool
  struck : Bool
deriving DecidableEq, Repr

/-- The migration of a stack (R375): slot, source, target, copy pointer in bytes, whether it has started, when it may start,
whether the source is dead or failed (every chunk poisoned), the journal record it writes next, 0 for A and 1 for B
(R377), and what the source keeps of the bursts that differ on the target. -/
structure Migr where
  slot    : Nat
  source  : Nat
  target  : Nat
  ptr     : Nat
  started : Bool
  from'   : When
  poison  : Bool
  record  : Nat
  kept    : List Kept
deriving DecidableEq, Repr

/-- The last corrected or uncorrectable burst (R379, ECC_LAST) as its four words. -/
abbrev EccLast := List Word

/-! ## Translation (R383 to R398) -/

/-- A cached leaf (R387): space, page base, 2 MiB or 64 KiB, physical page and permissions, and whether an entry it was made of
was read from data that failed in on-chip SRAM (R45). -/
structure Leaf where
  asid : Nat
  va   : Nat
  big  : Bool
  pa   : Nat
  rd   : Bool
  wr   : Bool
  struck : Bool
deriving DecidableEq, Repr

/-- A queued fault record (R392). -/
structure FaultRec where
  va     : Nat
  asid   : Nat
  code   : Nat
  level  : Nat
  kind   : Nat
  write  : Bool
  spec   : Bool
  master : Nat
  count  : Nat
  ns     : Nat
deriving DecidableEq, Repr


/-! ## Landing links (R244 to R268) -/

/-- A landing message as it is sent (R249, R250): type, source, hops taken, destination, broadcast, sequence number and
body. -/
structure LMsg where
  type  : Nat
  src   : Nat
  hops  : Nat
  dst   : Nat
  bcast : Bool
  seq   : Nat
  body  : List Byte
deriving DecidableEq, Repr

/-- A landing port at run time: wrong or missing HELLO blocks in a row, the instant of the last one, the TIME_SYNC
awaiting its echo, the last samples of the link delay and whether the port is lost to a ring wrap that has not ended (R262). -/
structure Port where
  misses  : Nat
  heard   : Nat
  syncSeq : Nat
  syncAt  : Nat
  samples : List Int
  echoTo  : Option (Nat × Nat)
  lost    : Bool
deriving DecidableEq, Repr

/-- A vote as merged at a landing (R256): worst code, its landing, landings counted and the entries of the resources as
margin, landing, phase, instance, demand and budget. -/
structure Merged where
  code    : Nat
  landing : Nat
  counted : Nat
  entries : List (Int × Nat × Nat × Nat × Nat × Nat)
deriving DecidableEq, Repr

/-- A cascade commit at a landing (R256): the member set, the last vote of each landing that it hears one from and its own (R259), whether the vote was sent or the decision
taken, the decision held as commit, code and landing, whether its deadline at T - 50 µs was missed and from when a late
decision applies, its generation, whether it is a dry run, and the instance kind of a GEOMETRY refusal of this landing (R189). -/
structure CascCommit where
  set     : Nat
  votes   : Tab Merged
  own     : Bool
  sent    : Bool
  held    : Option (Bool × Nat × Nat)
  missed  : Bool
  lateAt  : Option Nat
  gen     : Word
  dryRun  : Bool
  kind    : Nat
deriving DecidableEq, Repr

/-- A tree group at a tick (R268): group and tick, landings that reported, whether all are ready, whether the coordinator has
decided, and the GROUP_GO held. -/
structure TreeGroup where
  group   : Nat
  tick    : Nat
  counted : Nat
  ready   : Bool
  sent    : Bool
  go      : Option Bool
deriving DecidableEq, Repr

/-- A join in progress at the coordinator (R263): the landing, the instant of T, whether the landing has answered that it is admitted,
and the generation sent with JOIN. -/
structure Joining where
  landing : Nat
  due     : Nat
  agreed  : Bool
  gen     : Word
deriving DecidableEq, Repr

/-- The cascade at run time: message sequence number, the messages seen by source and sequence (R251), the ports on which content
has left by source, sequence and port (R262), ports, the commit and the
dry run in progress (R256), the one that this landing refused in step 2 and whose decision it awaits (R257), whether a cascade
commit has been heard since reset (R261), tree groups by tick, the latest first, with the landings known to have a member of each
(R268), the peer event queue (R265) as event, landing and time, the join in
progress at the coordinator and at the joining landing, the tick skews of the last second, the neighbours' edges of ticks
that this landing has not generated yet, as tree canvas, tick and edge, and its own edges of the last second, as canvas, tick and
edge (R267), the ports that cannot queue content and the last
decision sent. -/
structure Casc where
  seq     : Nat
  seen    : List (Nat × Nat)
  gone    : List (Nat × Nat × Nat)
  ports   : Tab Port
  commit  : Option CascCommit
  dry     : Option CascCommit
  turned  : Option CascCommit
  firstDone : Bool
  groups  : List TreeGroup
  members : Tab Nat
  events  : List (Nat × Nat × Nat)
  joining : Option Joining
  join    : Option (Nat × Nat)
  skews   : List (Nat × Nat)
  aligns  : List (Nat × Nat × Nat)
  edges   : List (Nat × Nat × Nat)
  restore : Bool
  full    : Nat
  decide  : Option LMsg
deriving DecidableEq, Repr

/-! ## DMA (R399 to R431) -/

/-- What a channel does next: nothing, a descriptor fetch, the run of a descriptor, the read of its NEXT word, or the
write of a completion record that a fault held up. -/
inductive Stage where
  | none | fetch | run | next | record
deriving DecidableEq, Repr

/-- A channel at run time: stage, address and eight words of the current descriptor, destination bytes written and source bytes
of the line read, data held in the buffer, units granted by the peripheral, whether the descriptor has started, the tick request, the order
in which descriptors started, reservation credit and its instant, the last whole descriptor since the enable with its tag, the
bytes item, the abort records waiting for a queue entry, the port of a bulk channel, beside the held bytes one each that is
not 0 where the byte failed in staging (R45), whether the landing ports have withdrawn their request, and whether the source peripheral
has, with the withdrawal counted (R416). -/
structure Chan where
  stage   : Stage
  desc    : Nat
  words   : List Nat
  done    : Nat
  srcRead : Nat
  buf     : List Byte
  granted : Nat
  begun   : Bool
  tickReq : Bool
  started : Nat
  credit  : Int
  creditAt : Nat
  whole   : Option (Nat × Nat)
  total   : Nat
  aborts  : List (List Byte)
  bulk    : Option Nat
  struck  : List Byte
  noReq   : Bool
  gone    : Bool
deriving DecidableEq, Repr

/-! ## Check units (R432 to R447) -/

/-- A check unit at run time: running value, phase of the region, whether the region lacks bytes or runs backward, its
tick or tag, the regions ended in this module tick, a value written to RUNNING for the next region, whether the next
region loads the initial value although carry is set, the last result as its four words, packets held back by extended
sequence number with the next one due (R435), whether the frame of the region in progress is complete, so that packets belong
to the frame after it, whether that frame is complete before its region starts (with whether it lost packets, R434), and the
window and lines of an Alcove unit (R478) with the instant its exhibit was armed while TC has run on from it (R481), whether it is in a region, and the instant of
the tick of that region (R493). -/
structure Cu where
  v       : Nat
  phase   : Nat
  short   : Bool
  back    : Bool
  tick    : Nat
  ended   : Nat
  load    : Option Nat
  fresh   : Bool
  result  : List Word
  heldPk  : List (Nat × List Byte)
  nextSeq : Option Nat
  closed  : Bool
  heldEnd : Option Bool
  alc     : Option (Nat × Nat × Nat)
  alcAt   : Option Nat
  inAlc   : Bool
  time    : Nat
deriving DecidableEq, Repr

/-! ## Clocks (R448 to R477) -/

/-- A setting of a PLL: D as 0 half, 1 one, 2 double, N and F (R452). -/
structure PllSet where
  d : Nat
  n : Nat
  f : Nat
deriving DecidableEq, Repr

/-- A band cache entry (R455). -/
structure BandEntry where
  set  : PllSet
  band : Nat
  temp : Nat
deriving DecidableEq, Repr

/-- A PLL: the f_vco it is set for, in units of 500 Hz, active and next set, band, lock, whether a lock is lost and not yet found
again, the spur warning, and the cache, most recently used first with the slot each entry stands in (R453 to R456). -/
structure Pll where
  goal  : Nat
  set   : PllSet
  next  : PllSet
  band  : Nat
  lock  : Bool
  lost  : Bool
  spur  : Bool
  cache : List (Nat × BandEntry)
deriving DecidableEq, Repr

/-- A tick synthesizer: Δ_c in units of 10^-9 ns, the instant it was last brought up to date, CV_c, and SLACK_c in ns (R466 to
R468). -/
structure Tsyn where
  delta : Int
  last  : Nat
  cv    : Int
  slack : Nat
deriving DecidableEq, Repr

/-- Clocks and time: PLLs by index (R476), synthesizers by canvas, the FCV values of the last updates newest first, the
run of updates inside and outside the lock window, whether a source has returned or changed, which sources are
available, the last PPS_IN timestamp as ns and fraction and the last edge of that polarity whether timestamped or not, the
millisecond of the last CLK_GUARD, the level of PPS_OUT and the instant it last rose, the fraction of a nanosecond of TC as last
known and the nanosecond it is known for, whether REFCLK has been valid for 10 s since its last loss (R451), and the fraction u that
LOCK_A shows, in percent (R470). -/
structure Clk where
  plls   : Tab Pll
  tsyn   : Tab Tsyn
  fcvs   : List Int
  inside : Nat
  outside : Nat
  fresh  : Bool
  avail  : Nat
  ppsTs  : Nat × Word
  guardMs : Option Nat
  ppsOut : Bool
  ppsEdge : Option Nat
  ppsAt  : Option Nat
  frac   : Word
  fracAt : Option Nat
  refLong : Bool
  lockU  : Nat
deriving DecidableEq, Repr

/-! ## Power, reset, boot, flash and hold-up (R506 to R533) -/

/-- A hold-up save (R525): sequence, t0, TC state, cause, active generation, the tick of each running canvas, the registers and
indirect words as they stood, from which its counters and event words are read in the order of R526, the 64-bit counters of mailbox
items, and whether its CRC holds. -/
structure Save where
  seq   : Nat
  t0    : Nat
  tc    : Nat
  cause : Nat
  gen   : Word
  ticks : Tab Nat
  regs  : Tab Word
  ind   : Tab Word
  wide  : Tab Nat
  valid : Bool
deriving DecidableEq, Repr

/-- An operation of the flash in progress: an erase of a sector that FLASH_ERASE asked for or, `clear`, an upload (R545), or the program of a
word. -/
inductive FlashOp where
  | erase (sector : Nat)
  | clear (sector : Nat)
  | program (word : Nat) (value : Word)
deriving DecidableEq, Repr

/-- The automatic commit of the boot (R521). -/
structure BootCommit where
  ref   : Nat
  lead  : Nat
  wait  : Nat
  from' : Nat
deriving DecidableEq, Repr

/-- The map under which HBM holds its content: order in force, slots, the slot of each PC behind one (R357, R360), and what the sources
of migrations keep, by stack (R375, R378). -/
structure Placement where
  order : Nat
  slots : Nat
  pcs   : List (Nat × Nat)
  kept  : Tab (List Kept)
deriving DecidableEq, Repr

/-- How an access ended: done or waiting, a mailbox request that failed (R281), or ignored in part under R276 or R277. -/
inductive AccEnd where
  | ok | failed | ignored
deriving DecidableEq, Repr

/-- What the words or entries of a request met: how many were ignored and the index of the first, and whether a mailbox
request failed. -/
structure AccSum where
  n      : Nat
  ignored : Nat
  first  : Option Nat
  failed : Bool
deriving DecidableEq, Repr

/-- One register access that an accessor has granted (R278): a read, a write of the bits `m`, and a mailbox request in each
direction. -/
inductive Access where
  | read (a : Nat)
  | write (a : Nat) (v m : Word)
  | send (pg item : Nat) (ws : List Word)
  | fetch (pg item : Nat)
deriving DecidableEq, Repr

/-- Who is told of the end of a request: nobody, the boot, which counts the ignored words (R520), a session with a response of a type
(R317), or the monitor with a line, of the words read or of the code alone (R542), or of its identification (R543). -/
inductive JobEnd where
  | quiet
  | apply
  | aed (type seq : Nat)
  | line (words : Bool)
  | ident
deriving DecidableEq, Repr

/-- A request of an accessor: the accesses it has still to make, the words read, and how its accesses ended so far. -/
structure Job where
  acc   : Nat
  steps : List Access
  words : List Word
  sum   : AccSum
  last  : AccEnd
  fin   : JobEnd
deriving DecidableEq, Repr

/-- Power and boot at run time: whether the module is powered, in standby or held in reset, PWRGOOD and VIO_OUT, an
accepted software reset, a power fail in progress with its cause and whether the stop has come, the saves of both
areas, the reset log, the flash by word and its operations in order, the firmware found valid by slot, the firmware running,
whether the boot is applying an image, its commit, the windows dropped by thermal shedding, the image selection the
reset took, the image in use, whether the boot's commit still awaits its answer, the VIN that has come back during a sequence of R524,
the flash address of the next record of the image (R519), and the map of the HBM content that a reset kept, until start-up training
makes the next one (R360). `flashWait` holds the requests whose accessors wait for the flash and those that wait behind them, in their order
(R278, R515). `torn` holds the regions (FWA, FWB, CFGA, CFGB from 0) that an upload has left partly written or a firmware image that did not check (R545). `stopped` says that a power fail's stop or a low RESET_N holds the module. -/
structure Pwr where
  on       : Bool
  standby  : Bool
  resetN   : Bool
  pwrgood  : Bool
  vio      : Bool
  rstAt    : Option Nat
  fail     : Option (Nat × Nat)
  stopped  : Bool
  failing  : Option Save
  saveA    : Option Save
  saveB    : Option Save
  log      : List (Nat × Nat × Word)
  flash    : Tab Word
  flashQ   : List FlashOp
  fwA      : Option Nat
  fwB      : Option Nat
  tv       : Nat
  kind     : Nat
  applying : Bool
  bootReq  : Option BootCommit
  saveSel  : Nat
  dropped  : List Nat
  cfgSel   : Nat
  cfgUsed  : Option Nat
  bootAns  : Bool
  vinBack  : Option Nat
  imageAt  : Nat
  placed   : Option Placement
  flashWait : List Job
  torn     : List Nat
deriving DecidableEq, Repr

/-! ## In-service operations, Ururi and self-tests (R534 to R547) -/

/-- An in-service operation: kind, target, reference canvas, state 0 admitting, 1 admitted, 2 running, 3 a failback to come, the
requester's arrival, the start instant and tick, whether the image check of kind 1 is still due and the version it found, who asked
for it (0 the module itself, 1 OP_REQUEST, 2 a command bit of its own page), whether the stewards work at half budget for it (R536), and
a number that tells it from every other that stands. -/
structure Op where
  kind   : Nat
  target : Nat
  ref    : Nat
  state  : Nat
  at'    : Nat
  start  : When
  tick   : Nat
  check  : Bool
  ver    : Nat
  origin : Nat
  half   : Bool
  num    : Nat
deriving DecidableEq, Repr

/-- An image upload (R545): region, next block number, flash byte address of the next block, the last input, and once its last block has
come, whether the signature of a firmware image holds. -/
structure Upload where
  region : Nat
  next   : Nat
  addr   : Nat
  heard  : Nat
  ended  : Option Bool
deriving DecidableEq, Repr

/-- The stewards and the monitor: operations, queued records, block errors of each lane within the second as instants, the
start of each lane's loss of lock, lanes that meet the lane-health policy and those of them whose request has been admitted, the PCs that a relocked HBM PLL leaves to be retrained (R456), the modes
of the sparing and lane-health policies taken over at the last tick boundary (R539), Ururi's last input, an upload, a self-test running
as its code and index, and its outcome where the model computes it. -/
structure Stw where
  ops     : List Op
  records : List (List Word)
  errs    : Tab (List Nat)
  lossAt  : Tab (Option Nat)
  health  : List Nat
  asked   : List Nat
  retrain : List Nat
  spareMode : Nat
  laneMode : Nat
  heard   : Nat
  load    : Option Upload
  test    : Option (Nat × Nat)
  testErr : Nat
deriving DecidableEq, Repr

/-! ## The Alcove (R478 to R505) -/

/-- A label (R493): the module's TICK_TIME of the tick and TC state. -/
structure Label where
  time  : Nat
  state : Nat
deriving DecidableEq, Repr

/-- An exhibit slot: state 0 IDLE, 1 STAGING, 2 ACTIVE; an armed exhibit waits for its first region start; the declaration;
the staged values; copies A and B with their CRCs; and the measurement with its cumulative counts. -/
structure Slot where
  state   : Nat
  armed   : Bool
  ident   : Nat
  window  : Nat
  ordered : Bool
  repeats : Bool
  first   : Nat
  last    : Nat
  pdecl   : Nat
  staged  : Tab Nat
  count   : Nat
  copyA   : List Nat
  copyB   : List Nat
  crcA    : Word
  crcB    : Word
  lost    : Bool
  entry   : Option Nat
  ends    : Nat
  prevEnd : Option Nat
  prevOk  : Bool
  e       : Nat
  verified : Nat
  mismatched : Nat
  missing : Nat
  refFaults : Nat
  inFault : Bool
  firstOt : Nat
  lastOt  : Nat
  firstLb : Label
  lastLb  : Label
  repaired : Bool
  progress : Nat
deriving DecidableEq, Repr

/-- A reply of R487: accessor (18 for the seal door), opcode, status, whether done, and the record's sequence. -/
structure Reply where
  opcode : Nat
  status : Nat
  done   : Bool
  seq    : Nat
deriving DecidableEq, Repr

/-- A stored copy of the seal-event count with its CRC-32C (R489). -/
structure SealCopy where
  count : Nat
  crc   : Word
deriving DecidableEq, Repr

/-- The copy of a count. -/
def SealCopy.of (n : Nat) : SealCopy := { count := n, crc := crc32c (bytesLE 2 n) }

/-- The Alcove: powered, operating time and its save with the kind of save and label, power-up count, seal state and
its saved value, seal-event count with its two stored copies (R489), parameters and the progress_s in force (R490), slots, the
record ring by sequence, next and oldest sequence, firmware version, SW_ID and slot, the operating time of the last activation
(R503), the words written to the firmware slot not in force and to the one in force, the SW_ID of the former while it holds the image
formerly in force unchanged (R503), clk_suspect, full, replies by door and accessor, records the power-fail left
unsigned, the label fed last, the module serial and the events raised. -/
structure Alcove where
  on        : Bool
  ot        : Nat
  savedOt   : Nat
  savedKind : Nat
  savedLb   : Label
  powerUps  : Nat
  opened    : Bool
  savedOpen : Bool
  sealCount : Nat
  sealA     : SealCopy
  sealB     : SealCopy
  progressS : Nat
  progNow   : Nat
  truncK    : Nat
  slots     : Tab Slot
  ring      : Tab (List Byte)
  nextSeq   : Nat
  oldest    : Nat
  fwVer     : Nat
  swId      : Word
  fwOt      : Option Nat
  fwSlot    : Nat
  staging   : Tab Word
  inForce   : Tab Word
  stagedSw  : Option Word
  suspect   : Bool
  full      : Bool
  replies   : Tab Reply
  unsigned  : List Nat
  label     : Label
  serial    : Nat
  evs       : List Nat
deriving DecidableEq, Repr

/-- A command at a door of the Alcove (R485): accessor, whether the seal door, and the four words. -/
structure AlcCmd where
  acc  : Nat
  sealDoor : Bool
  w0   : Word
  w1   : Word
  w2   : Word
  w3   : Word
deriving DecidableEq, Repr

/-- What the Alcove finds as it takes a command: bits upset in the staged copies, the version of the staged image where its check passes,
and the operating time that has gone by since it was last known. -/
structure Finding where
  up  : List CopyUpset
  img : Option Nat
  gap : Nat
deriving DecidableEq, Repr

/-- What an access has put at the Alcove, which takes it at once: a word for its firmware staging, or a command with what the Alcove finds
as it takes it (R485, R503). -/
inductive Knock where
  | word (k : Nat) (w : Word)
  | cmd (c : AlcCmd) (x : Finding)
deriving DecidableEq, Repr

/-! ## The test access port (R561, R562) -/

/-- The test access port: the instruction register as shifted in, whether RESET_N was high as it was loaded, and the cells of the
boundary register as last updated (R562). -/
structure Tap where
  ir    : BitVec 8
  high  : Bool
  cells : List Bool
deriving DecidableEq, Repr

/-- The port after its reset: IDCODE (R561). The manual gives the boundary register no reset value: its cells read 0 (DESIGN CHOICE, log
163). -/
def Tap.reset : Tap := { ir := 0x01, high := false, cells := [] }

/-- A re-admission under way (R186): when it answers, when it applies, the descent steps it takes by layer key, the
windows it sheds, the instant of the loss, the canvases it still has to apply on, the windows that stay dropped for heat
(R529), the windows it sheds that were not shed before (R187), whether it covers the configuration that a commit brings (R188), and
the step of thermal shedding it comes from: 0 none, 2 level 2 is taken, 3 level 3 is left (R528, R529). -/
structure Readmit where
  at'     : Nat
  applyAt : Option Nat
  taken   : Tab Nat
  shed    : List Nat
  pcs     : Nat
  loss    : Nat
  canvases : List Nat
  drop    : List Nat
  sheds   : List Nat
  covers  : Bool
  heat    : Nat
deriving DecidableEq, Repr

/-! ## What leaves the module -/

/-- What the module emits: a Stairline control block with the data blocks that follow it (R232), a frame on an
Ethernet-mode lane or host sub-port, a message on a landing port with its MSG_START and data blocks by lane (R247, R249) or a HELLO, an EVT_N land going low or
released, a line of the Ururi monitor as its words and result (0 OK, else the ERR code), a character of an upload (R545), and the levels of PWRGOOD, VIO_OUT,
PPS_OUT and LOCK_A (as the fraction u in percent), the bits that TDO drives while the test access port shifts (R557), and the instant at which what every lane and host port transmits is cut (R510,
R524). Times are PTP ns. -/
inductive Emit where
  | stairline (lane : Nat) (t : Nat) (ctrl : List Byte) (data : List Byte)
  | laneFrame (lane : Nat) (t : Nat) (f : TxFrame)
  | hostFrame (sub : Nat) (t : Nat) (f : TxFrame)
  | landing (port : Nat) (t : Nat) (m : LMsg) (blocks : List (Nat × List Byte))
  | hello (port : Nat) (t : Nat) (block : List Byte)
  | evtN (land : Nat) (t : Nat) (low : Bool)
  | uart (t : Nat) (words : List Word) (code : Nat)
  | xmodem (t : Nat) (char : Byte)
  | pwrgood (t : Nat) (up : Bool)
  | vioOut (t : Nat) (up : Bool)
  | ppsOut (t : Nat) (up : Bool)
  | lockA (t : Nat) (percent : Nat)
  | tdo (t : Nat) (bits : List Bool)
  | cut (t : Nat)
deriving DecidableEq, Repr

/-! ## The module -/

/-- What comes into the module to be written to HBM and waits because a walk of it needs a stack whose traffic is held (R456): a packet of
a leg of a receiver, content from a landing, an HBM_LOAD record of the boot. -/
inductive Ingest where
  | packet (r l : Nat) (p : RtpPacket)
  | content (src asid va : Nat) (data : List Byte)
  | load (asid va : Nat) (data : List Byte)
deriving DecidableEq, Repr

/-- The stream whose order a waiting write keeps: its receiver, the content, the boot image. -/
def Ingest.stream : Ingest → Nat
  | .packet r _ _ => r
  | .content .. => 256
  | .load .. => 257

/-- The module outside the Alcove and the test access port. `now` is the PTP time of the last command, `seed` counts the free
values drawn (the model's own), `factoryOk` says that the factory data passes its CRC-32C check (R567), `readmit` holds the
re-admissions under way, oldest first, `fenceLog` the recent advances of each
fence as arrival and value before, newest first (R203), `struck` the bursts of HBM written from failed staging (R45), `wcache` the walk cache as key, L2 table and whether its entries came
from such bursts, `first` holds the
first-occurrence marks of the running ticks (R568), `alcq` what the accesses of the command in progress have put at the Alcove, `alcSeen` how many of the events it raised for
that the module has, `alcFind` what the command names of the Alcove's finding, `alcOn` and `sealOpen` its supply and its seal as the doors
see them (R485), `otSeen` the operating time shown last
(R504). -/
structure Dev where
  now      : Nat
  seed     : Nat
  h48      : Bool
  serial   : Nat
  baseMac  : Nat
  factoryOk : Bool
  regs     : Regs
  out      : List Emit
  first    : List Nat
  msTick   : Nat
  commit   : Option Commit
  dry      : Option Commit
  answer   : Answer
  answerIn : Bool
  report   : Tab Word
  reReport : Tab Word
  readmit  : List Readmit
  shed     : List Nat
  galLost  : Nat
  canvases : Tab Canvas
  fenceLog : Tab (List (Nat × Word))
  layers   : Tab Layer
  halls    : Tab Hall
  gal      : Tab (List Pix)
  wbRows   : Tab (List Pix)
  wins     : Tab Win
  lanes    : Tab Lane
  laneQ    : List (Nat × TxFrame)
  hostQ    : List (Nat × TxFrame)
  policers : Tab Bucket
  shapers  : Tab Bucket
  samplers : Tab Sampler
  polMs    : Option Nat
  ptp      : Tab PtpPort
  slave    : Option Nat
  recvs    : Tab Recv
  sessions : Tab (Option Sess)
  challenges : List Challenge
  keys     : Tab (List Byte)
  keyStage : Tab (List Byte)
  bulk     : List (Nat × Bulk)
  pulse    : Tab Nat
  pulseOn  : Tab Bool
  snapTick : Option Nat
  snapCanvas : Nat
  snapFrom : Nat
  hbm      : Tab Byte
  bad      : List Nat
  struck   : List Nat
  pcq      : List HReq
  migr     : Tab (Option Migr)
  journal  : Tab (List Byte)
  eccLast  : List Word
  classB   : Tab Nat
  heldB    : Tab Nat
  owed     : Tab Nat
  scrub    : Tab Nat
  ceTimes  : Tab (List Nat)
  meets    : List Nat
  ueSeen   : List Nat
  policyMet : List Nat
  leaves   : List Leaf
  wcache   : List (Nat × Nat × Bool)
  walks    : List XWait
  ingest   : List Ingest
  faults   : List FaultRec
  lostOpen : Bool
  invAt    : Option Nat
  casc     : Casc
  chans    : Tab Chan
  starts   : Nat
  serving  : Option Nat
  cus      : Tab Cu
  clk      : Clk
  pwr      : Pwr
  stw      : Stw
  alcq     : List Knock
  alcSeen  : Nat
  alcFind  : Option Finding
  alcOn    : Bool
  sealOpen : Bool
  otSeen   : Nat
deriving DecidableEq, Repr

/-- The machine: the commands that wait, the module, the Alcove and the test access port. -/
structure State where
  pending : List Instr
  dev     : Dev
  alc     : Alcove
  tap     : Tap
deriving DecidableEq, Repr

/-- What would stop the block. No command of the manual stops it, so nothing raises the one constructor but a state that
no step reaches; it is safe. -/
inductive Fault where
  /-- Raised by nothing: the block has no fault that stops it. Safe. -/
  | none
deriving DecidableEq, Repr

/-- What the model refuses. -/
inductive Refusal where
  /-- Raised by a dispatch arm whose command has no meaning yet. Safe. -/
  | notModelled (mnemonic : String)
deriving DecidableEq, Repr

/-! ## What an unlisted entry reads as -/

def Canvas.idle : Canvas :=
  { tick := 0, gapTo := none, restart := false, turned := false, inst := 0, composed := none, edge := 0,
    owed := [], sramExit := 0 }
def Layer.idle : Layer := { b0 := 0, b1 := 0, b2 := 0, entry := none, steps := 0, decided := none }
def Hall.idle : Hall :=
  { vest := [], deferred := [], stopped := [], passes := [], dynNow := [], todo := [], pool := [],
    ueRows := [], faulted := [], badUnits := [], taken := [], waits := [], cur := [], weight := 0, hist := [], done := [], doneTick := none, doneN := 0, count := 0,
    policyBusy := false, policyMode := 1, ready := false, lutReady := false, lutWaits := false, bins := [], killedAt := none, killDue := false,
    outOfService := false, sramUe := false, fallNext := false, fillNext := false, fallTick := false, fillTick := false,
    wbUe := [], lutUe := [] }
def Win.idle : Win := { hold := none, sent := 0, crcs := [], ue := [], gone := none, open' := false }
def Bucket.empty : Bucket := { level := 0, last := 0 }
def Lane.idle : Lane :=
  { sbTx := [], sbRx := [], timeSeq := 0, timeAt := 0, echoes := [], timeDue := false, samples := [], resumeAt := none, base := 0,
    startAt := 0, startK := 0, swapBase := 0, swapAt := none, swapK := 0, asSeq := 0, asAnn := 0, pdSeq := 0, pdT1 := 0, pdT2 := 0, pdT4 := 0,
    pdPrev := none, pdLost := 0, moveTo := none, moveAt := 0, txDead := false }
def Sampler.idle : Sampler := { minD := 0, maxD := 0, minT := 0, maxT := 0, lastT := 0, count := 0 }
def PtpPort.idle : PtpPort :=
  { ann := none, mac := 0, ip := 0, foreign := [], syncSeq := 0, t1 := 0, t2 := 0, twoStep := false, corr := 0, reqSeq := 0, t3 := none, delay := 0, offset := 0 }
def Recv.idle : Recv :=
  { slot := 0, started := false, fresh := false, moved := false, past := [], stamp := 0, bytes := 0, spans := [], seqs := [], frame := [], top := 0, firstSeq := 0,
    known := false, base := 0, lastSeq := 0, ended := false, due := none, lastA := 0, lastB := 0, sentUnits := [] }
def Port.idle : Port := { misses := 0, heard := 0, syncSeq := 0, syncAt := 0, samples := [], echoTo := none, lost := false }
def Chan.idle : Chan :=
  { stage := .none, desc := 0, words := [], done := 0, srcRead := 0, buf := [], granted := 0, begun := false, tickReq := false,
    started := 0, credit := 0, creditAt := 0, whole := none, total := 0, aborts := [], bulk := none,
    struck := [], noReq := false, gone := false }
def Cu.idle : Cu :=
  { v := 0, phase := 0, short := false, back := false, tick := 0, ended := 0, load := none, fresh := true,
    result := [0, 0, 0, 0], heldPk := [], nextSeq := none, closed := false, heldEnd := none, alc := none, alcAt := none, inAlc := false, time := 0 }
def PllSet.none : PllSet := { d := 1, n := 0, f := 0 }
def Pll.idle : Pll := { goal := 0, set := .none, next := .none, band := 0, lock := false, lost := false, spur := false, cache := [] }
def Tsyn.idle : Tsyn := { delta := 0, last := 0, cv := 0, slack := 0 }
def Label.zero : Label := { time := 0, state := 0 }
def Slot.idle : Slot :=
  { state := 0, armed := false, ident := 0, window := 0, ordered := false, repeats := false, first := 0, last := 0, pdecl := 0,
    staged := [], count := 0, copyA := [], copyB := [], crcA := 0, crcB := 0, lost := false, entry := none, ends := 0,
    prevEnd := none, prevOk := false, e := 0, verified := 0, mismatched := 0, missing := 0, refFaults := 0, inFault := false,
    firstOt := 0, lastOt := 0, firstLb := .zero, lastLb := .zero, repaired := false, progress := 0 }
def Reply.idle : Reply := { opcode := 0, status := 0, done := false, seq := 0 }

/-! ## Reset (R512) -/

def Regs.reset : Regs :=
  { stored := [], active := [], pend := [], dry := [], held := [], loc := [], ind := [], heldInd := [] }
/-- What COMMIT_ANSWER reads before any answer: zeros, on which the manual is silent (R55; DESIGN CHOICE, log 97). -/
def Answer.none : Answer := { gen := 0, code := 0, res := 0, margin := 0, target := 0 }
def Casc.reset : Casc :=
  { seq := 0, seen := [], gone := [], ports := [], commit := none, dry := none, turned := none, firstDone := false, groups := [], members := [],
    events := [], joining := none, join := none, skews := [], aligns := [], edges := [],
    restore := false, full := 0, decide := none }
def Clk.reset : Clk :=
  { plls := [], tsyn := [], fcvs := [], inside := 0, outside := 0, fresh := true, avail := 0, ppsTs := (0, 0), guardMs := none,
    ppsOut := false, ppsEdge := none, ppsAt := none, frac := 0, fracAt := none, refLong := false, lockU := 100 }
def Pwr.reset : Pwr :=
  { on := true, standby := false, resetN := true, pwrgood := false, vio := true, rstAt := none, fail := none,
    stopped := false, failing := none, saveA := none, saveB := none, log := [], flash := [], flashQ := [], fwA := none,
    fwB := none, tv := 0, kind := 0, applying := false, bootReq := none, saveSel := 0, dropped := [],
    cfgSel := 0, cfgUsed := none, bootAns := false, vinBack := none, imageAt := 0, placed := none, flashWait := [], torn := [] }
def Stw.reset : Stw :=
  { ops := [], records := [], errs := [], lossAt := [], health := [], asked := [], retrain := [], spareMode := 1, laneMode := 1, heard := 0, load := none, test := none,
    testErr := 0 }

/-- The module after a power-on reset (R512); TC starts at 0. -/
def Dev.reset : Dev :=
  { now := 0, seed := 0, h48 := true, serial := 0, baseMac := 0, factoryOk := true, regs := .reset, out := [], first := [], msTick := 0,
    commit := none, dry := none, answer := .none, answerIn := false, report := [], reReport := [], readmit := [], shed := [],
    galLost := 0, canvases := [], fenceLog := [], layers := [], halls := [], gal := [], wbRows := [], wins := [], lanes := [], laneQ := [],
    hostQ := [], policers := [], shapers := [], samplers := [], polMs := none, ptp := [], slave := none, recvs := [],
    sessions := [], challenges := [], keys := [], keyStage := [], bulk := [], pulse := [], pulseOn := [], snapTick := none,
    snapCanvas := 0, snapFrom := 0, hbm := [], bad := [], struck := [], pcq := [], migr := [], journal := [], eccLast := [0, 0, 0, 0],
    classB := [], heldB := [], owed := [], scrub := [], ceTimes := [], meets := [], ueSeen := [], policyMet := [], leaves := [], wcache := [], walks := [], ingest := [],
    faults := [], lostOpen := false, invAt := none, casc := .reset, chans := [], starts := 0, serving := none, cus := [], clk := .reset,
    pwr := .reset, stw := .reset, alcq := [], alcSeen := 0, alcFind := none, alcOn := true, sealOpen := false, otSeen := 0 }

/-- The Alcove as it leaves the factory, powered and sealed (R488, R497). -/
def Alcove.factory : Alcove :=
  { on := true, ot := 0, savedOt := 0, savedKind := 2, savedLb := .zero, powerUps := 1, opened := false, savedOpen := false,
    sealCount := 0, sealA := .of 0, sealB := .of 0, progressS := 60, progNow := 60, truncK := 2, slots := [], ring := [], nextSeq := 0, oldest := 0, fwVer := 0x0100, swId := Config.swId 0x0100, fwOt := none,
    fwSlot := 0, staging := [], inForce := [], stagedSw := none, suspect := false, full := false, replies := [], unsigned := [], label := .zero,
    serial := 0, evs := [] }

/-- The machine right after reset: no command waits; IDCODE is selected in the test access port (R561). -/
def State.reset : State := { pending := [], dev := .reset, alc := .factory, tap := .reset }

end Sys2Proof.Machine
end

