-- ==== Sys2Proof/Machine/Compose.lean ====
section
/-! DEFINITION. Composition of a canvas pixel from the layers of its lead hall: visibility (R64 to R66), sampling and
scaling of a layer (R94 to R112), substitution (R80, R81, R110), stacking (R75) and blending (R76 to R79), then the tone,
encoding and 3D LUT stages (R133 to R135). -/

namespace Sys2Proof.Machine

/-- What a composition reads: registers in force, stored status registers, indirect words by page and address,
device-virtual memory, the bases a layer shows, the descent steps on it, what the hall's line-buffer pool holds of it,
which tile columns of the row are substituted on a layer, the units of a layer whose fetch failed (R110), and the bytes by address
space that depend on data that failed in on-chip SRAM (R45). -/
structure Ctx where
  rd    : View
  st    : View
  iw    : Nat → Nat → Word
  mem   : Mem
  base  : Nat → List Nat
  steps : Nat → Nat
  fill  : Bool
  pool  : Nat → List PoolLine
  bad   : Nat → Nat → Bool
  lost  : Nat → Nat → Bool
  hit   : Nat → Nat → Bool

/-- The page number of page `k` of hall `h`. -/
def hallPage (h k : Nat) : Nat := 0x100 + 16 * h + k

/-- A 16-bit half of an indirect word. -/
def indHalf (iw : Nat → Nat → Word) (page addr i : Nat) : Nat :=
  bitsOf (iw page (addr + i / 2)).toNat (16 * (i % 2)) 16

/-- The canvas size (R58). -/
def canvasW (rd : View) (h0 : Nat) : Nat := fv rd (F.CANVAS_SIZE.w_m1 h0) + 1
def canvasH (rd : View) (h0 : Nat) : Nat := fv rd (F.CANVAS_SIZE.h_m1 h0) + 1

/-- The gang of hall `h`: size and lead (R59). -/
def gangSize (rd : View) (h : Nat) : Nat := 2 ^ fv rd (F.HALL_CTL.gang_log2 h)
def leadOf (rd : View) (h : Nat) : Nat := gangSize rd h * (h / gangSize rd h)

/-- The stripe of hall `h`: first column and width (R61). -/
def stripeOf (rd : View) (h : Nat) : Nat × Nat :=
  let g := gangSize rd h
  let h0 := leadOf rd h
  let w := canvasW rd h0
  let sw := ceilDiv w (64 * g) * 64
  let x0 := (h - h0) * sw
  (x0, min sw (w - x0))

/-- The phase mask bit of a layer (R64). -/
def inPhase (rd : View) (h0 n p : Nat) : Bool :=
  if n < 32 then bitOf (fv rd (F.PHASE_MASK_LO.layers h0 p)) n == 1
  else fv rd (F.PHASE_MASK_HI.balustrade h0 p) == 1

/-- The destination corner and size of a layer; the size of an unscaled layer is its source size (R65). -/
def dstX (rd : View) (h0 n : Nat) : Int := signedOf (fv rd (F.DST_X.x h0 n)) 18
def dstY (rd : View) (h0 n : Nat) : Int := signedOf (fv rd (F.DST_Y.y h0 n)) 18
def dstW (rd : View) (h0 n : Nat) : Nat :=
  if n < 8 then fv rd (F.DST_WH.w_m1 h0 n) + 1 else fv rd (F.SRC_WH.w_m1 h0 n) + 1
def dstH (rd : View) (h0 n : Nat) : Nat :=
  if n < 8 then fv rd (F.DST_WH.h_m1 h0 n) + 1 else fv rd (F.SRC_WH.h_m1 h0 n) + 1

/-- The visible rectangle as first column, end column, first row, end row (R66). -/
def visRect (rd : View) (h0 n : Nat) : Nat × Nat × Nat × Nat :=
  let x := dstX rd h0 n
  let y := dstY rd h0 n
  let w : Int := canvasW rd h0
  let h : Int := canvasH rd h0
  ((clampI x 0 w).toNat, (clampI (x + dstW rd h0 n) 0 w).toNat, (clampI y 0 h).toNat, (clampI (y + dstH rd h0 n) 0 h).toNat)

/-- Whether the visible rectangle of a layer is empty (R66). -/
def visEmpty (rd : View) (h0 n : Nat) : Bool :=
  let v := visRect rd h0 n
  v.2.1 ≤ v.1 || v.2.2.2 ≤ v.2.2.1

def inVis (rd : View) (h0 n x y : Nat) : Bool :=
  let v := visRect rd h0 n
  v.1 ≤ x && x < v.2.1 && v.2.2.1 ≤ y && y < v.2.2.2

/-- Whether layer `n` takes part in phase `p` (R64), the hide step aside (R183). -/
def takesPart (c : Ctx) (h0 n p : Nat) : Bool :=
  fv c.rd (F.LAYER_CTL.enable h0 n) == 1 && inPhase c.rd h0 n p && bitOf (c.steps n) 3 == 0

/-- The planes of a layer with the bases it shows (R68, R69). -/
def layerPlanes (c : Ctx) (h0 n : Nat) : Planes :=
  { asid := fv c.rd (F.SRC_BASE_HI.asid h0 n), base := c.base n,
    stride := [fv c.rd (F.SRC_STRIDE.stride h0 n), fv c.rd (F.P1_STRIDE.stride h0 n), fv c.rd (F.P2_STRIDE.stride h0 n)] }

/-- A CLUT entry of a layer as its four 16-bit values (R73). -/
def clutEntry (c : Ctx) (h0 n : Nat) (e : Nat) : List Nat :=
  let a := (n - 8) * 1024 + fv c.rd (F.LAYER_CTL.clut_bank h0 n) * 512 + e * 2
  let w0 := (c.iw (hallPage h0 0) a).toNat
  let w1 := (c.iw (hallPage h0 0) (a + 1)).toNat
  [bitsOf w0 0 16, bitsOf w0 16 16, bitsOf w1 0 16, bitsOf w1 16 16]

/-- A coefficient of a bank (R101, R103). -/
def coefAt (c : Ctx) (h0 bank : Nat) (horizontal : Bool) (ph t : Nat) : Int :=
  let a := bank * 1024 + (if horizontal then ph * 6 else 512 + ph * 4) + t / 2
  signedOf (bitsOf (c.iw (hallPage h0 6) a).toNat (16 * (t % 2)) 12) 12

/-- The taps in force (R100, R111). -/
def tapsH (c : Ctx) (h0 n : Nat) : Nat :=
  if bitOf (c.steps n) 0 = 1 then fv c.rd (F.SCALE_CTL.h_taps_red h0 n) else fv c.rd (F.SCALE_CTL.h_taps h0 n)
def tapsV (c : Ctx) (h0 n : Nat) : Nat :=
  if bitOf (c.steps n) 0 = 1 then fv c.rd (F.SCALE_CTL.v_taps_red h0 n) else fv c.rd (F.SCALE_CTL.v_taps h0 n)
def bankOf (c : Ctx) (h0 n : Nat) : Nat :=
  if bitOf (c.steps n) 0 = 1 then fv c.rd (F.SCALE_CTL.desc_bank h0 n) else fv c.rd (F.SCALE_CTL.coef_bank h0 n)

/-- The source size of a layer, lines halved where the step is in force (R112). -/
def srcW (rd : View) (h0 n : Nat) : Nat := fv rd (F.SRC_WH.w_m1 h0 n) + 1
def srcH (rd : View) (h0 n : Nat) : Nat := fv rd (F.SRC_WH.h_m1 h0 n) + 1

def stepX (rd : View) (h0 n : Nat) : Nat := scaleStep (srcW rd h0 n) (dstW rd h0 n)
def stepY (c : Ctx) (h0 n : Nat) : Nat :=
  let s := srcH c.rd h0 n
  scaleStep (if bitOf (c.steps n) 1 = 1 then ceilDiv s 2 else s) (dstH c.rd h0 n)

/-- The filter of a video layer at a destination pixel for its luma or full-resolution channels, or for its
chroma (R97, R100, R102, R107, R108, R112). A buffer of an odd size has half as many chroma samples, rounded down, in a
subsampled axis: the manual gives their number for even sizes only (DESIGN CHOICE, log 84). -/
def layerFilt (c : Ctx) (h0 n : Nat) (f : Fmt) (chroma : Bool) (x y : Nat) : Filt :=
  let rd := c.rd
  let halved := bitOf (c.steps n) 1 == 1
  let px := scalePos (stepX rd h0 n) (signedOf (fv rd (F.INIT_X.ofs h0 n)) 20) ((x : Int) - dstX rd h0 n).toNat
  let py := scalePos (stepY c h0 n) (signedOf (fv rd (F.INIT_Y.ofs h0 n)) 20) ((y : Int) - dstY rd h0 n).toNat
  let cx := chroma && f.hsub
  let cy := chroma && f.vsub
  let px := if cx then chromaPos px (fv rd (F.SCALE_CTL.chroma_h h0 n)) else px
  let py := if cy then chromaPos py (1 - fv rd (F.SCALE_CTL.chroma_v h0 n)) else py
  let dv (b : Bool) (v : Nat) : Nat := if b then v / 2 else v
  let sh := dv cy (srcH rd h0 n)
  { ax := ⟨dv cx (srcW rd h0 n), dv cx (fv rd (F.SRC_XY.x h0 n)), dv cx (fv rd (F.BUF_SIZE.w_m1 h0 n) + 1), 1⟩
    ay := ⟨if halved then ceilDiv sh 2 else sh, dv cy (fv rd (F.SRC_XY.y h0 n)),
           dv cy (fv rd (F.BUF_SIZE.h_m1 h0 n) + 1), if halved then 2 else 1⟩
    firstX := firstTap (tapsH c h0 n) px
    firstY := firstTap (tapsV c h0 n) py
    wx := tapWeights (coefAt c h0 (bankOf c h0 n) true) 12 (tapsH c h0 n) px
    wy := tapWeights (coefAt c h0 (bankOf c h0 n) false) 8 (tapsV c h0 n) py
    edgeX := fv rd (F.SCALE_CTL.edge_x h0 n)
    edgeY := fv rd (F.SCALE_CTL.edge_y h0 n) }

/-- The raw samples of a buffer position from some memory: of the chroma planes, or of the rest (R71). -/
def rawFrom (c : Ctx) (m : Mem) (h0 n code : Nat) (chroma : Bool) (x y : Nat) : Option Raw :=
  if chroma then rawChroma m (layerPlanes c h0 n) code x y
  else rawPixel m (clutEntry c h0 n) (layerPlanes c h0 n) code x y

/-- The raw samples of a buffer position as a hall fetches them: none where they come from a unit whose fetch failed (R110). -/
def fetchRaw (c : Ctx) (h0 n code : Nat) (chroma : Bool) (x y : Nat) : Option Raw :=
  rawFrom c (fun a va => if c.lost n (va % 2 ^ 48 / 64 * 64) then none else c.mem a va) h0 n code chroma x y

/-- Whether the samples of a buffer position take a byte that `p` names by its address space and address. -/
def touches (c : Ctx) (h0 n code : Nat) (chroma : Bool) (x y : Nat) (p : Nat → Nat → Bool) : Bool :=
  (rawFrom c (fun a va => if p a (va % 2 ^ 48) then none else some 0) h0 n code chroma x y).isNone

/-- Whether a piece of the pool holds a position. -/
def PoolLine.holds (l : PoolLine) (chroma : Bool) (x y : Nat) : Bool :=
  l.chroma == chroma && l.line == y && l.x0 ≤ x && x < l.x0 + l.samples.length

/-- The raw samples of a buffer position: as the pool holds them, else as memory does. -/
def rawAt (c : Ctx) (h0 n code : Nat) (chroma : Bool) (x y : Nat) : Option Raw :=
  match (c.pool n).find? fun l => l.holds chroma x y with
  | some l => (l.samples[x - l.x0]?).join
  | none => fetchRaw c h0 n code chroma x y

/-- Whether a channel comes from the chroma samples of a format. -/
def Fmt.chromaCh (f : Fmt) (i : Nat) : Bool := (f.hsub || f.vsub) && (i == 1 || i == 2)

/-- Channel `i` of a buffer pixel as a code value; channel 3 is alpha, 1 where the format has none (R71, R72). -/
def bufSample (c : Ctx) (h0 n code : Nat) (f : Fmt) (i x y : Nat) : Option F32 :=
  (rawAt c h0 n code (f.chromaCh i) x y).map fun r =>
    if i = 3 then (if f.alpha then f32Clamp01 (sampleCode (r.getD 3 (0, 1))) else f32One)
    else sampleCode (r.getD (if f.chromaCh i then i - 1 else i) (0, 1))

/-- The decoded or scaled colour and alpha of a layer at a canvas pixel; none where a sample it needs cannot be
fetched. -/
def layerValue (c : Ctx) (h0 n x y : Nat) : Option (List F32 × F32) :=
  let code := fv c.rd (F.FORMAT.fmt h0 n)
  match fmtInfo code with
  | none => none
  | some f =>
    if n < 8 then
      let chan (i : Nat) : Option F32 :=
        filtSample (layerFilt c h0 n f (i == 1 || i == 2) x y) fun bx by' faded =>
          let v := bufSample c h0 n code f i bx by'
          if i == 3 && faded then v.map fun _ => f32Zero else v
      do
        let v0 ← chan 0
        let v1 ← chan 1
        let v2 ← chan 2
        let a ← chan 3
        pure ([v0, v1, v2], f32Clamp01 a)
    else
      let bx := fv c.rd (F.SRC_XY.x h0 n) + ((x : Int) - dstX c.rd h0 n).toNat
      let by' := fv c.rd (F.SRC_XY.y h0 n) + ((y : Int) - dstY c.rd h0 n).toNat
      do
        let v0 ← bufSample c h0 n code f 0 bx by'
        let v1 ← bufSample c h0 n code f 1 bx by'
        let v2 ← bufSample c h0 n code f 2 bx by'
        let a ← bufSample c h0 n code f 3 bx by'
        pure ([v0, v1, v2], a)

/-- The colour settings of a layer. -/
def layerClr (rd : View) (h0 n : Nat) : LayerClr :=
  { narrow := fv rd (F.CLR_CTL.range h0 n) == 1, matrix := fv rd (F.CLR_CTL.matrix h0 n), tf := fv rd (F.CLR_CTL.tf h0 n),
    prim := fv rd (F.CLR_CTL.prim h0 n), clip := fv rd (F.CLR_CTL.clip h0 n) == 1,
    sdr := fv rd (F.CLR_WHITE.sdr_white h0 n), hlg := fv rd (F.CLR_WHITE.hlg_peak h0 n),
    knee := fv rd (F.CLIP_KP.knee h0 n), peak := fv rd (F.CLIP_KP.peak h0 n) }

/-- Cs and As of a decoded value of a layer (R76, R77, R80). -/
def layerBlend (c : Ctx) (h0 n : Nat) (v : List F32 × F32) : List F32 × F32 :=
  let code := fv c.rd (F.FORMAT.fmt h0 n)
  match fmtInfo code with
  | none => ([f32Zero, f32Zero, f32Zero], f32Zero)
  | some f =>
    layerSample
      (convertL code f (layerClr c.rd h0 n) (fv c.rd (F.CANVAS_CLR.prim h0)) (fv c.rd (F.CLR_NITS.ref_white h0)))
      (fv c.rd (F.LAYER_CTL.alpha_mode h0 n)) (fv c.rd (F.GLOBAL_ALPHA.alpha h0 n))
      (fv c.rd (F.LAYER_CTL.opaque_static h0 n) == 1) (!f.float) v.1 v.2

/-- The fault colour of a layer (R81). -/
def faultColour (c : Ctx) (h0 n : Nat) : List F32 × F32 :=
  ([f32OfF16 (fv c.rd (F.FAULT_RG.r h0 n)), f32OfF16 (fv c.rd (F.FAULT_RG.g h0 n)), f32OfF16 (fv c.rd (F.FAULT_BA.b h0 n))],
   f32OfF16 (fv c.rd (F.FAULT_BA.a h0 n)))

/-- The value of a video layer in column `x` taken from one source line alone, and one chroma line where the format keeps its
own: the horizontal filter of that line (fault_mode 1, R81). -/
def lineValue (c : Ctx) (h0 n x line chromaLine : Nat) : Option (List F32 × F32) :=
  let code := fv c.rd (F.FORMAT.fmt h0 n)
  match fmtInfo code with
  | none => none
  | some f =>
    let chan (i : Nat) : Option F32 :=
      let fl := layerFilt c h0 n f (i == 1 || i == 2) x 0
      let ln := if f.chromaCh i then chromaLine else line
      filtSample { fl with wy := [f32One], edgeY := 0, firstY := 0, ay := ⟨1, ln, ln + 1, 1⟩ }
        (fun bx by' faded =>
          let v := bufSample c h0 n code f i bx by'
          if i == 3 && faded then v.map fun _ => f32Zero else v)
    do
      let v0 ← chan 0
      let v1 ← chan 1
      let v2 ← chan 2
      let a ← chan 3
      pure ([v0, v1, v2], f32Clamp01 a)

/-- The most recent line of a ring of the pool that holds no invalid sample (R81, R110). -/
def lastIntact (ls : List PoolLine) (chroma : Bool) : Option Nat :=
  let ring := ls.filter fun l => l.chroma == chroma
  let intact (y : Nat) : Bool := (ring.filter fun l => l.line == y).all fun l => l.samples.all (·.isSome)
  ((ring.map (·.line)).reverse.find? intact)

/-- The value in column `x` of the most recent intact lines among some pieces (fault_mode 1, R81). -/
def goodLine (c : Ctx) (ls : List PoolLine) (h0 n x : Nat) : Option (List F32 × F32) :=
  match fmtInfo (fv c.rd (F.FORMAT.fmt h0 n)), lastIntact ls false with
  | some f, some y =>
    if f.chromaCh 1 then (lastIntact ls true).bind (lineValue c h0 n x y) else lineValue c h0 n x y y
  | _, _ => none

/-- The value in column `x` of the most recent intact lines held (fault_mode 1, R81). -/
def lastGoodLine (c : Ctx) (h0 n x : Nat) : Option (List F32 × F32) := goodLine c (c.pool n) h0 n x

/-- The fault colour as it substitutes pixels: opaque on an opaque-static layer (R80). -/
def faultSubst (c : Ctx) (h0 n : Nat) : List F32 × F32 :=
  if fv c.rd (F.LAYER_CTL.opaque_static h0 n) = 1 then ((faultColour c h0 n).1, f32One) else faultColour c h0 n

/-- The substitution of a layer's faulted tiles: an opaque-static layer has no transparent one (R80, R81). -/
def faultMode (c : Ctx) (h0 n : Nat) : Nat :=
  let m := fv c.rd (F.LAYER_CTL.fault_mode h0 n)
  if m = 0 ∧ fv c.rd (F.LAYER_CTL.opaque_static h0 n) = 1 then 2 else m

/-- The substitute of a layer's faulted tile at column `x` (R80, R81); none is transparent. -/
def substitute (c : Ctx) (h0 n x : Nat) : Option (List F32 × F32) :=
  match faultMode c h0 n with
  | 0 => none
  | 1 =>
    match lastGoodLine c h0 n x with
    | some v => some (layerBlend c h0 n v)
    | none => some (faultSubst c h0 n)
  | _ => some (faultSubst c h0 n)

/-- Whether a layer shows no buffer (R92). -/
def noBuffer (c : Ctx) (h0 n : Nat) : Bool := fv c.st (F.LAYER_STATUS.no_buffer h0 n) == 1

/-- Whether the 64 by 64 tile of (x, y) has, among the columns of the stripe and the rows composed, a pixel of the layer
that needs a sample that cannot be fetched (R81, R110). -/
def tileBad (c : Ctx) (h0 n : Nat) (stripe : Nat × Nat) (rows : List Nat) (x y : Nat) : Bool :=
  (rows.filter fun r => r / 64 == y / 64).any fun r =>
    (List.range 64).any fun i =>
      let cx := x / 64 * 64 + i
      stripe.1 ≤ cx && cx < stripe.1 + stripe.2 && inVis c.rd h0 n cx r && (layerValue c h0 n cx r).isNone

/-- What a layer adds at a pixel: none when it contributes nothing. -/
def layerAt (c : Ctx) (h0 n x y : Nat) : Option (List F32 × F32) :=
  if !inVis c.rd h0 n x y then none
  else if n == 32 && c.fill then some (faultSubst c h0 n)
  else if noBuffer c h0 n then
    (if fv c.rd (F.LAYER_CTL.opaque_static h0 n) = 1 then some (faultSubst c h0 n) else none)
  else if c.bad n (x / 64) then substitute c h0 n x
  else
    match layerValue c h0 n x y with
    | some v => some (layerBlend c h0 n v)
    | none => substitute c h0 n x

/-- What composition reads once the data that failed in on-chip SRAM is taken out of it (R45). -/
def Ctx.intact (c : Ctx) : Ctx :=
  { c with
    mem := fun a va => if c.hit a (va % 2 ^ 48) then none else c.mem a va
    pool := fun n => (c.pool n).map fun l =>
      { l with samples := l.samples.zipIdx.map fun s => if l.struck.contains s.2 then none else s.1 } }

/-- Whether what a layer adds at a pixel depends on data that failed in on-chip SRAM, a repeated last good line included (R43,
R45). -/
def layerStruck (c : Ctx) (h0 n x y : Nat) : Bool :=
  let s := c.intact
  let subst : Bool := faultMode c h0 n == 1 && (lastGoodLine c h0 n x).isSome && (goodLine s (c.pool n) h0 n x).isNone
  if !inVis c.rd h0 n x y || (n == 32 && c.fill) || noBuffer c h0 n then false
  else if c.bad n (x / 64) || (layerValue c h0 n x y).isNone then subst
  else (layerValue s h0 n x y).isNone

/-- Insert layer `n` in ascending order of Z, equal values by index (R75). -/
def zInsert (z : Nat → Nat) (l : List Nat) (n : Nat) : List Nat :=
  (l.takeWhile fun m => z m ≤ z n) ++ n :: (l.dropWhile fun m => z m ≤ z n)

/-- The layers of a phase from bottom to top (R64, R75). -/
def stackOrder (c : Ctx) (h0 p : Nat) : List Nat :=
  let l := (List.range 32).filter fun n => takesPart c h0 n p
  let l := if fv c.rd (F.HALL_CTL.order_mode h0) = 1 then l.foldl (zInsert fun n => fv c.rd (F.Z_ORDER.z h0 n)) [] else l
  if takesPart c h0 32 p then l ++ [32] else l

/-- Whether a layer blends additively; the balustrade and opaque-static layers always blend over (R78, R80). -/
def isAdditive (c : Ctx) (h0 n : Nat) : Bool :=
  n != 32 && fv c.rd (F.LAYER_CTL.blend h0 n) == 1 && fv c.rd (F.LAYER_CTL.opaque_static h0 n) == 0

/-- The composed pixel D (R78). -/
def composeD (c : Ctx) (h0 p x y : Nat) : List F32 :=
  let bg := [f32OfF16 (fv c.rd (F.BG_RG.r h0)), f32OfF16 (fv c.rd (F.BG_RG.g h0)), f32OfF16 (fv c.rd (F.BG_B.b h0))]
  (stackOrder c h0 p).foldl (fun d n =>
    match layerAt c h0 n x y with
    | some s => blendStep (isAdditive c h0 n) d s
    | none => d) bg

/-- The tone index u of a composed pixel (R133). -/
def pixelU (c : Ctx) (h0 : Nat) (d : List F32) : F32 :=
  toneU (fv c.rd (F.CANVAS_CLR.prim h0)) (fv c.rd (F.CLR_NITS.ref_white h0)) d

/-- The encoded value of a composed pixel before the 3D LUT: tone gain and output encoding (R133, R134). -/
def encodeOut (c : Ctx) (h0 : Nat) (d : List F32) : List F32 :=
  let d' :=
    if fv c.rd (F.CANVAS_CLR.tone_en h0) = 1 then
      let bank := fv c.st (F.CANVAS_CLR.tone_bank h0)
      let g := lut4096 (fun i => indHalf c.iw (hallPage h0 7) (bank * 2048) i) (pixelU c h0 d)
      d.map fun x => f32Mul x g
    else d
  outEncode (fv c.rd (F.CANVAS_CLR.out_tf h0)) (fv c.rd (F.CLR_NITS.ref_white h0))
    (fv c.rd (F.CLR_NITS.out_white h0)) (fv c.rd (F.HLG_NITS.hlg_peak h0)) d'

/-- The first word of a node of a 3D LUT bank in hall page 8 (R155). -/
def lutNode (bank r g b : Nat) : Nat := bank * 131072 + ((r * 33 + g) * 33 + b) * 2

/-- The encoded value of a composed pixel: tone gain, output encoding and 3D LUT (R133 to R135). -/
def encodePix (c : Ctx) (h0 : Nat) (d : List F32) : List F32 :=
  let e := encodeOut c h0 d
  if fv c.rd (F.CANVAS_CLR.lut3d_en h0) = 1 then
    let bank := fv c.st (F.CANVAS_CLR.lut3d_bank h0)
    lut3d (fun r g b ch => indHalf c.iw (hallPage h0 8) (lutNode bank r g b) ch) e
  else e

/-- Whether the encoded value of a composed pixel takes one of some words of the 3D LUT bank in use (R45). -/
def lutTakes (c : Ctx) (h0 : Nat) (ws : List Nat) (d : List F32) : Bool :=
  let e := encodeOut c h0 d
  fv c.rd (F.CANVAS_CLR.lut3d_en h0) == 1 && (List.range 4).any fun n =>
    let q := lutCorner e n
    let a := lutNode (fv c.st (F.CANVAS_CLR.lut3d_bank h0)) (q.getD 0 0) (q.getD 1 0) (q.getD 2 0)
    ws.contains a || ws.contains (a + 1)

/-- The buffer positions of channel 0 that a stripe decodes of a layer in some rows; `keep` says which tiles are fetched (R72,
R109). Each counts once for a hall, phase and source position: the manual does not say whether a sample that several rows decode
again counts again (DESIGN CHOICE, log 123). -/
def decoded (c : Ctx) (h0 n : Nat) (stripe : Nat × Nat) (rows : List Nat) (keep : Nat → Nat → Bool) : List (Nat × Nat) :=
  let px := rows.flatMap fun y => ((List.range stripe.2).map fun i => (stripe.1 + i, y)).filter fun q =>
    inVis c.rd h0 n q.1 q.2 && keep (q.1 / 64) (q.2 / 64)
  let at' (q : Nat × Nat) : List (Nat × Nat) :=
    if n < 8 then
      match fmtInfo (fv c.rd (F.FORMAT.fmt h0 n)) with
      | none => []
      | some f =>
        let fl := layerFilt c h0 n f false q.1 q.2
        (List.range fl.wx.length).flatMap fun (i : Nat) => (List.range fl.wy.length).map fun (j : Nat) =>
          ((edgeMap fl.edgeX fl.ax (fl.firstX + (i : Int))).1, (edgeMap fl.edgeY fl.ay (fl.firstY + (j : Int))).1)
    else [(fv c.rd (F.SRC_XY.x h0 n) + ((q.1 : Int) - dstX c.rd h0 n).toNat,
           fv c.rd (F.SRC_XY.y h0 n) + ((q.2 : Int) - dstY c.rd h0 n).toNat)]
  (px.flatMap at').eraseDups

/-- The non-finite samples a stripe decodes of a layer (R72). -/
def nonFinite (c : Ctx) (h0 n : Nat) (stripe : Nat × Nat) (rows : List Nat) (keep : Nat → Nat → Bool) : Nat :=
  let code := fv c.rd (F.FORMAT.fmt h0 n)
  if code != 0x07 || noBuffer c h0 n then 0
  else ((decoded c h0 n stripe rows keep).map fun q =>
    match rawPixel c.mem (clutEntry c h0 n) (layerPlanes c h0 n) code q.1 q.2 with
    | some r => (r.filter sampleNonFinite).length
    | none => 0).sum

/-- The source columns of a video layer in a stripe that its taps read, from the least to the greatest (R114). -/
def poolCols (c : Ctx) (h0 n : Nat) (stripe : Nat × Nat) : Nat :=
  let v := visRect c.rd h0 n
  let ja := max v.1 stripe.1
  let jb := min v.2.1 (stripe.1 + stripe.2)
  if jb ≤ ja ∨ v.2.2.2 ≤ v.2.2.1 then 0
  else
    let a : Axis := ⟨srcW c.rd h0 n, fv c.rd (F.SRC_XY.x h0 n), fv c.rd (F.BUF_SIZE.w_m1 h0 n) + 1, 1⟩
    let j (x : Nat) : Nat := ((x : Int) - dstX c.rd h0 n).toNat
    let r := srcSpan (fv c.rd (F.SCALE_CTL.edge_x h0 n)) a (stepX c.rd h0 n) (signedOf (fv c.rd (F.INIT_X.ofs h0 n)) 20)
      (tapsH c h0 n) (j ja) (j (jb - 1))
    r.2 - r.1 + 1

/-- The pool bytes of a video layer in a stripe (R114). -/
def poolBytes (c : Ctx) (h0 n : Nat) (stripe : Nat × Nat) : Nat :=
  tapsV c h0 n * ceilDiv (poolCols c h0 n stripe) 8 * 64

end Sys2Proof.Machine
end

