-- ==== Sys2Proof/Machine/Lanes.lean ====
section
/-! DEFINITION. Lanes, landing ports and the PLLs that clock them, as a configuration names them (R228, R229, R246, R247, R459). -/

namespace Sys2Proof.Machine

def laneMode (rd : View) (n : Nat) : Nat := fv rd (F.LANE_CTL.mode n)
def laneOn (rd : View) (n : Nat) : Bool := n < 144 && fv rd (F.LANE_CTL.enable n) == 1
def laneSpare (rd : View) (n : Nat) : Bool := n < 144 && fv rd (F.LANE_CTL.spare n) == 1

/-- What a bank makes of the receiver of a lane: off, Stairline, Ethernet or landing member (R228). -/
def laneSide (rd : View) (n : Nat) : Nat :=
  if !laneOn rd n then 0 else if laneMode rd n = 1 then 1 else if 2 ≤ laneMode rd n ∧ laneMode rd n ≤ 5 then 2
  else if laneMode rd n = 6 then 6 else 0

def portOn (rd : View) (k : Nat) : Bool := fv rd (F.PORT_CTL.enable k) == 1
def portWidth (rd : View) (k : Nat) : Nat := 2 ^ fv rd (F.PORT_CTL.width_log2 k)
def portLanes (rd : View) (k : Nat) : List Nat :=
  (List.range (portWidth rd k)).map fun i => fv rd (F.PORT_CTL.lane k) + i

/-- The line rate of a code of PORT_CTL.rate (R246), in kbit/s. -/
def portRate (code : Nat) : Nat := if code = 1 then 28125000 else if code = 2 then 10312500 else 25781250

/-- The enabled port that bonds a lane. -/
def portOfLane (rd : View) (n : Nat) : Option Nat :=
  (List.range 8).find? fun k => portOn rd k && (portLanes rd k).contains n

/-- The line rate of a lane by its mode (R228, R246). -/
def laneRate (rd : View) (n : Nat) : Nat :=
  match laneMode rd n with
  | 1 => fv rd (F.LANE_RATE.kbps n)
  | 2 => 10312500
  | 3 => 25781250
  | 4 => 10312500
  | 5 => 25781250
  | 6 =>
    match portOfLane rd n with
    | some k => portRate (fv rd (F.PORT_CTL.rate k))
    | none => 0
  | _ => 0

/-- The canonical VCO frequency of a rate in half kHz, and its L; none where no L places it (R459). -/
def vcoOf (r : Nat) : Option (Nat × Nat) :=
  ([1, 2, 4, 8].find? fun l => 14100000 ≤ r * l && r * l < 28200000).map fun l => (r * l, l)

/-- The rates that the lanes of a quad count at (R459): those of its enabled lanes, of which a spare has none of its own, and for a
spare those of the landing ports that name it. -/
def quadRates (rd : View) (q : Nat) : List Nat :=
  let ns := (List.range 4).map fun i => 4 * q + i
  ((ns.filter fun n => laneOn rd n && laneMode rd n != 0 && !laneSpare rd n).map (laneRate rd)) ++
    (ns.filter (laneSpare rd)).flatMap fun n =>
      ((List.range 8).filter fun k => portOn rd k && fv rd (F.PORT_CTL.spare_en k) == 1 && fv rd (F.PORT_CTL.spare_lane k) == n).map
        fun k => portRate (fv rd (F.PORT_CTL.rate k))

/-- The canonical VCO frequencies that a quad's two PLLs take (R459): that of its lowest-numbered enabled lane, and the
other one. -/
def quadVs (rd : View) (q : Nat) : List Nat := ((quadRates rd q).filterMap fun r => (vcoOf r).map (·.1)).eraseDups.take 2

/-- The PLL, by index (R476), that clocks lane `n` as carried by lane `k`. -/
def pllOfLane (rd : View) (n k : Nat) : Nat :=
  16 + 2 * (k / 4) + (if (vcoOf (laneRate rd n)).map (·.1) = (quadVs rd (k / 4)).head? then 0 else 1)

end Sys2Proof.Machine
end

