-- ==== Sys2Proof/Machine/Ops.lean ====
section
/-! DEFINITION. The named operations over the state: registers and their fields, counters, session-local words, indirect
words, marks of first occurrences, free values, time, what leaves the module, and the records of canvases, layers, halls and
the other arrays. -/

namespace Sys2Proof.Machine

/-! ## Words and fields -/

/-- A word with one field replaced. -/
def putBits (w : Word) (lsb width v : Nat) : Word :=
  let m := BitVec.ofNat 32 ((2 ^ width - 1) <<< lsb)
  (w &&& ~~~m) ||| BitVec.ofNat 32 ((v % 2 ^ width) <<< lsb)

/-- The stored word of a register; RWS fields hold their staged value here (R23). -/
def Dev.stored (d : Dev) (a : Nat) : Word := Tab.get resetWord d.regs.stored a

/-- Replace the stored word of a register. -/
def Dev.setStored (d : Dev) (a : Nat) (w : Word) : Dev :=
  { d with regs.stored := Tab.set resetWord d.regs.stored a w }

/-- The active values of the RWS fields (R23). -/
def Dev.actv (d : Dev) : View := Tab.get resetWord d.regs.active

/-- The pending bank (R25). -/
def Dev.pendv (d : Dev) : View := Tab.get resetWord d.regs.pend

/-- The stored words as a view. -/
def Dev.stv (d : Dev) : View := d.stored

/-- A stored field. -/
def Dev.get (d : Dev) (r : FieldRef) : Nat := bitsOf (d.stored r.addr).toNat r.lsb r.width

/-- Set a stored field. -/
def Dev.put (d : Dev) (r : FieldRef) (v : Nat) : Dev := d.setStored r.addr (putBits (d.stored r.addr) r.lsb r.width v)

/-- Whether a one-bit field is 1. -/
def Dev.is (d : Dev) (r : FieldRef) : Bool := d.get r == 1

/-- An active RWS field. -/
def Dev.act (d : Dev) (r : FieldRef) : Nat := fv d.actv r

/-- Whether an active one-bit field is 1. -/
def Dev.actIs (d : Dev) (r : FieldRef) : Bool := d.act r == 1

/-- A counter moves on, modulo 2^32 (R279). -/
def Dev.bumpBy (d : Dev) (r : FieldRef) (n : Nat) : Dev := d.put r (d.get r + n)
def Dev.bump (d : Dev) (r : FieldRef) : Dev := d.bumpBy r 1

/-- Set bits of a sticky field. -/
def Dev.orBits (d : Dev) (r : FieldRef) (v : Nat) : Dev := d.put r (d.get r ||| v)

/-! ## Session-local and indirect words -/

/-- The key of a session-local word of an accessor (R278). -/
def locKey (acc a : Nat) : Nat := acc * 2 ^ 32 + a

def Dev.loc (d : Dev) (acc a : Nat) : Word := Tab.get (fun _ => 0) d.regs.loc (locKey acc a)
def Dev.setLoc (d : Dev) (acc a : Nat) (w : Word) : Dev :=
  { d with regs.loc := Tab.set (fun _ => 0) d.regs.loc (locKey acc a) w }

/-- The key of an indirect word by page number and address (R280). -/
def indKey (page addr : Nat) : Nat := page * 2 ^ 32 + addr

/-- A reset coefficient pair of R102: linear interpolation in entries 5 and 6 of a horizontal table and 3 and 4 of a
vertical one; the address as R103 gives it. -/
def coefDefault (a : Nat) : Word :=
  let q := a % 1024
  let lo (ph : Nat) : Word := BitVec.ofNat 32 ((1024 - 16 * ph) * 2 ^ 16)
  let hi (ph : Nat) : Word := BitVec.ofNat 32 (16 * ph)
  if 16384 ≤ a then 0
  else if q < 384 then (if q % 6 = 2 then lo (q / 6) else if q % 6 = 3 then hi (q / 6) else 0)
  else if 512 ≤ q ∧ q < 768 then
    (if q % 4 = 1 then lo ((q - 512) / 4) else if q % 4 = 2 then hi ((q - 512) / 4) else 0)
  else 0

/-- A reset word of a 3D LUT bank: the identity of R135. -/
def lut3dDefault (a : Nat) : Word :=
  let n := a % 131072 / 2
  let v (r : Nat) : Nat := (65535 * r + 16) / 32
  if 35937 ≤ n ∨ 262144 ≤ a then 0
  else if a % 2 = 0 then BitVec.ofNat 32 (v (n / 1089) + v (n / 33 % 33) * 2 ^ 16)
  else BitVec.ofNat 32 (v (n % 33))

/-- A reset word of a LUT set: binary16 of i / 4,095 (R147). -/
def lutSetDefault (a : Nat) : Word :=
  let v (i : Nat) : Nat := f16OfDiv i 4095
  let q := a % 0x2000
  if a < 0x10000 ∨ 0x14000 ≤ a ∨ 0x1800 ≤ q then 0
  else BitVec.ofNat 32 (v (q % 0x800 * 2) + v (q % 0x800 * 2 + 1) * 2 ^ 16)

/-- What an unlisted indirect word holds: an event route resets to 0x10 (R292), coefficient banks, LUTs and the lane
words of R352 as their chapters say, everything else to 0. So do the words of the policy proposal (R152) and of the published
histograms and zone maxima (R153) before any is written; the manual gives them no reset value (DESIGN CHOICE, log 115). -/
def indDefault (k : Nat) : Word :=
  let page := k / 2 ^ 32
  let a := k % 2 ^ 32
  if page = 0xB00 then (if a < 1024 then 0x10 else 0)
  else if 0x100 ≤ page ∧ page < 0x180 then
    (match page % 16 with
     | 6 => coefDefault a
     | 7 => if a < 4096 then 0x3C003C00 else 0
     | 8 => lut3dDefault a
     | _ => 0)
  else if 0x200 ≤ page ∧ page < 0x220 then lutSetDefault a
  else if 0x3000 ≤ page ∧ page < 0x3090 then (if a = 514 then 1 else if a = 520 then 0x76 else 0)
  else 0

def Dev.ind (d : Dev) (page addr : Nat) : Word := Tab.get indDefault d.regs.ind (indKey page addr)
def Dev.setInd (d : Dev) (page addr : Nat) (w : Word) : Dev :=
  { d with regs.ind := Tab.set indDefault d.regs.ind (indKey page addr) w }

/-- An indirect counter moves on by `n` over two words, low word first (64 bits). -/
def Dev.ind64 (d : Dev) (page addr n : Nat) : Dev :=
  let v := (d.ind page addr).toNat + (d.ind page (addr + 1)).toNat * 2 ^ 32 + n
  (d.setInd page addr (BitVec.ofNat 32 v)).setInd page (addr + 1) (BitVec.ofNat 32 (v / 2 ^ 32))

/-- An indirect counter of one word moves on by `n`. -/
def Dev.ind32 (d : Dev) (page addr n : Nat) : Dev := d.setInd page addr (d.ind page addr + BitVec.ofNat 32 n)

/-! ## Marks, free values, time and output -/

/-- Do something on the first occurrence of a mark in a tick: marks 0 to 7 thousand belong to the ticks of a canvas and
8 thousand to the module tick (R568). -/
def Dev.once (d : Dev) (mark : Nat) (f : Dev → Dev) : Dev :=
  if d.first.contains mark then d else f { d with first := mark :: d.first }

/-- The mark `k` of the ticks of canvas `c`, and of the module tick. -/
def markOf (c k : Nat) : Nat := c * 1000000 + k
def modMark (k : Nat) : Nat := markOf 8 k

/-- Forget the marks of a scope: a canvas, or 8 for the module tick. -/
def Dev.clearMarks (d : Dev) (c : Nat) : Dev := { d with first := d.first.filter fun m => m / 1000000 != c }

/-- The next free value. Log 10. -/
def Dev.free (d : Dev) : Nat := Config.freeNat d.seed
def Dev.drawn (d : Dev) : Dev := { d with seed := d.seed + 1 }

/-- The symbols that the on-chip code corrects in what is read are a free number (R117, R225). Log 80. -/
def Dev.corrected (d : Dev) (r : FieldRef) : Dev := d.drawn.bumpBy r d.free

/-- A command arrives at PTP time `t`; time does not run backwards between commands. Log 2. -/
def Dev.at (d : Dev) (t : Nat) : Dev := { d with now := max d.now t }

/-- Something leaves the module. -/
def Dev.emit (d : Dev) (e : Emit) : Dev := { d with out := e :: d.out }

/-- PTP seconds and nanoseconds of an instant. -/
def secOf (t : Nat) : Nat := t / 1000000000
def nsOf (t : Nat) : Nat := t % 1000000000

/-- A word of the low 32 bits. -/
def w32 (n : Nat) : Word := BitVec.ofNat 32 n

/-! ## Records by index -/

/-- The key of layer `n` of hall `h`. -/
def layerKey (h n : Nat) : Nat := h * 33 + n

def Dev.canvas (d : Dev) (c : Nat) : Canvas := Tab.get (fun _ => Canvas.idle) d.canvases c
def Dev.setCanvas (d : Dev) (c : Nat) (v : Canvas) : Dev :=
  { d with canvases := Tab.set (fun _ => Canvas.idle) d.canvases c v }
def Dev.layer (d : Dev) (h n : Nat) : Layer := Tab.get (fun _ => Layer.idle) d.layers (layerKey h n)
def Dev.setLayer (d : Dev) (h n : Nat) (v : Layer) : Dev :=
  { d with layers := Tab.set (fun _ => Layer.idle) d.layers (layerKey h n) v }
def Dev.hall (d : Dev) (h : Nat) : Hall := Tab.get (fun _ => Hall.idle) d.halls h
def Dev.setHall (d : Dev) (h : Nat) (v : Hall) : Dev := { d with halls := Tab.set (fun _ => Hall.idle) d.halls h v }
def Dev.win (d : Dev) (w : Nat) : Win := Tab.get (fun _ => Win.idle) d.wins w
def Dev.setWin (d : Dev) (w : Nat) (v : Win) : Dev := { d with wins := Tab.set (fun _ => Win.idle) d.wins w v }
def Dev.lane (d : Dev) (n : Nat) : Lane := Tab.get (fun _ => Lane.idle) d.lanes n
def Dev.setLane (d : Dev) (n : Nat) (v : Lane) : Dev := { d with lanes := Tab.set (fun _ => Lane.idle) d.lanes n v }
def Dev.sampler (d : Dev) (k : Nat) : Sampler := Tab.get (fun _ => Sampler.idle) d.samplers k
def Dev.setSampler (d : Dev) (k : Nat) (v : Sampler) : Dev :=
  { d with samplers := Tab.set (fun _ => Sampler.idle) d.samplers k v }
def Dev.ptpPort (d : Dev) (s : Nat) : PtpPort := Tab.get (fun _ => PtpPort.idle) d.ptp s
def Dev.setPtpPort (d : Dev) (s : Nat) (v : PtpPort) : Dev := { d with ptp := Tab.set (fun _ => PtpPort.idle) d.ptp s v }
def Dev.recv (d : Dev) (r : Nat) : Recv := Tab.get (fun _ => Recv.idle) d.recvs r
def Dev.setRecv (d : Dev) (r : Nat) (v : Recv) : Dev := { d with recvs := Tab.set (fun _ => Recv.idle) d.recvs r v }
def Dev.sess (d : Dev) (i : Nat) : Option Sess := Tab.get (fun _ => none) d.sessions i
def Dev.setSess (d : Dev) (i : Nat) (v : Option Sess) : Dev := { d with sessions := Tab.set (fun _ => none) d.sessions i v }
def Dev.migrOf (d : Dev) (s : Nat) : Option Migr := Tab.get (fun _ => none) d.migr s
def Dev.setMigr (d : Dev) (s : Nat) (v : Option Migr) : Dev := { d with migr := Tab.set (fun _ => none) d.migr s v }
def Dev.chan (d : Dev) (k : Nat) : Chan := Tab.get (fun _ => Chan.idle) d.chans k
def Dev.setChan (d : Dev) (k : Nat) (v : Chan) : Dev := { d with chans := Tab.set (fun _ => Chan.idle) d.chans k v }
def Dev.cu (d : Dev) (u : Nat) : Cu := Tab.get (fun _ => Cu.idle) d.cus u
def Dev.setCu (d : Dev) (u : Nat) (v : Cu) : Dev := { d with cus := Tab.set (fun _ => Cu.idle) d.cus u v }
def Dev.pll (d : Dev) (i : Nat) : Pll := Tab.get (fun _ => Pll.idle) d.clk.plls i
def Dev.setPll (d : Dev) (i : Nat) (v : Pll) : Dev := { d with clk.plls := Tab.set (fun _ => Pll.idle) d.clk.plls i v }
def Dev.tsyn (d : Dev) (c : Nat) : Tsyn := Tab.get (fun _ => Tsyn.idle) d.clk.tsyn c
def Dev.setTsyn (d : Dev) (c : Nat) (v : Tsyn) : Dev := { d with clk.tsyn := Tab.set (fun _ => Tsyn.idle) d.clk.tsyn c v }
def Dev.port (d : Dev) (k : Nat) : Port := Tab.get (fun _ => Port.idle) d.casc.ports k
def Dev.setPort (d : Dev) (k : Nat) (v : Port) : Dev := { d with casc.ports := Tab.set (fun _ => Port.idle) d.casc.ports k v }

/-! ## Mailboxes (R281) -/

/-- A read-direction capture: the four words and valid. -/
def Dev.mbxReturn (d : Dev) (acc pg item : Nat) (ws : List Word) : Dev :=
  let d := d.setLoc acc (A.MBX_CTL pg) (w32 (item + 0x1000000))
  (List.range 4).foldl (fun d i => d.setLoc acc (A.MBX_DATA pg i) (ws.getD i 0)) d

/-- The words of a write-direction item as the accessor wrote them, taken at once: valid is clear. -/
def Dev.mbxTaken (d : Dev) (acc pg item : Nat) (ws : List Word) : Dev :=
  let d := d.setLoc acc (A.MBX_CTL pg) (w32 (item + 0x100))
  (List.range 4).foldl (fun d i => d.setLoc acc (A.MBX_DATA pg i) (ws.getD i 0)) d

/-! ## Lanes that carry (R231) -/

/-- The lane whose transmitter sends the traffic of lane `n`: a spare that carries it, else itself. -/
def Dev.carrier (d : Dev) (n : Nat) : Nat :=
  ((List.range 144).find? fun k => d.is (F.LANE_STATUS.carrying k) && d.get (F.LANE_STATUS.carried_lane k) == n).getD n

/-- The lane whose fields are in force on a lane: the one a spare carries (R241). -/
def Dev.fieldsOf (d : Dev) (k : Nat) : Nat :=
  if d.is (F.LANE_STATUS.carrying k) then d.get (F.LANE_STATUS.carried_lane k) else k

/-- Whether the PLL that clocks a transmitter is locked: without lock it carries no block (R460). -/
def Dev.laneClocked (d : Dev) (k : Nat) : Bool := (d.pll (pllOfLane d.actv (d.fieldsOf k) k)).lock

/-! ## Landing links -/

/-- The landing ports that are up. -/
def Dev.upPorts (d : Dev) : List Nat := (List.range 8).filter fun k => d.is (F.PORT_STATUS.up k)

/-- Bytes D0 to D7 of the MSG_START of a message (R249). -/
def LMsg.start (m : LMsg) : List Byte :=
  [0x78, BitVec.ofNat 8 m.type, BitVec.ofNat 8 (m.src * 16 + m.hops % 16), BitVec.ofNat 8 (m.dst % 16 * 16 + (if m.bcast then 1 else 0))] ++
    bytesBE 2 m.body.length ++ bytesBE 2 m.seq

/-- Blocks of eight bytes, the last padded with zeros. -/
def blocks8 : Nat → List Byte → List (List Byte)
  | 0, _ => []
  | _, [] => []
  | n + 1, bs => (bs.take 8 ++ List.replicate (8 - bs.length) 0).take 8 :: blocks8 n (bs.drop 8)

/-- The blocks of a message: MSG_START and ceil((L + 4) / 8) data blocks with the body, a CRC-32C over bytes D1 to D7 of
MSG_START and the body, and zero padding (R249). -/
def LMsg.blocks (m : LMsg) : List (List Byte) :=
  m.start :: blocks8 (m.body.length + 4) (m.body ++ bytesBE 4 (crc32c (m.start.drop 1 ++ m.body)).toNat)

/-- Blocks of a port's stream with the lanes that they go to: block j of the stream to the lane at position j mod w, or to the spare
that carries it (R247). Idle blocks fill the stream, so the place of the first is a free value (log 133). -/
def Dev.dealt (d : Dev) (k : Nat) (bs : List (List Byte)) : List (Nat × List Byte) :=
  bs.zipIdx.map fun (x : List Byte × Nat) =>
    (d.carrier ((portLanes d.actv k).getD ((Config.blockPos k d.now + x.2) % portWidth d.actv k) 0), x.1)

/-- Whether every lane of a port is clocked (R460). -/
def Dev.portClocked (d : Dev) (k : Nat) : Bool := (portLanes d.actv k).all fun n => d.laneClocked (d.carrier n)

/-- A message leaves on a landing port. What would leave while a PLL of the port is out of lock is lost: the manual does not say
whether it waits (DESIGN CHOICE, log 132). -/
def Dev.emitMsg (d : Dev) (k : Nat) (m : LMsg) : Dev :=
  if d.portClocked k then d.emit (.landing k d.now m (d.dealt k m.blocks)) else d

/-- Send a landing message on some ports, with the next sequence number of this landing (R249). -/
def Dev.landSend (d : Dev) (ports : List Nat) (type dst : Nat) (bcast : Bool) (body : List Byte) : Dev :=
  let m : LMsg :=
    { type := type, src := d.get F.CASC_ID.landing, hops := 0, dst := dst, bcast := bcast, seq := d.casc.seq, body := body }
  let d := { d with casc.seq := (d.casc.seq + 1) % 65536 }
  (ports.filter fun k => d.is (F.PORT_STATUS.up k)).foldl (fun d k => d.emitMsg k m) d

/-- Send a message to the neighbour on a port, which its destination names (R249). -/
def Dev.peerSend (d : Dev) (k type : Nat) (body : List Byte) : Dev :=
  if d.is (F.PORT_STATUS.up k) then d.landSend [k] type (d.act (F.PORT_CTL.peer k)) false body else d

/-- The enabled landing ports, those toward the coordinator and those toward all (R251). -/
def Dev.ports (d : Dev) : List Nat := (List.range 8).filter fun k => d.actIs (F.PORT_CTL.enable k)
def Dev.portsUp (d : Dev) : List Nat :=
  if d.act F.CASC_CTL.topology = 1 then d.ports else d.ports.filter fun k => d.actIs (F.PORT_CTL.uplink k)
def Dev.portsDown (d : Dev) : List Nat :=
  if d.act F.CASC_CTL.topology = 1 then d.ports else d.ports.filter fun k => !d.actIs (F.PORT_CTL.uplink k)

/-- PTP time in a landing message: 48-bit seconds and 32-bit nanoseconds, big-endian (R250). -/
def timeBE (t : Nat) : List Byte := bytesBE 6 (secOf t) ++ bytesBE 4 (nsOf t)

end Sys2Proof.Machine
end

