-- ==== Sys2Proof/Machine/Time.lean ====
section
/-! DEFINITION. Tick streams and phases (R13 to R22) and the canvas time of the tick synthesizers (R466). -/

namespace Sys2Proof.Machine

/-- A tick stream: epoch in ns, period numerator and denominator. -/
structure Stream where
  epoch : Nat
  num   : Nat
  den   : Nat
deriving DecidableEq, Repr

/-- Where the model keeps word `i` of a canvas's epoch (ns, seconds low, seconds high), an RWS value that no address of the
management space holds (R55). The manual gives EPOCH no reset value; it resets to 0 (DESIGN CHOICE, log 96). -/
def epochAddr (c i : Nat) : Nat := 0x4000000 + c * 16 + i * 4

/-- The epoch of a canvas in a bank, in ns. -/
def epochOf (rd : View) (c : Nat) : Nat :=
  (rd (epochAddr c 0)).toNat + ((rd (epochAddr c 1)).toNat + bitsOf (rd (epochAddr c 2)).toNat 0 16 * 2 ^ 32) * 1000000000

def streamOf (rd : View) (c : Nat) : Stream :=
  { epoch := epochOf rd c, num := fv rd (F.PERIOD_NUM.num c), den := fv rd (F.PERIOD_DEN.den c) }

/-- The instant of tick `n` (R13). -/
def Stream.tick (s : Stream) (n : Nat) : Nat := s.epoch + n * s.num / s.den

/-- The smallest tick at or after an instant (R20). -/
def Stream.firstFrom (s : Stream) (t : Nat) : Nat := ceilDiv ((t - s.epoch) * s.den) s.num

/-- The last tick at or before an instant, 0 before the epoch. -/
def Stream.lastAt (s : Stream) (t : Nat) : Nat :=
  let k := s.firstFrom t
  if s.tick k ≤ t then k else k - 1

/-- The instant of an offset in units of 1/65,536 of the period after tick `n` (R17). -/
def Stream.at (s : Stream) (n ofs : Nat) : Nat := s.epoch + (n * 65536 + ofs) * s.num / (65536 * s.den)

/-- The number of phases and the phase offsets of a canvas (R17). -/
def phasesOf (rd : View) (c : Nat) : Nat := fv rd (F.TICK_CTL.phases_m1 c) + 1
def phaseOfs (rd : View) (c p : Nat) : Nat :=
  match p with
  | 0 => fv rd (F.PHASE_OFS_01.ofs0 c)
  | 1 => fv rd (F.PHASE_OFS_01.ofs1 c)
  | 2 => fv rd (F.PHASE_OFS_23.ofs2 c)
  | 3 => fv rd (F.PHASE_OFS_23.ofs3 c)
  | 4 => fv rd (F.PHASE_OFS_45.ofs4 c)
  | 5 => fv rd (F.PHASE_OFS_45.ofs5 c)
  | 6 => fv rd (F.PHASE_OFS_67.ofs6 c)
  | _ => fv rd (F.PHASE_OFS_67.ofs7 c)

/-- The start of phase `p` of tick `n` (R17). -/
def phaseTime (rd : View) (c n p : Nat) : Nat := (streamOf rd c).at n (phaseOfs rd c p)

/-- The length of a phase at the nominal period: the units of 1/65,536 it spans, as a duration rounded down. -/
def phaseUnits (rd : View) (c p : Nat) : Nat :=
  (if p + 1 < phasesOf rd c then phaseOfs rd c (p + 1) else 65536) - phaseOfs rd c p
def phaseLen (rd : View) (c p : Nat) : Nat :=
  phaseUnits rd c p * fv rd (F.PERIOD_NUM.num c) / (65536 * fv rd (F.PERIOD_DEN.den c))

/-- TICK_TIME of a canvas under its active stream. -/
def Dev.tickTime (d : Dev) (c n : Nat) : Nat := (streamOf d.actv c).tick n

/-- The canvases that run, and the canvas whose ticks are the module tick (R568). -/
def Dev.running (d : Dev) : List Nat := (List.range 8).filter fun c => d.is (F.TICK_STATUS.running c)
/-- The ticks of a canvas go on: it runs, or a gap before its new stream lasts (R21). -/
def Dev.ticking (d : Dev) (c : Nat) : Bool := d.is (F.TICK_STATUS.running c) || (d.canvas c).gapTo.isSome
def Dev.modCanvas (d : Dev) : Option Nat := d.running.head?

/-- The first tick of a canvas that falls at or after an instant under its active stream. -/
def Dev.tickFrom (d : Dev) (c t : Nat) : Nat := (streamOf d.actv c).firstFrom t

/-! ## Canvas time (R466 to R469) -/

/-- Whether Δ_c is being removed by steps (R468). -/
def Dev.tsynSteps (d : Dev) (c : Nat) : Bool :=
  let x := (d.tsyn c).delta
  d.is (F.TSYN_CTL.phase_step_allow c) && x != 0 &&
    (d.is (F.TSYN_STATUS.stepping c) || decide (d.get (F.TSYN_CTL.step_thr_us c) * 1000000000000 < x.natAbs)) &&
    (decide (0 < x) || decide (100 ≤ (d.tsyn c).slack))

/-- What a slew toward 0 at `rate` ns per second leaves of a difference after `n` ns (R467). -/
def slewed (delta : Int) (rate n : Nat) : Int :=
  let x : Int := (n * rate : Nat)
  if delta < 0 then min 0 (delta + x) else max 0 (delta - x)

/-- Δ_c at an instant of TC: slewed since it was last brought up to date, unless steps take it (R467, R468) or the PLL relocks, when
CV_c is frozen and ST_c is counted from CORE (R469; DEDUCED, log 136). -/
def Dev.deltaAt (d : Dev) (c t : Nat) : Int :=
  let s := d.tsyn c
  if d.is (F.TSYN_STATUS.relock c) || d.tsynSteps c then s.delta else slewed s.delta (d.get (F.TSYN_CTL.slew_ns_s c)) (t - s.last)

/-- The canvas time ST_c at an instant of TC: TC moved by Δ_c (R466); and now. -/
def Dev.canvasAt (d : Dev) (c t : Nat) : Nat := ((t : Int) + d.deltaAt c t / 1000000000).toNat
def Dev.canvasNow (d : Dev) (c : Nat) : Nat := d.canvasAt c d.now

/-- The instant of TC at which the canvas time of a canvas reaches a value (R466): Δ_c moves by at most 10 µs in a second, so what is
reckoned with the Δ_c of an instant near the end is out by less than a nanosecond. -/
def Dev.tcOf (d : Dev) (c st : Nat) : Nat :=
  let near (t : Nat) : Nat := ((st : Int) - d.deltaAt c t / 1000000000).toNat
  let t := near (near (near d.now))
  if st ≤ d.canvasAt c (t - 1) then t - 1 else if d.canvasAt c t < st then t + 1 else t

/-- Whether an instant has come. -/
def Dev.isDue (d : Dev) (w : When) : Bool :=
  match w.canvas with
  | some c => w.at' ≤ d.canvasNow c
  | none => w.at' ≤ d.now

end Sys2Proof.Machine
end

