-- ==== Sys2Proof/Machine/Geometry.lean ====
section
/-! DEFINITION. The conditions that refuse a commit with TIMING (R14, R18) or GEOMETRY (R59, R65, R67, R70, R76, R80 to R83,
R92, R94, R100, R107, R111, R127, R128, R134, R148 to R151, R154, R196, R209, R211, R218, R221, R226, R228 to R231, R237, R239,
R245 to R247, R297, R305, R432, R434, R437, R459), over the values of a bank. A broken condition is its object as
instance and kind (R189): 0 hall, 1 window, 2 canvas, 3 lane, 4 landing port, 5 receiver, 6 check unit. -/

namespace Sys2Proof.Machine

/-- A condition that names its object when it fails. -/
def faulty (ok : Bool) (inst kind : Nat) : List (Nat × Nat) := if ok then [] else [(inst, kind)]

/-! ## Canvases, halls and gangs -/

def canvasOn (rd : View) (c : Nat) : Bool := c < 8 && fv rd (F.TICK_CTL.enable c) == 1
def hallOn (rd : View) (h : Nat) : Bool := fv rd (F.HALL_CTL.enable h) == 1
def hallCanvas (rd : View) (h : Nat) : Nat := fv rd (F.HALL_CTL.canvas h)

/-- The halls of the gang of `h` (R59). -/
def gangOf (rd : View) (h : Nat) : List Nat := (List.range (gangSize rd h)).map fun i => leadOf rd h + i

/-- The lead halls of the gangs of enabled halls. -/
def leads (rd : View) : List Nat := (List.range 8).filter fun h => hallOn rd h && leadOf rd h == h

/-- The lead hall of a canvas, and its halls. -/
def leadOfCanvas (rd : View) (c : Nat) : Option Nat := (leads rd).find? fun h => hallCanvas rd h == c
def hallsOf (rd : View) (c : Nat) : List Nat :=
  match leadOfCanvas rd c with
  | some h => gangOf rd h
  | none => []

/-- The enabled canvases with their lead halls. -/
def canvasLeads (rd : View) : List (Nat × Nat) :=
  ((List.range 8).filter (canvasOn rd)).filterMap fun c => (leadOfCanvas rd c).map fun h => (c, h)

/-- The gangs that enabled halls form: lead hall, size and the canvas named (R59). The lead hall may be disabled, which
breaks the first condition. -/
def gangsOf (rd : View) : List (Nat × Nat × Nat) :=
  (((List.range 8).filter (hallOn rd)).map fun h => (leadOf rd h, gangSize rd h, hallCanvas rd h)).eraseDups

/-- The whole stripe width of a gang of `g` halls led by `h0` (R61). -/
def stripeW (rd : View) (h0 g : Nat) : Nat := ceilDiv (canvasW rd h0) (64 * g) * 64

/-- The conditions of R59. -/
def gangRules (rd : View) : List (Nat × Nat) :=
  let gs := gangsOf rd
  ((List.range 8).flatMap fun h =>
    if hallOn rd h then
      faulty ((gangOf rd h).all fun m =>
        hallOn rd m && hallCanvas rd m == hallCanvas rd h && gangSize rd m == gangSize rd h) h 0
    else []) ++
  (gs.flatMap fun x =>
    faulty (!(gs.any fun y => (y.1, y.2.1) != (x.1, x.2.1) && y.2.2 == x.2.2)) x.1 0 ++
    faulty (canvasOn rd x.2.2) x.1 0 ++
    faulty ((x.2.1 - 1) * stripeW rd x.1 x.2.1 < canvasW rd x.1) x.1 0) ++
  ((List.range 8).flatMap fun c =>
    if canvasOn rd c then faulty (gs.any fun x => x.2.2 == c) c 2 else [])

/-! ## Tick streams (R14, R18) -/

/-- Whether the stream and the phases of an enabled canvas meet R14 and R18. -/
def timingOk (rd : View) (c : Nat) : Bool :=
  let num := fv rd (F.PERIOD_NUM.num c)
  let den := fv rd (F.PERIOD_DEN.den c)
  (1 ≤ den && den ≤ 1000) && (6250000 * den ≤ 3 * num && 3 * num ≤ 125125000 * den) &&
    (rd (epochAddr c 0)).toNat ≤ 999999999 && phaseOfs rd c 0 == 0 &&
    (List.range (phasesOf rd c)).all fun p =>
      let b := if p + 1 < phasesOf rd c then phaseOfs rd c (p + 1) else 65536
      phaseOfs rd c p < b && 250000 * 65536 * den ≤ (b - phaseOfs rd c p) * num

/-- Whether the enabled canvases of a bank meet R14 and R18. -/
def timingRules (rd : View) : Bool := (List.range 8).all fun c => !canvasOn rd c || timingOk rd c

/-! ## Halls and layers -/

/-- A luminance of 1 to 10,000 cd/m² (R150, R151). -/
def nitsOk (v : Nat) : Bool := 1 ≤ v && v ≤ 10000

/-- Whether a check unit follows a stream of its own: enabled with a tap. -/
def cuOn (rd : View) (u : Nat) : Bool := fv rd (F.CU_CTL.enable u) == 1

/-- The verifications of a bank: lead hall and unit (R211). -/
def verifications (rd : View) : List (Nat × Nat) :=
  ((leads rd).filter fun h => fv rd (F.BAL_CTL.verify h) == 1).map fun h => (h, fv rd (F.BAL_CTL.cu h))

/-- Canvas-level conditions of a lead hall. That they bind the lead halls of enabled gangs alone, the write-back fields
(R82), out_tf (R134) and the luminances (R151) among them, is the model's reading of R59 and R60 (DESIGN CHOICE, log 82). -/
def hallRules (rd : View) (h : Nat) : List (Nat × Nat) :=
  let c := hallCanvas rd h
  let u := fv rd (F.BAL_CTL.cu h)
  faulty (fv rd (F.WB_CTL.phase h) < phasesOf rd c && fv rd (F.WB_BASE_LO.va_lo h) % 64 == 0 &&
    fv rd (F.WB_STRIDE.stride h) % 64 == 0) h 0 ++
  faulty (fv rd (F.WB_CTL.format h) != 3) h 0 ++
  faulty (fv rd (F.CANVAS_CLR.out_tf h) ≤ 5) h 0 ++
  faulty (nitsOk (fv rd (F.CLR_NITS.ref_white h)) && nitsOk (fv rd (F.CLR_NITS.out_white h)) &&
    nitsOk (fv rd (F.HLG_NITS.hlg_peak h))) h 0 ++
  faulty (fv rd (F.BAL_CTL.verify h) == 0 ||
    (fv rd (F.LAYER_CTL.opaque_static h 32) == 1 && u ≤ 55 && fv rd (F.BAL_CTL.phase h) < phasesOf rd c &&
      !cuOn rd u && !((verifications rd).any fun v => v.1 != h && v.2 == u))) h 0

/-- The planes of the format of a layer: base and stride registers. -/
def planeRegs (rd : View) (h n i : Nat) : Nat × Nat :=
  match i with
  | 0 => (fv rd (F.SRC_BASE_LO.va_lo h n), fv rd (F.SRC_STRIDE.stride h n))
  | 1 => (fv rd (F.P1_BASE_LO.va_lo h n), fv rd (F.P1_STRIDE.stride h n))
  | _ => (fv rd (F.P2_BASE_LO.va_lo h n), fv rd (F.P2_STRIDE.stride h n))

/-- Placement and format of an enabled layer (R65, R67, R70). -/
def layerPlace (rd : View) (h n : Nat) : Bool :=
  match fmtInfo (fv rd (F.FORMAT.fmt h n)) with
  | none => false
  | some f =>
    let x := fv rd (F.SRC_XY.x h n)
    let y := fv rd (F.SRC_XY.y h n)
    let w := fv rd (F.SRC_WH.w_m1 h n) + 1
    let hh := fv rd (F.SRC_WH.h_m1 h n) + 1
    let bw := fv rd (F.BUF_SIZE.w_m1 h n) + 1
    let corner (v : Int) : Bool := -65536 ≤ v && v ≤ 65535
    (if n < 8 then f.video else if n < 32 then f.graphic else f.bal) &&
    x + w ≤ bw && y + hh ≤ fv rd (F.BUF_SIZE.h_m1 h n) + 1 && corner (dstX rd h n) && corner (dstY rd h n) &&
    x % f.ppg == 0 && w % f.ppg == 0 && (!f.vsub || (y % 2 == 0 && hh % 2 == 0)) &&
    (List.range f.planes).all fun i =>
      let r := planeRegs rd h n i
      (n == 32 || r.1 % 64 == 0) && r.2 % 64 == 0 && f.lineBytes i bw ≤ r.2

/-- The tap counts allowed (R100). -/
def hTapsOk (n : Nat) : Bool := [1, 2, 4, 6, 8, 10, 12].contains n
def vTapsOk (n : Nat) : Bool := [1, 2, 4, 6, 8].contains n

/-- The scale factor of an axis (R94). -/
def scaleOk (s d : Nat) : Bool := d ≤ 32 * s && s ≤ 8 * d

/-- Scaling of an enabled video layer (R94, R100, R107, R111). -/
def layerScale (rd : View) (h n : Nat) : Bool :=
  let ht := fv rd (F.SCALE_CTL.h_taps h n)
  let vt := fv rd (F.SCALE_CTL.v_taps h n)
  let hr := fv rd (F.SCALE_CTL.h_taps_red h n)
  let vr := fv rd (F.SCALE_CTL.v_taps_red h n)
  let fade := fv rd (F.SCALE_CTL.edge_x h n) == 3 || fv rd (F.SCALE_CTL.edge_y h n) == 3
  scaleOk (srcW rd h n) (dstW rd h n) && scaleOk (srcH rd h n) (dstH rd h n) && hTapsOk ht && vTapsOk vt && hTapsOk hr &&
    vTapsOk vr && hr ≤ ht && vr ≤ vt && (!fade || fv rd (F.LAYER_CTL.alpha_mode h n) == 1)

/-- Colour of an enabled layer (R127, R128, R150). -/
def layerColour (rd : View) (h n : Nat) : Bool :=
  let fmt := fv rd (F.FORMAT.fmt h n)
  let m := fv rd (F.CLR_CTL.matrix h n)
  let tf := fv rd (F.CLR_CTL.tf h n)
  let k := fv rd (F.CLIP_KP.knee h n)
  let p := fv rd (F.CLIP_KP.peak h n)
  let fin (v : Nat) : Bool := !f16IsNan v && !f16IsInf v
  let ycc := match fmtInfo fmt with
    | some f => f.ycc
    | none => false
  (if ycc then m != 0 else m == 0) && (m != 3 || (tf == 4 && fv rd (F.CLR_CTL.prim h n) == 1)) && tf ≤ 5 &&
    nitsOk (fv rd (F.CLR_WHITE.sdr_white h n)) && nitsOk (fv rd (F.CLR_WHITE.hlg_peak h n)) &&
    (fv rd (F.CLR_CTL.clip h n) == 0 ||
      (fin k && fin p && f32Lt f32Zero (f32OfF16 k) && f32Lt (f32OfF16 k) (f32OfF16 p)))

/-- The conditions on an enabled layer of a lead hall (R570). DESCENT of LAYER[32] is ignored (R183). -/
def layerOk (rd : View) (h n : Nat) : Bool :=
  layerPlace rd h n && fv rd (F.LAYER_CTL.alpha_mode h n) != 3 && fv rd (F.LAYER_CTL.fault_mode h n) != 3 &&
    (fv rd (F.LAYER_CTL.fault_mode h n) != 1 || n < 8) &&
    (n == 32 || (fv rd (F.DESCENT.policy h n) != 3 &&
      !(fv rd (F.LAYER_CTL.opaque_static h n) == 1 && bitOf (fv rd (F.DESCENT.steps h n)) 3 == 1))) &&
    (8 ≤ n || layerScale rd h n) && layerColour rd h n && fv rd (F.FLIP_CTL.fence_mode h n) != 3 &&
    (n != 32 || (fv rd (F.FLIP_CTL.fence_mode h n) != 2 &&
      (List.range 4).all fun i => fv rd (F.BAL_IMG_LO.va_lo h i) % 64 == 0))

def layerOn (rd : View) (h n : Nat) : Bool := fv rd (F.LAYER_CTL.enable h n) == 1

def layerRules (rd : View) (h : Nat) : List (Nat × Nat) :=
  (List.range 33).flatMap fun n => if layerOn rd h n then faulty (layerOk rd h n) h 0 else []

/-! ## Windows -/

def winOn (rd : View) (w : Nat) : Bool := fv rd (F.WIN_CTL.enable w) == 1
def winsOn (rd : View) : List Nat := (List.range 576).filter (winOn rd)
def winCanvas (rd : View) (w : Nat) : Nat := fv rd (F.WIN_CTL.canvas w)
def winPhase (rd : View) (w : Nat) : Nat := fv rd (F.WIN_CTL.phase w)
def winW (rd : View) (w : Nat) : Nat := fv rd (F.WIN_WH.w_m1 w) + 1
def winH (rd : View) (w : Nat) : Nat := fv rd (F.WIN_WH.h_m1 w) + 1
def winX (rd : View) (w : Nat) : Nat := fv rd (F.WIN_XY.x w)
def winY (rd : View) (w : Nat) : Nat := fv rd (F.WIN_XY.y w)
def winS0 (rd : View) (w : Nat) : Nat := fv rd (F.WIN_S0.s0 w)
def winSl (rd : View) (w : Nat) : Nat := fv rd (F.WIN_SL.sl w)
def winBand (rd : View) (w : Nat) : Nat := fv rd (F.WIN_BAND.lines w)
def winDepth (rd : View) (w : Nat) : Nat := fv rd (F.WIN_CTL.depth_m1 w) + 1

/-- Whether a window is rotated by 90° or 270°; its output width and lines (R219). -/
def winTurned (rd : View) (w : Nat) : Bool := fv rd (F.WIN_CTL.rotation w) % 2 == 1
def winOW (rd : View) (w : Nat) : Nat := if winTurned rd w then winH rd w else winW rd w
def winOL (rd : View) (w : Nat) : Nat := if winTurned rd w then winW rd w else winH rd w

/-- The canvas pixel of pixel `k` of output line `l` (R219). -/
def winPixel (rd : View) (w l k : Nat) : Nat × Nat :=
  let k' := if fv rd (F.WIN_CTL.mirror w) = 1 then winOW rd w - 1 - k else k
  match fv rd (F.WIN_CTL.rotation w) with
  | 0 => (winX rd w + k', winY rd w + l)
  | 1 => (winX rd w + l, winY rd w + winH rd w - 1 - k')
  | 2 => (winX rd w + winW rd w - 1 - k', winY rd w + winH rd w - 1 - l)
  | _ => (winX rd w + winW rd w - 1 - l, winY rd w + k')

/-- The lanes of the group of a window (R229). -/
def winLane (rd : View) (w : Nat) : Nat := fv rd (F.WIN_LANE.lane w)
def winGroup (rd : View) (w : Nat) : Nat := 2 ^ fv rd (F.WIN_LANE.group_log2 w)
def winLanes (rd : View) (w : Nat) : List Nat := (List.range (winGroup rd w)).map fun i => winLane rd w + i

/-- Pixels and bytes per pgroup of an output depth (R239). -/
def pgroup (d : Nat) : Nat × Nat := if d = 8 then (1, 3) else if d = 10 then (4, 15) else (2, 9)

/-- Bytes of a calibration record (R148). -/
def calBytes (fmt : Nat) : Nat := if fmt = 1 then 8 else if fmt = 2 then 32 else 0

/-- The group rule of R229. -/
def groupOk (rd : View) (ws : List Nat) (w : Nat) : Bool :=
  let g := winGroup rd w
  let n := winLane rd w
  g ≤ 4 && n % g == 0 && (g == 1 || laneMode rd n == 1) &&
    (winLanes rd w).all (fun k => laneOn rd k && !laneSpare rd k && laneMode rd k == laneMode rd n &&
      fv rd (F.LANE_RATE.kbps k) == fv rd (F.LANE_RATE.kbps n)) &&
    ws.all fun v =>
      (winLane rd v == n && winGroup rd v == g) || (winLanes rd v).all fun k => !(winLanes rd w).contains k

/-- The conditions of R218 on an enabled window. That the base and stride of R154 are checked on enabled windows alone is
the model's reading (DESIGN CHOICE, log 83). A window on a canvas without a gang breaks no rule of its own (log 29). -/
def winOk (rd : View) (ws : List Nat) (w : Nat) : Bool :=
  let c := winCanvas rd w
  let mode := laneMode rd (winLane rd w)
  let d := winDepth rd w
  let rot := winTurned rd w
  canvasOn rd c &&
    (match leadOfCanvas rd c with
     | some h => winX rd w + winW rd w ≤ canvasW rd h && winY rd w + winH rd w ≤ canvasH rd h
     | none => true) &&
    winPhase rd w < phasesOf rd c && laneOn rd (winLane rd w) && (1 ≤ mode && mode ≤ 5) && !laneSpare rd (winLane rd w) &&
    groupOk rd ws w &&
    (mode < 4 || ([8, 10, 12].contains d && winOW rd w % (pgroup d).1 == 0 && fv rd (F.WIN_CTL.bitplane w) == 0)) &&
    !(rot && fv rd (F.WIN_CTL.subst w) == 1) &&
    1000 ≤ winS0 rd w && 100 ≤ winSl rd w && winS0 rd w + winOL rd w * winSl rd w ≤ phaseLen rd c (winPhase rd w) &&
    (rot || (8 ≤ winBand rd w && winBand rd w ≤ 1024)) &&
    (let s := calBytes (fv rd (F.WCLR_CTL.cal_fmt w))
     s == 0 || (fv rd (F.CAL_BASE_LO.va_lo w) % 64 == 0 && fv rd (F.CAL_STRIDE.stride w) % 64 == 0 &&
       winOW rd w * s ≤ fv rd (F.CAL_STRIDE.stride w)))

def winRules (rd : View) : List (Nat × Nat) :=
  let ws := winsOn rd
  (ws.flatMap fun w => faulty (winOk rd ws w) w 1) ++
  (List.range 576).flatMap fun w =>
    faulty (fv rd (F.WCLR_CTL.cal_fmt w) != 3 && fv rd (F.WCLR_CTL.dither w) != 3) w 1

/-! ## Lanes and landing ports (Lanes.lean), host ports -/

/-- Whether a quad can produce its rates (R459). -/
def quadOk (rd : View) (q : Nat) : Bool :=
  let vs := (quadRates rd q).map fun r => (vcoOf r).map (·.1)
  vs.all (·.isSome) && vs.eraseDups.length ≤ 2

/-- The conditions on a lane (R228, R231, R237, R246). -/
def laneOk (rd : View) (n : Nat) : Bool :=
  let mode := laneMode rd n
  let fec := fv rd (F.LANE_CTL.fec n)
  mode != 7 && fec != 3 && !(fec == 2 && (mode == 2 || mode == 4)) &&
    !(laneSpare rd n && (List.range 4).any fun i => n / 4 * 4 + i != n && laneSpare rd (n / 4 * 4 + i)) &&
    !(laneOn rd n && mode == 6 && (portOfLane rd n).isNone) &&
    !(laneOn rd n && mode == 1 && !(3125000 ≤ laneRate rd n && laneRate rd n ≤ 28125000))

def laneRules (rd : View) : List (Nat × Nat) :=
  ((List.range 144).flatMap fun n => faulty (laneOk rd n) n 3) ++
  (List.range 36).flatMap fun q =>
    faulty (quadOk rd q) (((List.range 4).map fun i => 4 * q + i).find? (laneOn rd) |>.getD (4 * q)) 3

/-- The conditions on a landing port (R246, R247). -/
def portOk (rd : View) (k : Nat) : Bool :=
  let wl := fv rd (F.PORT_CTL.width_log2 k)
  let sp := fv rd (F.PORT_CTL.spare_lane k)
  (2 ≤ wl && wl ≤ 4) && fv rd (F.PORT_CTL.rate k) != 3 &&
    (!portOn rd k ||
      (fv rd (F.PORT_CTL.lane k) % portWidth rd k == 0 &&
        (portLanes rd k).all (fun n => laneOn rd n && laneMode rd n == 6 && !laneSpare rd n) &&
        !((List.range 8).any fun j => j != k && portOn rd j && (portLanes rd j).any fun n => (portLanes rd k).contains n) &&
        (fv rd (F.PORT_CTL.spare_en k) == 0 || (laneSpare rd sp &&
          !((List.range 8).any fun j => portOn rd j && (portLanes rd j).any fun n => n / 4 == sp / 4)))))

/-- The port rule of the topology (R245), for a landing in a system; the object is its lowest enabled port. -/
def topologyOk (rd st : View) : Bool :=
  let ps := (List.range 8).filter (portOn rd)
  let ups := (ps.filter fun k => fv rd (F.PORT_CTL.uplink k) == 1).length
  fv rd F.CASC_CTL.enable == 0 ||
    (match fv rd F.CASC_CTL.topology with
     | 0 => ups == (if fv st F.CASC_ID.landing = 0 then 0 else 1) && ps.length - ups ≤ 4
     | 1 => ps.length == 2
     | _ => false)

/-- What is broken in landing and host ports. A host port that breaks a rule is reported with the kind of a landing port and its own
number: R189 lists no kind for it (DESIGN CHOICE, log 116). -/
def portRules (rd st : View) : List (Nat × Nat) :=
  ((List.range 8).flatMap fun k => faulty (portOk rd k) k 4) ++
  faulty (topologyOk rd st) (((List.range 8).find? (portOn rd)).getD 0) 4 ++
  (List.range 2).flatMap fun p => faulty (fv rd (F.HP_PORT_CTL.split p) != 3) p 4

/-! ## Receivers and check units -/

def rxOn (rd : View) (r : Nat) : Bool := fv rd (F.RX_CTL.enable r) == 1

/-- Row bytes and height of a receiver's frames. -/
def rxRowBytes (rd : View) (r : Nat) : Nat :=
  match fmtInfo (fv rd (F.RX_CTL.fmt r)) with
  | some f => f.lineBytes 0 (fv rd (F.RX_SIZE.w_m1 r) + 1)
  | none => 0
def rxHeight (rd : View) (r : Nat) : Nat := fv rd (F.RX_SIZE.h_m1 r) + 1

/-- The conditions on an enabled receiver (R305). -/
def rxOk (rd : View) (r : Nat) : Bool :=
  let fmt := fv rd (F.RX_CTL.fmt r)
  let stride := fv rd (F.RX_STRIDE.stride r)
  match fmtInfo fmt with
  | none => false
  | some f =>
    (0x20 ≤ fmt && fmt ≤ 0x25) && (fv rd (F.RX_SIZE.w_m1 r) + 1) % f.ppg == 0 &&
      fv rd (F.RX_BASE_LO.va_lo r) % 64 == 0 && stride % 64 == 0 && rxRowBytes rd r ≤ stride &&
      stride * rxHeight rd r ≤ fv rd (F.RX_STEP.step r) * 65536

def rxRules (rd : View) : List (Nat × Nat) :=
  (List.range 256).flatMap fun r => if rxOn rd r then faulty (rxOk rd r) r 5 else []

/-- The CRC parameters of a unit (R432). -/
def cuWidth (rd : View) (u : Nat) : Nat := fv rd (F.CU_CTL.width u)
def cuPoly (rd : View) (u : Nat) : Nat := va48 (fv rd (F.CU_POLY_LO.poly u)) (fv rd (F.CU_POLY_HI.poly u))
def cuInit (rd : View) (u : Nat) : Nat := va48 (fv rd (F.CU_INIT_LO.init u)) (fv rd (F.CU_INIT_HI.init u))
def cuXor (rd : View) (u : Nat) : Nat := va48 (fv rd (F.CU_XOR_LO.xorout u)) (fv rd (F.CU_XOR_HI.xorout u))

def cuParamsOk (rd : View) (u : Nat) : Bool :=
  let w := cuWidth rd u
  (8 ≤ w && w ≤ 64) && cuPoly rd u < 2 ^ w && cuInit rd u < 2 ^ w && cuXor rd u < 2 ^ w && cuPoly rd u % 2 == 1

/-- The kinds of tap that a commit may set, on any unit (R434). -/
def cuKindOk (rd : View) (u : Nat) : Bool := fv rd (F.CU_TAP.kind u) ≤ 5

/-- The tap of an enabled unit (R434, R437); a DMA channel is on while its enable is stored as 1. -/
def cuTapOk (rd st : View) (u : Nat) : Bool :=
  let i := fv rd (F.CU_TAP.index u)
  match fv rd (F.CU_TAP.kind u) with
  | 0 => true
  | 1 => laneOn rd i && laneMode rd i != 0 && laneMode rd i != 6
  | 2 => i < 576 && winOn rd i && fv rd (F.CU_LINES.first u) ≤ fv rd (F.CU_LINES.last u) &&
      fv rd (F.CU_LINES.last u) < winOL rd i
  | 3 =>
    canvasOn rd i &&
      (match leadOfCanvas rd i with
       | some h => fv rd (F.CU_RECT_XY.x u) + fv rd (F.CU_RECT_WH.w_m1 u) + 1 ≤ canvasW rd h &&
           fv rd (F.CU_RECT_XY.y u) + fv rd (F.CU_RECT_WH.h_m1 u) + 1 ≤ canvasH rd h
       | none => true)
  | 4 => i < 256 && rxOn rd i
  | 5 => i < 64 && fv st (F.CH_CTL.enable i) == 1
  | _ => false

def cuRules (rd st : View) : List (Nat × Nat) :=
  (List.range 56).flatMap fun u =>
    let named := (verifications rd).any fun v => v.2 == u
    faulty (cuKindOk rd u && (!(cuOn rd u || named) || cuParamsOk rd u) && (!cuOn rd u || (cuTapOk rd st u && !named))) u 6

/-! ## All together -/

/-- The objects of the broken conditions (R170, R189). -/
def geometryBroken (rd st : View) : List (Nat × Nat) :=
  gangRules rd ++ (leads rd).flatMap (fun h => hallRules rd h ++ layerRules rd h) ++ winRules rd ++ laneRules rd ++
    portRules rd st ++ rxRules rd ++ cuRules rd st

/-- The object named by a GEOMETRY refusal: the lowest instance, then the lowest kind (R170, R189). -/
def geometryFail (rd st : View) : Option (Nat × Nat) :=
  (geometryBroken rd st).foldl (fun b x =>
    match b with
    | none => some x
    | some y => if x.1 < y.1 ∨ (x.1 = y.1 ∧ x.2 < y.2) then some x else some y) none

end Sys2Proof.Machine
end

