-- ==== Sys2Proof/Machine/Admission.lean ====
section
/-! DEFINITION. The admission model: demands, budgets and margins of the 14 resources (R169 to R181), the descent (R183,
R184), the shedding of R187 and the report (R189). -/

namespace Sys2Proof.Machine

/-! ## The resource state (R167) -/

/-- A gate list (R338): entries as gates and interval, cycle and base. -/
structure GateList where
  entries : List (Nat × Nat)
  num     : Nat
  den     : Nat
  base    : Nat
deriving DecidableEq, Repr

/-- The resource state of an admission: halls and Gallery bytes out of service, lanes whose traffic nothing carries, windows
that do not count, PCs in service, whether a migration runs, whether the budget is B_th (R528), the region ends the Alcove
declares, the in-service operations, whether the steward budget is halved and the gate lists to evaluate by lane (R180,
R344). -/
structure AdmRes where
  hallOut   : List Nat
  galLost   : Nat
  laneDead  : List Nat
  shed      : List Nat
  pcs       : Nat
  migrating : Bool
  therm     : Bool
  metro     : Nat
  ops       : Nat
  stwHalf   : Bool
  gates     : List (Nat × GateList)
deriving DecidableEq, Repr

/-- An instance of a resource with its margin. -/
structure Inst where
  margin : Int
  inst   : Nat
  phase  : Nat
  demand : Nat
  budget : Nat
deriving DecidableEq, Repr

/-- The margin of a demand against a budget (R170). -/
def marginOf (d b : Nat) : Int :=
  if b = 0 then (if d = 0 then 1000 else -32768) else max (1000 * ((b : Int) - d) / b) (-32768)

def instOf (inst phase d b : Nat) : Inst := ⟨marginOf d b, inst, phase, d, b⟩

/-- A resource without instances, and one that was not computed (R170). -/
def Inst.none : Inst := ⟨1000, 0, 0, 0, 0⟩

/-- The binding instance: smallest margin, then lowest instance, then lowest phase (R170). -/
def Inst.before (a b : Inst) : Bool :=
  a.margin < b.margin || (a.margin == b.margin && (a.inst < b.inst || (a.inst == b.inst && a.phase < b.phase)))

def bindingOf : List Inst → Inst
  | [] => .none
  | a :: l => l.foldl (fun b x => if x.before b then x else b) a

/-! ## Rows and runs -/

/-- The windows of a phase of a canvas that count. -/
def winsIn (rd : View) (shed : List Nat) (c p : Nat) : List Nat :=
  (winsOn rd).filter fun w => winCanvas rd w == c && winPhase rd w == p && !shed.contains w

/-- Whether a window meets a stripe. -/
def winMeets (rd : View) (stripe : Nat × Nat) (w : Nat) : Bool :=
  winX rd w < stripe.1 + stripe.2 && stripe.1 < winX rd w + winW rd w

/-- What says when a window needs its rows: first row, height, s0, slot, whether turned and whether line 0 reads the last
row. -/
structure WinRows where
  y    : Nat
  h    : Nat
  s0   : Nat
  sl   : Nat
  turn : Bool
  back : Bool
deriving DecidableEq, Repr

def winRows (rd : View) (w : Nat) : WinRows :=
  ⟨winY rd w, winH rd w, winS0 rd w, winSl rd w, winTurned rd w, fv rd (F.WIN_CTL.rotation w) == 2⟩

/-- Whether a window reads a row, and the line that reads it where the window is not turned (R220). -/
def WinRows.reads (w : WinRows) (r : Nat) : Bool := w.y ≤ r && r < w.y + w.h
def WinRows.lineOf (w : WinRows) (r : Nat) : Nat := if w.back then w.y + w.h - 1 - r else r - w.y

/-- When a window needs a row, in ns of its phase (R178, R220). -/
def WinRows.need (w : WinRows) (r : Nat) : Option Nat :=
  if w.reads r then some (if w.turn then w.s0 else w.s0 + w.lineOf r * w.sl) else none

/-- When a band of `b` rows has space for a row, in ns of its phase: line l no earlier than the slot of line l - b + 2 (R224); a
turned window holds its whole rectangle. -/
def WinRows.space (w : WinRows) (b r : Nat) : Nat :=
  if !w.reads r || w.turn || w.lineOf r + 2 < b then 0 else w.s0 + (w.lineOf r + 2 - b) * w.sl

/-- Whether write-back reads every row of a phase (R82). -/
def wbReads (rd : View) (h0 p : Nat) : Bool := fv rd (F.WB_CTL.enable h0) == 1 && fv rd (F.WB_CTL.phase h0) == p

/-- rows(h, p) of R172 in ascending order, with their needs. -/
def rowNeeds (rd : View) (shed : List Nat) (c h0 h p : Nat) : List RowNeed :=
  let ws := ((winsIn rd shed c p).filter (winMeets rd (stripeOf rd h))).map (winRows rd)
  let wb := wbReads rd h0 p
  let last := phaseLen rd c p - 1
  (List.range (canvasH rd h0)).filterMap fun r =>
    match (ws.filterMap fun w => w.need r).min? with
    | some t => some ⟨r, t, true⟩
    | none => if wb then some ⟨r, last, false⟩ else none

/-- Insert a row in the order of need. -/
def RowNeed.insert (x : RowNeed) : List RowNeed → List RowNeed
  | [] => [x]
  | y :: l => if x.need < y.need ∨ (x.need = y.need ∧ x.row ≤ y.row) then x :: y :: l else y :: RowNeed.insert x l

/-- Rows in the order in which the hall composes them. -/
def inNeedOrder (rs : List RowNeed) : List RowNeed := rs.foldr RowNeed.insert []

/-- The tile rows of some rows (R173). -/
def tileRows (rs : List RowNeed) : List Nat := (rs.map fun r => r.row / 64).eraseDups

/-- What composition would read for a bank, with descent steps. -/
def admCtx (rd : View) (steps : Tab Nat) (h0 : Nat) : Ctx :=
  { rd := rd, st := rd, iw := fun _ _ => 0, mem := fun _ _ => none, base := fun _ => [],
    steps := fun n => Tab.get (fun _ => 0) steps (layerKey h0 n), fill := false, pool := fun _ => [], bad := fun _ _ => false,
    lost := fun _ _ => false, hit := fun _ _ => false }

/-- Whether a tile is culled for layers below `m` by guaranteed culling (R160). -/
def tileCovered (c : Ctx) (h0 m tx ty : Nat) : Bool :=
  let v := visRect c.rd h0 m
  fv c.rd (F.LAYER_CTL.opaque_static h0 m) == 1 && v.1 ≤ tx * 64 && min (tx * 64 + 64) (canvasW c.rd h0) ≤ v.2.1 &&
    v.2.2.1 ≤ ty * 64 && min (ty * 64 + 64) (canvasH c.rd h0) ≤ v.2.2.2

/-- The layers above `n` in stacking order. -/
def layersAbove (order : List Nat) (n : Nat) : List Nat := (order.dropWhile (· != n)).drop 1

/-- Join consecutive tiles into runs. -/
def joinRuns : List Nat → List (Nat × Nat)
  | [] => []
  | t :: l =>
    match joinRuns l with
    | (a, b) :: rest => if a = t + 1 then (t, b) :: rest else (t, t) :: (a, b) :: rest
    | [] => [(t, t)]

/-- The runs of a layer in a tile row of a stripe, as first and last canvas column (R174). -/
def runsOf (c : Ctx) (h0 n : Nat) (order : List Nat) (stripe : Nat × Nat) (ty : Nat) : List (Nat × Nat) :=
  let v := visRect c.rd h0 n
  let above := layersAbove order n
  let t0 := stripe.1 / 64
  let tiles := ((List.range (ceilDiv stripe.2 64)).map (t0 + ·)).filter fun tx =>
    v.1 < tx * 64 + 64 && tx * 64 < v.2.1 && v.1 < v.2.1 && !(above.any fun m => tileCovered c h0 m tx ty)
  (joinRuns tiles).map fun r =>
    (max (max (r.1 * 64) v.1) stripe.1, min (min (r.2 * 64 + 64) v.2.1) (stripe.1 + stripe.2) - 1)

/-- Least and greatest buffer column that the taps of the destination columns `xa` to `xb` read (R97, R100, R107). -/
def tapSpan (c : Ctx) (h0 n : Nat) (f : Fmt) (chroma : Bool) (xa xb : Nat) : Nat × Nat :=
  let fl := layerFilt c h0 n f chroma xa 0
  tapRange fl.edgeX fl.ax (fun x => (layerFilt c h0 n f chroma x 0).firstX) fl.wx.length xa xb

/-- The columns of plane `q` that a run needs, first and last (R174). -/
def planeCols (c : Ctx) (h0 n q : Nat) (f : Fmt) (xa xb : Nat) : Nat × Nat :=
  if n < 8 then
    let luma := tapSpan c h0 n f false xa xb
    if f.hsub then
      let k := tapSpan c h0 n f true xa xb
      if q != 0 then (2 * k.1, 2 * k.2 + 1)
      else if f.planes = 1 then (min luma.1 (2 * k.1), max luma.2 (2 * k.2 + 1))
      else luma
    else luma
  else
    let at' (x : Nat) : Nat := fv c.rd (F.SRC_XY.x h0 n) + ((x : Int) - dstX c.rd h0 n).toNat
    (at' xa, at' xb)

/-- The source lines of a ring that the taps of a row read (R97, R100, R107). -/
def ringLines (c : Ctx) (h0 n : Nat) (f : Fmt) (chroma : Bool) (y : Nat) : List Nat :=
  let fl := layerFilt c h0 n f chroma 0 y
  ((List.range fl.wy.length).map fun (j : Nat) => (edgeMap fl.edgeY fl.ay (fl.firstY + (j : Int))).1).eraseDups

/-- The source lines of plane `q` that a row needs. -/
def planeLines (c : Ctx) (h0 n q : Nat) (f : Fmt) (y : Nat) : List Nat :=
  if n < 8 then ringLines c h0 n f (q != 0) y
  else [fv c.rd (F.SRC_XY.y h0 n) + ((y : Int) - dstY c.rd h0 n).toNat]

/-- The bytes of a line of plane `q` that a run fetches, in whole 64-byte units: from the byte that holds its first column to the end of
the group of its last (R174). -/
def runBytes (f : Fmt) (q : Nat) (cols : Nat × Nat) : Nat :=
  (ceilDiv ((cols.2 / f.ppg + 1) * f.gb.getD q 0) 64 - f.colByte q cols.1 / 64) * 64

/-- The share of each row in the fetch of a layer: the bytes of the lines first needed by that row (R174, R178). -/
def rowShares (lines : Nat → List Nat) (bytes : Nat) : List Nat → List Nat → List (Nat × Nat)
  | [], _ => []
  | r :: rs, seen =>
    let new := (lines r).filter fun l => !seen.contains l
    (r, new.length * bytes) :: rowShares lines bytes rs (new ++ seen)

/-- fb(n, h, p) of R174 as the shares of the rows, given in the order of need. -/
def fetchShares (c : Ctx) (h0 n : Nat) (order : List Nat) (stripe : Nat × Nat) (rs : List RowNeed) : List (Nat × Nat) :=
  match fmtInfo (fv c.rd (F.FORMAT.fmt h0 n)) with
  | none => []
  | some f =>
    let v := visRect c.rd h0 n
    (tileRows rs).flatMap fun ty =>
      let rows := (rs.filter fun r => r.row / 64 == ty && v.2.2.1 ≤ r.row && r.row < v.2.2.2).map (·.row)
      if rows.isEmpty then []
      else (runsOf c h0 n order stripe ty).flatMap fun run =>
        (List.range f.planes).flatMap fun q =>
          rowShares (planeLines c h0 n q f) (runBytes f q (planeCols c h0 n q f run.1 run.2)) rows []

/-- The shares of all layers of a hall in a phase. -/
def hallShares (rd : View) (steps : Tab Nat) (h0 h p : Nat) (rs : List RowNeed) : List (Nat × Nat) :=
  let c := admCtx rd steps h0
  let order := stackOrder c h0 p
  order.flatMap fun n => fetchShares c h0 n order (stripeOf rd h) rs

/-! ## The resources -/

/-- What the model charges for: the bank, the stored registers, the steps and the resource state. -/
structure AdmCfg where
  rd    : View
  base  : View
  st    : View
  steps : Tab Nat
  res   : AdmRes

/-- The halls with their canvas and lead hall, and the phases of each. -/
def AdmCfg.halls (m : AdmCfg) : List (Nat × Nat × Nat) :=
  (canvasLeads m.rd).flatMap fun cl => (gangOf m.rd cl.2).map fun h => (cl.1, cl.2, h)

def AdmCfg.rows (m : AdmCfg) (c h0 h p : Nat) : List RowNeed := rowNeeds m.rd m.res.shed c h0 h p

/-- The cycles of a composed row (R172). -/
def rowCycles (rd : View) (h : Nat) : Nat := ceilDiv (stripeOf rd h).2 2 + 64

/-- HALL_CYCLES (R172). -/
def AdmCfg.hallCycles (m : AdmCfg) : List Inst :=
  m.halls.flatMap fun x =>
    let (c, h0, h) := x
    (List.range (phasesOf m.rd c)).map fun p =>
      let b := if m.res.hallOut.contains h then 0
        else 3 * phaseLen m.rd c p - (if p + 1 = phasesOf m.rd c then 3 * 8000 else 0)
      instOf h p ((m.rows c h0 h p).length * rowCycles m.rd h) b

/-- COVERAGE (R173). -/
def AdmCfg.coverage (m : AdmCfg) : List Inst :=
  m.halls.flatMap fun x =>
    let (c, h0, h) := x
    let cols := ceilDiv (stripeOf m.rd h).2 64
    let tr := ((List.range (phasesOf m.rd c)).map fun p => (tileRows (m.rows c h0 h p)).length).sum
    let out := m.res.hallOut.contains h
    [instOf h 0 (tr * (cols + 16)) (if out then 0 else 126000), instOf h 0 (tr * cols) (if out then 0 else 131072)]

/-- POOL_REQ(h) of R114. -/
def poolReq (rd : View) (steps : Tab Nat) (h0 h : Nat) : Nat :=
  let c := admCtx rd steps h0
  (((List.range 8).filter fun n => (List.range (phasesOf rd (hallCanvas rd h0))).any fun p => takesPart c h0 n p).map fun n =>
    poolBytes c h0 n (stripeOf rd h)).sum

/-- LINEBUF (R176). -/
def AdmCfg.linebuf (m : AdmCfg) : List Inst :=
  m.halls.map fun x =>
    let (_, h0, h) := x
    instOf h 0 (poolReq m.rd m.steps h0 h) (if m.res.hallOut.contains h then 0 else 2097152)

/-- cover_w of R178 in a slice. -/
def coverOf (rd : View) (w : Nat) (firstSlice : Bool) : Nat :=
  if winTurned rd w then winS0 rd w
  else
    let b := (winBand rd w - 2) * winSl rd w
    if firstSlice then min b (winS0 rd w) else b

/-- The canvas row that line 0 of a window reads (R220). -/
def firstRow (rd : View) (w : Nat) : Nat := (winPixel rd w 0 0).2

/-- The conditions of BAND of a hall and phase as demand and budget, (i) then (ii) of each slice (R178). -/
def AdmCfg.bandConds (m : AdmCfg) (c h0 h p : Nat) : List (Nat × Nat) :=
  let rd := m.rd
  let len := phaseLen rd c p
  let out := m.res.hallOut.contains h
  let ws := (winsIn rd m.res.shed c p).filter (winMeets rd (stripeOf rd h))
  let rs := inNeedOrder (m.rows c h0 h p)
  let shares := hallShares rd m.steps h0 h p rs
  let cyc := rowCycles rd h
  let slice (t : Nat) : Nat := min (t * 64 / len) 63
  let s0min := ((ws.map (winS0 rd)).min?).getD (len / 64)
  let sliceOf (r : Nat) : Option Nat := (rs.find? fun x => x.row == r).map fun x => slice x.need
  let times : List (Nat × List RowNeed) := (List.range 64).map fun k =>
    let rk := rs.filter fun r => slice r.need == k
    let by' := ((shares.filter fun s => rk.any fun r => r.row == s.1).map (·.2)).sum
    (max (ceilDiv (rk.length * cyc) 3) (ceilDiv by' 192), rk)
  times.zipIdx.flatMap fun x =>
    let ((t, rk), k) := x
    let wk := ((times.take (k + 1)).map (·.1)).sum
    let inK := ws.filter fun w =>
      let v := winRows rd w
      rk.any fun r => v.y ≤ r.row && r.row < v.y + v.h
    let cover := ((inK.map fun w => coverOf rd w (sliceOf (firstRow rd w) == some k)).min?).getD 0
    (if rk.isEmpty then [] else [(wk, if out then 0 else k * (len / 64) + s0min)]) ++
    (if inK.isEmpty then [] else [(t, if out then 0 else cover)])

/-- Of two conditions the tighter: the smaller margin, then the larger exact share of the budget. Log 32. -/
def tighter (a b : Inst) : Inst :=
  if b.margin < a.margin ∨ (b.margin = a.margin ∧ a.demand * b.budget < b.demand * a.budget) then b else a

/-- BAND: the instance of a hall and phase has its tightest condition. -/
def AdmCfg.band (m : AdmCfg) : List Inst :=
  m.halls.flatMap fun x =>
    let (c, h0, h) := x
    (List.range (phasesOf m.rd c)).map fun p =>
      match (m.bandConds c h0 h p).map fun d => instOf h p d.1 d.2 with
      | [] => instOf h p 0 0
      | x :: l => l.foldl tighter x

/-- The row bytes and rows of a window's band (R177, R223). -/
def galRowBytes (rd : View) (w : Nat) : Nat := ceilDiv (winW rd w * 6) 64 * 64
def galBytes (rd : View) (w : Nat) : Nat := (if winTurned rd w then winH rd w else winBand rd w) * galRowBytes rd w

/-- GALLERY (R177): of the budget, the bytes of regions out of service are taken off (DESIGN CHOICE, log 117). -/
def AdmCfg.gallery (m : AdmCfg) : List Inst :=
  [instOf 0 0 ((((winsOn m.rd).filter fun w => !m.res.shed.contains w).map (galBytes m.rd)).sum) (100663296 - m.res.galLost)]

/-- CAL(c, p) of R175. -/
def AdmCfg.calBytesOf (m : AdmCfg) (c p : Nat) : Nat :=
  ((winsIn m.rd m.res.shed c p).map fun w =>
    winOL m.rd w * (ceilDiv (winOW m.rd w * calBytes (fv m.rd (F.WCLR_CTL.cal_fmt w))) 64 * 64)).sum

/-- Bytes per pixel of a write-back format (R83). -/
def wbBpp (fmt : Nat) : Nat := if fmt = 0 then 8 else 4

/-- WB(c, p) of R175. -/
def AdmCfg.wbBytes (m : AdmCfg) (h0 p : Nat) : Nat :=
  if wbReads m.rd h0 p then
    canvasH m.rd h0 * ((gangOf m.rd h0).map fun h =>
      ceilDiv ((stripeOf m.rd h).2 * wbBpp (fv m.rd (F.WB_CTL.format h0))) 64 * 64).sum
  else 0

/-- RT(c) of R175. -/
def AdmCfg.rt (m : AdmCfg) (c h0 : Nat) : Nat :=
  ((List.range (phasesOf m.rd c)).map fun p =>
    let fb := ((gangOf m.rd h0).map fun h =>
      ((hallShares m.rd m.steps h0 h p (m.rows c h0 h p)).map (·.2)).sum).sum
    ceilDiv (1000 * (fb + m.calBytesOf c p + m.wbBytes h0 p)) (phaseLen m.rd c p)).foldl max 0

/-- The receiver that owns a fence (R198). -/
def fenceReceiver (st : View) (f : Nat) : Option Nat :=
  if fv st (F.FENCE_OWNER.owner f) = 1 then some (fv st (F.FENCE_OWNER.receiver f)) else none

/-- The consumers of a receiver: enabled layers of lead halls with fence_mode 2 on a fence it owns (R175). -/
def consumers (rd st : View) (r : Nat) : List (Nat × Nat) :=
  (canvasLeads rd).flatMap fun cl =>
    ((List.range 32).filter fun n =>
      layerOn rd cl.2 n && fv rd (F.FLIP_CTL.fence_mode cl.2 n) == 2 &&
        fenceReceiver st (fv rd (F.FLIP_CTL.fence cl.2 n)) == some r).map fun n => (cl.2, n)

/-- Whether a receiver is left out of IS: it has a consumer and every one is frozen or hidden (R175). -/
def leftOut (rd st : View) (steps : Tab Nat) (r : Nat) : Bool :=
  let cs := consumers rd st r
  !cs.isEmpty && cs.all fun x => 4 ≤ Tab.get (fun _ => 0) steps (layerKey x.1 x.2)

/-- IS of R175; the content a landing declares counts as a receiver's rate (R264). -/
def AdmCfg.is (m : AdmCfg) : Nat :=
  fv m.rd F.CASC_CONTENT.rate +
  (((List.range 256).filter fun r => rxOn m.rd r && !leftOut m.rd m.st m.steps r).map fun r => fv m.rd (F.RX_RATE.rate r)).sum

/-- Σ DMA reservations (R181, R402). -/
def dmaRes (rd : View) : Nat := ((List.range 64).map fun d => fv rd (F.CH_RES.rate d)).sum

/-- The HBM budget B of R175, or B_th of R527. -/
def AdmCfg.hbmBudget (m : AdmCfg) : Nat :=
  let n := m.res.pcs
  let b := n * 20480 - n * 768 -
    (n * fv m.rd F.ADM_CTL.mt_pc + (if m.res.migrating then 2 * fv m.rd F.ADM_CTL.migr_rate else 0))
  if m.res.therm then b * 3 / 4 else b

/-- HBM (R175). -/
def AdmCfg.hbm (m : AdmCfg) : List Inst :=
  [instOf 0 0 (((canvasLeads m.rd).map fun cl => m.rt cl.1 cl.2).sum + m.is + dmaRes m.rd + fv m.rd F.ADM_BE.be_reserve)
    m.hbmBudget]

/-! ## Lanes and gates -/

/-- The open time of class `tc` of a cycle within the cut of its entries to `[a, b)`, positions in ns from its start. -/
def openIn (tc a b : Nat) : Nat → List (Nat × Nat) → Nat → Nat
  | _, [], _ => 0
  | pos, [e], cyc =>
    if bitOf e.1 tc = 1 then min b cyc - max a (min pos cyc) else 0
  | pos, e :: es, cyc =>
    (if bitOf e.1 tc = 1 then min b (min (pos + e.2) cyc) - max a (min pos cyc) else 0) + openIn tc a b (pos + e.2) es cyc

/-- start(k) of a gate list (R339). -/
def GateList.start (g : GateList) (k : Nat) : Nat := g.base + k * g.num / g.den

/-- The cycle that holds an instant at or after the base. -/
def GateList.cycleAt (g : GateList) (t : Nat) : Nat :=
  let k := (t - g.base) * g.den / g.num
  if g.start (k + 1) ≤ t then k + 1 else k

/-- The open time of a class in `[a, b)`, for instants at or after the base, over `n` cycles. -/
def GateList.openTime (g : GateList) (tc a b : Nat) : Nat → Nat → Nat
  | 0, _ => 0
  | n + 1, k =>
    let s := g.start k
    if b ≤ s then 0
    else openIn tc (a - s) (b - s) 0 g.entries (g.start (k + 1) - s) + g.openTime tc a b n (k + 1)

/-- Whether an admitted cycle divides the tick period exactly (R180). -/
def GateList.divides (g : GateList) (s : Stream) : Bool := g.num != 0 && (s.num * g.den) % (s.den * g.num) == 0

/-- The gate-open ns of a slot: the slot of tick n0, the first tick at or after the base (R180). -/
def GateList.slotOpen (g : GateList) (rd : View) (c p tc s0 len : Nat) : Nat :=
  let s := streamOf rd c
  let a := phaseTime rd c (s.firstFrom g.base) p + s0
  g.openTime tc a (a + len) (len * g.den / g.num + 3) (g.cycleAt a)

/-- The budget of a slot of `ns` nanoseconds in bytes for an Ethernet-mode lane (R179). -/
def ethBudget (mode ns : Nat) : Nat := ns * (if mode = 2 ∨ mode = 4 then 10000 else 25000) * 98 / 800000

/-- Line payload bytes of a window (R232). -/
def lineBytes (rd : View) (w : Nat) : Nat := ceilDiv (3 * winDepth rd w * winOW rd w) 8

/-- The demand of a line (R179). -/
def laneDemand (rd : View) (w : Nat) : Nat :=
  let lb := lineBytes rd w
  match laneMode rd (winLane rd w) with
  | 1 => 2 + ceilDiv (ceilDiv (winOW rd w * (3 * winDepth rd w)) 64) (winGroup rd w)
  | 2 | 3 => lb + ceilDiv lb 1440 * 58
  | _ =>
    let g := pgroup (winDepth rd w)
    lb + ceilDiv (winOW rd w / g.1) (1200 / g.2) * (if fv rd (F.RTP_CTL.ipv6 w) = 1 then 110 else 90)

/-- The budgets of the slots of a window, those that differ. -/
def AdmCfg.slotBudgets (m : AdmCfg) (w : Nat) : List Nat :=
  let rd := m.rd
  let n := winLane rd w
  let mode := laneMode rd n
  if m.res.laneDead.any fun k => (winLanes rd w).contains k then [0]
  else if mode = 1 then [winSl rd w * laneRate rd n / 66000000]
  else
    let gs := (m.res.gates.filter fun g => g.1 == n).map (·.2)
    if gs.isEmpty then [ethBudget mode (winSl rd w)]
    else gs.flatMap fun g => (List.range (winOL rd w)).map fun l =>
      ethBudget mode (g.slotOpen rd (winCanvas rd w) (winPhase rd w) (fv rd (F.ETH_VLAN.pcp w))
        (winS0 rd w + l * winSl rd w) (winSl rd w))

/-- Whether the windows of a lane meet R179, R180 and R222. -/
def AdmCfg.laneOrder (m : AdmCfg) (ws : List Nat) : Bool :=
  let rd := m.rd
  ws.all fun w => ws.all fun v =>
    w == v || (winCanvas rd w == winCanvas rd v &&
      (winPhase rd w != winPhase rd v ||
        winS0 rd w + winOL rd w * winSl rd w + 1000 ≤ winS0 rd v || winS0 rd v + winOL rd v * winSl rd v + 1000 ≤ winS0 rd w))

/-- Whether a lane carries a window of phase 0 that begins within 100 µs while the configuration changes the frequency of its PLL,
which relocks (R460); taking a first frequency is a change (DEDUCED, log 64). -/
def AdmCfg.relockHits (m : AdmCfg) (ws : List Nat) : Bool :=
  ws.any fun w => winPhase m.rd w == 0 && winS0 m.rd w < 100000 &&
    (winLanes m.rd w).any fun k =>
      let j := pllOfLane m.rd k k % 2
      (quadVs m.rd (k / 4))[j]? != (quadVs m.base (k / 4))[j]?

/-- The instance of a lane (R179, R180, R222). -/
def AdmCfg.laneInst (m : AdmCfg) (n : Nat) (ws : List Nat) : Inst :=
  let insts := ws.flatMap fun w => (m.slotBudgets w).map fun b => instOf n 0 (laneDemand m.rd w) b
  let gatesOk := (m.res.gates.filter fun g => g.1 == n).all fun g =>
    ws.all fun w => laneMode m.rd n < 2 || g.2.divides (streamOf m.rd (winCanvas m.rd w))
  let b := bindingOf insts
  if m.laneOrder ws && gatesOk && !m.relockHits ws then b else { b with margin := -32768 }

/-- LANE (R179). -/
def AdmCfg.lane (m : AdmCfg) : List Inst :=
  let ws := (winsOn m.rd).filter fun w => !m.res.shed.contains w
  let firsts := (List.range 144).filter fun n => ws.any fun w => winLane m.rd w == n
  firsts.map fun n => m.laneInst n (ws.filter fun w => winLane m.rd w == n)

/-! ## The remaining resources (R181, R441, R253) -/

/-- The region ends per tick of a unit (R441). -/
def cuEnds (rd : View) (u : Nat) : Nat :=
  let i := fv rd (F.CU_TAP.index u)
  let ph (p : Nat) : Bool := bitOf (fv rd (F.CU_TAP.phases u)) p == 1
  (if cuOn rd u then
    match fv rd (F.CU_TAP.kind u) with
    | 1 => ((winsOn rd).filter fun w => (winLanes rd w).contains i && ph (winPhase rd w) &&
        (fv rd (F.CU_SEL.any u) == 1 || fv rd (F.CU_SEL.window u) == w)).length
    | 2 => b2n (ph (winPhase rd i))
    | 3 => ((List.range (phasesOf rd i)).filter ph).length
    | 4 => fv rd (F.CU_DECL.per_tick u)
    | 5 => fv rd (F.CU_DECL.per_tick u)
    | _ => 0
   else 0) + ((verifications rd).filter fun v => v.2 == u).length

/-- The steward cycles of a canvas (R181). -/
def stewardCost (rd st : View) (c h0 : Nat) : Nat :=
  let mode := fv st (F.TONE_POLICY.mode h0)
  let on := mode == 1 || mode == 2
  let cost := 20000 + (if on then 120000 else 0) + (if on && fv st (F.TONE_POLICY.lut3d h0) == 1 then 260000 else 0)
  ceilDiv (cost * 1000000000 * fv rd (F.PERIOD_DEN.den c)) (fv rd (F.PERIOD_NUM.num c))

/-- HOP of a port (R252). -/
def hopOf (rd : View) (k : Nat) : Nat :=
  1600 + 2 * ceilDiv (ceilDiv 260 (portWidth rd k) * 66000000) (portRate (fv rd (F.PORT_CTL.rate k)))

/-- The latency demand of this landing over one of its ports: its own HOP and, while the peer there is not the coordinator, what
the landings in between declare. No register of this landing holds that sum: it is a free value (R253, log 30). -/
def pathDemand (rd : View) (k : Nat) : Nat :=
  hopOf rd k + (if fv rd (F.PORT_CTL.peer k) = 0 then 0 else Config.pathHops k)

/-- The latency demand of this landing: over its uplink port in a tree, over the longer direction in a ring (R253). -/
def cascDemand (rd st : View) : Nat :=
  if fv st F.CASC_ID.landing = 0 then 0
  else (((List.range 8).filter fun k =>
    portOn rd k && (fv rd F.CASC_CTL.topology == 1 || fv rd (F.PORT_CTL.uplink k) == 1)).map (pathDemand rd)).foldl max 0

/-- Whether the tree groups of a landing in a system have horizons long enough (R268). -/
def treeGroupsOk (rd : View) : Bool :=
  (canvasLeads rd).all fun cl => (List.range 32).all fun n =>
    !(layerOn rd cl.2 n && 8 ≤ fv rd (F.LAYER_CTL.atomic_group cl.2 n)) ||
      2 * fv rd F.CASC_BUDGET.ns + 20000 ≤ fv rd (F.FENCE_TIME.horizon_us cl.2 n) * 1000

/-- The CASCADE instance of this landing: none outside the member set (R253); tree groups with short horizons are refused
(R268). -/
def cascInst (rd st : View) : Inst :=
  if fv rd F.CASC_CTL.enable = 0 then .none
  else
    let l := fv st F.CASC_ID.landing
    let i := if bitOf (fv rd F.CASC_MEMBERS.set) l = 1 then instOf l 0 (cascDemand rd st) (fv rd F.CASC_BUDGET.ns) else .none
    if treeGroupsOk rd then i else { i with inst := l, margin := -32768 }

/-- All resources in the order of R169; the GEOMETRY margin is 1,000 here. -/
def AdmCfg.margins (m : AdmCfg) : List Inst :=
  [ .none, bindingOf m.hallCycles, bindingOf m.coverage, bindingOf m.linebuf, bindingOf m.band, bindingOf m.gallery,
    bindingOf m.hbm, bindingOf m.lane, instOf 0 0 (dmaRes m.rd) 76800,
    bindingOf ((List.range 56).map fun u => instOf u 0 (cuEnds m.rd u) 16), instOf 0 0 m.res.metro 128,
    instOf 0 0 (((canvasLeads m.rd).map fun cl => stewardCost m.rd m.st cl.1 cl.2).sum)
      (if m.res.stwHalf then 1500000000 else 3000000000),
    instOf 0 0 m.res.ops 4,
    cascInst m.rd m.st ]

/-- The binding resource: smallest margin, lowest index (R170). -/
def bindingRes (ms : List Inst) : Nat :=
  (ms.zipIdx.foldl (fun b x => if x.1.margin < b.1.margin then x else b) (ms.headD .none, 0)).2

/-! ## The descent (R183, R184) -/

/-- What a descent step relieves. -/
def relieves (step r : Nat) : Bool :=
  match step with
  | 0 => r == 3 || r == 6 || r == 4
  | 1 => r == 6 || r == 4
  | 2 => r == 6
  | _ => r == 6 || r == 4

/-- Whether a declared step can be taken at all: the first two act on the scaler only (R183), and the halved fetch keeps
R94 (R112). Admission passes over one that would break R94 and goes on to the next declared step of the layer, where the manual says
only that it does not take this one (DESIGN CHOICE, log 165). -/
def stepFits (rd : View) (h0 n step : Nat) : Bool :=
  match step with
  | 0 => n < 8
  | 1 => n < 8 && scaleOk (ceilDiv (srcH rd h0 n) 2) (dstH rd h0 n)
  | _ => true

/-- The next declared step of a layer. -/
def nextStep (rd : View) (steps : Tab Nat) (h0 n : Nat) : Option Nat :=
  let s := Tab.get (fun _ => 0) steps (layerKey h0 n)
  (List.range 4).find? fun i =>
    bitOf (fv rd (F.DESCENT.steps h0 n)) i == 1 && s < 2 ^ i && stepFits rd h0 n i

/-- The demands and budgets of a resource that steps can relieve, in a fixed order. -/
def AdmCfg.conds (m : AdmCfg) (r : Nat) : List (Nat × Nat) :=
  match r with
  | 3 => m.linebuf.map fun i => (i.demand, i.budget)
  | 4 => m.halls.flatMap fun x => (List.range (phasesOf m.rd x.1)).flatMap fun p => m.bandConds x.1 x.2.1 x.2.2 p
  | 6 => m.hbm.map fun i => (i.demand, i.budget)
  | _ => []

/-- A step lowers a demand on an instance with a negative margin (R184). For BAND each condition (i) and (ii) of R178 stands for itself:
the manual speaks of the demand of an instance, which has several there (DESIGN CHOICE, log 166). -/
def lowersDemand (before after : List (Nat × Nat)) : Bool :=
  (before.zip after).any fun x => marginOf x.1.1 x.1.2 < 0 && x.2.1 < x.1.1

def addStep (steps : Tab Nat) (h0 n i : Nat) : Tab Nat :=
  Tab.set (fun _ => 0) steps (layerKey h0 n) (Tab.get (fun _ => 0) steps (layerKey h0 n) ||| 2 ^ i)

/-- The step that admission takes next on resource `r`: by step, descending canvas, descending layer (R184). -/
def AdmCfg.candidate (m : AdmCfg) (permit r : Nat) : Option (Nat × Nat × Nat) :=
  let before := m.conds r
  let all := (List.range 4).flatMap fun i => (canvasLeads m.rd).reverse.flatMap fun cl =>
    (List.range 32).reverse.map fun n => (cl.2, n, i)
  all.find? fun x =>
    let (h0, n, i) := x
    relieves i r && layerOn m.rd h0 n && permit ≤ fv m.rd (F.DESCENT.policy h0 n) &&
      nextStep m.rd m.steps h0 n == some i &&
      lowersDemand before ({ m with steps := addStep m.steps h0 n i }.conds r)

/-- What an admission answers: code, the resources, the steps taken and, by layer, the resource of the last step; for a
GEOMETRY refusal its instance and kind; POOL_REQ by hall is at full taps. -/
structure AdmOut where
  code  : Nat
  insts : List Inst
  steps : Tab Nat
  why   : Tab Nat
  kind  : Nat
deriving DecidableEq, Repr

/-- The descent loop of R184, at most `fuel` times. -/
def AdmCfg.descend (m : AdmCfg) (permit : Nat) (first : List Inst) : Nat → Tab Nat → AdmOut
  | 0, _ => ⟨0x20, first, m.steps, [], 0⟩
  | fuel + 1, why =>
    let ms := m.margins
    if ms.all fun i => 0 ≤ i.margin then ⟨if why.isEmpty then 0 else 1, ms, m.steps, why, 0⟩
    else
      let r := bindingRes ms
      match m.candidate permit r with
      | none => ⟨0x20 + r, first, [], [], 0⟩
      | some (h0, n, i) =>
        AdmCfg.descend { m with steps := addStep m.steps h0 n i } permit first fuel
          (Tab.set (fun _ => 0) why (layerKey h0 n) r)

/-- The admission of a configuration: GEOMETRY first, then the descent (R170, R184). Log 31. -/
def AdmCfg.runAdmission (m : AdmCfg) (permit : Nat) : AdmOut :=
  match geometryFail m.rd m.st with
  | some (i, k) => ⟨0x20, ⟨-32768, i, 0, 0, 0⟩ :: List.replicate 13 .none, [], [], k⟩
  | none => m.descend permit m.margins 1025 []

/-- Re-admission (R186, R187): windows are shed in descending index until it admits. -/
def AdmCfg.readmit (m : AdmCfg) : Nat → AdmOut × List Nat
  | 0 => (m.runAdmission 1, m.res.shed)
  | n + 1 =>
    let o := m.runAdmission 1
    if o.code ≤ 1 then (o, m.res.shed)
    else
      match ((winsOn m.rd).filter fun w => !m.res.shed.contains w).getLast? with
      | none => (o, m.res.shed)
      | some w => AdmCfg.readmit { m with res := { m.res with shed := w :: m.res.shed } } n

/-! ## The report (R189) -/

def sat32 (n : Nat) : Word := BitVec.ofNat 32 (min n 0xFFFFFFFF)
def margin16 (x : Int) : Nat := toField x 16

/-- Words 0 to 7 of an answer. -/
def reportHead (code res : Nat) (i : Inst) (kind landing : Nat) (gen : Word) (target entries us : Nat) : Tab Word :=
  let s := fun (m : Tab Word) (k : Nat) (v : Word) => Tab.set (fun _ => 0) m k v
  let m := s [] 0 (w32 (code + res * 2 ^ 8 + margin16 i.margin * 2 ^ 16))
  let m := s (s (s m 1 gen) 2 (w32 target)) 3 (w32 (target / 2 ^ 32))
  let m := s m 4 (w32 (i.inst % 65536 + i.phase % 8 * 2 ^ 16 + kind * 2 ^ 19 + landing * 2 ^ 24))
  let m := s m 5 (w32 (entries + us % 256 * 2 ^ 16))
  s (s m 6 (sat32 i.demand)) 7 (sat32 i.budget)

/-- The report of an answer 0x10 to 0x17, given `us` µs after the arrival: address 16 onwards reads zero. -/
def reportArrival (code : Nat) (gen : Word) (target landing us : Nat) : Tab Word :=
  reportHead code 0xFF ⟨0, 0, 0, 0, 0⟩ 0 landing gen target 0 us

/-- The descent entries: lead hall, layer, steps in force, resource of the last step. The manual gives their order nowhere: they stand by
lead hall and layer (DESIGN CHOICE, log 155). -/
def descentWords (o : AdmOut) : List Word :=
  o.why.map fun e =>
    w32 (e.1 / 33 + e.1 % 33 * 2 ^ 3 + Tab.get (fun _ => 0) o.steps e.1 * 2 ^ 9 + e.2 * 2 ^ 13)

/-- The whole report of an admission. -/
def reportOf (o : AdmOut) (gen : Word) (target landing us : Nat) : Tab Word :=
  let r := if 0x20 ≤ o.code then o.code - 0x20 else bindingRes o.insts
  let ds := descentWords o
  let m := reportHead o.code r (o.insts.getD r .none) o.kind landing gen target ds.length us
  let m := o.insts.zipIdx.foldl (fun m x =>
    let m := Tab.set (fun _ => 0) m (16 + x.2) (w32 (margin16 x.1.margin + x.1.inst % 65536 * 2 ^ 16))
    Tab.set (fun _ => 0) (Tab.set (fun _ => 0) m (48 + 2 * x.2) (sat32 x.1.demand)) (49 + 2 * x.2) (sat32 x.1.budget)) m
  ds.zipIdx.foldl (fun m x => Tab.set (fun _ => 0) m (128 + x.2) x.1) m

end Sys2Proof.Machine
end

