-- ==== Sys2Proof/Machine/Flags.lean ====
section
/-! DEFINITION. Status and event flags: the occurrence of an event with its delivery (R290 to R293, R321), the EVT_N lands,
ignored writes (R276, R277), and the event summaries of lanes, channels and check units. -/

namespace Sys2Proof.Machine

/-! ## EVT_N lands (R292) -/

/-- Whether an event's pending bit is set. -/
def Dev.evPending (d : Dev) (e : Nat) : Bool := bitOf (d.get (F.EVT_PENDING_ALL.pending (e / 32))) (e % 32) == 1

/-- Whether land `i` is to be low: while a pulse runs in pulse mode, else while a pending bit with the route stands. The
routes that differ from reset are the listed ones. -/
def Dev.evtNLow (d : Dev) (i : Nat) : Bool :=
  if bitOf (d.get F.EVT_N_CTL.pulse) i = 1 then Tab.get (fun _ => false) d.pulseOn i
  else d.regs.ind.any fun r =>
    r.1 / 2 ^ 32 == 0xB00 && r.1 % 2 ^ 32 < 1024 && r.2.getLsbD i && d.evPending (r.1 % 2 ^ 32)

/-- Bring the four lands up to date and emit those that change. -/
def Dev.evtN (d : Dev) : Dev :=
  (List.range 4).foldl (fun d i =>
    let low := d.evtNLow i
    if (bitOf (d.get F.EVT_N_STATUS.low) i == 1) == low then d
    else (d.put F.EVT_N_STATUS.low (d.get F.EVT_N_STATUS.low ^^^ 2 ^ i)).emit (.evtN i d.now low)) d

/-- A delivery to land `i` in pulse mode: a pulse starts when 2 µs have passed since the start of the last. -/
def Dev.evtPulse (d : Dev) (i : Nat) : Dev :=
  if bitOf (d.get F.EVT_N_CTL.pulse) i = 1 ∧ Tab.get (fun _ => 0) d.pulse i ≤ d.now then
    { d with pulse := Tab.set (fun _ => 0) d.pulse i (d.now + 2000)
             pulseOn := Tab.set (fun _ => false) d.pulseOn i true }
  else d

/-! ## Delivery to sessions (R321) -/

/-- Queue an occurrence in a session: an unsent entry of its event counts it. -/
def Sess.note (s : Sess) (e t : Nat) : Sess × Bool :=
  if s.events.any (fun x => x.ev == e) then
    ({ s with events := s.events.map fun x => if x.ev = e then { x with count := min 65535 (x.count + 1) } else x }, false)
  else if s.events.length < 256 then ({ s with events := s.events ++ [{ ev := e, count := 1, time := t }] }, false)
  else ({ s with lost := min 65535 (s.lost + 1) }, true)

/-- Deliver to the subscribed sessions; Alcove events need level 1 (R505). -/
def Dev.toSessions (d : Dev) (e : Nat) : Dev :=
  (List.range 16).foldl (fun d i =>
    match d.sess i with
    | some s =>
      if s.subs.contains e && (!(768 ≤ e && e < 832) || 1 ≤ d.get (F.SESS.level i)) then
        let r := s.note e d.now
        let d := d.setSess i (some r.1)
        if r.2 then d.bump F.AED_EVT_LOST.count else d
      else d
    | none => d) d

/-! ## Occurrences (R290) -/

/-- Event `e` occurs. One of the coordinator that is routed to the cascade leaves as any, toward no landing, and does not enter its own
PEER_EVT queue: R265 speaks of EVENT messages (DESIGN CHOICE, log 187). -/
def Dev.raise (d : Dev) (e : Nat) : Dev :=
  let d := d.orBits (F.EVT_RAW_ALL.raw (e / 32)) (2 ^ (e % 32))
  if bitOf (d.get (F.EVT_ENABLE_ALL.enable (e / 32))) (e % 32) = 1 then
    let d := d.orBits (F.EVT_PENDING_ALL.pending (e / 32)) (2 ^ (e % 32))
    let r := (d.ind 0xB00 e).toNat
    let d := if bitOf r 4 = 1 then d.toSessions e else d
    let d := if bitOf r 5 = 1 ∧ d.actIs F.CASC_CTL.enable then
        d.landSend d.portsUp 0x30 0 false
          (bytesBE 2 e ++ bytesBE 1 (d.get F.CASC_ID.landing) ++ timeBE d.now)
      else d
    let d := (List.range 4).foldl (fun d i => if bitOf r i = 1 then d.evtPulse i else d) d
    d.evtN
  else d

/-- The `k`-th event of hall `h` (R291). -/
def Dev.raiseHall (d : Dev) (h k : Nat) : Dev := d.raise (128 + 32 * h + k)

/-- Set a sticky field whose register raises a summary event when any bit of it changes from 0 to 1. -/
def Dev.sticky (d : Dev) (r : FieldRef) (ev : Nat) : Dev :=
  if d.is r then d else (d.put r 1).raise ev

/-- A cause bit of LANE_EVT; LANE_SUMMARY is raised each time the module sets one, also one that already reads 1 (R243). -/
def Dev.laneEvt (d : Dev) (n : Nat) (r : Nat → FieldRef) : Dev := (d.put (r n) 1).raise (384 + n)

/-- A bit of CU_EVT and CU_EVENT (R440). -/
def Dev.cuEvt (d : Dev) (u : Nat) (r : Nat → FieldRef) : Dev := d.sticky (r u) (704 + u)

/-- A bit of CH_EVT: it sets the channel's bit in CH_EVT_SUM (R430). -/
def Dev.chEvt (d : Dev) (c : Nat) (r : Nat → FieldRef) : Dev :=
  if d.is (r c) then d
  else
    let d := d.put (r c) 1
    if c < 32 then d.orBits F.CH_EVT_SUM_LO.channels (2 ^ c) else d.orBits F.CH_EVT_SUM_HI.channels (2 ^ (c - 32))

/-! ## Ignored writes -/

/-- The number under which the requests go on that a session of a level had started when it closed, the `n`-th of those that wait (R315). -/
def closedAcc (n level i : Nat) : Nat := 32 + (n * 4 + level) * 16 + i
/-- Its level. -/
def closedLevel (acc : Nat) : Nat := (acc - 32) / 16 % 4
/-- The number of an accessor as registers show it (R278). -/
def accNo (acc : Nat) : Nat := if acc < 32 then acc else (acc - 32) % 16

/-- A write of an accessor is ignored for a lock (R276) or for privilege (R277). -/
def Dev.ignored (d : Dev) (page acc : Nat) (priv : Bool) : Dev :=
  let d := d.bump (F.LOCK_VIOLATION.count page)
  let d := d.put (if priv then F.PAGE_STATUS.priv_denied page else F.PAGE_STATUS.lock_violation page) 1
  let d := (d.put F.LOCK_LAST.page page).put F.LOCK_LAST.accessor (accNo acc)
  (d.bump F.LOCK_TOTAL.count).raise 1

/-! ## Levels (R277, R278) -/

/-- Whether an accessor exists: the boot's, accessor 17, only while the boot applies the records of an image (R278). -/
def Dev.present (d : Dev) (acc : Nat) : Bool := acc != 17 || d.pwr.applying

/-- The factory base address is valid: the factory data passes its check and the address is unicast and not 0 (R567). -/
def Dev.baseOk (d : Dev) : Bool := d.factoryOk && d.baseMac != 0 && bitOf d.baseMac 40 == 0

/-- The level of an accessor: that of its session, of one that has closed too, or of the monitor; the boot's is 2 (R315). -/
def Dev.ownLevel (d : Dev) (acc : Nat) : Nat :=
  if acc < 16 then (if d.is (F.SESS.open acc) then d.get (F.SESS.level acc) else 0)
  else if acc = 16 then d.get F.URURI_CTL.level
  else if acc < 32 then 2
  else closedLevel acc
/-- The level an accessor acts at outside the Alcove page (R315). -/
def Dev.levelOf (d : Dev) (acc : Nat) : Nat := min 2 (d.ownLevel acc)

/-- The level an accessor acts at on the Alcove page: 3 only while the Alcove is open, else 2 (R485). -/
def Dev.heldLevel (d : Dev) (acc : Nat) : Nat := min (if d.sealOpen then 3 else 2) (d.ownLevel acc)

/-- A write-direction item, an indirect write or a command of an accessor on a page: allowed at the page's level (R277). -/
def Dev.mayWrite (d : Dev) (acc page : Nat) : Bool := d.get (F.PRIV_LEVEL.level page) ≤ d.levelOf acc

end Sys2Proof.Machine
end

