-- ==== Sys2Proof/Machine/Flips.lean ====
section
/-! DEFINITION. Flip requests (R193 to R196), fences (R197 to R201), the flip decision (R202 to R208) and the images of the
balustrade with their fallback (R209, R213). -/

namespace Sys2Proof.Machine

/-! ## The bank of the next tick -/

/-- The pending commit that starts a canvas which does not run (R33, R34). -/
def Dev.startsBy (d : Dev) (c : Nat) : Option Commit :=
  match d.commit with
  | some m =>
    if d.get F.COMMIT_STATUS.state == 2 && !m.dryRun && m.canvases.contains c && canvasOn d.pendv c then some m else none
  | none => none

/-- The instant of the next tick of a canvas: the first of a new stream in a gap, the next of a running one. -/
def Dev.nextInstant (d : Dev) (c : Nat) : Nat :=
  let v := d.canvas c
  match v.gapTo with
  | some k => d.tickTime c k
  | none =>
    if d.is (F.TICK_STATUS.running c) then d.tickTime c (v.tick + 1)
    else
      match d.startsBy c with
      | some m => let s := streamOf d.pendv c; s.tick (s.firstFrom (max (d.canvasNow c) m.due))
      | none => d.canvasNow c

/-- Whether a commit stands that is to apply on a canvas at an instant (R33, R34). -/
def Dev.appliesAt (d : Dev) (c t : Nat) : Bool :=
  match d.commit with
  | some m => d.get F.COMMIT_STATUS.state == 2 && !m.dryRun && m.canvases.contains c && m.due ≤ t
  | none => false

/-- Whether it applies at the next tick, and the bank active at that tick (R40). -/
def Dev.appliesNext (d : Dev) (c : Nat) : Bool := d.appliesAt c (d.nextInstant c)
def Dev.nextView (d : Dev) (c : Nat) : View := if d.appliesNext c then d.pendv else d.actv

/-- The number of the next tick of a canvas. -/
def Dev.nextNumber (d : Dev) (c : Nat) : Nat :=
  let v := d.canvas c
  match v.gapTo with
  | some k => k
  | none =>
    if d.is (F.TICK_STATUS.running c) then v.tick + 1
    else
      match d.startsBy c with
      | some m => (streamOf d.pendv c).firstFrom (max (d.canvasNow c) m.due)
      | none => v.tick + 1

/-- The canvas that a hall belongs to at its next tick. -/
def Dev.nextCanvas (d : Dev) (h : Nat) : Nat :=
  let c := hallCanvas d.pendv h
  if d.appliesNext c then c else hallCanvas d.actv h

/-- The instant of a tick of a canvas from the next one on. -/
def Dev.instantOf (d : Dev) (c k : Nat) : Nat :=
  if k ≤ d.nextNumber c then d.nextInstant c else (streamOf (d.nextView c) c).tick k

/-- Whether the pending commit is in force at a tick of a canvas from the next one on, and the bank active then. -/
def Dev.appliesFor (d : Dev) (c k : Nat) : Bool := d.appliesAt c (d.instantOf c k)
def Dev.viewFor (d : Dev) (c k : Nat) : View := if d.appliesFor c k then d.pendv else d.actv

/-- The horizon in ns (R28). -/
def Dev.horizon (d : Dev) : Nat := d.get F.COMMIT_CTL.horizon_us * 1000

/-- The last tick of a canvas, from the next one on, at most `hz` ns from now; a horizon of 10,000 µs takes in at most five periods
(R12, R28, R202). -/
def Dev.passUpTo (d : Dev) (c hz : Nat) : Nat :=
  let s := streamOf (d.nextView c) c
  let n := d.nextNumber c
  min (max n (s.lastAt (d.canvasAt c (d.now + hz)))) (n + 5)

/-- The descent steps in force on a layer at a tick of a canvas. -/
def Dev.stepsFor (d : Dev) (c k h0 n : Nat) : Nat :=
  match d.commit with
  | some m => if d.appliesFor c k then Tab.get (fun _ => 0) m.taken (layerKey h0 n) else (d.layer h0 n).steps
  | none => (d.layer h0 n).steps

/-- The descent steps in force on a layer at the next tick. -/
def Dev.nextSteps (d : Dev) (c h0 n : Nat) : Nat := d.stepsFor c (d.nextNumber c) h0 n

/-- Whether the layer registers of a hall are in force: it leads the gang of an enabled canvas (R60). -/
def leadsGang (rd : View) (h : Nat) : Bool := hallOn rd h && leadOf rd h == h

/-- A hall of a gang that is not its lead: its canvas-level registers are ignored (R60). -/
def notLead (rd : View) (h : Nat) : Bool := hallOn rd h && leadOf rd h != h

/-- The descent steps in force by layer key. -/
def Dev.stepsNow (d : Dev) : Tab Nat :=
  (List.range 264).foldl (fun m k => Tab.set (fun _ => 0) m k (d.layer (k / 33) (k % 33)).steps) []

/-! ## Fences -/

/-- Whether a target is reached (R199). -/
def fenceReached (f v : Word) : Bool := (f - v).toNat < 2 ^ 31

def Dev.fence (d : Dev) (f : Nat) : Word := d.stored (A.FENCE f)

/-- Whether a pending entry meets R196 now, under a bank. -/
def Dev.entryReady (d : Dev) (rd : View) (h n : Nat) (e : Entry) : Bool :=
  fv rd (F.FLIP_CTL.fence_mode h n) != 1 || fenceReached (d.fence (fv rd (F.FLIP_CTL.fence h n))) e.target

/-- The fence horizon of a layer in ns (R202). -/
def Dev.fenceH (d : Dev) (rd : View) (h n : Nat) : Nat :=
  let x := fv rd (F.FENCE_TIME.horizon_us h n)
  (if d.is (F.COVER_CTL.runahead h) then max x 50 else x) * 1000

/-- The canvases that a hall belongs to at a tick to come, and the ticks of these, from the next ones on, that a span takes in. -/
def Dev.homes (d : Dev) (h : Nat) : List Nat := [d.nextCanvas h, hallCanvas d.pendv h].eraseDups
def Dev.hallTicks (d : Dev) (h hz : Nat) : List (Nat × Nat) :=
  (d.homes h).flatMap fun c =>
    let n := d.nextNumber c
    ((List.range (d.passUpTo c hz - n + 1)).map fun i => (c, n + i)).filter fun x =>
      let rd := d.viewFor c x.2
      hallOn rd h && hallCanvas rd h == c && canvasOn rd c

/-- The longest fence horizon in ns (R202). -/
def maxFenceH : Nat := 10000000

/-- The instant of TC at which the horizon of a layer for a tick passes, under the generation active at that tick (R202, R203). -/
def Dev.horizonAt (d : Dev) (c k h n : Nat) : Nat := d.tcOf c (d.instantOf c k - d.fenceH (d.viewFor c k) h n)

/-- Whether a fence is the one that a layer awaits at a tick. -/
def Dev.awaits (d : Dev) (c k h n f : Nat) : Bool :=
  fv (d.viewFor c k) (F.FLIP_CTL.fence_mode h n) == 1 && fv (d.viewFor c k) (F.FLIP_CTL.fence h n) == f

/-- An entry that becomes ready at `at'`, by being queued or by an advance of fence `via`, after the horizon of a tick to come and no
later than 8 µs before it, is late, once (R207). -/
def Dev.noteLate (d : Dev) (at' h n : Nat) (via : Option Nat) : Dev :=
  let l := d.layer h n
  match l.entry with
  | some e =>
    if !e.late && (d.hallTicks h maxFenceH).any fun x =>
        (via.all fun f => d.awaits x.1 x.2 h n f) && d.entryReady (d.viewFor x.1 x.2) h n e &&
          d.horizonAt x.1 x.2 h n < at' && at' + 8000 ≤ d.tcOf x.1 (d.instantOf x.1 x.2) then
      (d.setLayer h n { l with entry := some { e with late := true } }).bump (F.LATE_FENCES.count h n)
    else d
  | none => d

/-- An advance of a fence that arrived at `at'` makes an entry ready: also for the ticks whose horizon passed no earlier (R200,
R203). -/
def Dev.latchSince (d : Dev) (at' h n f : Nat) : Dev :=
  let l := d.layer h n
  let c := d.nextCanvas h
  d.setLayer h n { l with
    entry := l.entry.map fun e => { e with
      judged := e.judged.map fun j =>
        if j.mode == 1 && j.fence == f && at' ≤ d.tcOf c (d.instantOf c j.tick - j.hz) then { j with ready := true } else j } }

/-- The value of a fence at an instant: that of now, but for the advances that arrived later (R200, R203). -/
def Dev.fenceAt (d : Dev) (f t : Nat) : Word :=
  ((((Tab.get (fun _ => []) d.fenceLog f).filter fun x => t < x.1).getLast?).map (·.2)).getD (d.fence f)

/-- An advance that arrived at `at'` is kept as long as a horizon can ask for it. -/
def Dev.noteAdvance (d : Dev) (at' f : Nat) : Dev :=
  let old := (Tab.get (fun _ => []) d.fenceLog f).filter fun x => d.now < x.1 + 2 * maxFenceH
  { d with fenceLog := Tab.set (fun _ => []) d.fenceLog f ((at', d.fence f) :: old) }

/-- A fence takes a value by an advance that arrived at `at'` (R200): its group's event, its export in a system (R201, R265) and
the entries that become ready. -/
def Dev.fenceSet (d : Dev) (at' f : Nat) (v : Word) : Dev :=
  let old := d.fence f
  let d := ((d.noteAdvance at' f).setStored (A.FENCE f) v).raise (896 + f / 8)
  let word := if f / 8 < 32 then d.act F.FENCE_EXPORT_LO.groups else d.act F.FENCE_EXPORT_HI.groups
  let d := if d.actIs F.CASC_CTL.enable ∧ bitOf word (f / 8 % 32) = 1 then
      d.landSend d.ports 0x31 0 true (bytesBE 2 f ++ bytesBE 4 v.toNat)
    else d
  ((List.range 8).flatMap fun h => (List.range 33).map fun n => (h, n)).foldl (fun d x =>
    match (d.layer x.1 x.2).entry with
    | some e =>
      if !fenceReached old e.target ∧ fenceReached v e.target then (d.latchSince at' x.1 x.2 f).noteLate at' x.1 x.2 (some f) else d
    | none => d) d

/-- A write of `v` that arrived at `at'` moves a fence forward only (R200). -/
def Dev.fenceMove (d : Dev) (at' f : Nat) (v : Word) : Dev :=
  let delta := (v - d.fence f).toNat
  if delta = 0 then d
  else if delta < 2 ^ 31 then d.fenceSet at' f v
  else d.bump F.FENCE_BACKWARD.count

/-- Whether software may write a fence (R198) and whether R200 takes the write. -/
def Dev.fenceTakes (d : Dev) (f : Nat) (v : Word) : Bool :=
  d.get (F.FENCE_OWNER.owner f) == 0 && (v - d.fence f).toNat < 2 ^ 31

/-- A software write to a fence by an accessor, which arrived at `at'` (R198, R200). To a fence that software does not own every write
counts as one to a locked register, one of the current value too: R198 names no exemption (DESIGN CHOICE, log 126). -/
def Dev.fenceWrite (d : Dev) (at' acc f : Nat) (v : Word) : Dev :=
  if d.get (F.FENCE_OWNER.owner f) = 0 then d.fenceMove at' f v else d.ignored 0xB01 acc false

/-! ## Requests -/

/-- Whether the bases of the planes in use are multiples of 64 (R194). -/
def flipBasesOk (d : Dev) (h n : Nat) : Bool :=
  let planes := match fmtInfo (d.act (F.FORMAT.fmt h n)) with
    | some f => f.planes
    | none => 1
  d.get (F.NEXT_B0_LO.va_lo h n) % 64 == 0 && (planes < 2 || d.get (F.NEXT_P1_LO.va_lo h n) % 64 == 0) &&
    (planes < 3 || d.get (F.NEXT_P2_LO.va_lo h n) % 64 == 0)

/-- Put an entry in place of a pending one (R195). FLIP_STATUS.timed_out speaks of the pending entry, and the manual gives it no
clearing: it stands until the next entry is queued (DESIGN CHOICE, log 126). -/
def Dev.queueEntry (d : Dev) (h n : Nat) (e : Entry) : Dev :=
  let l := d.layer h n
  let d := if l.entry.isSome then d.bump (F.FLIP_REPLACED.count h) else d
  let d := d.setLayer h n { l with entry := some { e with born := d.now } }
  ((d.put (F.FLIP_STATUS.pending h n) 1).put (F.FLIP_STATUS.timed_out h n) 0).noteLate d.now h n none

/-- A new entry with some bases. -/
def newEntry (b0 b1 b2 image : Nat) (target : Word) : Entry :=
  { b0 := b0, b1 := b1, b2 := b2, image := image, target := target, born := 0, misses := 0, judged := [], timedOut := false,
    late := false }

/-- A flip request of a layer (R193 to R196, R209). -/
def Dev.flipRequest (d : Dev) (h n : Nat) : Dev :=
  if notLead d.actv h then d
  else if d.act (F.FLIP_CTL.fence_mode h n) = 2 then d.put (F.FLIP_STATUS.bad_base h n) 1
  else if n < 32 ∧ !flipBasesOk d h n then
    (d.put (F.FLIP_STATUS.bad_base h n) 1).bump (F.FLIP_BAD_BASE.count h)
  else
    let d := (d.put (F.FLIP_STATUS.bad_base h n) 0).put (F.FLIP_STATUS.withdrawn h n) 0
    d.queueEntry h n (newEntry (va48 (d.get (F.NEXT_B0_LO.va_lo h n)) (d.get (F.NEXT_B0_HI.va_hi h n)))
      (va48 (d.get (F.NEXT_P1_LO.va_lo h n)) (d.get (F.NEXT_P1_HI.va_hi h n)))
      (va48 (d.get (F.NEXT_P2_LO.va_lo h n)) (d.get (F.NEXT_P2_HI.va_hi h n))) (d.get (F.BAL_NEXT.image h))
      (d.stored (A.FENCE_VALUE h n)))

/-- Remove the pending entry of a layer. -/
def Dev.dropEntry (d : Dev) (h n : Nat) : Dev :=
  let l := d.layer h n
  (d.setLayer h n { l with entry := none }).put (F.FLIP_STATUS.pending h n) 0

/-- FLIP_CMD.withdraw: ignored at the instant of the decision that latches the entry (R195, log 89). -/
def Dev.flipWithdraw (d : Dev) (h n : Nat) : Dev :=
  if notLead d.actv h || (d.layer h n).decided == some d.now then d else d.dropEntry h n

/-- A commit or a disable withdraws the pending entry (R204, R205). -/
def Dev.withdrawEntry (d : Dev) (h n : Nat) : Dev :=
  if (d.layer h n).entry.isSome then (d.dropEntry h n).put (F.FLIP_STATUS.withdrawn h n) 1 else d

/-- How far two instants lie apart. -/
def apart (a b : Nat) : Nat := if a < b then b - a else a - b

/-- The tick whose horizon passes now on a layer: of the ticks to come, each under the generation active at it, the one whose horizon
is nearest; a horizon of a period or more passes before the tick in front of it is decided (R202, R203). -/
def Dev.horizonTick (d : Dev) (h n : Nat) : Option (Nat × Nat) :=
  (d.hallTicks h (maxFenceH + 100000)).foldl (fun b x =>
    match b with
    | some y => if apart (d.horizonAt x.1 x.2 h n) d.now < apart (d.horizonAt y.1 y.2 h n) d.now then some x else b
    | none => some x) none

/-- How the generation active at a tick judges an entry. -/
def Dev.judgeOf (d : Dev) (c k h n : Nat) (ready : Bool) : Judged :=
  let rd := d.viewFor c k
  { tick := k, mode := fv rd (F.FLIP_CTL.fence_mode h n), fence := fv rd (F.FLIP_CTL.fence h n), hz := d.fenceH rd h n, ready := ready }

/-- The horizon of a layer for a tick latches the readiness of its entry for that tick (R203). -/
def Dev.fenceLatch (d : Dev) (h n : Nat) : Dev :=
  let l := d.layer h n
  match d.horizonTick h n with
  | none => d
  | some (c, k) =>
    d.setLayer h n { l with
      entry := l.entry.map fun e =>
        { e with judged := d.judgeOf c k h n (d.entryReady (d.viewFor c k) h n e) :: e.judged.filter fun j => j.tick != k } }

/-- Whether an entry stood and met R196 at an instant that has passed, under a bank. -/
def Dev.entryStood (d : Dev) (rd : View) (h n : Nat) (e : Entry) (t : Nat) : Bool :=
  decide (e.born ≤ t) && (fv rd (F.FLIP_CTL.fence_mode h n) != 1 || fenceReached (d.fenceAt (fv rd (F.FLIP_CTL.fence h n)) t) e.target)

/-- Whether the pending entry of a layer is ready for a tick whose horizon has passed, under the generation active at that tick
(R203): as latched where the horizon was judged by that generation's fence mode, fence and horizon, else by what then stood. -/
def Dev.decideReady (d : Dev) (c k h n : Nat) (e : Entry) : Bool :=
  match e.judged.find? fun j => { j with ready := false } == d.judgeOf c k h n false with
  | some j => j.ready
  | none => d.entryStood (d.viewFor c k) h n e (d.horizonAt c k h n)

/-- Whether the pending entry of a layer is ready for a tick: as decided once its horizon has passed, by the condition of R196
until then (R203, R208). -/
def Dev.readyFor (d : Dev) (c k h n : Nat) (e : Entry) : Bool :=
  if d.horizonAt c k h n ≤ d.now then d.decideReady c k h n e else d.entryReady (d.viewFor c k) h n e

/-- FLIP_STATUS.ready: the pending entry is ready for the next decision. -/
def Dev.flipShow (d : Dev) (h n : Nat) : Dev :=
  d.put (F.FLIP_STATUS.ready h n) (b2n ((d.layer h n).entry.any fun e => d.readyFor (d.nextCanvas h) (d.nextNumber (d.nextCanvas h)) h n e))

/-! ## The decision -/

/-- A layer takes part in some phase of the next tick (R64, R183). -/
def takesSome (rd : View) (steps c h0 n : Nat) : Bool :=
  layerOn rd h0 n && bitOf steps 3 == 0 && (List.range (phasesOf rd c)).any fun p => inPhase rd h0 n p

/-- The bases of a bank. -/
def banked (rd : View) (h n : Nat) : Nat × Nat × Nat :=
  (va48 (fv rd (F.SRC_BASE_LO.va_lo h n)) (fv rd (F.SRC_BASE_HI.va_hi h n)),
   va48 (fv rd (F.P1_BASE_LO.va_lo h n)) (fv rd (F.P1_BASE_HI.va_hi h n)),
   va48 (fv rd (F.P2_BASE_LO.va_lo h n)) (fv rd (F.P2_BASE_HI.va_hi h n)))

/-- The balustrade shows an image: at an application this ends fallback and fault fill unless select_lock stands, which keeps
image 3 shown (R209, R213). -/
def Dev.showImage (d : Dev) (h k : Nat) : Dev :=
  if d.is (F.BAL_LOCK.select_lock h) ∧ (d.is (F.BAL_STATUS.fallback h) ∨ d.is (F.BAL_STATUS.fault_fill h)) then
    d.put (F.LAYER_STATUS.no_buffer h 32) 0
  else
    let d := (d.put (F.BAL_STATUS.shown h) k).put (F.LAYER_STATUS.no_buffer h 32) 0
    ((d.put (F.BAL_STATUS.fallback h) 0).put (F.BAL_STATUS.fault_fill h) 0).put (F.BAL_STATUS.run h) 0

/-- What an application does to the buffer of a layer of the lead hall: shown under commit_buf, lost by a disable
(R86, R205, R209). -/
def Dev.applyBuf (d : Dev) (rd : View) (h n : Nat) : Dev :=
  let act := d.actv
  let was := leadsGang act h && layerOn act h n
  if !layerOn rd h n then (d.put (F.LAYER_STATUS.no_buffer h n) 1).withdrawEntry h n
  else
    let d := if was then d else d.put (F.LAYER_STATUS.no_buffer h n) 1
    if n = 32 then
      (if !was ∨ fv act (F.BAL_CTL.image h) ≠ fv rd (F.BAL_CTL.image h) then d.showImage h (fv rd (F.BAL_CTL.image h)) else d)
    else if fv rd (F.FLIP_CTL.commit_buf h n) = 1 ∧ (!was ∨ banked act h n ≠ banked rd h n) then
      let b := banked rd h n
      let d := d.setLayer h n { d.layer h n with b0 := b.1, b1 := b.2.1, b2 := b.2.2 }
      (((d.put (F.LAYER_STATUS.no_buffer h n) 0).bump (F.FLIPS.count h n)).withdrawEntry h n).put (F.FLIP_STATUS.withdrawn h n) 1
    else d

/-- Fallback and fault fill that mismatches asked for are latched at the decision (R213). One that is latched wins over an image or a flip
that takes effect at the very same tick: the manual does not say which does (DESIGN CHOICE, log 156). -/
def Dev.balLatch (d : Dev) (h : Nat) : Dev :=
  let v := d.hall h
  d.setHall h { v with fallTick := v.fallTick || v.fallNext, fillTick := v.fillTick || v.fillNext, fallNext := false, fillNext := false }

/-- At the tick that the decision was for, fallback shows image 3 and counts its mismatches afresh, and fault fill its colour
(R213). -/
def Dev.balFallback (d : Dev) (h : Nat) : Dev :=
  let v := d.hall h
  let d := if v.fallTick then
      let d := (d.put (F.BAL_STATUS.shown h) 3).put (F.LAYER_STATUS.no_buffer h 32) 0
      let d := ((d.put (F.BAL_STATUS.fallback h) 1).bump (F.BAL_FALLBACKS.count h)).put (F.BAL_STATUS.run h) 0
      d.raiseHall h 20
    else d
  let d := if v.fillTick then ((d.put (F.BAL_STATUS.fault_fill h) 1).raiseHall h 21) else d
  d.setHall h { d.hall h with fallTick := false, fillTick := false }

/-- Whether a layer is frozen at the next tick. -/
def Dev.frozenNext (d : Dev) (c h n : Nat) : Bool := bitOf (d.nextSteps c h n) 2 == 1

/-- The members of a group at a tick, those that take part (R206). -/
def Dev.groupMembers (d : Dev) (c k h g : Nat) : List Nat :=
  let rd := d.viewFor c k
  (List.range 32).filter fun n =>
    takesSome rd (d.stepsFor c k h n) c h n && fv rd (F.LAYER_CTL.atomic_group h n) == g

/-- Whether a local evaluation holds a group at a tick (R206). -/
def Dev.groupStops (d : Dev) (c k h g : Nat) : Bool :=
  (d.groupMembers c k h g).any fun n =>
    match (d.layer h n).entry with
    | some e => !d.decideReady c k h n e || bitOf (d.stepsFor c k h n) 2 == 1
    | none => false

/-- A tree group at a tick (R268). -/
def Dev.treeGroup (d : Dev) (g k : Nat) : TreeGroup :=
  (d.casc.groups.find? fun v => v.group == g && v.tick == k).getD
    { group := g, tick := k, counted := 0, ready := true, sent := false, go := none }

/-- Whether a group is held at the next tick: a tree group also without a GROUP_GO to flip (R268). -/
def Dev.groupHeld (d : Dev) (rd : View) (c h g : Nat) : Bool :=
  d.groupStops c (d.nextNumber c) h g ||
    (8 ≤ g && fv rd F.CASC_CTL.enable == 1 && (d.treeGroup g (d.nextNumber c)).go != some true)

/-- An entry that is not taken at a decision: it may time out (R207). -/
def Dev.missEntry (d : Dev) (rd : View) (h n : Nat) (e : Entry) : Dev :=
  let k := e.misses + 1
  let limit := fv rd (F.FENCE_TIME.timeout h n)
  let out := limit != 0 && limit ≤ k && !e.timedOut
  let d := d.setLayer h n { d.layer h n with entry := some { e with misses := k, timedOut := e.timedOut || out } }
  if out then
    let d := ((d.put (F.FLIP_STATUS.timed_out h n) 1).bump (F.FENCE_TIMEOUTS.count h)).raiseHall h 18
    if fv rd (F.FLIP_CTL.timeout_drop h n) = 1 then d.dropEntry h n else d
  else d

/-- The first NOT_READY or EMPTY_TICKS of a tick (R217). -/
def Dev.layerNotReady (d : Dev) (c h : Nat) : Dev := d.once (markOf c (128 + 32 * h + 17)) fun d => d.raiseHall h 17

/-- A layer was not ready at a decision; one whose visible rectangle is empty is not counted (R66, R204). -/
def Dev.notReady (d : Dev) (rd : View) (c h n : Nat) (r : FieldRef) : Dev :=
  if visEmpty rd h n then d else (d.bump r).layerNotReady c h

/-- The decision of one layer (R204), and whether it flips. `held` says which groups are held. The decision that latches the fallback
of the balustrade takes no flip of it (R213). -/
def Dev.decideLayer (d : Dev) (rd : View) (c h n : Nat) (held : List Nat) : Dev × Bool :=
  let l := d.layer h n
  let d := d.put (F.FLIP_STATUS.group_held h n) 0
  if !layerOn rd h n then (d.withdrawEntry h n, false)
  else if !takesSome rd (d.nextSteps c h n) c h n || (n == 32 && (d.hall h).fallTick) then (d, false)
  else
    let g := if n = 32 then 0 else fv rd (F.LAYER_CTL.atomic_group h n)
    let r : Dev × Bool :=
      match l.entry with
      | none =>
        (if d.frozenNext c h n then d.notReady rd c h n (F.NOT_READY.count h n) else d, false)
      | some e =>
        if d.frozenNext c h n || !d.decideReady c (d.nextNumber c) h n e then
          ((d.missEntry rd h n e).notReady rd c h n (F.NOT_READY.count h n), false)
        else if held.contains g then
          let d := d.setLayer h n { l with entry := some { e with misses := 0 } }
          ((d.put (F.FLIP_STATUS.group_held h n) 1).bump (F.GROUP_HELD.count h n), false)
        else
          let d := d.dropEntry h n
          let d := if n = 32 then d.showImage h e.image
            else (d.setLayer h n { d.layer h n with b0 := e.b0, b1 := e.b1, b2 := e.b2 }).put (F.LAYER_STATUS.no_buffer h n) 0
          (d.bump (F.FLIPS.count h n), true)
    if r.1.is (F.LAYER_STATUS.no_buffer h n) then (r.1.notReady rd c h n (F.EMPTY_TICKS.count h n), r.2) else r

/-- A layer has been decided for tick `k`: what was latched for it is spent. -/
def Layer.decideDone (l : Layer) (k now : Nat) : Layer :=
  { l with decided := some now, entry := l.entry.map fun e => { e with judged := e.judged.filter fun j => j.tick != k } }

/-- What an application does to the buffers of a canvas, before the decision of the same tick (R205). -/
def Dev.applyBufs (d : Dev) (rd : View) (c : Nat) : Dev :=
  match leadOfCanvas rd c with
  | some h => (List.range 33).foldl (fun d n => d.applyBuf rd h n) d
  | none => d

/-- The decision for the next tick of a canvas (R204). -/
def Dev.bufDecide (d : Dev) (rd : View) (c : Nat) : Dev :=
  match leadOfCanvas rd c with
  | none => d
  | some h =>
    let d := d.balLatch h
    let held := (List.range 16).filter fun g => g != 0 && d.groupHeld rd c h g
    let r := (List.range 33).foldl (fun (r : Dev × Nat) n =>
      let x := r.1.decideLayer rd c h n held
      (x.1.setLayer h n ((x.1.layer h n).decideDone (d.nextNumber c) d.now), r.2 + b2n x.2)) (d, 0)
    let d := (r.1.bump (F.FLIP_DECIDED.count h)).put (F.FLIP_LAYERS.layers h) r.2
    if r.2 = 0 then d else d.raiseHall h 16

end Sys2Proof.Machine
end

