-- ==== Sys2Proof/Machine/CheckUnits.lean ====
section
/-! DEFINITION. The check units: the CRC engine (R432, R433), regions with their carry rule (R434, R436, R442), comparison
(R438, R439, R441), the balustrade's verification (R211, R212) and the bytes of a canvas tap. -/

namespace Sys2Proof.Machine

/-! ## The engine -/

/-- The CRC parameters in force of a unit (R432). -/
structure CuPar where
  w      : Nat
  poly   : Nat
  init   : Nat
  xor    : Nat
  refin  : Bool
  refout : Bool
deriving DecidableEq, Repr

/-- CRC-32C, the reset parameters. -/
def CuPar.crc32c : CuPar := ⟨32, 0x1EDC6F41, 0xFFFFFFFF, 0xFFFFFFFF, true, true⟩

/-- CRC-64/XZ, the parameters of the Alcove's units (R478). -/
def CuPar.crc64xz : CuPar := ⟨64, 0x42F0E1EBA9EA3693, 2 ^ 64 - 1, 2 ^ 64 - 1, true, true⟩

def cuPar (rd : View) (u : Nat) : CuPar :=
  if 56 ≤ u then .crc64xz
  else ⟨cuWidth rd u, cuPoly rd u, cuInit rd u, cuXor rd u, fv rd (F.CU_CTL.refin u) == 1, fv rd (F.CU_CTL.refout u) == 1⟩

/-- One shift of the running value (R433). -/
def CuPar.shift (p : CuPar) (v : Nat) : Nat :=
  if bitOf v (p.w - 1) = 1 then (v * 2 ^^^ p.poly) % 2 ^ p.w else v * 2 % 2 ^ p.w

/-- One byte of the stream (R433). -/
def CuPar.byte (p : CuPar) (v : Nat) (b : Byte) : Nat :=
  let x := if p.refin then reflectBits 8 b.toNat else b.toNat
  (List.range 8).foldl (fun v _ => p.shift v) (v ^^^ (x <<< (p.w - 8)))

def CuPar.absorb (p : CuPar) (v : Nat) (bs : List Byte) : Nat := bs.foldl p.byte v

/-- The result of a running value (R433). -/
def CuPar.result (p : CuPar) (v : Nat) : Nat := (if p.refout then reflectBits p.w v else v) ^^^ p.xor

/-! ## What a unit follows -/

/-- The lead hall whose balustrade verification names a unit (R211). -/
def Dev.balOf (d : Dev) (u : Nat) : Option Nat := ((verifications d.actv).find? fun v => v.2 == u).map (·.1)

/-- Whether a unit follows its stream: enabled under the active generation, named by a verification, or an Alcove unit with
an exhibit (R446). -/
def Dev.cuActive (d : Dev) (u : Nat) : Bool :=
  if 56 ≤ u then (d.cu u).alc.isSome else cuOn d.actv u || (d.balOf u).isSome

/-- Whether a region of a unit is in progress. -/
def Dev.cuIn (d : Dev) (u : Nat) : Bool := if 56 ≤ u then (d.cu u).inAlc else d.is (F.CU_STATUS.in_region u)

/-- The kind of tap; 6 stands for a verification (R211). -/
def Dev.cuKind (d : Dev) (u : Nat) : Nat :=
  if 56 ≤ u then 2 else if (d.balOf u).isSome then 6 else d.act (F.CU_TAP.kind u)

/-- The instance of the tap: a canvas for a verification. -/
def Dev.cuIndex (d : Dev) (u : Nat) : Nat :=
  match (d.cu u).alc with
  | some (w, _, _) => w
  | none =>
    match d.balOf u with
    | some h => hallCanvas d.actv h
    | none => d.act (F.CU_TAP.index u)

/-- A unit in a region absorbs bytes. -/
def Dev.cuAbsorb (d : Dev) (u : Nat) (bs : List Byte) : Dev :=
  if d.cuIn u then d.setCu u { d.cu u with v := (cuPar d.actv u).absorb (d.cu u).v bs } else d

/-- The region of a unit lacks bytes (R436). -/
def Dev.cuShort (d : Dev) (u : Nat) : Dev := if d.cuIn u then d.setCu u { d.cu u with short := true } else d

/-- The units of the module that follow a receiver, in a region or between regions (R434). -/
def Dev.cusAfter (d : Dev) (r : Nat) : List Nat :=
  (List.range 56).filter fun u => d.cuActive u && d.cuKind u == 4 && d.cuIndex u == r

/-- The units in a region that follow an instance. -/
def Dev.cusOn (d : Dev) (kind index : Nat) : List Nat :=
  (List.range 64).filter fun u => d.cuIn u && d.cuKind u == kind && d.cuIndex u == index

/-! ## Ingest taps -/

/-- The first number of the frame in progress, where it is known: the packet of its first pixel has come, or the last of the frame
before (R435; DEDUCED, log 140). -/
def Recv.first? (v : Recv) : Option Nat := if v.known then some v.firstSeq else none

/-- How far a sequence number lies above another (R308). -/
def seqAbove (a b : Nat) : Nat := (a + 2 ^ 32 - b) % 2 ^ 32

/-- A packet among those held back, in ascending extended sequence number (R435). -/
def holdPk (seq : Nat) (data : List Byte) (l : List (Nat × List Byte)) : List (Nat × List Byte) :=
  (l.filter fun p => 2 ^ 31 ≤ seqAbove p.1 seq) ++ [(seq, data)] ++
    l.filter fun p => 0 < seqAbove p.1 seq && seqAbove p.1 seq < 2 ^ 31

/-- The packets that no missing lower number holds back: from the first number of the frame on. -/
def readyPk (next : Nat) : List (Nat × List Byte) → List Byte × Nat × List (Nat × List Byte)
  | [] => ([], next, [])
  | p :: l =>
    if p.1 = next then
      let r := readyPk ((next + 1) % 2 ^ 32) l
      (p.2 ++ r.1, r.2)
    else ([], next, p :: l)

/-- A unit in the region of a frame still open takes the packets that are due, and holds back the others: all of them while the
frame's first number is not known (R435). -/
def Dev.cuTakeDue (d : Dev) (u : Nat) (first : Option Nat) : Dev :=
  let s := d.cu u
  match s.nextSeq.or first with
  | none => d
  | some n =>
    if !d.cuIn u || s.closed then d
    else
      let x := readyPk n s.heldPk
      (d.setCu u { s with heldPk := x.2.2, nextSeq := some x.2.1 }).cuAbsorb u x.1

/-- The frame of a unit's region is complete: what was held back is absorbed and the region takes no further packet (R435,
R436). -/
def Dev.cuCloses (d : Dev) (u : Nat) (lost : Bool) : Dev :=
  let s := d.cu u
  let d := (d.setCu u { s with heldPk := [], nextSeq := none, closed := true, heldEnd := none }).cuAbsorb u (s.heldPk.flatMap (·.2))
  if lost then d.cuShort u else d

/-- A new frame of a receiver: the units that follow it hold its packets until its region starts, unless it has started
already. -/
def Dev.cuFrame (d : Dev) (r : Nat) : Dev :=
  (d.cusAfter r).foldl (fun d u =>
    if d.cuIn u && !(d.cu u).closed then d else d.setCu u { d.cu u with heldPk := [], nextSeq := none, heldEnd := none }) d

/-- An accepted packet of the frame in progress, whose first number is `first` where it is known (R434, R435). -/
def Dev.cuPacket (d : Dev) (r : Nat) (first : Option Nat) (seq : Nat) (data : List Byte) : Dev :=
  (d.cusAfter r).foldl (fun d u => (d.setCu u { d.cu u with heldPk := holdPk seq data (d.cu u).heldPk }).cuTakeDue u first) d

/-- The frame of a receiver is complete (R309). -/
def Dev.cuFrameEnd (d : Dev) (r : Nat) (lost : Bool) : Dev :=
  (d.cusAfter r).foldl (fun d u =>
    if d.cuIn u && !(d.cu u).closed then d.cuCloses u lost else d.setCu u { d.cu u with heldEnd := some lost }) d

/-- The frame of a receiver is given up (R310): what is held back is never absorbed and the region lacks it (R436). -/
def Dev.cuFrameLost (d : Dev) (r : Nat) : Dev :=
  (d.cusAfter r).foldl (fun d u =>
    let d' := d.setCu u { d.cu u with heldPk := [], nextSeq := none, heldEnd := none, closed := true }
    if d.cuIn u && !(d.cu u).closed then d'.cuShort u else d') d

/-- The region of an ingest unit starts with the packets of its frame that came in before it. -/
def Dev.cuHeldIn (d : Dev) (u : Nat) : Dev :=
  match (d.cu u).heldEnd with
  | some lost => d.cuCloses u lost
  | none => d.cuTakeDue u (d.recv (d.cuIndex u)).first?

/-! ## Canvas taps -/

/-- The composed pieces of a row of a hall. -/
def galKey (h y : Nat) : Nat := h * 65536 + y
def Dev.rowPix (d : Dev) (h y : Nat) : List Pix := Tab.get (fun _ => []) d.gal (galKey h y)

/-- The Gallery value of a channel (R136). -/
def galValue (e : F32) : Nat := quantRne 16 e

/-- The bytes of a pixel at a stage: D as binary16, or the Gallery value (R211, R434). -/
def pixBytes (stage : Nat) (p : Pix) : List Byte :=
  if stage = 0 then p.d.flatMap fun x => bytesLE 2 (f16OfF32 x) else p.e.flatMap fun x => bytesLE 2 (galValue x)

/-- The bytes of a rectangle of a canvas in raster order over the pixels composed, and whether a killed hall holds some of
its pixels (R434, R436). -/
def Dev.rectBytes (d : Dev) (h0 x y w h stage : Nat) : List Byte × Bool :=
  let rd := d.actv
  let halls := (gangOf rd h0).map fun k => (k, stripeOf rd k)
  ((List.range h).flatMap fun j => halls.flatMap fun k =>
      let a := max x k.2.1
      let b := min (x + w) (k.2.1 + k.2.2)
      (((d.rowPix k.1 (y + j)).drop (a - k.2.1)).take (b - a)).flatMap (pixBytes stage),
    halls.any fun k => d.is (F.HALL_STATUS.killed k.1) && max x k.2.1 < min (x + w) (k.2.1 + k.2.2))

/-- The bytes a canvas tap or verification takes of a composed phase. -/
def Dev.cuCanvasBytes (d : Dev) (u : Nat) : List Byte × Bool :=
  match d.balOf u with
  | some h0 =>
    let v := visRect d.actv h0 32
    d.rectBytes h0 v.1 v.2.2.1 (v.2.1 - v.1) (v.2.2.2 - v.2.2.1) 0
  | none =>
    match leadOfCanvas d.actv (d.act (F.CU_TAP.index u)) with
    | some h0 =>
      d.rectBytes h0 (d.act (F.CU_RECT_XY.x u)) (d.act (F.CU_RECT_XY.y u)) (d.act (F.CU_RECT_WH.w_m1 u) + 1)
        (d.act (F.CU_RECT_WH.h_m1 u) + 1) (d.act (F.CU_TAP.stage u))
    | none => ([], false)

/-- The open regions of a canvas whose rectangle holds pixels of a killed hall lack them (R436). -/
def Dev.cuKilled (d : Dev) (c : Nat) : Dev :=
  (List.range 56).foldl (fun d u =>
    if d.cuIn u && (d.cuKind u == 3 || d.cuKind u == 6) && d.cuIndex u == c && (d.cuCanvasBytes u).2 then d.cuShort u
    else d) d

/-- A unit on a canvas takes the phase just composed. -/
def Dev.cuCanvas (d : Dev) (u : Nat) : Dev :=
  let r := d.cuCanvasBytes u
  let d := d.cuAbsorb u r.1
  if r.2 then d.cuShort u else d

/-- Whether a unit follows canvas `c`. -/
def Dev.cuOnCanvas (d : Dev) (u c : Nat) : Bool := (d.cuKind u == 3 || d.cuKind u == 6) && d.cuIndex u == c

/-- The units in a region of phase `p` of a canvas take the rows composed. -/
def Dev.cuComposed (d : Dev) (c p : Nat) : Dev :=
  (List.range 56).foldl (fun d u =>
    if d.cuIn u && d.cuOnCanvas u c && (d.cu u).phase == p then d.cuCanvas u else d) d

/-! ## Regions -/

/-- The number of the module tick (R568): the tick of the canvas that serves it, else the whole millisecond of TC. -/
def Dev.modTick (d : Dev) : Nat :=
  match d.modCanvas with
  | some c => (d.canvas c).tick
  | none => d.now / 1000000

/-- The tick that a region of a unit belongs to; for an ingest tap, whose stream has no canvas, the module tick at the region
start. DESIGN CHOICE, log 120. -/
def Dev.cuTick (d : Dev) (u : Nat) : Nat :=
  match d.cuKind u with
  | 1 =>
    match (winsOn d.actv).find? fun w => (winLanes d.actv w).contains (d.cuIndex u) with
    | some w => (d.canvas (winCanvas d.actv w)).tick
    | none => 0
  | 2 => (d.canvas (winCanvas d.actv (d.cuIndex u))).tick
  | 3 => (d.canvas (d.cuIndex u)).tick
  | 6 => (d.canvas (d.cuIndex u)).tick
  | 4 => d.modTick
  | _ => 0

/-- A region starts: V is loaded or kept (R433, R442, R443); the instant of its tick is that of the canvas of an Alcove unit's window
(R493). A canvas unit whose phase is composed already takes it,
an ingest unit the packets of its frame that are in. -/
def Dev.cuStart (d : Dev) (u p tick : Nat) : Dev :=
  if !d.cuActive u then d
  else
    let par := cuPar d.actv u
    let s := d.cu u
    let carry := u < 56 && d.cuKind u != 6 && d.actIs (F.CU_CTL.carry u)
    let v := match s.load with
      | some x => x
      | none => if carry && !s.fresh then s.v else par.init
    let s := { s with
      v := v % 2 ^ par.w, phase := p, short := false, back := false, tick := tick, load := none, fresh := false,
      closed := false, inAlc := true, time := d.tickTime (winCanvas d.actv (d.cuIndex u)) tick }
    let d := d.setCu u s
    let d := if 56 ≤ u then d else (d.put (F.CU_STATUS.in_region u) 1).put (F.CU_STATUS.frozen u) 0
    if (d.cuKind u == 3 || d.cuKind u == 6) && (d.canvas (d.cuIndex u)).composed == some p then d.cuCanvas u
    else if u < 56 && d.cuKind u == 4 then d.cuHeldIn u
    else d

/-- The words of RESULT (R444). -/
def resultWords (r phase tick : Nat) (matched suspect short back : Bool) : List Word :=
  [ w32 r, w32 (r / 2 ^ 32),
    w32 (phase + b2n matched * 8 + b2n suspect * 16 + b2n short * 32 + b2n back * 64 + 128), w32 tick ]

/-- A verified region ends (R212, R213): the mismatch that reaches the limit withdraws the pending flip and asks for the fallback. -/
def Dev.balVerify (d : Dev) (h : Nat) (matched : Bool) : Dev :=
  if matched then d.put (F.BAL_STATUS.run h) 0
  else
    let d := (d.bump (F.BAL_MISMATCHES.count h)).raiseHall h 19
    if d.is F.CFG_STATUS.mismatch then d.bump (F.BAL_REF_SUSPECT.count h)
    else
      let run := min 15 (d.get (F.BAL_STATUS.run h) + 1)
      let d := d.put (F.BAL_STATUS.run h) run
      if run < d.act (F.BAL_CTL.fallback_after h) ∨ d.is (F.BAL_STATUS.fault_fill h) then d
      else
        let v := d.hall h
        if d.is (F.BAL_STATUS.fallback h) ∨ d.get (F.BAL_STATUS.shown h) = 3 then d.setHall h { v with fillNext := true }
        else (d.setHall h { v with fallNext := true }).dropEntry h 32

/-- The expected value of a region (R211, R438). -/
def Dev.cuExpected (d : Dev) (u : Nat) : Nat :=
  match d.balOf u with
  | some h =>
    let k := d.get (F.BAL_STATUS.shown h)
    va48 (d.act (F.BAL_EXP_LO.exp h k)) (d.act (F.BAL_EXP_HI.exp h k))
  | none =>
    let p := if d.cuKind u = 4 ∨ d.cuKind u = 5 then 0 else (d.cu u).phase
    va48 (d.act (F.CU_EXP_LO.exp u p)) (d.act (F.CU_EXP_HI.exp u p))

/-- A region of a unit of the module ends (R436, R438, R439, R441, R444). An incomplete region beyond the declared count is
counted as both. -/
def Dev.cuEnd (d : Dev) (u : Nat) : Dev :=
  if 56 ≤ u || !d.cuIn u then d
  else
    let par := cuPar d.actv u
    let s := d.cu u
    let r := par.result s.v
    let kind := d.cuKind u
    let matched := r == d.cuExpected u % 2 ^ par.w
    let suspect := d.is F.CFG_STATUS.mismatch
    let above := (kind == 4 || kind == 5) && d.act (F.CU_DECL.per_tick u) ≤ s.ended
    let cmp := !above && !s.short && (kind == 6 || d.actIs (F.CU_CTL.compare u))
    let d := d.setCu u { s with
      ended := s.ended + 1, inAlc := false,
      result := resultWords r s.phase s.tick (cmp && matched) (cmp && !matched && suspect) s.short s.back }
    let d := d.put (F.CU_STATUS.in_region u) 0
    let d := if s.short then (d.bump (F.CU_INCOMPLETE.count u)).cuEvt u F.CU_EVT.incomplete else d
    let d := if above then (d.bump (F.CU_SKIPPED.count u)).cuEvt u F.CU_EVT.skipped else d
    if !cmp then d
    else
      match d.balOf u with
      | some h => d.balVerify h matched
      | none =>
        let d := d.bump (F.CU_REGIONS.count u)
        if matched then d.bump (F.CU_MATCHES.count u)
        else
          let d := (d.bump (F.CU_MISMATCHES.count u)).cuEvt u F.CU_EVT.mismatch
          if suspect then (d.bump (F.CU_REF_SUSPECT.count u)).cuEvt u F.CU_EVT.ref_suspect else d

/-- A unit's region in progress ends without a comparison at a disable or a change of its fields; a disable freezes V
(R436, R445). -/
def Dev.cuAbandon (d : Dev) (u : Nat) (freeze : Bool) : Dev :=
  let d := if d.cuIn u then
      let par := cuPar d.actv u
      let s := d.cu u
      let d := d.setCu u { s with inAlc := false, result := resultWords (par.result s.v) s.phase s.tick false false true s.back }
      ((d.put (F.CU_STATUS.in_region u) 0).bump (F.CU_INCOMPLETE.count u)).cuEvt u F.CU_EVT.incomplete
    else d
  if freeze then d.put (F.CU_STATUS.frozen u) 1 else d

/-- V and a value that waits for the next region are w bits wide (R433): what a change of the width leaves of them. -/
def Dev.cuCut (d : Dev) (u : Nat) : Dev :=
  let s := d.cu u
  let k := 2 ^ (cuPar d.actv u).w
  if s.v < k ∧ s.load.all (· < k) then d else d.setCu u { s with v := s.v % k, load := s.load.map (· % k) }

/-- The words of RUNNING (R443). -/
def Dev.cuRunning (d : Dev) (u : Nat) : List Word :=
  [w32 (d.cu u).v, w32 ((d.cu u).v / 2 ^ 32), w32 (b2n (d.cuIn u)), 0]

/-- A value written to RUNNING between regions, of which the register holds the low w bits (R433), applies from the next region
start (R443). -/
def Dev.cuLoad (d : Dev) (u v : Nat) : Dev :=
  let v := v % 2 ^ (cuPar d.actv u).w
  (d.setCu u { d.cu u with v := v, load := some v }).put (F.CU_STATUS.frozen u) 0

end Sys2Proof.Machine
end

