-- ==== Sys2Proof/Machine/Mem.lean ====
section
/-! DEFINITION. HBM and translation: slots and the address map (R356 to R360), reads and writes of bursts with
read-modify-write and poison (R359, R363, R364, R369), the page walk with its caches (R383 to R388) and the fault
records (R392). -/

namespace Sys2Proof.Machine

/-! ## The physical space -/

/-- The capacity of a PC (R356) and the number of rows of a bank. -/
def Dev.pcBytes (d : Dev) : Nat := if d.h48 then 805306368 else 402653184
def Dev.pcRows (d : Dev) : Nat := if d.h48 then 16384 else 8192

/-- The slots S and the end of the physical space (R358). -/
def Dev.slots (d : Dev) : Nat := d.get F.CAPACITY.slots
def Dev.paEnd (d : Dev) : Nat := d.slots * d.pcBytes

/-- Where a physical address lies: slot, offset within the PC, row, bank and burst (R360). -/
structure Loc where
  slot : Nat
  ofs  : Nat
  row  : Nat
  bank : Nat
  col  : Nat
deriving DecidableEq, Repr

/-- The granule of an order (R360). -/
def granule (order : Nat) : Nat := if order = 0 then 256 else if order = 2 then 65536 else 2048

/-- Where an offset of a slot lies. -/
def locIn (order slot o : Nat) : Loc :=
  let q := o / 1024
  let row := q / 48
  { slot := slot, ofs := o, row := row, bank := (if order = 3 then (q + 5 * row) % 48 else q % 48), col := o / 32 % 32 }

/-- The address map of R360 for an order and S slots. -/
def mapPa (order s a : Nat) : Loc :=
  let g := a / granule order
  locIn order (g % s) (g / s * granule order + a % granule order)

/-- The physical address of an offset of a slot: the inverse of `mapPa`. -/
def paOf (order s slot ofs : Nat) : Nat :=
  (ofs / granule order * s + slot) * granule order + ofs % granule order

def Dev.locOf (d : Dev) (a : Nat) : Loc := mapPa (d.get F.MAP_CTL.order) d.slots a

/-- The state and slot of a PC, and whether it holds its slot (R380). -/
def Dev.pcState (d : Dev) (p : Nat) : Nat := d.get (F.PC_STATE.state p)
def Dev.holdsSlot (d : Dev) (p : Nat) : Bool :=
  let s := d.pcState p
  s == 1 || s == 3 || s == 6 || s == 7

/-- The PC behind a slot. -/
def Dev.pcOfSlot (d : Dev) (slot : Nat) : Option Nat :=
  (List.range 64).find? fun p => d.holdsSlot p && d.get (F.PC_STATE.slot p) == slot

/-- The PC that a request to an offset of a slot goes to: below the copy pointer of a migration, its target (R375). -/
def Dev.pcFor (d : Dev) (slot ofs : Nat) : Option Nat :=
  match (List.range 2).findSome? fun s => (d.migrOf s).bind fun m =>
      if m.started && m.slot == slot && ofs < m.ptr then some m.target else none with
  | some p => some p
  | none => d.pcOfSlot slot

/-- The PC that serves a physical address. -/
def Dev.pcOfPa (d : Dev) (a : Nat) : Option Nat :=
  if d.paEnd ≤ a then none else let l := d.locOf a; d.pcFor l.slot l.ofs

/-- Whether a PC, or the PC that serves an address, has its traffic held: the PLL of its stack has lost lock (R456). -/
def Dev.pcHeld (d : Dev) (pc : Nat) : Bool := (d.pll (2 + pc / 32)).lost
def Dev.paHeld (d : Dev) (a : Nat) : Bool := (d.pcOfPa a).any d.pcHeld

/-- Whether a physical address lies in a DEAD PC's part of its slot (R374). -/
def Dev.deadPa (d : Dev) (a : Nat) : Bool :=
  (List.range 64).any (fun p => d.pcState p == 6) &&
    (let l := d.locOf a
     match d.pcFor l.slot l.ofs with
     | some p => d.pcState p == 6
     | none => false)

/-- Whether a burst by number reads as uncorrectable: poisoned (R364) or in a DEAD PC (R374). -/
def Dev.burstBad (d : Dev) (b : Nat) : Bool := d.bad.contains b || d.deadPa (b * 32)

/-- A byte of HBM: none outside the space, in an uncorrectable burst or in a DEAD PC. An unlisted byte reads 0 (log 11). -/
def Dev.readPa (d : Dev) (a : Nat) : Option Byte :=
  if d.paEnd ≤ a then none
  else if d.burstBad (a / 32) then none
  else some (Tab.get (fun _ => 0) d.hbm a)

/-- Several bytes. -/
def Dev.readPaN (d : Dev) (a n : Nat) : Option (List Byte) := (List.range n).mapM fun i => d.readPa (a + i)

/-- Whether a 64-byte unit reads without an uncorrectable burst. -/
def Dev.unitOk (d : Dev) (a : Nat) : Bool :=
  let u := a / 64 * 64
  u < d.paEnd && !d.burstBad (u / 32) && !d.burstBad (u / 32 + 1)

/-- The canonical form of HBM: addresses strictly rising, no byte listed that equals what an unlisted one reads as. -/
def Memory.wf (m : Tab Byte) : Bool := Tab.wf (fun _ => 0) m

/-! ## The counts of a burst (R369, R373, R379) -/

/-- ECC_LAST (R379). -/
def Dev.setEcc (d : Dev) (pc : Nat) (l : Loc) (cls : Nat) (ue scrub migr : Bool) (fix : List (Nat × Nat)) : Dev :=
  let p (i : Nat) : Nat := ((fix[i]?).map (·.1)).getD 63
  let v (i : Nat) : Nat := ((fix[i]?).map (·.2)).getD 0
  { d with eccLast :=
      [w32 (pc + cls * 2 ^ 6 + b2n ue * 2 ^ 8 + b2n scrub * 2 ^ 9 + b2n migr * 2 ^ 10 + fix.length * 2 ^ 11 + d.get F.HBM_CTL.ecc_mode * 2 ^ 13),
       w32 (l.row + l.bank * 2 ^ 16 + l.col * 2 ^ 24), w32 (p 0 + p 1 * 2 ^ 8 + v 0 * 2 ^ 16 + v 1 * 2 ^ 24), w32 (nsOf d.now)] }

/-- Whether a PC is in service (R375, R380): one that is active or being retrained, and the target of a migration in place of its source. -/
def Dev.inService (d : Dev) (p : Nat) : Bool := d.pcState p == 1 || d.pcState p == 4 || d.pcState p == 7

/-- A PC meets the sparing policy for good by a failed retraining (R373). -/
def Dev.meetsPolicy (d : Dev) (pc : Nat) : Dev := if d.meets.contains pc then d else { d with meets := d.meets ++ [pc] }

/-- The corrected bursts of a PC within the last second (R373). -/
def Dev.ceRecent (d : Dev) (pc : Nat) : List Nat :=
  (Tab.get (fun _ => []) d.ceTimes pc).filter fun t => d.now < t + 1000000000

/-- A corrected burst is counted; each that finds a PC with a slot, or with one to come, over its limit raises HBM_CE_LIMIT (R373, R382). -/
def Dev.countCe (d : Dev) (pc : Nat) : Dev :=
  let d := d.bump (F.PC_CE.count pc)
  let ts := d.now :: d.ceRecent pc
  let d := { d with ceTimes := Tab.set (fun _ => []) d.ceTimes pc ts }
  if d.get F.SPARE_POLICY.ce_limit < ts.length ∧ (d.holdsSlot pc || d.inService pc) then d.raise 577 else d

/-- An uncorrectable burst is counted; the sparing policy hears of it unless it is of a read-modify-write (R373). -/
def Dev.countUe (d : Dev) (pc : Nat) (rmw : Bool) : Dev :=
  let d := (d.bump (F.PC_UE.count pc)).raise 578
  if !rmw && (d.holdsSlot pc || d.inService pc) && !d.ueSeen.contains pc then { d with ueSeen := d.ueSeen ++ [pc] } else d

/-- A read of an uncorrectable burst at an address is counted on the PC that serves it (R369). -/
def Dev.ueBurst (d : Dev) (pa cls : Nat) (rmw : Bool) : Dev :=
  match d.pcOfPa pa with
  | none => d
  | some pc => (d.countUe pc rmw).setEcc pc (d.locOf pa) cls true false false []

/-! ## The PC queues (R362, R363, R365) -/

/-- The effective class of a request: RT once promoted, and that of a read that waits for it where it is higher. -/
def HReq.eff (r : HReq) : Nat := if r.promo then 0 else min r.cls r.lent

/-- Whether a request must follow an older one: they touch the same bytes, one of them is a write, and the older one has not been
issued. -/
def HReq.behind (r o : HReq) : Bool :=
  r.pc == o.pc && r.pa == o.pa && (r.write || o.write) && !o.issued && r.ens.any o.ens.contains

/-- Writes take the effective class of the reads that wait for them. -/
def lendClasses (q : List HReq) : List HReq :=
  q.zipIdx.map fun x =>
    if x.1.write then
      { x.1 with lent := ((q.drop (x.2 + 1)).filter fun r => !r.write && r.behind x.1).foldl (fun m r => min m r.eff) 3 }
    else x.1

/-- The request of a PC that a command slot picks: of those that no older one holds back and whose next command can issue (`mask`
clear), the oldest of the highest effective class. -/
def pickIssue (q : List HReq) (pc mask : Nat) : Option (HReq × Nat) :=
  (q.zipIdx.filter fun x =>
    x.1.pc == pc && !x.1.issued && bitOf mask x.2 == 0 && !(q.take x.2).any x.1.behind).foldl (fun b x =>
      match b with
      | some y => if x.1.eff < y.1.eff then some x else some y
      | none => some x) none

/-- A command slot: a write leaves the queue, a read is on its way. Which requests' commands can issue is a free value (log 43). -/
def Dev.issueOne (d : Dev) (pc : Nat) : Dev :=
  match pickIssue d.pcq pc d.free with
  | some (r, i) => { d.drawn with pcq := if r.write then d.pcq.eraseIdx i else d.pcq.set i { r with issued := true } }
  | none => d.drawn

/-- The refreshes owed to banks of a PC that have no request queued are done (R365). -/
def Dev.refreshIdle (d : Dev) (pc : Nat) : Dev :=
  { d with owed := d.owed.filter fun e =>
      e.1 / 64 != pc || d.pcq.any fun r => r.pc == pc && !r.issued && (d.locOf r.pa).bank == e.1 % 64 }

/-- Some command slots of a PC have passed since its queue last changed: the manual does not say how many (log 43). A PLL
that has lost lock holds its stack's traffic (R456). -/
def Dev.issueSome (d : Dev) (pc : Nat) : Dev :=
  let n := (d.pcq.filter fun r => r.pc == pc && !r.issued).length
  if n = 0 || d.pcHeld pc then d
  else ((List.range (n - d.free % (n + 1))).foldl (fun d _ => d.issueOne pc) d.drawn).refreshIdle pc

/-- The writes in a queue that a read of some bytes meets, oldest first. -/
def Dev.queuedWrites (d : Dev) (pc pa : Nat) (ens : List Nat) : List HReq :=
  d.pcq.filter fun r => r.pc == pc && r.write && r.pa == pa && ens.any r.ens.contains

/-- Whether a write covers its whole line. -/
def HReq.full (r : HReq) : Bool := r.write && r.ens.length == 64

/-- A queue entry. -/
def Dev.hreq (d : Dev) (pc pa : Nat) (write : Bool) (ens : List Nat) (cls : Nat) : HReq :=
  { pc := pc, pa := pa, write := write, spec := none, ens := ens, cls := cls, promo := false, lent := 3, issued := false, at' := d.now }

/-- A read of bytes of a unit enters its PC queue: a whole-line write that it meets forwards the line, another one is waited for
(R363). -/
def Dev.readEnter (d : Dev) (pc pa : Nat) (ens : List Nat) (cls : Nat) (spec : Option Ahead) : Dev :=
  let r := { d.hreq pc pa false ens cls with spec := spec }
  match (d.queuedWrites pc pa ens).getLast? with
  | some w =>
    if w.full then d.bump F.FWD_HITS.count
    else { d.bump F.RAW_WAITS.count with pcq := lendClasses (d.pcq ++ [r]) }
  | none => { d with pcq := d.pcq ++ [r] }

/-- The requests of a unit in a PC queue up to the last write that `p` names by itself and its place are issued in their order: the
writes leave, the reads are on their way (R363). -/
def Dev.drainTo (d : Dev) (pc pa : Nat) (p : HReq × Nat → Bool) : Dev :=
  let last := ((d.pcq.zipIdx.filter fun x => x.1.write && p x).getLast?.map (·.2)).getD 0
  let mine (x : HReq × Nat) : Bool := x.1.pc == pc && x.1.pa == pa && x.2 ≤ last
  ({ d with pcq := (d.pcq.zipIdx.filter fun x => !(mine x && x.1.write)).map fun x =>
      if mine x then { x.1 with issued := true } else x.1 }).refreshIdle pc

/-- A read of some bytes of a unit that comes back within the command meets its PC queue (R363): a whole-line write forwards the line,
and the write that it partly overlaps, with all that is older of the unit, has been issued by then, unless the stack's traffic is held
(R456). True when the line was forwarded. -/
def Dev.readThrough (d : Dev) (pa : Nat) (ens : List Nat) : Bool × Dev :=
  match d.pcOfPa pa with
  | none => (false, d)
  | some pc =>
    let d := d.issueSome pc
    match (d.queuedWrites pc pa ens).getLast? with
    | some w =>
      if w.full then (true, d.bump F.FWD_HITS.count)
      else
        let d := d.bump F.RAW_WAITS.count
        (false, if d.pcHeld pc then d
          else d.drainTo pc pa fun r => r.1.pc == pc && r.1.pa == pa && ens.any r.1.ens.contains)
    | none => (false, d)

/-- A write of a unit enters its PC queue: a whole line replaces an unissued earlier one (R363). -/
def Dev.writeEnter (d : Dev) (pc pa cls : Nat) (ens : List Nat) : Dev :=
  let q := if ens.length = 64 then d.pcq.filter fun r => !(r.pc == pc && r.write && r.pa == pa) else d.pcq
  { d with pcq := q ++ [d.hreq pc pa true ens cls] }

/-! ## Writes -/

/-- The class of a request as a number: 0 RT, 1 IS, 2 BE, 3 MT. -/
def clsNat : HbmClass → Nat
  | .rt => 0 | .is => 1 | .be => 2 | .mt => 3

/-- The byte counters of R376. -/
def Dev.classBytes (d : Dev) (cls : Nat) (spec : Bool) (n : Nat) : Dev :=
  let k := if spec then 4 else cls
  { d with classB := Tab.set (fun _ => 0) d.classB k ((Tab.get (fun _ => 0) d.classB k + n) % 2 ^ 64) }

/-- A request unit outside the space (R359). -/
def Dev.paRange (d : Dev) : Dev := (d.bump F.PA_RANGE_ERRORS.count).once (modMark 588) fun d => d.raise 588

/-- Mark a burst uncorrectable, or good again. -/
def Dev.poison (d : Dev) (b : Nat) : Dev := if d.bad.contains b then d else { d with bad := b :: d.bad }
def Dev.unpoison (d : Dev) (b : Nat) : Dev := { d with bad := d.bad.filter (· != b) }

/-- A burst replaced whole holds no data of failed staging any more (R45). -/
def Dev.unstrike (d : Dev) (b : Nat) : Dev := { d with struck := d.struck.filter (· != b) }

/-- The bursts that take some bytes hold data that failed in on-chip SRAM (R43, R45). -/
def Dev.strikePa (d : Dev) (a n : Nat) : Dev :=
  { d with struck := ((List.range ((a + n - 1) / 32 + 1 - a / 32)).map (a / 32 + ·)).filter (fun b => !d.struck.contains b) ++ d.struck }

/-- Whether a 64-byte unit takes bytes from a burst written from failed staging (R45). -/
def Dev.unitStruck (d : Dev) (pa : Nat) : Bool := d.struck.contains (pa / 64 * 2) || d.struck.contains (pa / 64 * 2 + 1)

/-- The migration in whose copied part a burst of the physical space lies, as stack, migration and its number in the slot: `n` bytes
are copied from the start of the slot (R375). -/
def Dev.migrOfBurst (d : Dev) (b : Nat) (n : Migr → Nat) : Option (Nat × Migr × Nat) :=
  let l := d.locOf (b * 32)
  (List.range 2).findSome? fun s => (d.migrOf s).bind fun m =>
    if m.started && m.slot == l.slot && decide (l.ofs < n m) then some (s, m, l.ofs / 32) else none

/-- A burst of the copied part of a slot comes to differ from its source, which keeps what it holds (R375). -/
def Dev.sourceKeeps (d : Dev) (b : Nat) (n : Migr → Nat) : Dev :=
  match d.migrOfBurst b n with
  | none => d
  | some (s, m, k) =>
    if m.kept.any fun x => x.burst == k then d
    else
      let x : Kept :=
        { burst := k, data := (List.range 32).map fun i => Tab.get (fun _ => 0) d.hbm (b * 32 + i), bad := d.bad.contains b,
          struck := d.struck.contains b }
      d.setMigr s (some { m with kept := x :: m.kept })

/-- The requests of a slot go to its source again (R375): its bursts read as it keeps them. -/
def Dev.sourceBack (d : Dev) (m : Migr) : Dev :=
  m.kept.foldl (fun d x =>
    let a := paOf (d.get F.MAP_CTL.order) d.slots m.slot (x.burst * 32)
    let b := a / 32
    let put (l : List Nat) (on : Bool) : List Nat := if on then b :: l.filter (· != b) else l.filter (· != b)
    { d with
      hbm := (x.data.zipIdx.foldl (fun t v => Tab.set (fun _ => 0) t (a + v.2) v.1) d.hbm),
      bad := put d.bad x.bad, struck := put d.struck x.struck }) d

/-- A read-modify-write found an uncorrectable burst (R364). -/
def Dev.rmwPoison (d : Dev) (b : Nat) : Dev :=
  ((d.poison b).bump F.RMW_POISON.count).once (modMark 587) fun d => d.raise 587

/-- Store bytes from an address; none leaves a byte as it stands. -/
def Dev.storeBytes (d : Dev) (a : Nat) (bs : List (Option Byte)) : Dev :=
  { d with hbm := (bs.foldl (fun (m : Tab Byte × Nat) b =>
      match b with
      | some v => (Tab.set (fun _ => 0) m.1 m.2 v, m.2 + 1)
      | none => (m.1, m.2 + 1)) (d.hbm, a)).1 }

/-- Split bytes from an address at multiples of `n`. -/
def splitAt (n : Nat) : Nat → Nat → List (Option Byte) → List (Nat × List (Option Byte))
  | 0, _, _ => []
  | fuel + 1, a, bs =>
    if bs.isEmpty then []
    else
      let k := n - a % n
      (a, bs.take k) :: splitAt n fuel (a + k) (bs.drop k)

/-- One burst of a write of a class: a whole burst replaces it, a part is a read-modify-write, whose read counts where it is
uncorrectable (R364, R369). -/
def Dev.writeBurst (d : Dev) (cls a : Nat) (bs : List (Option Byte)) : Dev :=
  if bs.all (·.isNone) then d
  else
  let d := d.sourceKeeps (a / 32) (·.ptr)
  if a % 32 = 0 ∧ bs.length = 32 ∧ bs.all (·.isSome) then ((d.storeBytes a bs).unpoison (a / 32)).unstrike (a / 32)
  else if d.bad.contains (a / 32) then (d.ueBurst a cls true).rmwPoison (a / 32)
  else d.storeBytes a bs

/-- Whether a unit leaves byte enables of a burst it touches clear. -/
def needsRmw (a : Nat) (bs : List (Option Byte)) : Bool :=
  (splitAt 32 (bs.length + 1) a bs).any fun u =>
    !(u.2.all (·.isNone)) && !(u.1 % 32 == 0 && u.2.length == 32 && u.2.all (·.isSome))

/-- One 64-byte unit of a write, which enters the queue of its PC: dropped outside the space (R359) or in a DEAD PC (R374). -/
def Dev.writeUnit (d : Dev) (cls : Nat) (a : Nat) (bs : List (Option Byte)) : Dev :=
  if d.paEnd ≤ a then d.paRange
  else
    let d := d.classBytes cls false 64
    if d.deadPa a then d
    else
      let d := match d.pcOfPa a with
        | some pc =>
          (d.issueSome pc).writeEnter pc (a / 64 * 64) cls ((bs.zipIdx.filter fun b => b.1.isSome).map fun b => a % 64 + b.2)
        | none => d
      let d := if needsRmw a bs then d.bump F.RMW_WRITES.count else d
      (splitAt 32 (bs.length + 1) a bs).foldl (fun d u => d.writeBurst cls u.1 u.2) d

/-- A write of bytes to physical addresses, unit by unit. -/
def Dev.writePa (d : Dev) (cls a : Nat) (bs : List (Option Byte)) : Dev :=
  (splitAt 64 (bs.length + 1) a bs).foldl (fun d u => d.writeUnit cls u.1 u.2) d

/-- A unit that the module reads within a command (log 105): one outside the space is not sent (R359); its bytes count in their class
(R376), it meets the queue of its PC (R363), and its uncorrectable bursts are counted (R364, R369, R374). False when any of it is
uncorrectable. -/
def Dev.readUnit (d : Dev) (cls : Nat) (spec : Bool) (pa : Nat) : Bool × Dev :=
  let a := pa / 64 * 64
  if d.paEnd ≤ a then (false, d.paRange)
  else
    let d := ((d.classBytes cls spec 64).readThrough a (List.range 64)).2
    let bad := [a / 32, a / 32 + 1].filter d.burstBad
    (bad.isEmpty, bad.foldl (fun d b => d.ueBurst (b * 32) cls false) d)

/-! ## The walk -/

/-- The outcome of a translation: a physical address, or a fault code with the level reached (R392). -/
inductive XRes where
  | ok (pa : Nat)
  | bad (code level : Nat)
deriving DecidableEq, Repr

/-- What a walk brings: its outcome, the reads it made by level and address, the leaf and the L2 table pointer to cache. -/
structure Walk where
  res   : XRes
  reads : List (Nat × Nat)
  leaf  : Option Leaf
  l2    : Option Nat
deriving DecidableEq, Repr

/-- The permission check of R386. -/
def permRes (l : Leaf) (write : Bool) (va level : Nat) : XRes :=
  if (if write then l.wr else l.rd) then .ok (l.pa + va % (if l.big then 2 ^ 21 else 2 ^ 16)) else .bad 3 level

/-- An entry of a table, read little-endian in a read of 64 bytes, none where that read is uncorrectable (R385, R388). -/
def Dev.entryAt (d : Dev) (table i : Nat) : Option Nat :=
  if d.unitOk (table + 8 * i) then (d.readPaN (table + 8 * i) 8).map ofLE else none

/-- The checks of a non-leaf entry at L0 or L1 (R385): the next table or a fault code. -/
def tableEntry (paEnd e : Nat) : Except Nat Nat :=
  if bitOf e 0 = 0 then .error 2
  else if bitsOf e 4 4 ≠ 0 ∨ bitsOf e 48 8 ≠ 0 ∨ bitOf e 1 = 1 ∨ bitsOf e 8 4 ≠ 0 then .error 4
  else if paEnd < bitsOf e 8 40 * 256 + 4096 then .error 5
  else .ok (bitsOf e 8 40 * 256)

/-- The leaf of an entry. -/
def leafOf (asid va e : Nat) (big : Bool) : Leaf :=
  { asid := asid, va := (if big then va / 2 ^ 21 * 2 ^ 21 else va / 2 ^ 16 * 2 ^ 16), big := big, pa := bitsOf e 8 40 * 256,
    rd := bitOf e 2 == 1, wr := bitOf e 3 == 1, struck := false }

/-- Only a leaf whose use did not fault is cached (R387). -/
def okLeaf (r : XRes) (l : Leaf) : Option Leaf :=
  match r with
  | .ok _ => some l
  | .bad _ _ => none

/-- The L3 step of a walk. -/
def Dev.walkL3 (d : Dev) (asid va : Nat) (write : Bool) (l3 : Nat) (reads : List (Nat × Nat)) (l2 : Nat) : Walk :=
  let reads := reads ++ [(3, l3 + 8 * bitsOf va 16 5)]
  let fail (c : Nat) : Walk := ⟨.bad c 3, reads, none, some l2⟩
  match d.entryAt l3 (bitsOf va 16 5) with
  | none => fail 6
  | some e =>
    if bitOf e 0 = 0 then fail 2
    else if bitsOf e 4 4 ≠ 0 ∨ bitsOf e 48 8 ≠ 0 ∨ bitOf e 1 = 0 ∨ bitsOf e 8 8 ≠ 0 then fail 4
    else if d.paEnd < bitsOf e 8 40 * 256 + 2 ^ 16 then fail 5
    else
      let l := leafOf asid va e false
      ⟨permRes l write va 3, reads, okLeaf (permRes l write va 3) l, some l2⟩

/-- The L2 step of a walk. -/
def Dev.walkL2 (d : Dev) (asid va : Nat) (write : Bool) (l2 : Nat) (reads : List (Nat × Nat)) : Walk :=
  let reads := reads ++ [(2, l2 + 8 * bitsOf va 21 9)]
  let fail (c : Nat) : Walk := ⟨.bad c 2, reads, none, some l2⟩
  match d.entryAt l2 (bitsOf va 21 9) with
  | none => fail 6
  | some e =>
    if bitOf e 0 = 0 then fail 2
    else if bitsOf e 4 4 ≠ 0 ∨ bitsOf e 48 8 ≠ 0 then fail 4
    else if bitOf e 1 = 1 then
      if bitsOf e 8 13 ≠ 0 then fail 4
      else if d.paEnd < bitsOf e 8 40 * 256 + 2 ^ 21 then fail 5
      else
        let l := leafOf asid va e true
        ⟨permRes l write va 2, reads, okLeaf (permRes l write va 2) l, some l2⟩
    else if d.paEnd < bitsOf e 8 40 * 256 + 256 then fail 5
    else d.walkL3 asid va write (bitsOf e 8 40 * 256) reads l2

/-- The key of the walk cache: the address space and the 2 MiB region (R387, R393). -/
def wcacheKey (asid va : Nat) : Nat := asid * 2 ^ 27 + va / 2 ^ 21

/-- The root table of a space. -/
def Dev.rootOf (d : Dev) (a : Nat) : Nat := d.get (F.ROOT_LO.root a) * 4096 + d.get (F.ROOT_HI.root a) * 2 ^ 32

/-- A walk from the walk cache or from the root (R384, R385, R387). -/
def Dev.walk (d : Dev) (asid va : Nat) (write : Bool) : Walk :=
  match d.wcache.find? fun e => e.1 == wcacheKey asid va with
  | some e => d.walkL2 asid va write e.2.1 []
  | none =>
    let root := d.rootOf asid
    let r0 := (0, root + 8 * bitsOf va 39 9)
    if d.paEnd < root + 4096 then ⟨.bad 5 0, [], none, none⟩
    else
      match d.entryAt root (bitsOf va 39 9) with
      | none => ⟨.bad 6 0, [r0], none, none⟩
      | some e0 =>
        match tableEntry d.paEnd e0 with
        | .error c => ⟨.bad c 0, [r0], none, none⟩
        | .ok l1 =>
          let r1 := (1, l1 + 8 * bitsOf va 30 9)
          match d.entryAt l1 (bitsOf va 30 9) with
          | none => ⟨.bad 6 1, [r0, r1], none, none⟩
          | some e1 =>
            match tableEntry d.paEnd e1 with
            | .error c => ⟨.bad c 1, [r0, r1], none, none⟩
            | .ok l2 => d.walkL2 asid va write l2 [r0, r1]

/-- The cached leaf of an address (R387): a lookup matches either page size. -/
def Dev.leafFor (d : Dev) (asid va : Nat) : Option Leaf :=
  d.leaves.find? fun l => l.asid == asid && (if l.big then l.va == va / 2 ^ 21 * 2 ^ 21 else l.va == va / 2 ^ 16 * 2 ^ 16)

/-- The translation of an address as it stands, without effect (R383 to R386). -/
def Dev.translate (d : Dev) (asid va : Nat) (write : Bool) : XRes :=
  match d.get (F.SPACE_CTL.mode asid) with
  | 0 => .bad 1 0
  | 1 =>
    match d.leafFor asid va with
    | some l => permRes l write va (if l.big then 2 else 3)
    | none => (d.walk asid va write).res
  | _ => .ok va

/-- Whether a walk takes entries from bursts written from failed staging, by itself or through the walk cache (R45). -/
def Dev.walkStruck (d : Dev) (asid va : Nat) (w : Walk) : Bool :=
  (w.reads.any fun r => d.struck.contains (r.2 / 32)) || (d.wcache.any fun e => e.1 == wcacheKey asid va && e.2.2)

/-- Whether nothing in HBM or in the translation caches comes from failed staging (R45). -/
def Dev.unstruck (d : Dev) : Bool :=
  d.struck.isEmpty && !(d.leaves.any (·.struck)) && !(d.wcache.any fun e => e.2.2)

/-- Whether the translation of an address depends on data that failed in on-chip SRAM (R45). -/
def Dev.xlatStruck (d : Dev) (asid va : Nat) : Bool :=
  d.get (F.SPACE_CTL.mode asid) == 1 && (match d.leafFor asid va with
    | some l => l.struck
    | none => d.walkStruck asid va (d.walk asid va false))

/-- Whether a byte as read at a device-virtual address depends on data that failed in on-chip SRAM (R43, R45). -/
def Dev.vaStruck (d : Dev) (asid va : Nat) : Bool :=
  !d.unstruck && (d.xlatStruck asid va || (match d.translate asid va false with
    | .ok pa => d.struck.contains (pa / 32)
    | .bad _ _ => false))

/-- Device-virtual memory for reading. -/
def Dev.mem (d : Dev) : Mem := fun asid va =>
  match d.translate asid (va % 2 ^ 48) false with
  | .ok pa => d.readPa pa
  | .bad _ _ => none

/-- Whether the traffic of a stack is held (R456). -/
def Dev.someHeld (d : Dev) : Bool := d.pcHeld 0 || d.pcHeld 32

/-- Whether the walk of an address waits for a stack whose traffic is held (R456). -/
def Dev.walkHeld (d : Dev) (asid va : Nat) : Bool :=
  d.get (F.SPACE_CTL.mode asid) == 1 && (d.leafFor asid va).isNone && (d.walk asid va false).reads.any fun r => d.paHeld r.2

/-- Whether a unit at a device-virtual address waits for a stack whose traffic is held, by a read of its walk or by itself (R456). -/
def Dev.vaHeld (d : Dev) (asid va : Nat) : Bool :=
  d.walkHeld asid va ||
    (match d.translate asid va false with
     | .ok pa => d.paHeld pa
     | .bad _ _ => false)

/-! ## Caches and faults -/

/-- Put an entry in front of a cache of some size; a full cache loses an entry the manual does not name. Log 12. -/
def cachePut {α : Type} (limit : Nat) (draw : Nat) (l : List α) (x : α) : List α :=
  if l.length < limit then x :: l else x :: l.eraseIdx (draw % l.length)

/-- Fill the caches from a walk (R387); what they hold of failed data is known by it (R45). -/
def Dev.fillCaches (d : Dev) (w : Walk) (asid va : Nat) (spec : Bool) : Dev :=
  let bad := d.walkStruck asid va w
  let d := match w.l2 with
    | some t =>
      if d.wcache.any fun e => e.1 == wcacheKey asid va then d
      else
        let struck := w.reads.any fun r => r.1 < 2 && d.struck.contains (r.2 / 32)
        ({ d with wcache := cachePut 1024 d.free d.wcache (wcacheKey asid va, t, struck) }).drawn
    | none => d
  match w.leaf with
  | some l =>
    if (d.leafFor asid va).isSome then d else
    let d := ({ d with leaves := cachePut 8192 d.free d.leaves { l with struck := bad } }).drawn
    if spec then d.bump F.SPEC_FILLS.count else d
  | none => d

/-- The effects of a walk of a class (R384, R385, R387, R388): its reads, the caches it fills, and XLAT_WALK_UE where a read of it
is uncorrectable. -/
def Dev.walked (d : Dev) (w : Walk) (cls : Nat) (spec : Bool) (asid va : Nat) : Dev :=
  let d := w.reads.foldl (fun d r => (d.readUnit cls spec r.2).2) (d.bumpBy F.WALK_READS.count w.reads.length)
  let d := d.fillCaches w asid va spec
  match w.res with
  | .bad 6 _ => d.raise 643
  | _ => d

/-- Record a fault (R392). -/
def Dev.faultRecord (d : Dev) (kind master asid va code level : Nat) (write deferred : Bool) : Dev :=
  let d := (d.bump F.FAULTS.count).bump (F.AS_FAULTS.count asid)
  let r : FaultRec :=
    { va := va, asid := asid, code := code, level := level, kind := kind, write := write, spec := deferred,
      master := master, count := 1, ns := nsOf d.now }
  match d.faults.getLast? with
  | some n =>
    if n.kind = kind ∧ n.master = master ∧ n.asid = asid ∧ n.code = code ∧ n.va / 65536 = va / 65536 then
      { d with faults := d.faults.dropLast ++ [{ n with count := min 255 (n.count + 1) }] }
    else if 64 ≤ d.faults.length then
      let d := d.bump F.FAULT_LOST.count
      if d.lostOpen then d else ({ d with lostOpen := true }).raise 641
    else
      ({ d with faults := d.faults ++ [r] }).put F.INV_STATUS.queued (d.faults.length + 1)
  | none => (({ d with faults := [r] }).put F.INV_STATUS.queued 1).raise 640

/-- Translate a unit with its effects (R383 to R388): hit and miss counts, the walk and its fills. -/
def Dev.xlateAs (d : Dev) (cls : Nat) (spec : Bool) (asid va : Nat) (write : Bool) : XRes × Dev :=
  match d.get (F.SPACE_CTL.mode asid) with
  | 0 => (.bad 1 0, d)
  | 1 =>
    match d.leafFor asid va with
    | some l => (permRes l write va (if l.big then 2 else 3), d.bump F.XLAT_HITS.count)
    | none =>
      let w := d.walk asid va write
      (w.res, (d.bump F.XLAT_MISSES.count).walked w cls spec asid va)
  | _ => (.ok va, d)

/-- The class of a master's requests by its kind (R361, R390). -/
def kindClass (kind : Nat) : Nat :=
  match kind with
  | 0 => 0 | 1 => 0 | 2 => 0 | 5 => 1 | 6 => 1 | _ => 2

/-- Translate a unit of a master; a fault is recorded. -/
def Dev.xlate (d : Dev) (kind master asid va : Nat) (write : Bool) : XRes × Dev :=
  let x := d.xlateAs (kindClass kind) false asid va write
  match x.1 with
  | .ok pa => (.ok pa, x.2)
  | .bad c lv => (.bad c lv, x.2.faultRecord kind master asid va c lv write false)

/-- Write bytes from a device-virtual address unit by unit, stopping at the first unit that faults: the bytes
written and the state. -/
def Dev.writeUnits (kind master asid cls : Nat) : List (Nat × List (Option Byte)) → Nat → Dev → Nat × Dev × Bool
  | [], n, d => (n, d, true)
  | u :: us, n, d =>
    match d.xlate kind master asid (u.1 % 2 ^ 48) true with
    | (.ok pa, d) => Dev.writeUnits kind master asid cls us (n + u.2.length) (d.writeUnit cls pa u.2)
    | (.bad _ _, d) => (n, d, false)

/-- Write bytes through translation. -/
def Dev.writeVa (d : Dev) (kind master asid cls va : Nat) (bs : List (Option Byte)) : Nat × Dev × Bool :=
  Dev.writeUnits kind master asid cls (splitAt 64 (bs.length + 1) va bs) 0 d

end Sys2Proof.Machine
end

