-- ==== Sys2Proof/Machine/Landing.lean ====
section
/-! DEFINITION. Landing messages: what a landing hears, drops, forwards (R249, R251) and the content it sends and takes
(R264). -/

namespace Sys2Proof.Machine

/-- Whether this landing is the coordinator (R244). -/
def Dev.coordinator (d : Dev) : Bool := d.get F.CASC_ID.landing == 0

def Dev.ring (d : Dev) : Bool := d.act F.CASC_CTL.topology == 1

/-- The landings reached below, with this one. -/
def Dev.subtree (d : Dev) : Nat :=
  (d.portsDown.map fun k => d.act (F.PORT_REACH.set k)).foldl (· ||| ·) (2 ^ d.get F.CASC_ID.landing)

/-- Set difference of landing sets of 16 bits. -/
def setMinus (a b : Nat) : Nat := a &&& (65535 ^^^ (b % 65536))

/-- Pass a message on over some ports. A control message due on a ring port that is down is not sent on the other instead, where it travels
already: R262 speaks of every message, and says of control messages that they lose nothing (DESIGN CHOICE, log 183). -/
def Dev.pass (d : Dev) (ports : List Nat) (m : LMsg) : Dev :=
  (ports.filter fun k => d.is (F.PORT_STATUS.up k)).foldl (fun d k => d.emitMsg k { m with hops := m.hops + 1 }) d

/-- A message reaches the landing over a port: dropped with a bad CRC (R249), not heard while the landing stands alone
(R244). -/
def Dev.sound (d : Dev) (k : Nat) (m : MsgHead) : Bool × Dev :=
  if !m.crcOk then (false, d.bump (F.MSG_CRC_ERR.count k)) else (d.actIs F.CASC_CTL.enable, d)

/-- A control message reaches the landing over a port: the second copy of one in a ring is dropped (R251). -/
def Dev.heard (d : Dev) (k : Nat) (m : MsgHead) : Bool × Dev :=
  if !m.crcOk then (false, d.bump (F.MSG_CRC_ERR.count k))
  else if !d.actIs F.CASC_CTL.enable then (false, d)
  else if !d.ring then (true, d)
  else if m.src.val = d.get F.CASC_ID.landing then (false, d)
  else
    let x := (m.src.val, m.seq.toNat)
    if d.casc.seen.contains x then (false, d.bump F.DUP_DROPPED.count)
    else (true, { d with casc.seen := (x :: d.casc.seen).take 4096 })

/-- The message as it is passed on. -/
def msgOf (m : MsgHead) (type : Nat) (body : List Byte) : LMsg :=
  { type := type, src := m.src.val, hops := m.hops.toNat, dst := m.dst.val, bcast := m.bcast, seq := m.seq.toNat, body := body }

/-- The ports on which a message that came over port `k` goes on, in a ring every port but its own (R251). -/
def Dev.onward (d : Dev) (k : Nat) : List Nat :=
  if d.ring then d.ports.filter (· != k) else d.portsDown

/-- The ports on which a message to all from `src` goes on: in a ring it stops at the landing before its source (R251). -/
def Dev.beforeSource (d : Dev) (k src : Nat) : List Nat := (d.onward k).filter fun j => d.act (F.PORT_CTL.peer j) != src

/-- Forward a message to all: from a child it travels up first, and from above it goes on to every child (R251). A
message of this landing itself goes no further. -/
def Dev.passAll (d : Dev) (k : Nat) (m : LMsg) : Dev :=
  if d.ring then d.pass (d.beforeSource k m.src) m
  else if d.portsUp.contains k || d.coordinator then d.pass d.portsDown m
  else d.pass d.portsUp m

/-- TICK_SKEW is the largest difference of the last second (R267). -/
def Dev.skewFresh (d : Dev) : Dev :=
  let ss := d.casc.skews.filter fun x => d.now < x.1 + 1000000000
  { d with casc.skews := ss }.put F.TICK_SKEW.ns (min (ss.foldl (fun a (x : Nat × Nat) => max a x.2) 0) 0xFFFFFFFF)

/-! ## Content (R264) -/

def contentBody (set asid va : Nat) (data : List Byte) : List Byte :=
  bytesBE 2 set ++ [BitVec.ofNat 8 asid, 0] ++ bytesBE 6 va ++ bytesBE 2 data.length ++ [0, 0, 0, 0] ++ data

/-- Whether content leaves on a port: it is up and, in a ring, no wrap stands for it (R262). -/
def Dev.carries (d : Dev) (k : Nat) : Bool := d.is (F.PORT_STATUS.up k) && !(d.port k).lost

/-- In a ring a message that would leave on a lost port leaves on the other until the wrap ends (R262). -/
def Dev.healed (d : Dev) (ps : List Nat) : List Nat :=
  if !d.ring ∨ ps.all d.carries then ps else d.ports.filter d.carries

/-- Content leaves on some ports of a ring, once for each of them (R262; DEDUCED, log 101). -/
def Dev.onceOn (d : Dev) (src seq : Nat) (ps : List Nat) : List Nat × Dev :=
  if !d.ring then (ps, d)
  else
    let ps := ps.filter fun k => !d.casc.gone.contains (src, seq, k)
    (ps, { d with casc.gone := ((ps.map fun k => (src, seq, k)) ++ d.casc.gone).take 4096 })

/-- The ports on which content for a set of landings leaves: up first while a landing lies outside the subtree, else each
child that reaches one; in a ring the ring ports that reach one (R251). -/
def Dev.contentPorts (d : Dev) (set : Nat) : List Nat :=
  if !d.ring && !d.coordinator && setMinus set d.subtree != 0 then d.portsUp
  else (if d.ring then d.ports else d.portsDown).filter fun k => d.act (F.PORT_REACH.set k) &&& set != 0

/-- Send content to a set of landings: refused when a port cannot queue it. Its destination in MSG_START is 0 with the broadcast bit clear:
the manual does not say what stands there for a set, which the body holds (R249, R250; DESIGN CHOICE, log 184). -/
def Dev.contentSend (d : Dev) (set asid va : Nat) (data : List Byte) : Bool × Dev :=
  let ps := d.healed (d.contentPorts set)
  if ps.any fun k => bitOf d.casc.full k == 1 then (false, d)
  else
    let r := d.onceOn (d.get F.CASC_ID.landing) d.casc.seq ps
    (true, r.2.landSend r.1 0x01 0 false (contentBody set asid va data))

/-- Translate the units of a write, each with its effects (R386): their physical addresses, none where any faults. -/
def Dev.unitsOf (d : Dev) (kind master asid : Nat) (us : List (Nat × List (Option Byte))) :
    Option (List (Nat × List (Option Byte))) × Dev :=
  us.foldl (fun r u =>
    match r.2.xlate kind master asid (u.1 % 2 ^ 48) true with
    | (.bad _ _, d) => (none, d)
    | (.ok pa, d) => (r.1.map (· ++ [(pa, u.2)]), d)) (some [], d)

/-- The units of a write. -/
def partUnits (parts : List (Nat × List Byte)) : List (Nat × List (Option Byte)) :=
  parts.flatMap fun p => splitAt 64 (p.2.length + 1) p.1 (p.2.map some)

/-- Whether a write waits because the walk of a unit of it needs a stack whose traffic is held (R456). -/
def Dev.partsHeld (d : Dev) (asid : Nat) (parts : List (Nat × List Byte)) : Bool :=
  d.someHeld && (partUnits parts).any fun u => d.walkHeld asid (u.1 % 2 ^ 48)

/-- A write waits for its stack, behind those of its stream that came before (R456; DEDUCED, log 51). -/
def Dev.ingestHold (d : Dev) (x : Ingest) : Dev := { d with ingest := d.ingest ++ [x] }
def Dev.ingestWaits (d : Dev) (stream : Nat) : Bool := d.ingest.any (·.stream == stream)

/-- A write that is done whole or, when any unit faults, not at all (R264, R306). -/
def Dev.writeWhole (d : Dev) (kind master asid cls : Nat) (parts : List (Nat × List Byte)) : Bool × Dev :=
  match d.unitsOf kind master asid (partUnits parts) with
  | (some l, d) => (true, l.foldl (fun d u => d.writeUnit cls u.1 u.2) d)
  | (none, d) => (false, d)

/-- Content that is dropped. -/
def Dev.contentDrop (d : Dev) : Dev := (d.bump F.CONTENT_DROPPED.count).once (modMark 90) fun d => d.raise 90

/-- The write of received content: dropped at a translation fault; it waits for a stack whose traffic is held (R456). -/
def Dev.contentWrite (d : Dev) (src asid va : Nat) (data : List Byte) : Dev :=
  if d.ingestWaits 256 || d.partsHeld asid [(va, data)] then d.ingestHold (.content src asid va data)
  else
    let r := d.writeWhole 6 src asid 1 [(va, data)]
    if r.1 then r.2 else r.2.contentDrop

/-- The ports on which content from `src` that came over port `k` goes on from here: those that reach a landing of the set other
than this one, which it serves itself. In a ring the landings reached over port `k` are served on the other way round, unless the
message had left on that port and was turned back at a lost one (R251, R262; DEDUCED, log 101). -/
def Dev.contentOnward (d : Dev) (k src seq set : Nat) : List Nat :=
  let left := setMinus set (2 ^ d.get F.CASC_ID.landing)
  let reach (j : Nat) : Nat := d.act (F.PORT_REACH.set j)
  if !d.ring then d.portsDown.filter fun j => reach j &&& left != 0
  else if d.casc.gone.contains (src, seq, k) then (d.onward k).filter fun _ => left != 0
  else (d.beforeSource k src).filter fun j => reach j &&& setMinus left (reach k) != 0

/-- Content comes over port `k`: from a child with a landing outside that child's subtree it travels up first; otherwise it is
written here when this landing is meant and goes on to the ports that reach a landing of the set not yet served. -/
def Dev.contentRx (d : Dev) (k : Nat) (m : MsgHead) (set asid va : Nat) (data : List Byte) : Dev :=
  let h := d.sound k m
  if !h.1 then h.2
  else
    let d := h.2
    let msg := msgOf m 0x01 (contentBody set asid va data)
    let fromBelow := !d.ring && !d.portsUp.contains k
    if fromBelow && !d.coordinator && setMinus set (d.act (F.PORT_REACH.set k)) != 0 then d.pass d.portsUp msg
    else
      let d := if bitOf set (d.get F.CASC_ID.landing) = 1 then d.contentWrite m.src.val asid va data else d
      let r := d.onceOn m.src.val m.seq.toNat (d.healed (d.contentOnward k m.src.val m.seq.toNat set))
      r.2.pass r.1 msg

end Sys2Proof.Machine
end

