-- ==== Sys2Proof/Machine/Traffic.lean ====
section
/-! DEFINITION. Ethernet traffic (R330 to R355): stream filters and policers, egress shapers, gate lists, queue samplers and
IEEE 802.1AS on lanes, and the start of a queued frame. -/

namespace Sys2Proof.Machine

/-! ## Lanes -/

/-- The mode in force on a lane. -/
def Dev.modeOf (d : Dev) (k : Nat) : Nat :=
  let n := d.fieldsOf k
  if d.actIs (F.LANE_CTL.enable n) then d.act (F.LANE_CTL.mode n) else 0
def Dev.ethLane (d : Dev) (k : Nat) : Bool := 2 ≤ d.modeOf k && d.modeOf k ≤ 5

/-- The indirect page of a lane. -/
def lanePage (n : Nat) : Nat := 0x3000 + n

/-! ## Policers (R333 to R335) -/

/-- The page of the stream filters. -/
def fltPage : Nat := 0x446

/-- A field of a filter word. -/
def Dev.flt (d : Dev) (i w lsb width : Nat) : Nat := bitsOf (d.ind fltPage (8 * i + w)).toNat lsb width

/-- The ingress class of a received frame (R332). -/
def Dev.ingressClass (d : Dev) (rx : RxHdr) : Nat :=
  match rx.pcp with
  | some p => p.toNat
  | none => d.get (F.TC_CTL.rx_deftc (rx.sub.val / 4) (rx.sub.val % 4))

/-- Entry `i` of the ADDR6 table (R326). -/
def Dev.addr6 (d : Dev) (i : Nat) : Nat :=
  (List.range 4).foldl (fun v j => v * 2 ^ 32 + (d.actv (A.ADDR6 i j)).toNat) 0

/-- Whether a frame meets filter `i` (R333). Kinds 2 and 3 match UDP datagrams: a port of 0 in the filter matches any port of one,
its port 0 too (DEDUCED, log 118). -/
def Dev.fltMatch (d : Dev) (rx : RxHdr) (i : Nat) : Bool :=
  let v := d.flt i 1 0 32
  let port := d.flt i 2 0 16
  let portOk := rx.udp && (port == 0 || port == rx.dport.toNat)
  bitOf (d.flt i 0 8 8) rx.sub.val == 1 &&
    match d.flt i 0 0 3 with
    | 1 => bitOf (d.flt i 0 16 8) (d.ingressClass rx) == 1
    | 2 => !rx.ipv6 && rx.dst.toNat == v && portOk
    | 3 => rx.ipv6 && rx.dst.toNat == d.addr6 (v % 64) && portOk
    | 4 => rx.dmac.toNat == v + port * 2 ^ 32
    | _ => false

/-- The unit of a bucket: 1/256,000 byte. -/
def bucketUnit : Nat := 256000

/-- Credit accrued up to an instant. -/
def Bucket.fill (b : Bucket) (t rate cap : Nat) : Bucket :=
  { b with level := min (b.level + ((t - b.last : Nat) : Int) * rate) ((cap * bucketUnit : Nat) : Int), last := t }

/-- The bucket of policer `i`, brought up to date. -/
def Dev.policer (d : Dev) (i : Nat) : Bucket :=
  (Tab.get (fun _ => Bucket.empty) d.policers i).fill d.now (d.flt i 3 0 24) (d.flt i 4 0 24)

/-- Store a policer's bucket with what FLT_LEVEL reads. -/
def Dev.setPolicer (d : Dev) (i : Nat) (b : Bucket) : Dev :=
  let d := { d with policers := Tab.set (fun _ => Bucket.empty) d.policers i b }
  d.setInd fltPage (8 * i + 7) (w32 ((b.level / (bucketUnit : Int)).toNat % 2 ^ 24))

/-- A policer is brought up to date, before its rate changes or its level is read, and cut to its burst after a write (R335). One
that has never held anything and earns nothing stays as it is. -/
def Dev.policerRefresh (d : Dev) (i : Nat) : Dev :=
  if d.flt i 3 0 24 = 0 ∧ d.flt i 4 0 24 = 0 ∧ Tab.get (fun _ => Bucket.empty) d.policers i = Bucket.empty then d
  else d.setPolicer i (d.policer i)

/-- L := Bq (R335). -/
def Dev.policerReset (d : Dev) (i : Nat) : Dev :=
  d.setPolicer i { level := ((d.flt i 4 0 24 * bucketUnit : Nat) : Int), last := d.now }

/-- The first non-conforming frame of a millisecond (R334). -/
def Dev.nonConf (d : Dev) : Dev :=
  let ms := d.now / 1000000
  if d.polMs = some ms then d else ({ d with polMs := some ms }).raise 528

/-- A received frame passes the stream filters (R333, R334). -/
def Dev.police (d : Dev) (rx : RxHdr) : Bool × Dev :=
  match (List.range 4096).find? (d.fltMatch rx) with
  | none => (true, d.bump F.FLT_NOMATCH.count)
  | some i =>
    let b := d.policer i
    let need : Int := ((rx.len * bucketUnit : Nat) : Int)
    if need ≤ b.level then (true, (d.setPolicer i { b with level := b.level - need }).ind32 fltPage (8 * i + 5) 1)
    else
      let d := ((d.setPolicer i b).ind32 fltPage (8 * i + 6) 1).nonConf
      (d.flt i 0 3 1 == 1, d)

/-! ## Samplers (R345, R346) -/

/-- The queue a sampler watches: lane or sub-port, port, class. -/
def Dev.smpSel (d : Dev) (k : Nat) : Bool × Nat × Nat :=
  (d.is (F.SMP_SEL.kind k), d.get (F.SMP_SEL.port k), d.get (F.SMP_SEL.tc k))

/-- The depth of a queue. -/
def Dev.depthOf (d : Dev) (q : Bool × Nat × Nat) : Nat :=
  (((if q.1 then d.laneQ else d.hostQ).filter fun x => x.1 == q.2.1 && x.2.tc == q.2.2).map fun x => x.2.len).sum

/-- The interval of a sampler starts anew. -/
def Dev.samplerStart (d : Dev) (k : Nat) : Dev :=
  let n := d.depthOf (d.smpSel k)
  d.setSampler k { minD := n, maxD := n, minT := 0, maxT := 0, lastT := 0, count := 0 }

/-- An enqueue or dequeue on a queue: its samplers take the depth, and at a dequeue the delay. -/
def Dev.sampled (d : Dev) (q : Bool × Nat × Nat) (delay : Option Nat) : Dev :=
  (List.range 16).foldl (fun d k =>
    if d.is (F.SMP_CTL.enable k) && d.smpSel k == q then
      let n := d.depthOf q
      let s := d.sampler k
      let s := { s with minD := min s.minD n, maxD := max s.maxD n }
      match delay with
      | none => d.setSampler k s
      | some t =>
        let d := d.setSampler k { s with
          minT := if s.count = 0 then t else min s.minT t, maxT := max s.maxT t, lastT := t, count := s.count + 1 }
        d.bump (F.SMP_HIST.count k (min (t / 2 ^ d.get (F.SMP_CTL.hist_shift k)) 15))
    else d) d

/-- The end of an interval: publication (R346). -/
def Dev.samplerPublish (d : Dev) (k : Nat) : Dev :=
  if !d.is (F.SMP_CTL.enable k) then d
  else
    let s := d.sampler k
    let d := ((d.put (F.DEPTH_MIN.bytes k) s.minD).put (F.DEPTH_MAX.bytes k) s.maxD).put (F.DEPTH_LAST.bytes k)
      (d.depthOf (d.smpSel k))
    let d := ((d.put (F.DELAY_MIN.ns k) s.minT).put (F.DELAY_MAX.ns k) s.maxT).put (F.DELAY_LAST.ns k) s.lastT
    let d := (d.put (F.SMP_FRAMES.frames k) s.count).put (F.SMP_STATUS.empty k) (b2n (s.count == 0))
    let d := (d.bump (F.SMP_STATUS.seq k)).samplerStart k
    if d.is (F.SMP_CTL.notify k) then d.raise 529 else d

/-! ## Queues -/

/-- Queue a frame on a lane's transmitter or on a sub-port (R330). -/
def Dev.laneEnq (d : Dev) (k : Nat) (f : TxFrame) : Dev :=
  let f := { f with enq := d.now, len := max f.len 64 }
  ({ d with laneQ := d.laneQ ++ [(k, f)] }).sampled (true, k, f.tc) none
def Dev.hostEnq (d : Dev) (s : Nat) (f : TxFrame) : Dev :=
  let f := { f with enq := d.now, len := max f.len 64 }
  if d.act (F.SUB_MAXFRAME.bytes (s / 4) (s % 4)) < f.len then d
  else ({ d with hostQ := d.hostQ ++ [(s, f)] }).sampled (false, s, f.tc) none

/-! ## Shapers (R336, R337) -/

/-- A full shaper of the reset burst; shapers are off at reset. -/
def Bucket.shaper : Bucket := { level := 16384 * 256000, last := 0 }

def shpKey (s tc : Nat) : Nat := s * 8 + tc

/-- The shaper of a class, brought up to date while it is on. -/
def Dev.shaper (d : Dev) (s tc : Nat) : Bucket :=
  let b := Tab.get (fun _ => Bucket.shaper) d.shapers (shpKey s tc)
  if d.is (F.SHP_CTL.enable (s / 4) (s % 4) tc) then
    b.fill d.now (d.get (F.SHP_CTL.rate (s / 4) (s % 4) tc)) (d.get (F.SHP_BURST.bytes (s / 4) (s % 4) tc))
  else b

/-- Store a shaper with what SHP_DEBT reads. -/
def Dev.setShaper (d : Dev) (s tc : Nat) (b : Bucket) : Dev :=
  let d := { d with shapers := Tab.set (fun _ => Bucket.shaper) d.shapers (shpKey s tc) b }
  d.put (F.SHP_DEBT.bytes (s / 4) (s % 4) tc) (if b.level < 0 then ceilDiv (-b.level).toNat bucketUnit else 0)

def Dev.shaperRefresh (d : Dev) (s tc : Nat) : Dev := d.setShaper s tc (d.shaper s tc)

/-- A shaper takes a new control or burst word: credit up to now accrues at the old rate; a level above the new burst is cut
to it; an enabled shaper resumes from its frozen level. -/
def Dev.shaperWrite (d : Dev) (s tc : Nat) (write : Dev → Dev) : Dev :=
  let b := d.shaper s tc
  let d := write d
  let cap : Int := ((d.get (F.SHP_BURST.bytes (s / 4) (s % 4) tc) * bucketUnit : Nat) : Int)
  d.setShaper s tc { b with level := min b.level cap, last := d.now }

/-- S := Bq for the classes of a mask (R337). -/
def Dev.bucketReset (d : Dev) (s mask : Nat) : Dev :=
  (List.range 8).foldl (fun d tc =>
    if bitOf mask tc = 1 then
      d.setShaper s tc { level := ((d.get (F.SHP_BURST.bytes (s / 4) (s % 4) tc) * bucketUnit : Nat) : Int), last := d.now }
    else d) d

/-! ## Gate lists (R338 to R344) -/

/-- The canvas whose ticks a lane follows; 8 when it carries no window. -/
def Dev.laneCanvas (d : Dev) (n : Nat) : Nat :=
  match (winsOn d.actv).find? fun w => (winLanes d.actv w).contains n with
  | some w => winCanvas d.actv w
  | none => 8

/-- The time that gate instants of a lane are reckoned in: the canvas time of its windows, else TC (R461, R466). -/
def Dev.gateTime (d : Dev) (n : Nat) : Nat := if d.laneCanvas n < 8 then d.canvasNow (d.laneCanvas n) else d.now

/-- A gate list in the words of a lane's indirect space. -/
def Dev.gateWords (d : Dev) (n first len num den base : Nat) : GateList :=
  let w (a : Nat) : Nat := (d.ind (lanePage n) a).toNat
  { entries := (List.range (bitsOf (w len) 0 9)).map fun e => (bitsOf (w (first + e)) 0 8, bitsOf (w (first + e)) 8 24),
    num := w num, den := bitsOf (w den) 0 10, base := base }

/-- The admin list with a base and the oper list of a lane. -/
def Dev.adminList (d : Dev) (n base : Nat) : GateList := d.gateWords n 0 512 513 514 base
def Dev.operList (d : Dev) (n : Nat) : GateList := d.gateWords n 256 515 516 517 (d.lane n).base

/-- GATE_STATUS fields (R352). -/
def Dev.gateBit (d : Dev) (n i : Nat) : Bool := (d.ind (lanePage n) 518).getLsbD i
def Dev.setGate (d : Dev) (n lsb width v : Nat) : Dev :=
  d.setInd (lanePage n) 518 (putBits (d.ind (lanePage n) 518) lsb width v)

/-- The list that runs on a lane. -/
def Dev.running? (d : Dev) (n : Nat) : Option GateList := if d.gateBit n 0 then some (d.operList n) else none

/-- AS_CTL of a lane. -/
def Dev.asOn (d : Dev) (n : Nat) : Bool := (d.ind (lanePage n) 520).getLsbD 0
def Dev.asTc (d : Dev) (n : Nat) : Nat := bitsOf (d.ind (lanePage n) 520).toNat 4 3

/-- The limits of R338. -/
def Dev.gateFormat (d : Dev) (n : Nat) (g : GateList) : Bool :=
  1 ≤ g.entries.length && g.entries.length ≤ 256 && 1 ≤ g.den && g.den ≤ 1000 &&
    g.entries.all (fun e => 100 ≤ e.2) && 10000 * g.den ≤ g.num && g.num ≤ 1000000000 * g.den &&
    g.base ≤ d.gateTime n + 10000000000 &&
    (!d.asOn n || 200 ≤ openIn (d.asTc n) 0 (g.num / g.den) 0 g.entries (g.num / g.den))

/-- The smallest k whose start is at least 2 µs ahead, and its instant (R340). -/
def GateList.firstStart (g : GateList) (now : Nat) : Nat × Nat :=
  let k := if now + 2000 ≤ g.base then 0 else ceilDiv ((now + 2000 - g.base) * g.den) g.num
  (k, g.start k)

/-- Whether this landing's own admission of the commit that stands has answered: it is admitted, or its votes are awaited (R256). -/
def Dev.commitJudged (d : Dev) : Bool :=
  d.get F.COMMIT_STATUS.state == 2 || (d.get F.COMMIT_STATUS.state == 3 && d.commit.isSome && d.casc.commit.any fun c => c.own)

/-- Whether a lane carries an enabled window of the active configuration, or of a commit that has been judged. -/
def Dev.carriesWindow (d : Dev) (n : Nat) : Bool := (winsOn d.actv).any fun w => (winLanes d.actv w).contains n
def Dev.willCarry (d : Dev) (n : Nat) : Bool :=
  d.commitJudged && (winsOn d.pendv).any fun w => (winLanes d.pendv w).contains n

/-- A swap is refused with a reason (R341). -/
def Dev.gateRefuse (d : Dev) (n reason : Nat) : Dev :=
  ((d.setGate n 3 2 reason).setGate n 1 1 0).laneEvt n F.LANE_EVT.gate_refused

/-- The start of a swap is fixed from now. -/
def Dev.gateSchedule (d : Dev) (n : Nat) : Dev :=
  let l := d.lane n
  let s := (d.adminList n l.swapBase).firstStart (d.gateTime n)
  d.setLane n { l with swapAt := some s.2, swapK := s.1 }

/-- Mailbox item GATE_SWAP (R340 to R342). On a lane that only a commit makes carry windows, admission evaluates both lists (R344): that of
the commit where it has still to answer, and else one for the swap, whose answer it awaits as on a lane that carries some. -/
def Dev.gateSwap (d : Dev) (n base : Nat) : Dev :=
  if !d.ethLane n || d.gateBit n 1 then d
  else
    let st := d.get F.COMMIT_STATUS.state
    if !d.gateFormat n (d.adminList n base) then d.gateRefuse n 1
    else if d.carriesWindow n ∧ (st = 1 ∨ st = 3) then d.gateRefuse n 3
    else
      let d := ((d.setGate n 1 1 1).setGate n 3 2 0).setLane n { d.lane n with swapBase := base, swapAt := none }
      if d.carriesWindow n || d.willCarry n then d else d.gateSchedule n

/-- The start of a swap: the admin bank comes into force (R340). -/
def Dev.gateStart (d : Dev) (n : Nat) : Dev :=
  let l := d.lane n
  match l.swapAt with
  | none => d
  | some t =>
    if d.gateTime n < t || !d.gateBit n 1 then d
    else
      let p := lanePage n
      let d := (List.range 256).foldl (fun d e => d.setInd p (256 + e) (d.ind p e)) d
      let d := (List.range 3).foldl (fun d i => d.setInd p (515 + i) (d.ind p (512 + i))) d
      let d := d.setLane n { l with base := l.swapBase, startAt := t, startK := l.swapK, swapAt := none }
      let d := ((((d.setGate n 0 1 1).setGate n 1 1 0).setGate n 2 1 (b2n (l.swapK != 0))).setGate n 5 8 0).ind32 p 768 1
      let d := d.laneEvt n F.LANE_EVT.gate_swapped
      if l.swapK = 0 then d else d.laneEvt n F.LANE_EVT.gate_start_adjusted

/-- GATE_STOP (R343). -/
def Dev.gateStop (d : Dev) (n : Nat) : Dev := (d.setGate n 0 1 0).setGate n 5 8 0

/-- GATE_CANCEL (R342). -/
def Dev.gateCancel (d : Dev) (n : Nat) : Dev :=
  if !d.gateBit n 1 then d
  else
    match (d.lane n).swapAt with
    | some t => if d.gateTime n + 2000 ≤ t then (d.setGate n 1 1 0).setLane n { d.lane n with swapAt := none } else d
    | none => d.setGate n 1 1 0

/-- The words of GATE_INFO. -/
def Dev.gateInfo (d : Dev) (n : Nat) : List Word :=
  let l := d.lane n
  [w32 (nsOf l.startAt), w32 (secOf l.startAt), w32 (secOf l.startAt / 2 ^ 32 % 65536), w32 l.startK]

/-- The entry open at a position in a cycle. -/
def gateEntryAt (pos : Nat) : Nat → List (Nat × Nat) → Nat
  | k, [] => k
  | k, [_] => k
  | k, e :: es => if pos < e.2 then k else gateEntryAt (pos - e.2) (k + 1) es

/-- GATE_STATUS.entry is brought up to date. -/
def Dev.gateEntry (d : Dev) (n : Nat) : Dev :=
  match d.running? n with
  | none => d
  | some g =>
    let t := d.gateTime n
    if t < g.base ∨ g.num = 0 then d
    else d.setGate n 5 8 (gateEntryAt (t - g.start (g.cycleAt t)) 0 g.entries)

/-- Whether the gate of a class is open through a stretch (R339). -/
def GateList.openAll (g : GateList) (tc a b : Nat) : Bool :=
  g.num != 0 && g.base ≤ a && g.openTime tc a b ((b - a) * g.den / g.num + 3) (g.cycleAt a) == b - a

/-- The longest open stretch of a class over entries run together; a class open throughout has no bound. -/
def longestOpen (tc : Nat) : Nat → Nat → List (Nat × Nat) → Nat
  | best, cur, [] => max best cur
  | best, cur, e :: es => if bitOf e.1 tc = 1 then longestOpen tc best (cur + e.2) es else longestOpen tc (max best cur) 0 es

/-- The entries of a cycle with the last one reaching its end. -/
def cycleEntries (cyc : Nat) : Nat → List (Nat × Nat) → List (Nat × Nat)
  | _, [] => []
  | pos, [e] => [(e.1, cyc - pos)]
  | pos, e :: es => if cyc ≤ pos + e.2 then [(e.1, cyc - pos)] else e :: cycleEntries cyc (pos + e.2) es

/-- The entries of cycle `k` of a list, cut at the start of the next: cycles differ by a nanosecond as their starts are rounded
down, and repeat after as many as the denominator in lowest terms (R339). -/
def GateList.cycle (g : GateList) (k : Nat) : List (Nat × Nat) :=
  cycleEntries ((k + 1) * g.num / g.den - k * g.num / g.den) 0 g.entries

/-- Whether a frame of some ns fits in no open time of a list (R339). -/
def GateList.neverFits (g : GateList) (tc ns : Nat) : Bool :=
  let es := (List.range (2 * (g.den / Nat.gcd g.num g.den))).flatMap g.cycle
  !(es.all fun e => bitOf e.1 tc == 1) && longestOpen tc 0 0 es < ns

/-! ## The start of a frame (R330) -/

/-- The ns of a frame on a lane with preamble and interframe gap. -/
def laneNs (mode len : Nat) : Nat := ceilDiv ((len + 20) * 8) (if mode = 2 ∨ mode = 4 then 10 else 25)

/-- Whether the head frame of a class may start on a lane. -/
def Dev.laneMay (d : Dev) (k : Nat) (f : TxFrame) : Bool :=
  let n := d.fieldsOf k
  let now := d.gateTime n
  let fin := now + laneNs (d.modeOf k) f.len
  (match d.running? n with
   | none => true
   | some g => g.openAll f.tc now fin) &&
  (match (d.lane n).swapAt with
   | none => true
   | some t => fin ≤ t)

/-- The head frames of the queues of a port by descending class. -/
def headsOf (q : List (Nat × TxFrame)) (k : Nat) : List TxFrame :=
  (List.range 8).reverse.filterMap fun tc => (q.find? fun x => x.1 == k && x.2.tc == tc).map (·.2)

/-- Take a frame out of a queue. -/
def dequeue (q : List (Nat × TxFrame)) (k : Nat) (f : TxFrame) : List (Nat × TxFrame) := q.erase (k, f)

/-- A frame that fits no open time counts once (R339). -/
def Dev.noFit (d : Dev) (k : Nat) (f : TxFrame) : Dev :=
  let n := d.fieldsOf k
  match d.running? n with
  | none => d
  | some g =>
    if !f.noFit && g.neverFits f.tc (laneNs (d.modeOf k) f.len) then
      let d := { d with laneQ := d.laneQ.map fun x => if x = (k, f) then (k, { f with noFit := true }) else x }
      (d.ind32 (lanePage n) 769 1).laneEvt n F.LANE_EVT.gate_error
    else d

/-- The clock identity of the module by EUI-64, or of the serial when there is no valid base address (R347, R567). -/
def Dev.clockId (d : Dev) : Nat :=
  if !d.baseOk then d.serial % 2 ^ 64
  else d.baseMac / 2 ^ 24 * 2 ^ 40 + 0xFFFE * 2 ^ 24 + d.baseMac % 2 ^ 24

/-- An 802.1AS frame of a lane; on a spare the fields of the lane it carries are in force (R241). -/
def Dev.asFrame (d : Dev) (k len : Nat) (body : Payload) : TxFrame :=
  let n := d.fieldsOf k
  { tc := d.asTc n, len := len, enq := d.now, noFit := false,
    eth := { dmac := 0x0180C200000E, smac := d.act (F.SRC_MAC_LO.mac n) + d.act (F.SRC_MAC_HI.mac n) * 2 ^ 32, tag := none,
             etype := 0x88F7 },
    body := body }

/-- The Follow_Up information TLV of IEEE 802.1AS; the manual gives no value of its fields (R347, a free value, log 36). -/
def Dev.followUpInfo (d : Dev) : List Byte :=
  bytesBE 2 3 ++ bytesBE 2 28 ++ [0, 0x80, 0xC2, 0, 0, 1] ++ (List.range 22).map fun i => BitVec.ofNat 8 (Config.freeNat (d.seed + i))

/-- What follows an 802.1AS message that leaves: the follow-up with its departure time, in the class that AS_CTL names as it is
queued (R331, R347). -/
def Dev.asLeft (d : Dev) (k : Nat) (f : TxFrame) : Dev :=
  match f.body with
  | .asMsg 0 seq _ i =>
    Dev.laneEnq { d with seed := d.seed + 22 } k (d.asFrame k 94 (.asFollowUp seq d.now i d.followUpInfo))
  | .asMsg 3 seq _ i => d.laneEnq k (d.asFrame k 72 (.asMsg 10 seq d.now i))
  | .asMsg 2 _ _ _ => d.setLane k { d.lane k with pdT1 := d.now }
  | _ => d

/-- The counters of a line that a lane transmits (R227). -/
def Dev.lineSent (d : Dev) (k w : Nat) (sub : Bool) : Dev :=
  let d := (d.bump (F.LINES_SENT.count w)).bump (F.LINES_TX.count k)
  if sub then d.bump (F.SUBST_TX.count k) else d

/-- The next frame of a lane starts; with its last packet a line is transmitted. -/
def Dev.laneFrameStart (d : Dev) (k : Nat) : Dev :=
  if !d.ethLane k || !d.is (F.LANE_STATUS.tx_on k) || !d.laneClocked k || d.is (F.LANE_STATUS.halted k) then d
  else
    let d := (headsOf d.laneQ k).foldl (fun d f => d.noFit k f) d
    match (headsOf d.laneQ k).find? (d.laneMay k) with
    | none => d
    | some f =>
      let d := ({ d with laneQ := dequeue d.laneQ k f }).sampled (true, k, f.tc) (some (d.now - f.enq))
      let d := (d.emit (.laneFrame k d.now f)).ind32 (lanePage k) (776 + f.tc) 1
      let d := match f.line with
        | some x => d.lineSent k x.1 x.2
        | none => d
      d.asLeft k f

/-- Whether a shaper lets a class start. -/
def Dev.hostMay (d : Dev) (s : Nat) (f : TxFrame) : Bool :=
  !d.is (F.SHP_CTL.enable (s / 4) (s % 4) f.tc) || 0 ≤ (d.shaper s f.tc).level

/-- The frames of a sub-port that have become too long for it are not sent; datagrams of Aedwin among them count (R298, R312). -/
def Dev.hostTrim (d : Dev) (s : Nat) : Dev :=
  let long (x : Nat × TxFrame) : Bool := x.1 == s && d.act (F.SUB_MAXFRAME.bytes (s / 4) (s % 4)) < x.2.len
  let aed := d.hostQ.filter fun x => long x && match x.2.body with
    | .aedwin _ _ => true
    | _ => false
  Dev.bumpBy { d with hostQ := d.hostQ.filter fun x => !long x } F.AED_DROPPED.count aed.length

/-- A PTP delay request is timed as it leaves (R302). -/
def Dev.ptpLeft (d : Dev) (s : Nat) (f : TxFrame) : Dev :=
  match f.body with
  | .ptp _ 1 _ seq _ _ => if (d.ptpPort s).reqSeq = seq then d.setPtpPort s { d.ptpPort s with t3 := some d.now } else d
  | _ => d

/-- The next frame of a sub-port starts. -/
def Dev.hostFrameStart (d : Dev) (s : Nat) : Dev :=
  if bitOf (d.get (F.HP_PORT_STATUS.link_up (s / 4))) (s % 4) = 0 then d
  else
    let d := d.hostTrim s
    match (headsOf d.hostQ s).find? (d.hostMay s) with
    | none => d
    | some f =>
      let b := d.shaper s f.tc
      let d := if d.is (F.SHP_CTL.enable (s / 4) (s % 4) f.tc) then
          d.setShaper s f.tc { b with level := b.level - ((f.len * bucketUnit : Nat) : Int) } else d
      let d := ({ d with hostQ := dequeue d.hostQ s f }).sampled (false, s, f.tc) (some (d.now - f.enq))
      (((d.bump (F.TX_FRAMES.count (s / 4) (s % 4))).bump (F.TX_FRAMES_TC.count (s / 4) (s % 4) f.tc)).emit (.hostFrame s d.now f)).ptpLeft s f

/-! ## IEEE 802.1AS on lanes (R347, R348) -/

def Dev.asPort (d : Dev) (n : Nat) : Nat := d.clockId * 65536 + n + 1
def Dev.asLive (d : Dev) (n : Nat) : Bool := d.ethLane n && d.asOn (d.fieldsOf n)
def Dev.asCapable (d : Dev) (n : Nat) : Bool := (d.ind (lanePage n) 522).getLsbD 0

/-- The state of a PTP port. -/
def ptpField (s : Nat) : FieldRef :=
  match s % 4 with
  | 0 => F.PTP_STATE.state0 (s / 4)
  | 1 => F.PTP_STATE.state1 (s / 4)
  | 2 => F.PTP_STATE.state2 (s / 4)
  | _ => F.PTP_STATE.state3 (s / 4)

/-- The host port in SLAVE. -/
def Dev.inSlave (d : Dev) : Option Nat := d.slave.filter fun s => d.get (ptpField s) == 7

/-- What a port announces: the grandmaster of the SLAVE host port, or the module itself (R347). -/
def Dev.asAnnounce (d : Dev) (n : Nat) : Announce :=
  let self : Announce :=
    { gmId := BitVec.ofNat 64 d.clockId, priority1 := 248, clockClass := 248, accuracy := 0xFE, variance := 0xFFFF, priority2 := 248,
      steps := 0, interval := 3, domain := 0, sender := BitVec.ofNat 80 (d.asPort n), metadata := [] }
  match d.inSlave.bind fun s => (d.ptpPort s).ann with
  | some a => { a with steps := a.steps + 1, interval := 3, domain := 0, sender := BitVec.ofNat 80 (d.asPort n), metadata := [] }
  | none => self

/-- A Sync is due: it is sent while the port is asCapable; in a new second an Announce goes before it. Log 36. -/
def Dev.asSync (d : Dev) (n : Nat) : Dev :=
  if !d.asLive n || !d.asCapable n then d
  else
    let l := d.lane n
    let sec := secOf d.now
    let d := if l.asAnn = sec then d else
      (d.setLane n { l with asAnn := sec }).laneEnq n (d.asFrame n 94 (.announce sec (d.asAnnounce n)))
    let l := d.lane n
    (d.setLane n { l with asSeq := (l.asSeq + 1) % 65536 }).laneEnq n (d.asFrame n 62 (.asMsg 0 l.asSeq 0 (d.asPort n)))

/-- A Pdelay request is due. -/
def Dev.asPdelayReq (d : Dev) (n : Nat) : Dev :=
  if !d.asLive n then d
  else
    let l := d.lane n
    let seq := (l.pdSeq + 1) % 65536
    (d.setLane n { l with pdSeq := seq, pdT1 := d.now }).laneEnq n (d.asFrame n 72 (.asMsg 2 seq 0 (d.asPort n)))

/-- The port becomes or ceases to be asCapable. -/
def Dev.setCapable (d : Dev) (n : Nat) (on : Bool) : Dev :=
  let was := d.asCapable n
  let d := d.setInd (lanePage n) 522 (w32 (b2n on))
  if was && !on then d.laneEvt n F.LANE_EVT.as_not_capable else d

/-- A frame received on a lane that no rule takes (R348). -/
def Dev.laneDrop (d : Dev) (n : Nat) : Dev := if d.ethLane n then d.ind32 (lanePage n) 770 1 else d

/-- A Pdelay message arrives (R347, R348): a request is answered; a response and its follow-up give the link delay and the
neighbour's rate. -/
def Dev.asPdelay (d : Dev) (n : Nat) (m : PdelayMsg) : Dev :=
  if !d.asLive n then d.laneDrop n
  else
    let l := d.lane n
    match m with
    | .request port seq => d.laneEnq n (d.asFrame n 72 (.asMsg 3 seq.toNat d.now port.toNat))
    | .response seq t2 =>
      if seq.toNat = l.pdSeq then d.setLane n { l with pdT2 := t2, pdT4 := d.now } else d.laneDrop n
    | .followUp seq t3 =>
      if seq.toNat ≠ l.pdSeq ∨ l.pdT4 < l.pdT1 then d.laneDrop n
      else
        let ratio : Rat := match l.pdPrev with
          | some (a, b) => if l.pdT4 = b then 1 else (((t3 : Int) - a : Int) : Rat) / (((l.pdT4 : Int) - b : Int) : Rat)
          | none => 1
        let delay : Rat := ((((l.pdT4 : Int) - l.pdT1 : Int) : Rat) * ratio - (((t3 : Int) - l.pdT2 : Int) : Rat)) / 2
        let d := d.setLane n { l with pdPrev := some (t3, l.pdT4), pdLost := 0 }
        let d := d.put (F.LINK_DELAY.delay n) (toField (delay * 65536).floor 32)
        let d := d.setInd (lanePage n) 521 (w32 (toField ((ratio - 1) * ((2 ^ 41 : Nat) : Rat)).floor 32))
        d.setCapable n (decide (delay ≤ 800))

/-- A Pdelay response is missing (R348). -/
def Dev.asPdelayLost (d : Dev) (n : Nat) : Dev :=
  if !d.asLive n then d
  else
    let l := d.lane n
    let d := (d.setLane n { l with pdLost := l.pdLost + 1 }).ind32 (lanePage n) 771 1
    if 3 ≤ l.pdLost + 1 then d.setCapable n false else d

end Sys2Proof.Machine
end

