-- ==== Sys2Proof/Machine/HostNet.lean ====
section
/-! DEFINITION. Host ports: sub-ports with their addresses, what they accept and answer (R297 to R301), the PTP ports (R302)
and the ingest receivers (R303 to R311). -/

namespace Sys2Proof.Machine

/-! ## Sub-ports and addresses -/

/-- Whether sub-port `s` of index 0 to 7 exists under a bank (R297, R299). -/
def subOn (rd : View) (s : Nat) : Bool :=
  fv rd (F.HP_PORT_CTL.enable (s / 4)) == 1 && s % 4 < 2 ^ fv rd (F.HP_PORT_CTL.split (s / 4)) && s < 8

def Dev.subUp (d : Dev) (s : Nat) : Bool :=
  subOn d.actv s && bitOf (d.get (F.HP_PORT_STATUS.link_up (s / 4))) (s % 4) == 1

/-- The MAC address of a sub-port; 0 when it has none (R300, R567). -/
def Dev.subMac (d : Dev) (s : Nat) : Nat :=
  d.act (F.SUB_MAC_LO.mac (s / 4) (s % 4)) + d.act (F.SUB_MAC_HI.mac (s / 4) (s % 4)) * 2 ^ 32

/-- The link-local address by modified EUI-64 (R300). -/
def linkLocal (mac : Nat) : Nat :=
  0xFE80 * 2 ^ 112 + ((mac / 2 ^ 24) ^^^ 0x020000) * 2 ^ 40 + 0xFFFE * 2 ^ 24 + mac % 2 ^ 24

/-- The addresses of a sub-port of one family. -/
def Dev.ownAddrs (d : Dev) (s : Nat) (ipv6 : Bool) : List Nat :=
  let (p, i) := (s / 4, s % 4)
  if ipv6 then
    (if d.actIs (F.SUB_IP6.valid p i) then [d.addr6 (d.act (F.SUB_IP6.index p i))] else []) ++
      (if d.subMac s = 0 then [] else [linkLocal (d.subMac s)])
  else if d.act (F.SUB_IP4.addr p i) = 0 then [] else [d.act (F.SUB_IP4.addr p i)]

def Dev.ownAddr (d : Dev) (rx : RxHdr) : Bool := (d.ownAddrs rx.sub.val rx.ipv6).contains rx.dst.toNat

/-- Whether a destination MAC is a group address. -/
def groupMac (m : BitVec 48) : Bool := m.getLsbD 40

/-- A frame for no address, protocol or receiver (R298). -/
def Dev.notMine (d : Dev) (rx : RxHdr) : Dev := d.bump (F.RX_NOT_MINE.count (rx.sub.val / 4) (rx.sub.val % 4))

/-- A frame arrives on a sub-port: the codewords corrected since the last, a free number (R325, log 80), the check of its length,
the stream filters and policers, and whether it is for the sub-port's own MAC or a group (R298, R332, R334, R567). -/
def Dev.hostRx (d : Dev) (rx : RxHdr) : Bool × Dev :=
  let (p, i) := (rx.sub.val / 4, rx.sub.val % 4)
  if !d.subUp rx.sub.val then (false, d)
  else if rx.len < 64 ∨ d.act (F.SUB_MAXFRAME.bytes p i) < rx.len then (false, d.bump (F.RX_FCS_ERR.count p i))
  else
    let d := d.corrected (F.FEC_CORR.count p i)
    let d := (d.bump (F.HP_RX_FRAMES.count p i)).bump (F.RX_FRAMES_TC.count p i (d.ingressClass rx))
    let r := d.police rx
    if !r.1 then r
    else if groupMac rx.dmac || (d.subMac rx.sub.val != 0 && rx.dmac.toNat == d.subMac rx.sub.val) then r
    else (false, r.2.notMine rx)

/-- A frame that is dropped before dispatch (R298): a fragment has passed the policers. How many codewords could not be corrected
where the FCS is bad is free (R325, log 80). -/
def Dev.hostDrop (d : Dev) (rx : RxHdr) (why : RxDrop) : Dev :=
  let (p, i) := (rx.sub.val / 4, rx.sub.val % 4)
  match why with
  | .fcs => if d.subUp rx.sub.val then (d.bump (F.RX_FCS_ERR.count p i)).corrected (F.FEC_UNCORR.count p i) else d
  | .length => if d.subUp rx.sub.val then d.bump (F.RX_FCS_ERR.count p i) else d
  | .fragment => let r := d.hostRx rx; if r.1 then r.2.notMine rx else r.2
  | .notMine => let r := d.hostRx rx; if r.1 then r.2.notMine rx else r.2

/-! ## What the module sends -/

/-- The header and tag of a management frame (R300). -/
def Dev.mgmtEth (d : Dev) (s tc dmac etype : Nat) : EthHdr :=
  let (p, i) := (s / 4, s % 4)
  { dmac := dmac, smac := d.subMac s, etype := etype,
    tag := if d.actIs (F.SUB_IP4_CTL.tagged p i) then some (tc, d.act (F.SUB_IP4_CTL.vid p i)) else none }

/-- The length of a management frame with a body behind the Ethernet header, with its FCS. -/
def Dev.mgmtLen (d : Dev) (s n : Nat) : Nat :=
  max 64 (18 + n + (if d.actIs (F.SUB_IP4_CTL.tagged (s / 4) (s % 4)) then 4 else 0))

/-- Send a management frame; a sub-port without a MAC address originates none (R567). -/
def Dev.mgmtSend (d : Dev) (s tc dmac etype n : Nat) (body : Payload) : Dev :=
  if d.subMac s = 0 ∨ !subOn d.actv s then d
  else
    d.hostEnq s
      { tc := tc, len := d.mgmtLen s n, enq := d.now, noFit := false, eth := d.mgmtEth s tc dmac etype, body := body }

def Dev.txBasic (d : Dev) (s : Nat) : Nat := d.get (F.TX_CLASS.basic (s / 4) (s % 4))

/-- The header of a frame that is no UDP datagram. -/
def noUdp (rx : RxHdr) : RxHdr := { rx with udp := false, sport := 0, dport := 0 }

/-- The header of a UDP datagram. -/
def asUdp (rx : RxHdr) : RxHdr := { rx with udp := true }

/-- An answer of the basic protocols (R301): 0 ARP, 1 Neighbor Advertisement, 2 echo reply. -/
def Dev.basicReply (d : Dev) (rx : RxHdr) (kind etype n : Nat) (body : List Byte) : Dev :=
  let r := d.hostRx (noUdp rx)
  if !r.1 then r.2
  else if !r.2.ownAddr rx then r.2.notMine rx
  else r.2.mgmtSend rx.sub.val (r.2.txBasic rx.sub.val) rx.smac.toNat etype n (.basic kind rx.src.toNat body)

/-! ## Receiver legs (R303) -/

/-- Whether leg A (0) or B (1) of a receiver is enabled, its sub-port, group, source and UDP port. -/
def legOn (rd : View) (r l : Nat) : Bool := rxOn rd r && bitOf (fv rd (F.RX_CTL.legs r)) l == 1
def legSub (rd : View) (r l : Nat) : Nat := fv rd (if l = 0 then F.RX_LEG_A.subport r else F.RX_LEG_B.subport r)
def legUdp (rd : View) (r l : Nat) : Nat := fv rd (if l = 0 then F.RX_UDP.port_a r else F.RX_UDP.port_b r)
def Dev.legDst (d : Dev) (r l : Nat) : Nat :=
  let v := d.act (if l = 0 then F.RX_DST_A.addr r else F.RX_DST_B.addr r)
  if d.actIs (F.RX_CTL.ipv6 r) then d.addr6 (v % 64) else v
def Dev.legSrc (d : Dev) (r l : Nat) : Option Nat :=
  let v := d.act (if l = 0 then F.RX_SRC_A.addr r else F.RX_SRC_B.addr r)
  if d.actIs (F.RX_CTL.ipv6 r) then (if v % 128 = 0 then none else some (d.addr6 ((v % 128 - 1) % 64)))
  else if v = 0 then none else some v

/-- Whether a packet is for a leg by its addresses and port. -/
def Dev.legTakes (d : Dev) (r l : Nat) (rx : RxHdr) : Bool :=
  legOn d.actv r l && legSub d.actv r l == rx.sub.val && d.actIs (F.RX_CTL.ipv6 r) == rx.ipv6 &&
    d.legDst r l == rx.dst.toNat && legUdp d.actv r l == rx.dport.toNat &&
    (match d.legSrc r l with | some a => a == rx.src.toNat | none => true)

/-- A membership report of a leg whose address is a group, 3 for a join and 4 for a leave (R301). -/
def Dev.legReport (d : Dev) (r l kind : Nat) : Dev :=
  let s := legSub d.actv r l
  let v6 := d.actIs (F.RX_CTL.ipv6 r)
  let g := d.legDst r l
  let src := d.legSrc r l
  let group := if v6 then g / 2 ^ 120 == 0xFF else g / 2 ^ 28 == 0xE
  let n := if v6 then (match src with | some _ => 92 | none => 76) else (match src with | some _ => 44 | none => 40)
  let dm := if v6 then 0x333300000016 else 0x01005E000016
  if group then d.mgmtSend s (d.txBasic s) dm (if v6 then 0x86DD else 0x0800) n
    (.basic kind g (match src with | some a => bytesBE 16 a | none => []))
  else d

/-- The reports of the enabled legs of a family on a sub-port, in answer to a query of that family (R301). -/
def Dev.reports (d : Dev) (s : Nat) (v6 : Bool) : Dev :=
  ((List.range 256).flatMap fun r => [(r, 0), (r, 1)]).foldl (fun d x =>
    if legOn d.actv x.1 x.2 && legSub d.actv x.1 x.2 == s && d.actIs (F.RX_CTL.ipv6 x.1) == v6 then d.legReport x.1 x.2 3 else d) d

def Dev.membershipQuery (d : Dev) (rx : RxHdr) : Dev :=
  let r := d.hostRx (noUdp rx)
  if r.1 then r.2.reports rx.sub.val rx.ipv6 else r.2

/-! ## PTP ports (R302) -/

def Dev.ptpOn (d : Dev) (s : Nat) : Bool := d.actIs (F.PTP_CTL.enable 0) && bitOf (d.act (F.PTP_CTL.ports 0)) s == 1

/-- A PTP port changes state. -/
def Dev.setPtp (d : Dev) (s v : Nat) : Dev := if d.get (ptpField s) = v then d else (d.put (ptpField s) v).raise 546

/-- The group address of PTP (R302). -/
def ptpGroup (v6 : Bool) : Nat := if v6 then 0xFF0E * 2 ^ 112 + 0x181 else 0xE0000181

/-- A PTP message is heard: its sub-port is a PTP port, it comes to the group, or with unicast delay requests to an own address of
the sub-port, on its UDP port, 319 for event and 320 for general messages, and the domain is the module's. -/
def Dev.ptpRx (d : Dev) (rx : RxHdr) (port : Nat) (domain : Option Nat) : Bool × Dev :=
  let r := d.hostRx (asUdp rx)
  let d := r.2
  if !r.1 then r
  else if !d.ptpOn rx.sub.val ∨ d.actIs (F.PTP_CTL.ipv6 0) ≠ rx.ipv6 ∨ rx.dport.toNat ≠ port ∨
      !(rx.dst.toNat == ptpGroup rx.ipv6 || (d.actIs (F.PTP_CTL.unicast_dreq 0) && d.ownAddr rx)) then (false, d.notMine rx)
  else (domain.all (· == d.act (F.PTP_CTL.domain 0)), d)

/-- The order of the default BMCA (IEEE 1588-2019): smaller is better. -/
def annKey (a : Announce) : List Nat :=
  [a.priority1.toNat, a.clockClass.toNat, a.accuracy.toNat, a.variance.toNat, a.priority2.toNat, a.gmId.toNat,
   a.steps.toNat, a.sender.toNat]
def keyLt : List Nat → List Nat → Bool
  | a :: l, b :: m => a < b || (a == b && keyLt l m)
  | _, _ => false

/-- The best master over the ports that hear one, and the port: the lower index at a tie. A FAULTY port, whose link is down,
takes no part. -/
def Dev.bestMaster (d : Dev) : Option (Nat × Announce) :=
  (List.range 8).foldl (fun b s =>
    match (if d.ptpOn s && d.subUp s then (d.ptpPort s).ann else none), b with
    | none, b => b
    | some a, none => some (s, a)
    | some a, some x => if keyLt (annKey a) (annKey x.2) then some (s, a) else some x) none

/-- The states of the ports by the BMCA (R302): the port of the best master is UNCALIBRATED until its first offset, then
SLAVE; other ports that hear a master are PASSIVE, the rest LISTENING. Log 38. -/
def Dev.bmca (d : Dev) : Dev :=
  let best := d.bestMaster
  let d := match best, d.slave with
    | some x, some s => if x.1 = s then d else
        let p := d.ptpPort x.1
        { d.setPtpPort x.1 { PtpPort.idle with ann := some x.2, mac := p.mac, foreign := p.foreign } with slave := some x.1 }
    | some x, none => { d with slave := some x.1 }
    | none, _ => { d with slave := none }
  (List.range 8).foldl (fun d s =>
    if !subOn d.actv s then d.setPtp s 0
    else if !d.ptpOn s then (if d.actIs (F.PTP_CTL.enable 0) then d.setPtp s 2 else d.setPtp s 0)
    else if !d.subUp s then d.setPtp s 1
    else
      match (d.ptpPort s).ann with
      | none => d.setPtp s 3
      | some _ =>
        if d.slave = some s then
          (if d.get (ptpField s) = 7 then d else d.setPtp s 6)
        else d.setPtp s 5) d

/-- The time window of foreign masters: four announce intervals of 2^(−3) s to 2 s (IEEE 1588-2019). -/
def annWindow (a : Announce) : Nat := 4 * (125000000 * 2 ^ a.interval.val)

/-- A port has heard an Announce of a sender: the Announces of it that count are those within the window. -/
def PtpPort.hear (p : PtpPort) (now : Nat) (a : Announce) : PtpPort :=
  let k := a.sender.toNat
  let old := ((p.foreign.find? fun e => e.1 == k).map (·.2)).getD []
  { p with foreign := (k, now :: old.filter fun t => now < t + annWindow a) :: p.foreign.filter fun e => e.1 != k }

/-- Whether a master is qualified: two of its Announces lie within the window and it is fewer than 255 steps removed (IEEE 1588-2019,
PRESUMED, log 38). -/
def PtpPort.qualifies (p : PtpPort) (a : Announce) : Bool :=
  decide (a.steps.toNat < 255) && p.foreign.any fun e => e.1 == a.sender.toNat && decide (2 ≤ e.2.length)

/-- A port follows no master, and knows those it has heard beside `k`. -/
def PtpPort.lose (p : PtpPort) (k : Nat) : PtpPort := { PtpPort.idle with foreign := p.foreign.filter fun e => e.1 != k }

/-- An Announce message is heard (R302): of the qualified masters the better of the one held and a new one from another sender stays;
the one held stays while it is fewer than 255 steps removed. A SLAVE port that follows a new master is UNCALIBRATED. -/
def Dev.ptpAnnounce (d : Dev) (rx : RxHdr) (a : Announce) : Dev :=
  let r := d.ptpRx rx 320 (some a.domain.toNat)
  let d := r.2
  let s := rx.sub.val
  if !r.1 || a.sender.toNat / 65536 == d.clockId then d
  else
    let p := (d.ptpPort s).hear d.now a
    let same : Bool := p.ann.any fun o => o.sender == a.sender
    let worse : Bool := p.ann.any fun o => o.sender != a.sender && keyLt (annKey o) (annKey a)
    if same ∧ 255 ≤ a.steps.toNat then (d.setPtpPort s (p.lose a.sender.toNat)).bmca
    else if worse || !(same || p.qualifies a) then d.setPtpPort s p
    else
      let d := (d.setPtpPort s { (if same then p else { PtpPort.idle with foreign := p.foreign }) with
        ann := some a, mac := rx.smac.toNat, ip := rx.src.toNat }).bmca
      if !same ∧ d.inSlave = some s then d.setPtp s 6 else d

/-- The announceReceiptTimeout passes on a port: the master it heard is no longer one it knows. -/
def Dev.ptpTimeout (d : Dev) (s : Nat) : Dev :=
  let p := d.ptpPort s
  if d.ptpOn s then (d.setPtpPort s (p.lose ((p.ann.map fun a => a.sender.toNat).getD 0))).bmca else d

/-- Whether a port follows a sender. -/
def Dev.ptpFrom (d : Dev) (s : Nat) (sender : BitVec 80) : Bool :=
  d.slave == some s && (match (d.ptpPort s).ann with | some a => a.sender == sender | none => false)

/-- A Sync message: its receipt time and, one-step, its origin time; two-step its origin follows, to which the corrections of both
messages are added (R302; IEEE 1588-2019). -/
def Dev.ptpSync (d : Dev) (rx : RxHdr) (sender : BitVec 80) (domain seq : Nat) (two : Bool) (origin : Nat) (corr : Int) : Dev :=
  let r := d.ptpRx rx 319 (some domain)
  let d := r.2
  let s := rx.sub.val
  if r.1 && d.ptpFrom s sender then
    d.setPtpPort s { d.ptpPort s with
      syncSeq := seq, t2 := d.now, twoStep := two, corr := corr, t1 := if two then 0 else ((origin : Int) + corr).toNat }
  else d

def Dev.ptpFollow (d : Dev) (rx : RxHdr) (sender : BitVec 80) (domain seq : Nat) (origin : Nat) (corr : Int) : Dev :=
  let r := d.ptpRx rx 320 (some domain)
  let d := r.2
  let s := rx.sub.val
  let p := d.ptpPort s
  if r.1 && d.ptpFrom s sender && p.twoStep && p.syncSeq == seq then
    d.setPtpPort s { p with t1 := ((origin : Int) + p.corr + corr).toNat, twoStep := false }
  else d

/-- The identity of the PTP port of a sub-port. -/
def Dev.portId (d : Dev) (s : Nat) : Nat := d.clockId * 65536 + s + 1

/-- A delay request leaves on the port that follows a master in the domain of the module: to the group, or to the master itself under
unicast_dreq, on UDP port 319 (R302; the rest of its header PRESUMED, log 38). -/
def Dev.ptpDelayReq (d : Dev) (s : Nat) : Dev :=
  if d.slave = some s ∧ d.ptpOn s ∧ d.subUp s ∧ d.subMac s ≠ 0 then
    let p := d.ptpPort s
    let seq := (p.reqSeq + 1) % 65536
    let v6 := d.actIs (F.PTP_CTL.ipv6 0)
    let d := d.setPtpPort s { p with reqSeq := seq, t3 := none }
    let one := d.actIs (F.PTP_CTL.unicast_dreq 0)
    let ip : IpHdr :=
      { ipv6 := v6, src := (d.ownAddrs s v6).headD 0, dst := if one then p.ip else ptpGroup v6, sport := 319, dport := 319,
        dscp := Config.mgmtIp 0, ttl := Config.mgmtIp 1 }
    d.mgmtSend s (d.get (F.TX_CLASS.ptp (s / 4) (s % 4)))
      (if one then p.mac else if v6 then 0x333300000181 else 0x01005E000181) (if v6 then 0x86DD else 0x0800) (if v6 then 92 else 72)
      (.ptp ip 1 (d.act (F.PTP_CTL.domain 0)) seq 0 (d.portId s))
  else d

/-- A delay response to the port's own request completes an exchange: the mean path delay and the offset (IEEE 1588-2019). -/
def Dev.ptpDelayResp (d : Dev) (rx : RxHdr) (ports : PtpPair) (domain seq : Nat) (receipt : Nat) (corr : Int) : Dev :=
  let r := d.ptpRx rx 320 (some domain)
  let d := r.2
  let s := rx.sub.val
  let p := d.ptpPort s
  match p.t3 with
  | some t3 =>
    if r.1 && d.ptpFrom s ports.source && ports.requesting.toNat == d.portId s && p.reqSeq == seq && p.t1 != 0 && !p.twoStep then
      let t4 : Int := (receipt : Int) - corr
      let delay := (((p.t2 : Int) - p.t1) + (t4 - t3)) / 2
      (d.setPtpPort s { p with delay := delay, offset := (p.t2 : Int) - p.t1 - delay }).setPtp s 7
    else d
  | none => d

/-- The words of PTP_PARENT (R325). -/
def Dev.ptpParent (d : Dev) : List Word :=
  match d.slave.bind fun s => (d.ptpPort s).ann with
  | some a =>
    let s := d.inSlave.getD 0xFF
    [w32 (a.gmId.toNat / 2 ^ 32), w32 a.gmId.toNat,
     w32 (a.priority1.toNat + a.clockClass.toNat * 2 ^ 8 + a.accuracy.toNat * 2 ^ 16 + a.priority2.toNat * 2 ^ 24), w32 s]
  | none => [0, 0, 0, 0xFF]

/-! ## Receivers (R303 to R311) -/

/-- A stream error (R303, R306). -/
def Dev.rxError (d : Dev) (r : Nat) : Dev := (d.bump (F.RX_ERRORS.count r)).once (modMark 551) fun d => d.raise 551

/-- The merge delay in ns (R308). -/
def mergeNs (rd : View) (r : Nat) : Nat := if fv rd (F.RX_CTL.legs r) = 3 then fv rd (F.RX_RATE.merge r) * 100000 else 0

/-- The base of a ring slot (R305). -/
def rxSlot (rd : View) (r i : Nat) : Nat :=
  va48 (fv rd (F.RX_BASE_LO.va_lo r)) (fv rd (F.RX_BASE_HI.va_hi r)) + i * fv rd (F.RX_STEP.step r) * 65536

/-- The bytes of a whole frame. -/
def rxTotal (rd : View) (r : Nat) : Nat := rxRowBytes rd r * rxHeight rd r

/-- The units of a frame buffer to forward: whole units as they fill, the rest at completion (R311). -/
def unitsIn (spans : List (Nat × Nat)) (whole : Bool) : List Nat :=
  let touched := (spans.flatMap fun s =>
    (List.range ((s.1 + s.2 + 63) / 64 - s.1 / 64)).map fun i => s.1 / 64 + i).eraseDups
  if whole then
    touched.filter fun u => (List.range 64).all fun b => spans.any fun s => s.1 ≤ u * 64 + b && u * 64 + b < s.1 + s.2
  else touched

/-- Runs of consecutive units, at most 32 units (2,048 bytes) each. -/
def unitRuns : List Nat → List (Nat × Nat)
  | [] => []
  | u :: us =>
    match unitRuns us with
    | (a, n) :: l => if a = u + 1 ∧ n < 32 then (u, n + 1) :: l else (u, 1) :: (a, n) :: l
    | [] => [(u, 1)]

def insertNat (x : Nat) : List Nat → List Nat
  | [] => [x]
  | y :: l => if x ≤ y then x :: y :: l else y :: insertNat x l
def sortNat (l : List Nat) : List Nat := l.foldr insertNat []

/-- Units of the frame buffers of a receiver are sent to its set of landings, gathered in address order (R311). -/
def Dev.rxSend (d : Dev) (r : Nat) (us : List Nat) : Dev :=
  if !d.actIs (F.RX_CTL.forward r) ∨ !d.actIs F.CASC_CTL.enable then d
  else
    let asid := d.act (F.RX_BASE_HI.asid r)
    (unitRuns (sortNat us)).foldl (fun d u =>
      let data := (List.range (u.2 * 64)).map fun i => (d.mem asid (u.1 * 64 + i)).getD 0
      let x := d.contentSend (d.act (F.RX_FWD.set r)) asid (u.1 * 64) data
      if x.1 then x.2 else x.2.contentDrop) d

/-- Forward what a receiver has written and not yet sent (R311). -/
def Dev.rxForward (d : Dev) (r : Nat) (rest : Bool) : Dev :=
  let v := d.recv r
  let us := (unitsIn v.spans (!rest)).filter fun u => !v.sentUnits.contains u
  (d.setRecv r { v with sentUnits := us ++ v.sentUnits }).rxSend r us

/-- The bytes written to the slot of a frame that is over. -/
def Recv.spansOf (v : Recv) (stamp : Nat) : List (Nat × Nat) :=
  if stamp = v.stamp then v.spans else ((v.past.find? fun x => x.1 == stamp).map (·.2.2)).getD []

/-- A frame that is over takes more bytes. -/
def Recv.spansAdd (v : Recv) (stamp : Nat) (new : List (Nat × Nat)) : Recv :=
  if stamp = v.stamp then { v with spans := new ++ v.spans }
  else { v with past := v.past.map fun x => if x.1 == stamp then (x.1, x.2.1, new ++ x.2.2) else x }

/-- Bytes that come for a frame that is over: the units that they fill are sent, also one sent partly written at the completion, as
R311 sends each once all its bytes are written (DEDUCED, log 39). -/
def Dev.rxLateUnits (d : Dev) (r stamp : Nat) (new : List (Nat × Nat)) : Dev :=
  let v := d.recv r
  let old := v.spansOf stamp
  let us := (unitsIn (new ++ old) true).filter fun u => !(unitsIn old true).contains u
  (d.setRecv r (v.spansAdd stamp new)).rxSend r us

/-- A fence advances at the completion of a frame and the layers with fence_mode 2 on it get their entry (R196, R198,
R309). The bases of planes 1 and 2 of an entry for a layer of several planes are 0: the manual gives that of plane 0 only (DESIGN CHOICE,
log 182). -/
def Dev.fenceByRx (d : Dev) (_r f base : Nat) : Dev :=
  let d := d.fenceSet d.now f (d.fence f + 1)
  ((List.range 8).flatMap fun h => (List.range 33).map fun n => (h, n)).foldl (fun d x =>
    if !notLead d.actv x.1 ∧ d.act (F.FLIP_CTL.fence_mode x.1 x.2) = 2 ∧
        d.act (F.FLIP_CTL.fence x.1 x.2) = f then
      d.queueEntry x.1 x.2 (newEntry base 0 0 0 (d.fence f))
    else d) d

/-- Whether the descent leaves a receiver out of IS, so that it writes nothing and advances no fence (R175). -/
def Dev.rxLeftOut (d : Dev) (r : Nat) : Bool := leftOut d.actv d.stv d.stepsNow r

/-- A receiver that gives up its frame starts again with the first packet of another timestamp, in the next ring slot (R310); the
numbers marked stay marked (R308). Log 39. -/
def Recv.restart (v : Recv) (stamp : Nat) : Recv :=
  { Recv.idle with
    slot := v.slot, fresh := v.fresh, moved := true, stamp := stamp, seqs := v.seqs, top := v.top, lastA := v.lastA, lastB := v.lastB }

/-- A sequence number is marked among the last 65,536 (R308). -/
def Recv.mark (v : Recv) (seq : Nat) : Recv :=
  let top := if v.seqs.isEmpty ∨ seqAbove seq v.top < 2 ^ 31 then seq else v.top
  { v with top := top, seqs := seq :: v.seqs.filter (fun x => seqAbove top x < 65536) }

/-- The ring slot of a frame that is over, by its timestamp, while no later frame has taken it. -/
def Recv.slotOf (v : Recv) (stamp : Nat) : Option Nat :=
  if stamp = v.stamp then some v.slot else (v.past.find? fun x => x.1 == stamp).map (·.2.1)

/-- The frame in progress is abandoned at an application (R310). -/
def Dev.rxAbandon (d : Dev) (r : Nat) : Dev :=
  let v := d.recv r
  let d := d.setRecv r (if v.fresh then v.restart v.stamp else Recv.idle)
  if v.started then (d.cuFrameLost r).bump (F.RX_INCOMPLETE.count r) else d

/-- The frame in progress is completed (R309). Its check units lack bytes where a number of it is missing, or where it is not whole and
its first or last packet never came (R436; DEDUCED, log 140). -/
def Dev.rxComplete (d : Dev) (r : Nat) : Dev :=
  let v := d.recv r
  if !v.started then d
  else if d.rxLeftOut r then (d.setRecv r (v.restart v.stamp)).cuFrameLost r
  else
    let whole := v.bytes == rxTotal d.actv r
    let missing (a : Nat) : Nat :=
      let span := seqAbove v.lastSeq a + 1
      span - (v.frame.eraseDups.filter fun q => seqAbove q a < span).length
    let d := d.cuFrameEnd r (missing v.firstSeq != 0 || (!whole && (!v.known || !v.ended)))
    let d := d.rxForward r true
    let d := d.setRecv r { d.recv r with
      started := false, due := none, frame := [], sentUnits := [], ended := v.ended || whole }
    let d := d.bumpBy (F.RX_LOST.count r) (missing v.base)
    if whole || !d.actIs (F.RX_CTL.complete_only r) then
      let d := (d.bump (F.RX_FRAMES.count r)).put (F.RX_STATUS.last_slot r) v.slot
      ((List.range 512).filter fun f => fenceReceiver d.stv f == some r).foldl
        (fun d f => d.fenceByRx r f (rxSlot d.actv r v.slot)) d
    else (d.bump (F.RX_INCOMPLETE.count r)).once (modMark 550) fun d => d.raise 550

/-- Whether the rows of a packet lie in the frame (R306). -/
def rxRowsOk (rd : View) (r : Nat) (rows : List Srd) : Bool :=
  match fmtInfo (fv rd (F.RX_CTL.fmt r)) with
  | none => false
  | some f =>
    rows.all fun x => x.row < rxHeight rd r && x.offset % f.ppg == 0 && x.data.length % f.gb.getD 0 1 == 0 &&
      x.offset + x.data.length / f.gb.getD 0 1 * f.ppg ≤ fv rd (F.RX_SIZE.w_m1 r) + 1

/-- Where the rows of a packet are written (R305). -/
def rxParts (rd : View) (r slot : Nat) (rows : List Srd) : List (Nat × List Byte) :=
  match fmtInfo (fv rd (F.RX_CTL.fmt r)) with
  | none => []
  | some f => rows.map fun x =>
      (rxSlot rd r slot + x.row * fv rd (F.RX_STRIDE.stride r) + x.offset / f.ppg * f.gb.getD 0 1, x.data)

/-- Whether a packet holds the first pixel of its frame. -/
def rtpHead (p : RtpPacket) : Bool := p.rows.any fun x => x.row == 0 && x.offset == 0

/-- The first packet of a new timestamp starts a frame in the next ring slot (R304, R305). Numbers between the frame before and this
packet belong to the frame before where this packet is the first of its own and that one's last has not come (DEDUCED, log 140). -/
def Dev.rxFrameStart (d : Dev) (r : Nat) (p : RtpPacket) : Dev :=
  let seq := p.seq.toNat
  let v := d.recv r
  let near := v.fresh && !v.moved && decide (0 < seqAbove seq v.lastSeq) && decide (seqAbove seq v.lastSeq < 65536)
  let d := if near && rtpHead p && v.started && !v.ended then d.setRecv r { v with lastSeq := (seq + 2 ^ 32 - 1) % 2 ^ 32 } else d
  let d := (d.rxComplete r).cuFrame r
  let v := d.recv r
  let n := d.act (F.RX_BASE_HI.ring_m1 r) + 1
  let next := (v.lastSeq + 1) % 2 ^ 32
  let after := near && v.ended && !rtpHead p
  d.setRecv r { v with
    slot := if v.fresh then (v.slot + 1) % n else 0, started := true, fresh := true, moved := false,
    past := if v.fresh && !v.moved then ((v.stamp, v.slot, v.spans) :: v.past).take (n - 1) else [], stamp := p.stamp.toNat,
    bytes := 0, spans := [], frame := [], firstSeq := if after then next else seq, known := after || rtpHead p,
    base := if near then next else seq, lastSeq := seq, ended := false, due := none, sentUnits := [] }

/-- A packet of a leg has come in, whatever becomes of it (R309). -/
def Dev.legHeard (d : Dev) (r l : Nat) : Dev :=
  let v := d.recv r
  (d.setRecv r { v with lastA := if l = 0 then d.now else v.lastA, lastB := if l = 1 then d.now else v.lastB }).put
    (if l = 0 then F.RX_STATUS.leg_a_seen r else F.RX_STATUS.leg_b_seen r) 1
def Dev.legCount (d : Dev) (r l : Nat) : Dev := d.bump (if l = 0 then F.RX_PKTS_A.count r else F.RX_PKTS_B.count r)

/-- An accepted packet of a receiver: merge, place, write and, at the end of a frame, complete (R305 to R309). A packet of a frame that
is over is written to that frame's slot while it stands, forwarded with the units it fills (R311), and counts for nothing else; one of a
frame that was given up is not written (log 39). Those of a receiver left out of IS count in their leg only (R175). One whose walk
needs a stack whose traffic is held waits, before it has had any effect but that of its arrival (R456; DEDUCED, log 51). -/
def Dev.rxTake (d : Dev) (r l : Nat) (p : RtpPacket) : Dev :=
  let v := d.recv r
  let seq := p.seq.toNat
  let below := seqAbove v.top seq
  if d.rxLeftOut r then
    ((if v.started then d.cuFrameLost r else d).setRecv r ((v.restart p.stamp.toNat).mark seq)).legCount r l
  else if v.seqs.contains seq then d.bump (F.RX_DUP.count r)
  else if !v.seqs.isEmpty ∧ 65536 ≤ below ∧ below < 2 ^ 31 then d.bump (F.RX_LATE.count r)
  else if v.moved ∧ p.stamp.toNat = v.stamp then (d.setRecv r (v.mark seq)).legCount r l
  else if !rxRowsOk d.actv r p.rows then d.rxError r
  else
    let isNew := !v.fresh || v.moved || (p.stamp.toNat != v.stamp && (p.stamp - BitVec.ofNat 32 v.stamp).toNat < 2 ^ 31)
    let inFrame := isNew || (v.started && p.stamp.toNat == v.stamp)
    let n := d.act (F.RX_BASE_HI.ring_m1 r) + 1
    let slot := if isNew then some (if v.fresh then (v.slot + 1) % n else 0) else v.slotOf p.stamp.toNat
    let parts := (slot.map fun i => rxParts d.actv r i p.rows).getD []
    let w := d.writeWhole 5 r (d.act (F.RX_BASE_HI.asid r)) 1 parts
    if d.partsHeld (d.act (F.RX_BASE_HI.asid r)) parts then d.ingestHold (.packet r l p)
    else if !w.1 then w.2.rxError r
    else
      let d := if isNew then w.2.rxFrameStart r p else w.2
      let v := (d.recv r).mark seq
      let d := d.setRecv r { v with
        frame := if v.started then seq :: v.frame else v.frame,
        firstSeq := if inFrame ∧ (rtpHead p ∨ seqAbove seq v.firstSeq ≥ 2 ^ 31) then seq else v.firstSeq,
        known := v.known || (inFrame && rtpHead p),
        base := if inFrame ∧ seqAbove seq v.base ≥ 2 ^ 31 then seq else v.base,
        ended := v.ended || (inFrame && p.marker),
        lastSeq := if inFrame ∧ seqAbove seq v.lastSeq < 2 ^ 31 then seq else v.lastSeq,
        bytes := if inFrame then v.bytes + (parts.map (·.2.length)).sum else v.bytes,
        spans := if inFrame then parts.map (fun x => (x.1, x.2.length)) ++ v.spans else v.spans }
      let d := d.legCount r l
      if !inFrame then d.rxLateUnits r p.stamp.toNat (parts.map fun x => (x.1, x.2.length))
      else
        let d := d.cuPacket r (d.recv r).first? seq (parts.flatMap (·.2))
        let d := d.rxForward r false
        let v := d.recv r
        if rxTotal d.actv r ≤ v.bytes then d.rxComplete r
        else if p.marker then
          (if mergeNs d.actv r = 0 then d.rxComplete r
           else if v.due.isSome then d else d.setRecv r { v with due := some (d.now + mergeNs d.actv r) })
        else d

/-- A packet of a receiver is taken, or waits behind those of its receiver that wait (R456). -/
def Dev.rxQueue (d : Dev) (r l : Nat) (p : RtpPacket) : Dev :=
  if d.ingestWaits r then d.ingestHold (.packet r l p) else d.rxTake r l p
def Dev.rxAccept (d : Dev) (r l : Nat) (p : RtpPacket) : Dev := (d.legHeard r l).rxQueue r l p

/-- An RTP packet arrives (R303). -/
def Dev.rxPacket (d : Dev) (rx : RxHdr) (p : RtpPacket) : Dev :=
  let x := d.hostRx (asUdp rx)
  if !x.1 then x.2
  else
    let legs := ((List.range 256).flatMap fun r => [(r, 0), (r, 1)]).filter fun q => x.2.legTakes q.1 q.2 rx
    if legs.isEmpty then x.2.notMine rx
    else
      legs.foldl (fun d q =>
        if p.version.toNat = 2 ∧ p.pt.toNat = d.act (F.RX_CTL.pt q.1) ∧
            (!d.actIs (F.RX_CTL.ssrc_check q.1) ∨ p.ssrc.toNat = d.act (F.RX_SSRC.ssrc q.1)) then
          d.rxAccept q.1 q.2 p
        else d.rxError q.1) x.2

/-- D_merge after the marker (R309); a packet that has arrived and waits for its stack is in time (R456; DEDUCED, log 51). -/
def Dev.rxMergeTimeout (d : Dev) (r : Nat) : Dev :=
  match (d.recv r).due with
  | some t => if t ≤ d.now ∧ !d.ingestWaits r then d.rxComplete r else d
  | none => d

/-- A leg that has delivered nothing for 10 ms while the other delivers (R309). -/
def Dev.rxLegLoss (d : Dev) (r : Nat) (b : Bool) : Dev :=
  let v := d.recv r
  let mine := if b then v.lastB else v.lastA
  let other := if b then v.lastA else v.lastB
  let f := if b then F.RX_STATUS.leg_b_seen r else F.RX_STATUS.leg_a_seen r
  if d.act (F.RX_CTL.legs r) = 3 ∧ rxOn d.actv r ∧ d.is f ∧ mine + 10000000 ≤ d.now ∧ d.now < other + 10000000 then
    (d.put f 0).raise 552
  else d

end Sys2Proof.Machine
end

