-- ==== Sys2Proof/Machine/AedBase.lean ====
section
/-! DEFINITION. Aedwin frames as the module sends them (R312, R313, R323). -/

namespace Sys2Proof.Machine

/-- The identifier of session `i` in a header. Log 40. -/
def sidOf (i : Nat) : Nat := Config.sessionId i % 65536

/-- A frame: header, body and, under a key, the tag (R313). -/
def aedBytes (type sid seq ref : Nat) (body : List Byte) (key : Option (List Byte)) : List Byte :=
  let h := bytesBE 2 0xAED1 ++ [1, BitVec.ofNat 8 type] ++ bytesBE 2 sid ++ bytesBE 2 body.length ++ bytesBE 4 seq ++
    bytesBE 4 ref ++ body
  match key with
  | some k => h ++ (hmac k h).take 16
  | none => h

/-- Send a frame to a peer in a class; one that does not fit its sub-port is not sent (R312). -/
def Dev.aedTo (d : Dev) (p : Peer) (evt : Bool) (frame : List Byte) : Dev :=
  let (q, i) := (p.sub / 4, p.sub % 4)
  let n := (if p.ipv6 then 48 else 28) + frame.length
  if d.act (F.SUB_MAXFRAME.bytes q i) < d.mgmtLen p.sub n then d.bump F.AED_DROPPED.count
  else
    let ip : IpHdr :=
      { ipv6 := p.ipv6, src := p.own, dst := p.addr, sport := d.get F.AED_CTL.udp_port, dport := p.port,
        dscp := Config.mgmtIp 0, ttl := Config.mgmtIp 1 }
    d.mgmtSend p.sub (if evt then d.get (F.TX_CLASS.aed_evt q i) else d.get (F.TX_CLASS.aed_resp q i)) p.mac
      (if p.ipv6 then 0x86DD else 0x0800) n (.aedwin ip frame)

/-- The next frame of a session: its bytes and the session after it. -/
def Sess.frame (s : Sess) (i type ref : Nat) (body : List Byte) : List Byte × Sess :=
  let q := (s.txSeq + 1) % 2 ^ 32
  (aedBytes type (sidOf i) q ref body (if s.keyless then none else some s.key), { s with txSeq := q })

/-- A frame of a session without a request: EVENT, COMMIT_ANSWER and COMMIT_OUTCOME. -/
def Dev.aedNote (d : Dev) (i type : Nat) (evt : Bool) (body : List Byte) : Dev :=
  match d.sess i with
  | some s =>
    let r := s.frame i type 0 body
    (d.setSess i (some r.2)).aedTo s.peer evt r.1
  | none => d

/-- The response to request number `ref` of a session, kept with it where it is one of the last eight executed (R316, R318); a bulk
write of that number is no longer awaited (R319). -/
def Dev.aedResp (d : Dev) (i type ref status : Nat) (body : List Byte) : Dev :=
  match d.sess i with
  | some s =>
    let r := s.frame i (type + 0x80) ref ([BitVec.ofNat 8 status, 0, 0, 0] ++ body)
    (d.setSess i (some { r.2 with
      stored := r.2.stored.map (fun x => if x.1 = ref then (ref, r.1) else x), bulks := r.2.bulks.filter (· != ref) })).aedTo s.peer false r.1
  | none => d

/-- The requests of a session that wait for a grant go on when it closes: at its level, with its session-local fields as they stand, and
unanswered (R315). -/
def Dev.closeJobs (d : Dev) (i : Nat) : Dev :=
  let n := (d.pwr.flashWait.map fun j => if j.acc < 32 then 0 else (j.acc - 32) / 64 + 1).foldl max 0
  let a := closedAcc n (d.ownLevel i) i
  let waits := d.pwr.flashWait.any fun j => j.acc == i
  let own (e : Nat × Word) : Bool := e.1 / 2 ^ 32 == i
  { d with
    regs.loc := (d.regs.loc.filter fun e => !own e) ++ (if waits then (d.regs.loc.filter own).map fun e => (a * 2 ^ 32 + e.1 % 2 ^ 32, e.2) else []),
    pwr.flashWait := d.pwr.flashWait.map fun j => if j.acc = i then { j with acc := a, fin := .quiet } else j }

/-- A session closes (R315). -/
def Dev.aedClose (d : Dev) (i : Nat) : Dev :=
  match d.sess i with
  | none => d
  | some _ =>
    let forget (m : Commit) : Commit := if m.sess = some i then { m with sess := none } else m
    let d := (d.closeJobs i).setSess i none
    let d := { d with
      commit := d.commit.map forget, dry := d.dry.map forget,
      bulk := d.bulk.map fun (b : Nat × Bulk) => if b.2.sess = i then (b.1, { b.2 with sess := 16 }) else b }
    (d.setStored (F.SESS.open i).addr 0).raise 548

/-- The sessions of a sub-port that is lost close. -/
def Dev.aedSubLost (d : Dev) (s : Nat) : Dev :=
  (List.range 16).foldl (fun d i =>
    match d.sess i with
    | some x => if x.peer.sub = s then d.aedClose i else d
    | none => d) d

/-- COMMIT_ANSWER to the session that asked (R323). -/
def Dev.aedAnswer (d : Dev) (sess : Option Nat) (a : Answer) : Dev :=
  match sess with
  | some i =>
    d.aedNote i 0x61 false (wordBE a.gen ++ bytesBE 1 a.code ++ bytesBE 1 a.res ++ bytesBE 2 (toField a.margin 16) ++
      bytesBE 8 a.target)
  | none => d

/-- COMMIT_OUTCOME to the session that asked (R323). -/
def Dev.aedOutcome (d : Dev) (sess : Option Nat) (gen : Word) (outcome : Nat) : Dev :=
  match sess with
  | some i => d.aedNote i 0x62 false (wordBE gen ++ bytesBE 4 (outcome * 2 ^ 24))
  | none => d

end Sys2Proof.Machine
end

