-- ==== Sys2Proof/Machine/Dma.lean ====
section
/-! DEFINITION. The DMA engine (R399 to R431): descriptors, their checks, the movement of data, requests, completion, pause,
faults and disable, and the bulk writes of a host port (R320, R419). -/

namespace Sys2Proof.Machine

/-! ## Descriptors (R406, R407) -/

/-- Word i of a descriptor. -/
def descQ (ws : List Nat) (i : Nat) : Nat := ws.getD i 0

/-- A side of a descriptor: the address word, the stride and whether it wraps. -/
structure Side where
  va     : Nat
  asid   : Nat
  target : Nat
  wrap   : Nat
  stride : Nat
deriving DecidableEq, Repr

def sideOf (w stride : Nat) : Side :=
  { va := bitsOf w 0 48, asid := bitsOf w 48 4, target := bitsOf w 52 2, wrap := bitsOf w 54 5, stride := stride }

/-- A descriptor read out: op, completion record, event, lines, tag, the two sides, length, parameters, set and NEXT. -/
structure Desc where
  op    : Nat
  cmpl  : Bool
  evt   : Bool
  lines : Nat
  tag   : Nat
  src   : Side
  dst   : Side
  len   : Nat
  par   : Nat
  set   : Nat
  next  : Nat
deriving DecidableEq, Repr

def descOf (ws : List Nat) : Desc :=
  { op := bitsOf (descQ ws 0) 0 4, cmpl := bitOf (descQ ws 0) 4 == 1, evt := bitOf (descQ ws 0) 5 == 1,
    lines := bitsOf (descQ ws 0) 8 16 + 1, tag := bitsOf (descQ ws 0) 24 16,
    src := sideOf (descQ ws 1) (bitsOf (descQ ws 4) 0 32), dst := sideOf (descQ ws 2) (bitsOf (descQ ws 4) 32 32),
    len := bitsOf (descQ ws 3) 0 24, par := descQ ws 5, set := bitsOf (descQ ws 6) 0 16, next := descQ ws 7 }

/-- Parameters of the plane operations (R413). -/
def Desc.np (x : Desc) : Nat := bitsOf x.par 0 16 + 1
def Desc.w (x : Desc) : Nat := bitsOf x.par 16 4 + 1
def Desc.ch (x : Desc) : Nat := bitsOf x.par 20 2 + 1
/-- Parameters of the interleave operations (R414). -/
def Desc.m (x : Desc) : Nat := bitsOf x.par 0 16 + 1
def Desc.e (x : Desc) : Nat := 2 ^ bitsOf x.par 16 2
def Desc.k (x : Desc) : Nat := 2 ^ bitsOf x.par 18 2
def Desc.sub (x : Desc) : Nat := bitsOf x.par 32 32

/-- The destination bytes of a line. -/
def Desc.lineBytes (x : Desc) : Nat :=
  match x.op with
  | 0 => x.len
  | 1 => x.len
  | 2 => ceilDiv (x.np * x.ch * x.w) 8
  | 3 => ceilDiv (x.np * x.ch * x.w) 8
  | _ => x.k * x.m * x.e

/-- The source bytes of a line: none for FILL (R412). -/
def Desc.srcBytes (x : Desc) : Nat := if x.op = 1 then 0 else x.lineBytes

/-- The bytes a line spans on a side: the planar side of ops 4 and 5 spans its k lines (DEDUCED, log 46). -/
def Desc.spanOf (x : Desc) (dst : Bool) : Nat :=
  if (x.op = 4 ∧ dst = false) ∨ (x.op = 5 ∧ dst = true) then (x.k - 1) * x.sub + x.m * x.e
  else if dst then x.lineBytes else x.srcBytes

/-- The extent of a side (R410). -/
def Side.extent (s : Side) (lines span : Nat) : Nat × Nat :=
  if s.wrap = 0 then (s.va, s.va + (lines - 1) * s.stride + span)
  else (s.va / 2 ^ s.wrap * 2 ^ s.wrap, s.va / 2 ^ s.wrap * 2 ^ s.wrap + 2 ^ s.wrap)

/-- Whether the two memory sides overlap (R410). -/
def Desc.overlap (x : Desc) : Bool :=
  let a := x.src.extent x.lines (x.spanOf false)
  let b := x.dst.extent x.lines (x.spanOf true)
  x.op != 1 && x.src.target == 0 && x.dst.target == 0 && x.src.asid == x.dst.asid && a.1 < b.2 && b.1 < a.2

/-- A COPY whose overlap is handled as a move (R410). -/
def Desc.movable (x : Desc) : Bool :=
  x.op == 0 && (x.lines == 1 || x.src.stride == x.dst.stride) && x.src.wrap == 0 && x.dst.wrap == 0

/-- A move in descending order (R410). -/
def Desc.backward (x : Desc) : Bool := x.overlap && x.movable && x.src.va < x.dst.va

/-- Whether a bit listed as 0 is set (R406, R407, R412, R414). -/
def Desc.badFormat (ws : List Nat) : Bool :=
  let q := descQ ws
  let x := descOf ws
  bitsOf (q 0) 6 2 != 0 || bitsOf (q 0) 40 24 != 0 || bitsOf (q 1) 59 5 != 0 || bitsOf (q 2) 59 5 != 0
    || bitsOf (q 3) 24 40 != 0 || (x.op == 0 && q 5 != 0) || bitsOf (q 6) 16 48 != 0
    || (x.dst.target != 2 && x.set != 0) || bitsOf (q 7) 48 15 != 0 || (x.op == 1 && q 1 != 0)
    || (x.src.target == 1 && (x.src.va != 0 || x.src.asid != 0 || x.src.stride != 0 || x.src.wrap != 0))
    || (4 ≤ x.op && bitsOf (q 5) 20 12 != 0)

/-- The address of byte `i` of line `l` of a side (R407, R411). -/
def Side.addr (s : Side) (l i : Nat) : Nat :=
  if s.wrap = 0 then (s.va + l * s.stride + i) % 2 ^ 48
  else s.va / 2 ^ s.wrap * 2 ^ s.wrap + (s.va + l * s.stride + i) % 2 ^ s.wrap

/-- Bytes `i` to `i + n - 1` of a line as runs of consecutive addresses. -/
def Side.runs (s : Side) (l : Nat) : Nat → Nat → Nat → List (Nat × Nat)
  | 0, _, _ => []
  | fuel + 1, i, n =>
    if n = 0 then []
    else if s.wrap = 0 then [(s.addr l i, n)]
    else
      let room := 2 ^ s.wrap - (s.va + l * s.stride + i) % 2 ^ s.wrap
      if n ≤ room then [(s.addr l i, n)]
      else (s.addr l i, room) :: Side.runs s l fuel (i + room) (n - room)

/-- The runs of a part of a line of a side; the planar side of ops 4 and 5 is its k lines one after another. -/
def Desc.runs (x : Desc) (dst : Bool) (l i n : Nat) : List (Nat × Nat) :=
  let s := if dst then x.dst else x.src
  if (x.op = 4 ∧ dst = false) ∨ (x.op = 5 ∧ dst = true) then
    (List.range x.k).map fun p => (s.addr l (p * x.sub), x.m * x.e)
  else s.runs l (n / 64 + 2) i n

/-! ## The operations on a line (R412 to R414) -/

/-- The bits of bytes, most significant first, and back. -/
def bitsMsb (bs : List Byte) : List Bool := bs.flatMap fun b => (List.range 8).map fun i => b.getLsbD (7 - i)
def bytesMsb (n : Nat) (bits : List Bool) : List Byte :=
  (List.range n).map fun j =>
    BitVec.ofNat 8 ((List.range 8).foldl (fun a i => 2 * a + b2n (bits.getD (8 * j + i) false)) 0)

/-- The place in pixel order of each bit of bit-plane order (R413). -/
def planeOrder (np w ch : Nat) : List Nat :=
  (List.range w).flatMap fun b => (List.range ch).flatMap fun q => (List.range np).map fun k => (k * ch + q) * w + b

/-- PLANE_SPLIT and PLANE_JOIN of a line. -/
def planeSplit (np w ch : Nat) (bs : List Byte) : List Byte :=
  let b := bitsMsb bs
  bytesMsb (ceilDiv (np * ch * w) 8) ((planeOrder np w ch).map fun i => b.getD i false)
def planeJoin (np w ch : Nat) (bs : List Byte) : List Byte :=
  let b := bitsMsb bs
  let o := planeOrder np w ch
  bytesMsb (ceilDiv (np * ch * w) 8) ((List.range (np * ch * w)).map fun i => b.getD (o.idxOf i) false)

/-- INTERLEAVE and DEINTERLEAVE of a line: the planar line holds its k planes one after another. -/
def interleave (m e k : Nat) (bs : List Byte) : List Byte :=
  (List.range m).flatMap fun j => (List.range k).flatMap fun i => (bs.drop ((i * m + j) * e)).take e
def deinterleave (m e k : Nat) (bs : List Byte) : List Byte :=
  (List.range k).flatMap fun i => (List.range m).flatMap fun j => (bs.drop ((j * k + i) * e)).take e

/-- FILL: bytes `i` to `i + n - 1` of a line (R412). -/
def fillBytes (q5 i n : Nat) : List Byte := (List.range n).map fun j => BitVec.ofNat 8 (bitsOf q5 (8 * ((i + j) % 8)) 8)

/-- What an operation makes of the source bytes of a part of a line. -/
def Desc.apply (x : Desc) (bs : List Byte) : List Byte :=
  match x.op with
  | 2 => planeSplit x.np x.w x.ch bs
  | 3 => planeJoin x.np x.w x.ch bs
  | 4 => interleave x.m x.e x.k bs
  | 5 => deinterleave x.m x.e x.k bs
  | _ => bs

/-- Cut a stretch of `n` bytes from `a` at the multiples of `step`. -/
def cutAt (step : Nat) : Nat → Nat → Nat → List (Nat × Nat)
  | 0, _, _ => []
  | fuel + 1, a, n =>
    if n = 0 then []
    else
      let k := min n (step - a % step)
      (a, k) :: cutAt step fuel (a + k) (n - k)

/-- The pieces of a line of a side in ascending order, as address and length: what each 64-byte unit holds of it (R409, R416), a
message of up to 2,048 bytes for a multicast (R417). -/
def Desc.pieces (x : Desc) (dst : Bool) (l : Nat) : List (Nat × Nat) :=
  let n := if dst then x.lineBytes else x.srcBytes
  if dst ∧ x.dst.target = 2 then
    (x.runs true l 0 n).flatMap fun r => (cutAt 2048 (r.2 / 2048 + 2) 0 r.2).map fun p => (r.1 + p.1, p.2)
  else if !dst ∧ x.src.target = 1 then cutAt 64 (n / 64 + 2) 0 n
  else (x.runs dst l 0 n).flatMap fun r => cutAt 64 (r.2 / 64 + 2) r.1 r.2

/-- The lines in the order of the transfer. -/
def Desc.lineAt (x : Desc) (j : Nat) : Nat := if x.backward then x.lines - 1 - j else j
/-- The pieces of a line in the order of the transfer. -/
def Desc.piecesAt (x : Desc) (dst : Bool) (l : Nat) : List (Nat × Nat) :=
  if x.backward then (x.pieces dst l).reverse else x.pieces dst l

/-- The piece that a count of bytes of a line leads to, with those of it already taken. -/
def pieceAfter : List (Nat × Nat) → Nat → Option (Nat × Nat × Nat)
  | [], _ => none
  | p :: ps, n => if n < p.2 then some (p.1, p.2, n) else pieceAfter ps (n - p.2)

/-- Enough beats for a whole descriptor. -/
def Desc.beats (x : Desc) : Nat := x.lines * (3 * x.lineBytes + 2700) + 1

/-! ## Source bytes of the operations 2 to 5 (R413, R414)

A source line that the buffer of 4 KiB holds is taken whole; a longer one is read for each piece of its destination line, which needs
at most 512 bytes of it (R391; DEDUCED, log 46). -/

/-- The bit of the source line that bit `t` of the destination line is: PLANE_SPLIT and PLANE_JOIN. -/
def Desc.srcBit (x : Desc) (t : Nat) : Nat :=
  if x.op = 2 then (t % x.np * x.ch + t / x.np % x.ch) * x.w + t / (x.ch * x.np)
  else t % x.w * (x.ch * x.np) + t / x.w % x.ch * x.np + t / x.w / x.ch

/-- The byte of the source line that byte `t` of the destination line is, planar bytes counted line after line: INTERLEAVE and
DEINTERLEAVE. -/
def Desc.srcByte (x : Desc) (t : Nat) : Nat :=
  if x.op = 4 then (t / x.e % x.k * x.m + t / x.e / x.k) * x.e + t % x.e
  else (t % (x.m * x.e) / x.e * x.k + t / (x.m * x.e)) * x.e + t % x.e

/-- Whether a source line is taken whole. -/
def Desc.whole (x : Desc) : Bool := decide (x.op < 2) || decide (x.srcBytes ≤ 4096)

/-- The address of byte `j` of a source line, planar bytes counted line after line. -/
def Desc.srcAddr (x : Desc) (l j : Nat) : Nat :=
  if x.op = 4 then x.src.addr l (j / (x.m * x.e) * x.sub + j % (x.m * x.e)) else x.src.addr l j

/-- The destination bytes that are made at once: the whole line, or the piece that begins at byte `a`. -/
def Desc.chunk (x : Desc) (l a : Nat) : Nat × Nat :=
  if x.whole then (0, x.lineBytes)
  else
    match pieceAfter (x.piecesAt true l) a with
    | some p => (a, p.2.1)
    | none => (a, 0)

/-- The bits of a plane operation's line. -/
def Desc.lineBits (x : Desc) : Nat := x.np * x.ch * x.w

/-- The source bytes that some destination bytes are made of, those of a 64-byte unit together. -/
def Desc.needs (x : Desc) (l : Nat) (q : Nat × Nat) : List Nat :=
  if x.whole then List.range x.srcBytes
  else
    let js :=
      if x.op < 4 then
        (((List.range (8 * q.2)).filter fun i => decide (8 * q.1 + i < x.lineBits)).map fun i => x.srcBit (8 * q.1 + i) / 8).eraseDups
      else (List.range q.2).map fun i => x.srcByte (q.1 + i)
    ((js.map fun j => x.srcAddr l j / 64).eraseDups).flatMap fun u => js.filter fun j => x.srcAddr l j / 64 == u

/-- The destination bytes made of the source bytes they need. -/
def Desc.make (x : Desc) (ns : List Nat) (q : Nat × Nat) (bs : List Byte) : List Byte :=
  if x.whole then x.apply bs
  else
    let byte (j : Nat) : Byte := bs.getD (ns.idxOf j) 0
    (List.range q.2).map fun i =>
      if x.op < 4 then
        BitVec.ofNat 8 ((List.range 8).foldl (fun a b =>
          let t := 8 * (q.1 + i) + b
          2 * a + (if t < x.lineBits then b2n ((byte (x.srcBit t / 8)).getLsbD (7 - x.srcBit t % 8)) else 0)) 0)
      else byte (x.srcByte (q.1 + i))

/-! ## The channel -/

def Dev.chEn (d : Dev) (c : Nat) : Bool := d.is (F.CH_CTL.enable c)
def Dev.chState (d : Dev) (c : Nat) : Nat := d.get (F.CH_STATUS.state c)
def Dev.setChState (d : Dev) (c v : Nat) : Dev := d.put (F.CH_STATUS.state c) v
def Dev.chDesc (d : Dev) (c : Nat) : Desc := descOf (d.chan c).words

/-- The port whose bulk writes a channel serves (R419). -/
def Dev.bulkPort (d : Dev) (c : Nat) : Option Nat :=
  (List.range 2).find? fun p =>
    (if p = 0 then d.get F.AED_BULK_CTL.chan0 else d.get F.AED_BULK_CTL.chan1) == c && d.get (F.CH_CTL.req_src c) == 1 + p

/-- The bytes that a channel holds, with a byte beside each that is not 0 where it failed in staging, and their count of units
(R428). -/
def Dev.setHeld (d : Dev) (c : Nat) (b bad : List Byte) : Dev :=
  (d.setChan c { d.chan c with buf := b, struck := bad }).put (F.CH_STATUS.buf_units c) (min 64 (ceilDiv b.length 64))
def Dev.setChBuf (d : Dev) (c : Nat) (b : List Byte) : Dev := d.setHeld c b []

/-- An event of a channel and of the engine. -/
def Dev.chRaise (d : Dev) (c : Nat) (r : Nat → FieldRef) (e : Nat) : Dev := (d.chEvt c r).raise e

/-- The credit of a channel in thousandths of a byte (R401). -/
def Dev.chCredit (d : Dev) (c : Nat) : Int :=
  min 16384000 ((d.chan c).credit + ((d.now - (d.chan c).creditAt) * d.act (F.CH_RES.rate c) : Nat))
/-- Units read take their bytes from the credit, which runs into no debt: the bound of R402 leaves room for none (DEDUCED, log 137). -/
def Dev.chSpend (d : Dev) (c units : Nat) : Dev :=
  d.setChan c { d.chan c with credit := max 0 (d.chCredit c - (64000 * units : Nat)), creditAt := d.now }

/-- The credit up to now has accrued at the rates in force. -/
def Dev.creditSettle (d : Dev) : Dev := d.chans.foldl (fun d e => d.chSpend e.1 0) d

/-- The effective priority (R401). -/
def Dev.chPrio (d : Dev) (c : Nat) : Nat := d.get (F.CH_CTL.prio c) + (if 64000 ≤ d.chCredit c then 8 else 0)

/-! ## The engine (R400 to R404) -/

/-- A channel that runs or is pre-empted. -/
def Dev.chReady (d : Dev) (c : Nat) : Bool := d.chState c == 1 || d.chState c == 3

/-- The channel served among some: highest effective priority, then the descriptor started least recently (R401). -/
def Dev.chBest (d : Dev) (cs : List Nat) : Option Nat :=
  cs.foldl (fun best c =>
    match best with
    | none => some c
    | some b =>
      if d.chPrio b < d.chPrio c || (d.chPrio b == d.chPrio c && (d.chan c).started < (d.chan b).started) then some c
      else some b) none

/-! ## Moving data (R409 to R417) -/

/-- How a beat ends: it moved data, or the descriptor is whole, a fault, uncorrectable data, a wait for the peripheral, nothing to
move, or a channel of higher priority that the engine goes to. -/
inductive MoveEnd where
  | go | done | fault | ue | wait | cut | yield
deriving DecidableEq, Repr

/-- Read one piece of a line in a space: its whole unit is read, through translation (kind 3), in class BE, and takes 64 bytes of
credit (R401, R409). With the bytes come their failures in staging (R45). No beat is issued to a stack whose traffic is held (R456). -/
def Dev.readPiece (d : Dev) (c asid a n : Nat) : Except MoveEnd (List Byte × List Byte) × Dev :=
  if d.vaHeld asid (a % 2 ^ 48) then (.error .cut, d) else
  match d.xlate 3 c asid (a % 2 ^ 48) false with
  | (.bad _ _, d) => (.error .fault, d)
  | (.ok pa, d) =>
    let r := (d.chSpend c 1).readUnit 2 false pa
    match (if r.1 then r.2.readPaN pa n else none) with
    | none => (.error .ue, r.2)
    | some bs => (.ok (bs, (List.range n).map fun i => if d.vaStruck asid ((a + i) % 2 ^ 48) then 0xFF else 0), r.2)

/-- The bytes the peripheral holds for a channel: the data of the bulk write in progress; a peripheral source that stages
nothing grants bytes the manual does not name (log 47). -/
def Dev.periphBytes (d : Dev) (c n : Nat) : List Byte × Dev :=
  match (d.chan c).bulk with
  | some p =>
    match d.bulk.find? fun b => b.1 == p with
    | some b =>
      (b.2.data.take n,
        { d with bulk := (p, { b.2 with data := b.2.data.drop n }) :: d.bulk.erase b })
    | none => ((List.range n).map fun i => BitVec.ofNat 8 (Config.freeNat (d.seed + i)), { d with seed := d.seed + n })
  | none => ((List.range n).map fun i => BitVec.ofNat 8 (Config.freeNat (d.seed + i)), { d with seed := d.seed + n })

/-- Take bytes of a line into the buffer, which keeps them in ascending order. -/
def Dev.takeIn (d : Dev) (c : Nat) (x : Desc) (bs bad : List Byte) : Dev :=
  let v := d.chan c
  let join (new old : List Byte) : List Byte := if x.backward then new ++ old else old ++ new
  (d.setChan c { v with srcRead := v.srcRead + bs.length }).setHeld c (join bs v.buf) (join bad v.struck)

/-- The beat that reads the next piece of the line in progress (R409, R416): from memory, or of what the peripheral has granted, a
unit for a beat; each takes 64 bytes of credit (R401). -/
def Dev.readBeat (d : Dev) (c : Nat) (x : Desc) (l : Nat) : MoveEnd × Dev :=
  match pieceAfter (x.piecesAt false l) (d.chan c).srcRead with
  | none => (.cut, d)
  | some p =>
    if x.src.target = 1 then
      if (d.chan c).granted = 0 then (.wait, d)
      else
        let r := ((d.setChan c { d.chan c with granted := (d.chan c).granted - 1 }).chSpend c 1).periphBytes c p.2.1
        (.go, r.2.takeIn c x r.1 (List.replicate r.1.length 0))
    else
      match d.readPiece c x.src.asid p.1 p.2.1 with
      | (.error e, d) => (e, d)
      | (.ok b, d) => (.go, d.takeIn c x b.1 b.2)

/-- The destination bytes that the channel makes next, and the source bytes they need. -/
def Dev.chunkOf (d : Dev) (c : Nat) (x : Desc) (l : Nat) : Nat × Nat := x.chunk l ((d.chan c).done % x.lineBytes)
def Dev.needsOf (d : Dev) (c : Nat) (x : Desc) (l : Nat) : List Nat := x.needs l (d.chunkOf c x l)

/-- The beat of an operation 2 to 5 that reads the unit of the next source bytes needed; with the last of them the destination bytes
are made. -/
def Dev.gatherBeat (d : Dev) (c : Nat) (x : Desc) (l : Nat) : MoveEnd × Dev :=
  let ns := d.needsOf c x l
  let q := d.chunkOf c x l
  match ns.drop (d.chan c).srcRead with
  | [] => (.cut, d)
  | j :: _ =>
    let u := x.srcAddr l j / 64
    let js := (ns.drop (d.chan c).srcRead).takeWhile fun j => x.srcAddr l j / 64 == u
    match d.readPiece c x.src.asid (u * 64) 64 with
    | (.error e, d) => (e, d)
    | (.ok b, d) =>
      let v := d.chan c
      let n := v.srcRead + js.length
      let join (old new : List Byte) : List Byte :=
        let l' := old ++ js.map fun j => new.getD (x.srcAddr l j % 64) 0
        if n = ns.length then x.make ns q l' else l'
      (.go, (d.setChan c { v with srcRead := n }).setHeld c (join v.buf b.1) (join v.struck b.2))

/-- The beat that reads. -/
def Dev.readNext (d : Dev) (c : Nat) (x : Desc) (l : Nat) : MoveEnd × Dev :=
  if x.op < 2 then d.readBeat c x l else d.gatherBeat c x l

/-- Whether the line has more to read and the buffer of 4 KiB room for it (R391). -/
def Dev.mayRead (d : Dev) (c : Nat) (x : Desc) (l : Nat) : Bool :=
  if x.op < 2 then decide ((d.chan c).srcRead < x.srcBytes) && decide ((d.chan c).buf.length + 64 ≤ 4096)
  else decide ((d.chan c).srcRead < (d.needsOf c x l).length)

/-- Check units that follow a channel absorb the destination bytes of a descriptor whose tag they take (R433, R435). -/
def Dev.dmaTap (d : Dev) (c : Nat) (x : Desc) (bs : List Byte) : Dev :=
  (d.cusOn 5 c).foldl (fun d u =>
    if x.tag &&& d.act (F.CU_TAGM.mask u) = d.act (F.CU_TAGM.tag u) then
      let d := d.cuAbsorb u (if x.backward then bs.reverse else bs)
      if x.backward then d.setCu u { d.cu u with back := true } else d
    else d) d

/-- A descriptor given up, by an abort or a skip, leaves the region of its tag incomplete; one that its check has refused has moved nothing,
and its region counts where none has been opened (R408, R436). -/
def Dev.dmaTapShort (d : Dev) (c : Nat) : Dev :=
  let v := d.chan c
  if v.words.isEmpty then d
  else (List.range 56).foldl (fun d u =>
    if !d.cuActive u || d.cuKind u != 5 || d.cuIndex u != c ||
        decide ((d.chDesc c).tag &&& d.act (F.CU_TAGM.mask u) ≠ d.act (F.CU_TAGM.tag u)) then d
    else if d.cuIn u then d.cuShort u
    else if v.stage = .fetch then (d.bump (F.CU_INCOMPLETE.count u)).cuEvt u F.CU_EVT.incomplete
    else d) d

/-- Send a message of a multicast: the landing's own copy first, then the ports, none when one cannot queue it
(R417, R264). The queue is tested before the own copy is written, so a repeat after a fault sends nothing twice. -/
def Dev.partSend (d : Dev) (c : Nat) (x : Desc) (va : Nat) (bs : List Byte) : MoveEnd × Dev :=
  if !(d.contentSend x.set x.dst.asid va bs).1 then (.wait, d)
  else
    let r := if bitOf x.set (d.get F.CASC_ID.landing) = 1 then d.writeVa 4 c x.dst.asid 2 va (bs.map some) else (0, d, true)
    if r.2.2 then (.done, (r.2.1.contentSend x.set x.dst.asid va bs).2) else (.fault, r.2.1)

/-- The bursts that take bytes which failed in staging are marked: what is composed from them is substituted (R43, R45). -/
def Dev.strike (d : Dev) (asid va : Nat) (bad : List Byte) : Dev :=
  let bursts := ((bad.zipIdx.filter fun m => m.1 != 0).map fun m => (va + m.2) / 32).eraseDups
  { d with struck := bursts.filterMap (fun b =>
      match d.translate asid (b * 32 % 2 ^ 48) true with
      | .ok pa => some (pa / 32)
      | .bad _ _ => none) ++ d.struck }

/-- A write that the buffer of a channel can make: where, the bytes and their failures in staging. -/
structure WriteBeat where
  va  : Nat
  bs  : List Byte
  bad : List Byte

/-- The next write of the line in progress, once the buffer holds a whole piece of it, or what it holds of one for a withdrawal
(R416). -/
def Dev.nextWrite (d : Dev) (c : Nat) (x : Desc) (l : Nat) (some' : Bool) : Option WriteBeat :=
  let v := d.chan c
  match pieceAfter (x.piecesAt true l) (v.done % x.lineBytes) with
  | none => none
  | some p =>
    let n := p.2.1 - p.2.2
    let k := v.buf.length
    if x.op = 1 then some ⟨p.1 + p.2.2, fillBytes x.par (v.done % x.lineBytes) n, []⟩
    else if 2 ≤ x.op ∧ v.srcRead < (d.needsOf c x l).length then none
    else if x.backward then (if k < n then none else some ⟨p.1, v.buf.drop (k - n), v.struck.drop (k - n)⟩)
    else if n ≤ k ∨ (some' ∧ 0 < k) then some ⟨p.1 + p.2.2, v.buf.take n, v.struck.take n⟩
    else none

/-- The channel has written bytes of a line: the position moves on, and with the last of a line to the next. -/
def Dev.wrote (d : Dev) (c : Nat) (x : Desc) (w : WriteBeat) : Dev :=
  let v := d.chan c
  let n := w.bs.length
  let rest (l : List Byte) : List Byte := if x.backward then l.take (l.length - n) else l.drop n
  let next := !x.whole || ((v.done + n) % x.lineBytes == 0 && decide ((v.done + n) / x.lineBytes < x.lines))
  let d := d.setChan c { v with done := v.done + n, srcRead := if next then 0 else v.srcRead }
  ((d.setHeld c (rest v.buf) (rest v.struck)).strike x.dst.asid w.va w.bad).dmaTap c x w.bs

/-- The beat that makes a write: through translation (kind 4) to memory, or as a message to the landings (R417). One whose walk needs a
stack whose traffic is held waits (R456). -/
def Dev.writeBeat (d : Dev) (c : Nat) (x : Desc) (w : WriteBeat) : MoveEnd × Dev :=
  let here := x.dst.target ≠ 2 ∨ bitOf x.set (d.get F.CASC_ID.landing) = 1
  if here ∧ d.someHeld ∧ d.walkHeld x.dst.asid w.va then (.cut, d)
  else if x.dst.target = 2 then
    match d.partSend c x w.va w.bs with
    | (.done, d) =>
      (.go, d.wrote c x { w with bad := if bitOf x.set (d.get F.CASC_ID.landing) = 1 then w.bad else [] })
    | (e, d) => (e, d)
  else
    match d.writeVa 4 c x.dst.asid 2 w.va (w.bs.map some) with
    | (_, d, true) => (.go, d.wrote c x w)
    | (_, d, false) => (.fault, d)

/-- The line in progress. -/
def Dev.lineNow (d : Dev) (c : Nat) (x : Desc) : Nat := x.lineAt ((d.chan c).done / x.lineBytes)

/-- Every write of a descriptor is made (R420). -/
def Dev.chWhole (d : Dev) (c : Nat) (x : Desc) : Bool := decide (x.lines ≤ (d.chan c).done / x.lineBytes)

/-- A channel whose peripheral has granted nothing more, with nothing whole to write (R401). -/
def Dev.chStarved (d : Dev) (c : Nat) : Bool :=
  let x := d.chDesc c
  x.src.target == 1 && (d.chan c).granted == 0 && decide ((d.chan c).srcRead < x.srcBytes) &&
    (d.nextWrite c x (d.lineNow c x) false).isNone

/-- A channel at work on a descriptor, and one with a beat of it to issue (R401). -/
def Dev.chRuns (d : Dev) (c : Nat) : Bool := d.chReady c && (d.chan c).stage == .run && (d.chan c).begun
def Dev.chGoes (d : Dev) (c : Nat) : Bool := d.chRuns c && !d.chStarved c

/-- The ready channels of higher effective priority than one served: in narrow mode the engine goes to them at the next beat (R403,
R404). -/
def Dev.higher (d : Dev) (c : Nat) : List Nat :=
  if d.is F.ENG_STATUS.wide then [] else (List.range 64).filter fun k => d.chGoes k && decide (d.chPrio c < d.chPrio k)
/-- Whether such a channel takes the engine, apart from some that come only after the beats in question. -/
def Dev.outranked (d : Dev) (c : Nat) (late : List Nat) : Bool := (d.higher c).any fun k => !late.contains k

/-- A beat of the descriptor in progress: what the buffer can write goes first, then the next piece is read (R403). -/
def Dev.beat (d : Dev) (c : Nat) (x : Desc) : MoveEnd × Dev :=
  if d.chWhole c x then (.done, d)
  else
    match d.nextWrite c x (d.lineNow c x) false with
    | some w => d.writeBeat c x w
    | none => if d.mayRead c x (d.lineNow c x) then d.readNext c x (d.lineNow c x) else (.cut, d)

/-- Beats of a channel: before each, but for the last write's end, the engine chooses again (R403). -/
def Dev.beatsN (c : Nat) (x : Desc) (late : List Nat) : Nat → Dev → MoveEnd × Dev
  | 0, d => (.cut, d)
  | n + 1, d =>
    if !d.chWhole c x && d.outranked c late then (.yield, d)
    else
      match d.beat c x with
      | (.go, d) => Dev.beatsN c x late n d
      | r => r

/-- Reads that run ahead of the writes of a line, as the buffer has room (R391, R403). -/
def Dev.aheadN (c : Nat) (x : Desc) (late : List Nat) : Nat → Dev → MoveEnd × Dev
  | 0, d => (.cut, d)
  | n + 1, d =>
    let l := d.lineNow c x
    if d.chWhole c x ∨ !d.mayRead c x l then (.cut, d)
    else if d.outranked c late then (.yield, d)
    else
      match d.readNext c x l with
      | (.go, d) => Dev.aheadN c x late n d
      | r => r

/-- What a channel holds of data from a peripheral is written (R416). -/
def Dev.flushN (c : Nat) (x : Desc) : Nat → Dev → MoveEnd × Dev
  | 0, d => (.cut, d)
  | n + 1, d =>
    match d.nextWrite c x (d.lineNow c x) true with
    | some w =>
      match d.writeBeat c x w with
      | (.go, d) => Dev.flushN c x n d
      | r => r
    | none => (.cut, d)

/-! ## Stops (R408, R425) -/

/-- A channel enters PAUSED without software. -/
def Dev.chPaused (d : Dev) (c cause : Nat) : Dev :=
  ((d.setChState c 5).put (F.CH_STATUS.cause c) cause).chRaise c F.CH_EVT.paused 673

/-- A descriptor error. -/
def Dev.descError (d : Dev) (c code : Nat) : Dev :=
  let d := ((d.put (F.CH_STATUS.err c) code).bump (F.DESC_ERRORS.count c)).chRaise c F.CH_EVT.desc_error 674
  d.chPaused c 3

/-- A translation fault stops the channel; a bulk write is answered XLAT_FAULT (R320). -/
def Dev.xlatStop (d : Dev) (c : Nat) : Dev :=
  let d := ((d.bump (F.XLAT_STOPS.count c)).chRaise c F.CH_EVT.xlat_stop 675).chPaused c 2
  match (d.chan c).bulk.bind fun p => d.bulk.find? fun b => b.1 == p with
  | some b => ((d.bump F.AED_BULK_FAULTS.count).raise 553).aedResp b.2.sess 0x20 b.2.seq 4 []
  | none => d

/-- Uncorrectable read data stops the channel. -/
def Dev.ueStop (d : Dev) (c : Nat) : Dev :=
  ((d.bump (F.UE_STOPS.count c)).chRaise c F.CH_EVT.ue_stop 680).chPaused c 4

/-- A withdrawn request (R416), counted once. -/
def Dev.withdrawn (d : Dev) (c : Nat) (m2p : Bool) : Dev :=
  if m2p then ((d.setChan c { d.chan c with noReq := true }).bump (F.WD_M2P.count c)).setChState c 2
  else
    let e := (d.setChan c { d.chan c with granted := 0, gone := true }).setChState c 2
    if (d.chan c).gone then e else e.bump (F.WD_P2M.count c)

/-- A unit of a channel faults, or its read is uncorrectable: the list read among them is a descriptor error (R408), a beat stops the
channel (R425). A channel that has nothing issued has none. -/
def Dev.chFails (d : Dev) (c : Nat) (ue : Bool) : Dev :=
  if !d.chReady c && d.chState c != 4 then d
  else
    match (d.chan c).stage with
    | .none => d
    | .fetch => d.descError c (if ue then 9 else 8)
    | .next => d.descError c (if ue then 9 else 8)
    | _ => if ue then d.ueStop c else d.xlatStop c

/-! ## Fetch and start (R405, R408, R418, R422) -/

/-- The free entries of a completion queue (R422). -/
def Dev.cqFree (d : Dev) (c : Nat) : Nat :=
  2 ^ d.get (F.CQ_CTL.size_log2 c) - (d.get (F.CQ_TAIL.tail c) + 65536 - d.get (F.CQ_HEAD.head c)) % 65536

/-- Whether the landing ports can queue a message of a multicast: what they declare as space (R416, R264; DEDUCED, log 47). -/
def Dev.portsTake (d : Dev) (x : Desc) : Bool := (d.contentSend x.set x.dst.asid x.dst.va []).1

/-- Whether the landing ports request data of a channel (R416). -/
def Dev.m2pOk (d : Dev) (c : Nat) (x : Desc) : Bool := !(d.chan c).noReq && d.portsTake x

/-- Start the fetched descriptor, or wait for a queue entry or a request. -/
def Dev.chBegin (d : Dev) (c : Nat) : Dev :=
  let x := d.chDesc c
  let src := d.get (F.CH_CTL.req_src c)
  if (d.chan c).stage ≠ .run ∨ (d.chan c).begun then d
  else if x.cmpl && d.is (F.CQ_CTL.enable c) && d.cqFree c == 0 then
    if d.chState c = 7 then d
    else ((d.setChState c 7).bump (F.CQ_FULL_WAITS.count c)).chRaise c F.CH_EVT.cq_full 677
  else if 8 ≤ src ∧ src < 16 ∧ !(d.chan c).tickReq then d.setChState c 2
  else if (x.src.target = 1 ∧ (d.chan c).granted = 0) ∨ (x.dst.target = 2 ∧ !d.m2pOk c x) then d.setChState c 2
  else
    let d := d.setChan c { d.chan c with
      begun := true, tickReq := false, started := d.starts + 1, done := 0, srcRead := 0 }
    let d := ({ d.setChBuf c [] with starts := d.starts + 1 }).put (F.CH_STATUS.backward c) (b2n x.backward)
    let d := if x.backward then d.bump (F.MOVES_BACK.count c) else d
    d.setChState c 1

/-- The checks of a descriptor in the order of their codes (R408, log 49). -/
def Dev.descCheck (d : Dev) (c : Nat) (ws : List Nat) : Option Nat :=
  let x := descOf ws
  let p2m := d.get (F.CH_CTL.req_src c) == 1 || d.get (F.CH_CTL.req_src c) == 2
  let badWrap (s : Side) : Bool := (1 ≤ s.wrap && s.wrap ≤ 5) || (s.wrap != 0 && 2 ≤ x.op)
  if 6 ≤ x.op then some 1
  else if Desc.badFormat ws then some 2
  else if (bitOf x.next 63 = 1 ∧ x.next % 64 ≠ 0)
      ∨ (x.dst.target = 2 ∧ (x.dst.va % 64 ≠ 0 ∨ x.len % 64 ≠ 0 ∨ x.dst.stride % 64 ≠ 0)) then some 3
  else if (x.op < 2 ∧ x.len = 0)
      ∨ (d.is F.ENG_STATUS.wide ∧ (65536 < x.lines * x.srcBytes ∨ 65536 < x.lines * x.lineBytes)) then some 4
  else if badWrap x.src ∨ badWrap x.dst ∨ (4 ≤ x.op ∧ x.k = 1) then some 5
  else if (x.overlap ∧ !x.movable) ∨ (x.op = 5 ∧ x.sub < x.m * x.e) then some 6
  else if 2 ≤ x.src.target ∨ x.dst.target = 1 ∨ x.dst.target = 3 ∨ (x.src.target = 1 ∧ (!p2m ∨ x.op ≠ 0))
      ∨ (x.dst.target = 2 ∧ (!d.actIs F.CASC_CTL.enable ∨ 2 ≤ x.op)) then some 7
  else none

/-- A list read: words of a descriptor or a NEXT word, in desc_asid (R405). -/
def Dev.listRead (d : Dev) (c va n : Nat) : Except Nat (List Byte) × Dev :=
  match d.xlate 3 c (d.get (F.CH_CTL.desc_asid c)) (va % 2 ^ 48) false with
  | (.bad _ _, d) => (.error 8, d)
  | (.ok pa, d) =>
    let r := d.readUnit 2 false pa
    match (if r.1 then r.2.readPaN pa n else none) with
    | none => (.error 9, r.2)
    | some bs => (.ok bs, r.2)

/-- Whether a list read waits for a stack whose traffic is held (R456). -/
def Dev.listHeld (d : Dev) (c va : Nat) : Bool := d.vaHeld (d.get (F.CH_CTL.desc_asid c)) (va % 2 ^ 48)

/-- Descriptors are fetched next from an address. -/
def Dev.chFetch (d : Dev) (c va : Nat) : Dev :=
  ((d.setChan c { d.chan c with stage := .fetch, desc := va, words := [], begun := false, done := 0, srcRead := 0 }
    ).setChBuf c []).setChState c 1

/-! ## Bulk writes (R320, R419) -/

/-- Where no enabled channel serves the bulk writes of a port any more, those in its staging are answered BUSY (R419; DEDUCED, log 119). -/
def Dev.bulkRefuse (d : Dev) (p : Nat) : Dev :=
  if (List.range 64).any fun k => d.chEn k && d.bulkPort k == some p then d
  else
    (d.bulk.filter fun b => b.1 == p).foldl (fun d b =>
      Dev.aedResp { d with bulk := d.bulk.erase b } b.2.sess 0x20 b.2.seq 3 []) d

/-- The bulk write at the head of a port's staging is gone. -/
def Dev.bulkDrop (d : Dev) (p : Nat) : Dev :=
  match d.bulk.find? fun b => b.1 == p with
  | some b => { d with bulk := d.bulk.erase b }
  | none => d

/-- The engine leaves a channel that comes to the boundary of its descriptors by itself, to choose again (R401, R404). -/
def Dev.engLeave (d : Dev) (c : Nat) : Dev := if d.serving = some c then { d with serving := none } else d

/-- Whether another channel is still on the bulk write at the head of a port's staging (R419). -/
def Dev.bulkTaken (d : Dev) (c p : Nat) : Bool :=
  (List.range 64).any fun k => k != c && (d.chan k).bulk == some p && (d.chan k).stage == .run

/-- A bulk channel takes the oldest bulk write of its port as its descriptor, or waits for one. -/
def Dev.bulkLoad (d : Dev) (c p : Nat) : Dev :=
  let d := d.engLeave c
  match if d.bulkTaken c p then none else d.bulk.find? fun b => b.1 == p with
  | none => (d.setChan c { d.chan c with stage := .none, words := [], begun := false, granted := 0 }).setChState c 2
  | some b =>
    let ws := [0, 2 ^ 52, b.2.va + b.2.asid * 2 ^ 48, b.2.data.length, 0, 0, 0, 0]
    (d.setChan c { d.chan c with
      stage := .run, desc := 0, words := ws, begun := false, granted := ceilDiv b.2.data.length 64, gone := false }).chBegin c

/-- The bulk channels of a port that wait take its next write, as another has left the one before (R419). -/
def Dev.bulkWake (d : Dev) (p : Nat) : Dev :=
  (List.range 64).foldl (fun d k =>
    if d.chEn k && (d.chan k).bulk == some p && (d.chan k).stage == .none && d.chState k == 2 then d.bulkLoad k p else d) d

/-- A channel whose serving of bulk writes changes, by AED_BULK_CTL or its req_src, takes up what it now serves once no descriptor is
in progress: bulk writes, or its list from CH_HEAD (R419; DEDUCED, log 138). -/
def Dev.bulkAdopt (d : Dev) (c : Nat) : Dev :=
  let v := d.chan c
  if !d.chEn c ∨ v.bulk = d.bulkPort c ∨ [0, 4, 5].contains (d.chState c) ∨ (v.stage = .run ∧ v.begun) ∨ v.stage = .record then d
  else
    let d := d.setChan c { d.chan c with bulk := d.bulkPort c, granted := 0 }
    let d := match d.bulkPort c with
      | some p => d.bulkLoad c p
      | none => (d.engLeave c).chFetch c (va48 (d.get (F.CH_HEAD_LO.va_lo c)) (d.get (F.CH_HEAD_HI.va_hi c)))
    match v.bulk with
    | some p => (d.bulkRefuse p).bulkWake p
    | none => d

/-- The NEXT word is read: the next fetch, or END (R405); while its stack's traffic is held the read waits (R456). A channel that serves
bulk writes from now on takes those. -/
def Dev.chNext (d : Dev) (c : Nat) : Dev :=
  let d := (d.setChan c { d.chan c with stage := .next, words := [], begun := false }).setChBuf c []
  if d.chEn c ∧ (d.bulkPort c).isSome then d.bulkAdopt c
  else if d.listHeld c ((d.chan c).desc + 56) then d
  else
    match d.listRead c ((d.chan c).desc + 56) 8 with
    | (.error e, d) => d.descError c e
    | (.ok bs, d) =>
      let n := ofLE bs
      if bitOf n 63 = 0 then (d.setChan c { d.chan c with stage := .none }).setChState c 6
      else if n % 64 ≠ 0 then d.descError c 3
      else d.chFetch c (bitsOf n 0 48)

/-! ## Completion (R420 to R423) -/

/-- A completion or abort record without its phase bit (R423). -/
def Dev.cqRecord (d : Dev) (c type desc none' bytes tag : Nat) : List Byte :=
  bytesLE 4 (desc % 2 ^ 32)
    ++ bytesLE 4 (desc / 2 ^ 32 % 65536 + d.get (F.CH_CTL.desc_asid c) * 65536 + type * 2 ^ 20 + none' * 2 ^ 22 + c * 2 ^ 24)
    ++ bytesLE 4 bytes ++ bytesLE 4 (tag + d.get (F.DESC_DONE.count c) % 65536 * 65536)
    ++ bytesLE 4 (nsOf d.now) ++ bytesLE 4 (secOf d.now) ++ bytesLE 4 (secOf d.now / 2 ^ 32 % 65536) ++ bytesLE 4 0

/-- Where the next record goes. -/
def Dev.cqAt (d : Dev) (c : Nat) : Nat :=
  (va48 (d.get (F.CQ_BASE_LO.va_lo c)) (d.get (F.CQ_BASE_HI.va_hi c)) +
    d.get (F.CQ_TAIL.tail c) % 2 ^ d.get (F.CQ_CTL.size_log2 c) * 32) % 2 ^ 48

/-- Whether the write of a record waits for a stack whose traffic is held (R456). -/
def Dev.cqHeld (d : Dev) (c : Nat) : Bool := d.someHeld && d.walkHeld (d.get (F.CH_CTL.desc_asid c)) (d.cqAt c)

/-- Write a record at the tail with its phase: false at a translation fault. -/
def Dev.cqWrite (d : Dev) (c : Nat) (r : List Byte) : Bool × Dev :=
  let k := 2 ^ d.get (F.CQ_CTL.size_log2 c)
  let i := d.get (F.CQ_TAIL.tail c)
  let r := r.mapIdx fun j b => if j = 7 then b ||| BitVec.ofNat 8 ((i / k + 1) % 2 * 128) else b
  match d.writeWhole 4 c (d.get (F.CH_CTL.desc_asid c)) 2 [(d.cqAt c, r)] with
  | (true, d) => (true, d.put (F.CQ_TAIL.tail c) ((i + 1) % 65536))
  | (false, d) => (false, d)

/-- A record write that faulted pauses the channel; a resume writes it again. -/
def Dev.recordStop (d : Dev) (c : Nat) (r : List Byte) : Dev :=
  (d.setChan c { d.chan c with stage := .record, buf := r }).xlatStop c

/-- The event of a completed descriptor, then its NEXT word. -/
def Dev.chCompleted (d : Dev) (c : Nat) : Dev :=
  let d := if (d.chDesc c).evt then d.chRaise c F.CH_EVT.done 672 else d
  d.chNext c

/-- The completion record is written, and the channel goes on; while its stack's traffic is held it waits (R456). -/
def Dev.recordWrite (d : Dev) (c : Nat) (r : List Byte) : Dev :=
  if d.cqHeld c then d.setChan c { d.chan c with stage := .record, buf := r }
  else
    match d.cqWrite c r with
    | (true, d) => d.chCompleted c
    | (false, d) => d.recordStop c r

/-- Completion in the order of R420. -/
def Dev.complete (d : Dev) (c : Nat) : Dev :=
  let x := d.chDesc c
  let bytes := x.lines * x.lineBytes
  let d := d.bump (F.DESC_DONE.count c)
  let d := d.setChan c { d.chan c with
    total := ((d.chan c).total + bytes) % 2 ^ 64, whole := some ((d.chan c).desc, x.tag) }
  if x.cmpl && d.is (F.CQ_CTL.enable c) then
    d.recordWrite c (d.cqRecord c 0 (d.chan c).desc 0 bytes x.tag)
  else d.chCompleted c

/-! ## The end of a descriptor -/

/-- Write the abort records that wait, as entries are free; one whose write faults (DEDUCED, log 119) or needs a stack whose
traffic is held (R456) goes on waiting. None is issued
in a power failure (R524). -/
def Dev.abortRecords (c : Nat) : List (List Byte) → Dev → Dev
  | [], d => d.setChan c { d.chan c with aborts := [] }
  | r :: rs, d =>
    let d := d.setChan c { d.chan c with aborts := r :: rs }
    if d.cqFree c = 0 ∨ d.cqHeld c then d
    else
      match d.cqWrite c r with
      | (true, d) => Dev.abortRecords c rs d
      | (false, d) => d
def Dev.abortRecord (d : Dev) (c : Nat) : Dev :=
  if (d.chan c).aborts.isEmpty || d.pwr.fail.isSome then d else Dev.abortRecords c (d.chan c).aborts d

/-- A disable takes effect. A bulk channel drops the write that faulted, which is answered, and refuses those that wait. -/
def Dev.chAbortNow (d : Dev) (c : Nat) : Dev :=
  let d := d.dmaTapShort c
  let bulk := (d.chan c).bulk
  let d := match bulk with
    | some p => (if d.chState c = 5 ∧ d.get (F.CH_STATUS.cause c) = 2 then d.bulkDrop p else d).bulkRefuse p
    | none => d
  let d := (d.setChan c { d.chan c with
    stage := .none, words := [], begun := false, granted := 0, tickReq := false, bulk := none }).setChBuf c []
  let d := ((d.setChState c 0).put (F.CH_STATUS.cause c) 0).put (F.CH_STATUS.backward c) 0
  let d := match bulk with
    | some p => d.bulkWake p
    | none => d
  let d := (d.bump (F.ABORTS.count c)).chRaise c F.CH_EVT.abort 676
  if d.is (F.CQ_CTL.enable c) then
    let w := (d.chan c).whole
    let r := d.cqRecord c 1 (w.getD (0, 0)).1 (b2n w.isNone) 0 (w.getD (0, 0)).2
    (d.setChan c { d.chan c with aborts := (d.chan c).aborts ++ [r] }).abortRecord c
  else d

/-- The engine serves the channel that ranks first among those with a beat to issue. -/
def Dev.serveBest (d : Dev) : Dev :=
  match d.chBest ((List.range 64).filter d.chGoes) with
  | none => { d with serving := none }
  | some c => { d.setChState c 1 with serving := some c }

/-- A bulk write is whole: the response OK follows its completion, and the channel takes the next, or the disable that waited for it
(R320, R419, R420). At this descriptor boundary the engine chooses again (R401, R404). -/
def Dev.bulkComplete (d : Dev) (c p : Nat) : Dev :=
  match d.bulk.find? fun b => b.1 == p with
  | none => d
  | some b =>
    let bytes := (d.chDesc c).len
    let d := d.bump (F.DESC_DONE.count c)
    let d := d.setChan c { d.chan c with
      total := ((d.chan c).total + bytes) % 2 ^ 64, whole := some (0, 0), stage := .none, begun := false }
    let d := (d.bulkDrop p).aedResp b.2.sess 0x20 b.2.seq 0 []
    let served := d.serving == some c
    let d := if !d.chEn c then d.chAbortNow c else if d.bulkPort c = some p then d.bulkLoad c p else d.bulkAdopt c
    let d := d.bulkWake p
    if served then d.serveBest else d

/-- Every write of the descriptor in progress is in its queue (R420). -/
def Dev.chDone (d : Dev) (c : Nat) : Dev :=
  match (d.chan c).bulk with
  | some p => d.bulkComplete c p
  | none => d.complete c

/-- The peripheral of a channel gives no more data: what the channel holds of it is written, and it waits, unless the descriptor is
whole with that (R320, R416, R420). What the landing ports do not ask for stays until they do. -/
def Dev.noData (d : Dev) (c : Nat) : Dev :=
  let x := d.chDesc c
  if x.dst.target = 2 ∧ (d.chan c).noReq then d.withdrawn c false else
  match Dev.flushN c x x.beats d with
  | (.fault, d) => (d.withdrawn c false).xlatStop c
  | (.wait, d) => (d.withdrawn c false).withdrawn c true
  | (_, d) =>
    let d := d.withdrawn c false
    if d.chWhole c x then (d.setChState c 1).chDone c else d

/-- A channel is pre-empted: it keeps what it holds, and the engine goes to the one of higher effective priority (R403). -/
def Dev.handOver (d : Dev) (c : Nat) : Dev := ((d.setChState c 3).bump (F.PREEMPTS.count c)).serveBest

/-- A movement ends: the descriptor completes, or the channel stops, waits or is pre-empted. -/
def Dev.moveStop (d : Dev) (c : Nat) (e : MoveEnd) : Dev :=
  match e with
  | .yield => d.handOver c
  | .done => d.chDone c
  | .fault => d.xlatStop c
  | .ue => d.ueStop c
  | .wait => if (d.chDesc c).src.target = 1 ∧ (d.chan c).granted = 0 then d.noData c else d.withdrawn c true
  | _ => d

/-- The engine comes to a channel: those it serves before give way by pre-emption alone, each with the beat that takes its credit
below 64 (R401, R403). None where one of them would have to end its descriptor or stop first. -/
def Dev.engReach (c : Nat) : Nat → Dev → Option Dev
  | 0, _ => none
  | n + 1, d =>
    match d.serving with
    | none => none
    | some k =>
      if k = c then some d
      else
        match Dev.beatsN k (d.chDesc k) [] (d.chDesc k).beats d with
        | (.yield, d) => Dev.engReach c n (d.handOver k)
        | _ => none

/-- Move the descriptor in progress of a channel to its end, or until something stops it. Where it is pre-empted on the way, the
channels that go before it run until they give way in their turn, or it stays pre-empted (R403). A channel takes the engine by its
credit once at most before some other one, so the counts below suffice. -/
def Dev.chMoveN (c : Nat) : Nat → Dev → Dev
  | 0, d => d
  | n + 1, d =>
    match Dev.engReach c 130 d with
    | none => d
    | some d =>
      match Dev.beatsN c (d.chDesc c) [] (d.chDesc c).beats d with
      | (.yield, d) => Dev.chMoveN c n (d.handOver c)
      | (e, d) => d.moveStop c e
def Dev.chMove (d : Dev) (c : Nat) : Dev := Dev.chMoveN c 4 d

/-- How far the channel that the engine serves has come by some instant is not fixed by the manual: a free number of its beats, and
of reads that run ahead of them (log 48). The others have issued nothing, nor does any in a power failure (R524). With its last write
the descriptor is complete (R420). Channels that come only now took no part in the choices at those beats. -/
def Dev.progressBefore (d : Dev) (c : Nat) (late : List Nat) : Dev :=
  if d.serving = some c ∧ d.chRuns c ∧ d.chState c = 1 ∧ d.pwr.fail.isNone then
    let x := d.chDesc c
    let r := Dev.beatsN c x late (Config.freeNat d.seed % x.beats) { d with seed := d.seed + 2 }
    if r.1 ≠ .cut then r.2.moveStop c r.1
    else if r.2.chWhole c x then r.2.chDone c
    else if (r.2.nextWrite c x (r.2.lineNow c x) false).isSome then r.2
    else
      let r := Dev.aheadN c x late (Config.freeNat (d.seed + 1) % 65) r.2
      if r.1 = .cut ∧ r.2.chStarved c then r.2.noData c else r.2.moveStop c r.1
  else d
def Dev.chProgress (d : Dev) (c : Nat) : Dev := d.progressBefore c []

/-- The engine chooses among the channels with a beat to issue: the one served before goes on unless another has a higher effective
priority, by which it is pre-empted (R401, R403). -/
def Dev.engChoose (d : Dev) : Dev :=
  match d.serving with
  | none => d.serveBest
  | some k =>
    if d.chGoes k && d.chState k == 1 && (d.higher k).isEmpty then d
    else
      let d := d.progressBefore k (d.higher k)
      if d.serving = none then d.serveBest
      else if d.serving ≠ some k then d
      else if d.chGoes k && d.chState k == 1 && !(d.higher k).isEmpty then d.handOver k
      else d.serveBest

/-- The engine chooses the channel it serves: at every beat in narrow mode; in wide mode once the one served has given up the engine
(R403, R404). -/
def Dev.engServe (d : Dev) : Dev :=
  if d.is F.ENG_STATUS.wide && d.serving.any (fun k => d.chGoes k && d.chState k == 1) then d else d.engChoose


/-- The turn of the engine as time passes: credits accrue, and with them priorities (R401). -/
def Dev.engTurn (d : Dev) : Dev := if d.serving.isNone then d else d.engServe

/-- Start the fetched descriptor as the engine comes to it. -/
def Dev.chStart (d : Dev) (c : Nat) : Dev := (d.chBegin c).engServe

/-- DESC_FETCH_DONE: the descriptor is checked and starts, waits or is refused, which leaves it read until it is fetched again or passed
over. -/
def Dev.descFetched (d : Dev) (c : Nat) : Dev :=
  if (d.chan c).stage ≠ .fetch ∨ !d.chReady c ∨ d.listHeld c (d.chan c).desc then d
  else if (d.chan c).desc % 64 ≠ 0 then d.descError c 3
  else
    match d.listRead c (d.chan c).desc 64 with
    | (.error e, d) => d.descError c e
    | (.ok bs, d) =>
      let ws := (List.range 8).map fun i => ofLE ((bs.drop (8 * i)).take 8)
      match d.descCheck c ws with
      | some e => (d.setChan c { d.chan c with words := ws }).descError c e
      | none =>
        (d.setChan c { d.chan c with stage := .run, words := ws, begun := false }).chStart c

/-- DESC_COMPLETE: the descriptor in progress of a channel that the engine serves, or comes to at the beats before, moves to its end, or
stops exactly. -/
def Dev.descComplete (d : Dev) (c : Nat) : Dev :=
  if !d.chRuns c ∨ (d.chan c).bulk.isSome ∨ d.pwr.fail.isSome then d else (d.chMove c).engServe

/-- AED_BULK_DONE: the bulk write in progress moves to its end (R320, R420). -/
def Dev.bulkDone (d : Dev) (p : Nat) : Dev :=
  match (List.range 64).find? fun c => (d.chan c).bulk == some p && (d.chan c).stage == .run with
  | none => d
  | some c =>
    if !d.chRuns c ∨ (d.bulk.find? fun b => b.1 == p).isNone ∨ d.pwr.fail.isSome then d
    else (d.chMove c).engServe

/-- A bulk channel takes the oldest bulk write of its port. -/
def Dev.bulkNext (d : Dev) (c : Nat) : Dev :=
  match (d.chan c).bulk with
  | none => d
  | some p => ((d.bulkLoad c p).bulkWake p).engServe

/-! ## Enable and disable (R405, R419, R426) -/

/-- The count of enabled channels and the mode it gives; a change of mode is counted, and the beats before it were those of the old
mode (R400). -/
def Dev.engMode (d : Dev) : Dev :=
  let n := ((List.range 64).filter d.chEn).length
  let d := d.put F.ENG_STATUS.enabled n
  if d.is F.ENG_STATUS.wide == decide (17 ≤ n) then d
  else
    let d := match d.serving with
      | some k => d.chProgress k
      | none => d
    ((d.put F.ENG_STATUS.wide (b2n (17 ≤ n))).bump F.ENG_MODE_CHANGES.count).raise 678

/-- Enable: the first fetch, or the wait for bulk writes. A bulk channel whose disable still waits for its write in progress goes on
(DEDUCED, log 138). -/
def Dev.chEnable (d : Dev) (c : Nat) : Dev :=
  let d := d.engMode
  if d.chState c ≠ 0 then d
  else
    let d := d.setChan c { d.chan c with
      credit := 0, creditAt := d.now, whole := none, granted := 0, gone := false, tickReq := false, bulk := d.bulkPort c }
    let d := (d.put (F.CH_STATUS.err c) 0).put (F.CH_STATUS.cause c) 0
    if (d.chan c).bulk.isSome then d.bulkNext c
    else d.chFetch c (va48 (d.get (F.CH_HEAD_LO.va_lo c)) (d.get (F.CH_HEAD_HI.va_hi c)))

/-- A write of 0 to enable: at once, with a completion that the last write brings standing (R426), or once the bulk write in progress
has completed, which one that has faulted never does (R419). -/
def Dev.chDisable (d : Dev) (c : Nat) : Dev :=
  let faulted := d.chState c = 5 ∧ d.get (F.CH_STATUS.cause c) = 2
  if (d.chan c).bulk.isSome ∧ (d.chan c).stage = .run ∧ !faulted then d.engMode
  else (((d.chProgress c).engMode).chAbortNow c).engServe

/-! ## Commands and requests (R416, R418, R424, R427) -/

/-- A write of 1 to pause (R424): a completion that the last write brings stands. -/
def Dev.chPause (d : Dev) (c : Nat) : Dev :=
  let s := d.chState c
  if s = 0 ∨ s = 4 ∨ s = 5 then d
  else
    let d := d.chProgress c
    if d.chState c = 0 ∨ d.chState c = 5 then d else (d.setChState c 4).engServe

/-- DMA_PAUSED: the reads and writes issued are done. -/
def Dev.chPauseDone (d : Dev) (c : Nat) : Dev :=
  if d.chState c = 4 then (d.setChState c 5).put (F.CH_STATUS.cause c) 1 else d

/-- Write a record that a fault or a held stack held up, and go on. -/
def Dev.recordAgain (d : Dev) (c : Nat) : Dev := ((d.setChState c 1).setChBuf c []).recordWrite c (d.chan c).buf

/-- The traffic of a stack goes on: NEXT reads and record writes that waited for it are made (R456). -/
def Dev.nextAgain (d : Dev) : Dev :=
  (d.chans.foldl (fun d e =>
    (if e.2.stage = .next ∧ d.chState e.1 = 1 then d.chNext e.1
     else if e.2.stage = .record ∧ d.chState e.1 = 1 then d.recordAgain e.1 else d).abortRecord e.1) d).engServe

/-- Go on from a pause (R424, R425, R408, R419). -/
def Dev.chResume (d : Dev) (c : Nat) : Dev :=
  if d.chState c ≠ 5 then d
  else
    let cause := d.get (F.CH_STATUS.cause c)
    let d := d.put (F.CH_STATUS.cause c) 0
    if (d.chan c).bulk.isSome && cause == 2 then
      match (d.chan c).bulk with
      | some p => ((d.dmaTapShort c).setChBuf c []).bulkDrop p |>.bulkNext c
      | none => d.setChState c 2
    else if cause = 3 then d.chFetch c (d.chan c).desc
    else
      match (d.chan c).stage with
      | .none => (d.setChState c (if (d.chan c).bulk.isSome then 2 else 6)).bulkAdopt c
      | .fetch => d.setChState c 1
      | .next => (d.setChState c 1).chNext c
      | .record => d.recordAgain c
      | .run =>
        if !(d.chan c).begun then (d.setChState c 1).chStart c
        else if d.chStarved c then d.noData c
        else if (d.chDesc c).dst.target = 2 ∧ !d.m2pOk c (d.chDesc c) then d.setChState c 2
        else (d.setChState c 1).engServe

/-- Pass over the descriptor after a pause of cause 3 or 4; otherwise a resume (R408, R427). -/
def Dev.chSkip (d : Dev) (c : Nat) : Dev :=
  let cause := d.get (F.CH_STATUS.cause c)
  if d.chState c ≠ 5 then d
  else if cause = 3 ∨ cause = 4 then
    (((d.dmaTapShort c).put (F.CH_STATUS.cause c) 0).setChState c 1).chNext c
  else d.chResume c

/-- A kick in END reads the NEXT word again (R405). -/
def Dev.chKick (d : Dev) (c : Nat) : Dev := if d.chState c = 6 then (d.setChState c 1).chNext c else d

/-- A write to CH_CMD: pause wins over resume (R427). In a power failure a channel issues nothing further, so it can only pause
(R524). -/
def Dev.chCmd (d : Dev) (c v : Nat) : Dev :=
  if d.pwr.fail.isSome then (if bitOf v 0 = 1 then d.chPause c else d)
  else
    let d := if bitOf v 0 = 1 then d.chPause c else if bitOf v 1 = 1 then d.chResume c else d
    let d := if bitOf v 2 = 1 then d.chKick c else d
    let d := if bitOf v 3 = 1 then d.chSkip c else d
    d.engServe

/-- DMA_PERIPHERAL_REQUEST: a peripheral grants data to a channel with a P2M source, or the landing ports of its descriptor raise
their request again, as they can queue a message (R416, R264). -/
def Dev.chRequest (d : Dev) (c units : Nat) : Dev :=
  if !d.chEn c then d
  else
    let x := d.chDesc c
    let p2m := d.get (F.CH_CTL.req_src c) = 1 ∨ d.get (F.CH_CTL.req_src c) = 2
    let d := if p2m then d.setChan c { d.chan c with
      granted := (d.chan c).granted + units, gone := (d.chan c).gone && units == 0 } else d
    let d := if x.dst.target = 2 ∧ (x.src.target ≠ 1 ∨ 0 < (d.chan c).granted ∨ !(d.chan c).buf.isEmpty) then
        let ps := d.healed (d.contentPorts x.set)
        { d.setChan c { d.chan c with noReq := false } with
          casc.full := ps.foldl (fun m k => m - bitOf m k * 2 ^ k) d.casc.full }
      else if !p2m then d.setChan c { d.chan c with noReq := false } else d
    if d.chState c ≠ 2 ∨ (d.chan c).stage ≠ .run then d
    else if !(d.chan c).begun then d.chStart c
    else if x.dst.target = 2 ∧ !d.m2pOk c x then d
    else if d.chStarved c then (if x.dst.target = 2 ∧ !(d.chan c).buf.isEmpty then (d.noData c).engServe else d)
    else (d.setChState c 1).engServe

/-- DMA_REQUEST_WITHDRAW: the burst in progress completes and a channel at work waits. What it holds of a peripheral's data is
written, by a paused channel once it goes on; what it holds for the ports it keeps (R416). A descriptor from memory to the landings is
paced by the ports whatever req_src holds (R415). In any other state the peripheral's grants and the ports' request go all the same. -/
def Dev.chWithdraw (d : Dev) (c : Nat) : Dev :=
  if !d.chEn c then d
  else
    let d := d.chProgress c
    let x := d.chDesc c
    let m2p := (d.chan c).stage = .run ∧ x.src.target ≠ 1 ∧ x.dst.target = 2
    if (d.get (F.CH_CTL.req_src c) = 1 ∨ d.get (F.CH_CTL.req_src c) = 2) ∧ ¬m2p then
      let held := d.chState c
      if d.chRuns c ∧ x.src.target = 1 then (d.noData c).engServe
      else if (d.chan c).granted = 0 then d
      else (d.withdrawn c false).setChState c held
    else if (d.chan c).noReq ∨ (d.chan c).stage ≠ .run ∨ x.dst.target ≠ 2 then
      d.setChan c { d.chan c with noReq := true }
    else
      let held := d.chState c
      if d.chRuns c then (d.withdrawn c true).engServe else (d.withdrawn c true).setChState c held

/-- A write of CH_CTL to a channel that stays enabled: it may serve bulk writes from now on or no longer, and a fetched descriptor that
waits for a request starts where the new source asks for none (R415). -/
def Dev.chPaced (d : Dev) (c : Nat) : Dev :=
  let d := d.bulkAdopt c
  if d.chEn c ∧ d.chState c = 2 ∧ (d.chan c).stage = .run ∧ !(d.chan c).begun then d.chStart c else d.engTurn

/-- The tick request of the channels that a canvas paces: all come at once, and the engine chooses among them then (R403, R418). -/
def Dev.dmaTick (d : Dev) (c : Nat) : Dev :=
  let ks := (List.range 64).filter fun k => d.chEn k && d.get (F.CH_CTL.req_src k) == 8 + c
  let d := ks.foldl (fun d k =>
    if (d.chan k).tickReq then (d.bump (F.TICK_OVERRUNS.count k)).chRaise k F.CH_EVT.tick_overrun 679
    else
      let d := d.setChan k { d.chan k with tickReq := true }
      if d.chState k = 2 then d.chBegin k else d) d
  if ks.isEmpty then d else d.engServe

/-- A CQ_HEAD write: false when R276 ignores it; a freed entry takes the abort record or ends a wait (R422, R426). -/
def Dev.cqHeadWrite (d : Dev) (c v : Nat) : Bool × Dev :=
  if 2 ^ d.get (F.CQ_CTL.size_log2 c) < (d.get (F.CQ_TAIL.tail c) + 65536 - v) % 65536 then (false, d)
  else
    let d := (d.put (F.CQ_HEAD.head c) v).abortRecord c
    (true, if d.chState c = 7 then (d.chStart c).engServe else d)

/-! ## Mailbox items (R421, R429) -/

/-- The line in progress and the destination bytes of it that are written. -/
def Dev.chLine (d : Dev) (c : Nat) : Nat × Nat :=
  let x := d.chDesc c
  let b := max 1 x.lineBytes
  (x.lineAt (min ((d.chan c).done / b) (x.lines - 1)), (d.chan c).done - min ((d.chan c).done / b) (x.lines - 1) * b)

/-- The address of a byte of the destination of a line. -/
def Desc.dstByte (x : Desc) (l i : Nat) : Nat :=
  if x.op = 5 then x.dst.addr l (i / (x.m * x.e) * x.sub + i % (x.m * x.e)) else x.dst.addr l i

/-- The source bytes of the line in progress that are read; where a source line is read for each piece of its destination line, those
that the destination bytes made so far account for (DESIGN CHOICE, log 46). -/
def Dev.srcDone (d : Dev) (c : Nat) (x : Desc) : Nat :=
  if x.whole then (d.chan c).srcRead
  else
    let l := d.lineNow c x
    (d.chan c).done % x.lineBytes + (if x.op < 4 ∧ (d.chan c).srcRead < (d.needsOf c x l).length then 0
      else min (d.chan c).srcRead (d.chunkOf c x l).2)

/-- POSITION. -/
def Dev.posWords (d : Dev) (c : Nat) : List Word :=
  let p := d.chLine c
  let busy := (d.chan c).begun
  let x := d.chDesc c
  [w32 (d.chan c).desc, w32 ((d.chan c).desc / 2 ^ 32 % 65536 + (if busy then p.1 else 0) * 65536),
    w32 (if busy then d.srcDone c x else 0), w32 (if busy then p.2 + b2n x.backward * 2 ^ 24 else 0)]

/-- LAST_ADDR. -/
def Dev.lastAddrWords (d : Dev) (c : Nat) : List Word :=
  let x := d.chDesc c
  let p := d.chLine c
  if !(d.chan c).begun then [0, 0, 0, 0]
  else
    let a := if x.backward then x.dst.addr p.1 (x.lineBytes - p.2) else x.dstByte p.1 p.2
    [w32 a, w32 (a / 2 ^ 32 % 65536 + x.dst.asid * 65536 + b2n x.backward * 2 ^ 20 + 2 ^ 21), w32 p.1, w32 x.tag]

/-- BYTES. -/
def Dev.bytesWords (d : Dev) (c : Nat) : List Word := [w32 (d.chan c).total, w32 ((d.chan c).total / 2 ^ 32), 0, 0]

/-- LAST_WHOLE. -/
def Dev.lastWholeWords (d : Dev) (c : Nat) : List Word :=
  match (d.chan c).whole with
  | some w => [w32 w.1, w32 (w.1 / 2 ^ 32 % 65536), w32 w.2, 0]
  | none => [0, w32 65536, 0, 0]

/-- The reservations in force (R402). -/
def Dev.engRes (d : Dev) : Dev :=
  d.put F.ENG_RES.bytes ((List.range 64).foldl (fun n c => n + d.act (F.CH_RES.rate c)) 0)

end Sys2Proof.Machine
end

