-- ==== Sys2Proof/Machine/Operands.lean ====
section
/-! DEFINITION. The operand forms of the block: what an address, a mailbox item and an indirect address name (R271, R273,
R280, R281), and which accesses each allows. -/

namespace Sys2Proof.Machine

/-- The word address of an access: bits [1:0] are ignored (R271). -/
def wordAddr (a : Nat) : Nat := a / 4 * 4

/-- The page number and the offset of an address. -/
def pageNo (a : Nat) : Nat := a / 0x1000
def pageOfs (a : Nat) : Nat := a % 0x1000

/-- What a field stores for a written value (R10). -/
def Fld.store (f : Fld) (v : Nat) : Nat :=
  match f.clamp with
  | .none => v
  | .bound lo hi => max lo (min hi v)
  | .map a b => if v = a then b else v
  | .above m x => if m < v then x else v
  | .reqSrc => if v ≤ 2 ∨ (8 ≤ v ∧ v ≤ 15) then v else 0

/-! ## Registers that act when they are written -/

/-- The hall and the layer of a register of a layer block: eight video layers, twelve and twelve graphic layers and the
balustrade (R89). -/
def layerOfAddr (a : Nat) : Option (Nat × Nat) :=
  match pageAt a with
  | some p =>
    let k := (pageOfs a - 0x100) / 0x100
    if p.block ≠ .hall ∨ pageOfs a < 0x100 then none
    else if p.page = 1 ∧ k < 8 then some (p.inst, k)
    else if p.page = 2 ∧ k < 12 then some (p.inst, 8 + k)
    else if p.page = 3 ∧ k < 12 then some (p.inst, 20 + k)
    else if p.page = 4 ∧ k = 0 then some (p.inst, 32)
    else none
  | none => none

/-- A register with an action beside the storing of its fields. -/
inductive Acting where
  | snapCmd | commitCmd
  | hallCmd (h : Nat) | toneCmd (h : Nat) | statCtl (h : Nat)
  | flipCmd (h n : Nat)
  | balLock (h : Nat)
  | laneCmd (n : Nat)
  | cascCmd
  | doorbell (hi : Bool)
  | evtCtl
  | fence (f : Nat)
  | shpReset (s : Nat) | shaper (s tc : Nat)
  | polCmd
  | sampler (k : Nat)
  | pcCmd
  | space (a : Nat)
  | chCtl (c : Nat) | chCmd (c : Nat) | cqHead (c : Nat)
  | refCtl | clkCtl | ppsCtl | timeCtl | tsyn (c : Nat)
  | rstCmd
  | cfgRef | cfgCtl
  | bulkCtl
  | plain
deriving DecidableEq, Repr

/-- The acting register at an address. -/
def actingAt (a : Nat) : Acting :=
  match pageAt a with
  | none => .plain
  | some p =>
    let o := pageOfs a
    match p.block with
    | .glob => if o = 0x140 then .snapCmd else if a = A.COMMIT_CMD then .commitCmd else if a = A.CFG_REFCRC then .cfgRef
      else if a = A.CFG_CTL then .cfgCtl else .plain
    | .hall =>
      match layerOfAddr a with
      | some x => if o % 0x100 = 0xE4 then .flipCmd x.1 x.2 else .plain
      | none =>
        if a = A.HALL_CMD p.inst then .hallCmd p.inst
        else if a = A.TONE_CMD p.inst then .toneCmd p.inst
        else if a = A.STAT_CTL p.inst then .statCtl p.inst
        else if a = A.BAL_LOCK p.inst then .balLock p.inst
        else .plain
    | .lane => if a = A.LANE_CMD p.inst then .laneCmd p.inst else .plain
    | .cascade => if a = A.CASC_CMD then .cascCmd else .plain
    | .events =>
      if p.page = 0 then
        (if a = A.DOORBELL_LO then .doorbell false else if a = A.DOORBELL_HI then .doorbell true
         else if 0x200 ≤ o ∧ o < 0x290 then .evtCtl else .plain)
      else if p.page = 1 ∧ 0x100 ≤ o ∧ o < 0x900 then .fence ((o - 0x100) / 4)
      else .plain
    | .hostport =>
      let k := o % 0x100
      let s := p.inst * 4 + (o - 0x100) / 0x100
      if p.page = 5 ∧ 0x100 ≤ o ∧ o < 0x500 then
        (if k = 0x08 then .shpReset s else if 0x10 ≤ k ∧ k < 0x50 then .shaper s ((k - 0x10) / 8) else .plain)
      else if a = A.AED_BULK_CTL then .bulkCtl
      else if p.page = 6 ∧ a = A.POL_CMD then .polCmd
      else if p.page = 7 ∧ 0x100 ≤ o ∧ o < 0x900 ∧ (o - 0x100) % 0x80 < 8 then .sampler ((o - 0x100) / 0x80)
      else .plain
    | .hbm => if a = A.PC_CMD then .pcCmd else .plain
    | .xlat => if p.page = 1 ∧ 0x100 ≤ o ∧ o < 0x200 ∧ o % 16 < 12 then .space ((o - 0x100) / 16) else .plain
    | .dma =>
      if a = A.CH_CTL p.inst then .chCtl p.inst else if a = A.CH_CMD p.inst then .chCmd p.inst
      else if a = A.CQ_HEAD p.inst then .cqHead p.inst else .plain
    | .clock =>
      if a = A.REF_CTL then .refCtl else if a = A.CLK_CTL then .clkCtl else if a = A.PPS_CTL then .ppsCtl
      else if a = A.TIME_CTL then .timeCtl
      else if p.page = 2 ∧ 0x100 ≤ o ∧ o < 0x200 then .tsyn ((o - 0x100) / 0x20)
      else .plain
    | .powerBoot => if a = A.RST_CMD then .rstCmd else .plain
    | _ => .plain

/-! ## Mailbox items (R55, R242, R294, R326 to R328, R353, R379, R396, R429, R443, R444, R474, R485, R532, R546) -/

/-- A mailbox item with its index. -/
inductive Item where
  | epoch (c : Nat) | tickNow (c : Nat) | commitRequest | commitAnswer | snapAt | serial | alcCmd | alcReply
  | sbTx (n : Nat) | sbRx (n : Nat) | timeLast (n : Nat) | gateSwap (n : Nat) | gateStop (n : Nat) | gateCancel (n : Nat)
  | gateInfo (n : Nat)
  | peerEvt
  | ptpParent | keyLoad | keyCommit
  | eccLast | journal (s : Nat) | classBytes (k : Nat)
  | faultRec | invRequest
  | position (c : Nat) | lastAddr (c : Nat) | bytes (c : Nat) | lastWhole (c : Nat)
  | running (u : Nat) | result (u : Nat)
  | timeNow | timeSet | ppsInTs
  | saveInfo | saveGen | flashErase
  | opRequest | opRecord
  | sealCmd | sealReply
deriving DecidableEq, Repr

/-- The item of a number on a page. -/
def itemAt (p : Page) (i : Nat) : Option Item :=
  match p.block with
  | .glob =>
    if 0x10 ≤ i ∧ i < 0x18 then some (.epoch (i - 0x10))
    else if 0x18 ≤ i ∧ i < 0x20 then some (.tickNow (i - 0x18))
    else if i = 0x20 then some .commitRequest else if i = 0x21 then some .commitAnswer
    else if i = 0x22 then some .snapAt else if i = 0x30 then some .serial
    else if i = 0x40 then some .alcCmd else if i = 0x41 then some .alcReply else none
  | .lane =>
    if i = 0x01 then some (.sbTx p.inst) else if i = 0x02 then some (.sbRx p.inst)
    else if i = 0x03 then some (.timeLast p.inst) else if i = 0x10 then some (.gateSwap p.inst)
    else if i = 0x11 then some (.gateStop p.inst) else if i = 0x12 then some (.gateCancel p.inst)
    else if i = 0x13 then some (.gateInfo p.inst) else none
  | .cascade => if i = 0x01 then some .peerEvt else none
  | .hostport =>
    if p.page = 3 ∧ i = 0x01 then some .ptpParent
    else if p.page = 4 ∧ i = 0x40 then some .keyLoad
    else if p.page = 4 ∧ i = 0x41 then some .keyCommit
    else none
  | .hbm =>
    if p.page ≠ 0 then none
    else if i = 0x01 then some .eccLast else if i = 0x02 ∨ i = 0x03 then some (.journal (i - 2))
    else if 0x10 ≤ i ∧ i < 0x15 then some (.classBytes (i - 0x10)) else none
  | .xlat =>
    if p.page ≠ 0 then none else if i = 0x01 then some .faultRec else if i = 0x02 then some .invRequest else none
  | .dma =>
    if i = 0x01 then some (.position p.inst) else if i = 0x02 then some (.lastAddr p.inst)
    else if i = 0x03 then some (.bytes p.inst) else if i = 0x04 then some (.lastWhole p.inst) else none
  | .cu => if i = 0x01 then some (.running p.inst) else if i = 0x02 then some (.result p.inst) else none
  | .clock =>
    if p.page ≠ 1 then none
    else if i = 0x01 then some .timeNow else if i = 0x02 then some .timeSet else if i = 0x03 then some .ppsInTs else none
  | .powerBoot =>
    if p.page = 0 then (if i = 0x01 then some .saveInfo else if i = 0x02 then some .saveGen else none)
    else if i = 0x01 then some .flashErase else none
  | .steward => if i = 0x01 then some .opRequest else if i = 0x02 then some .opRecord else none
  | .alcove => if i = 0x01 then some .sealCmd else if i = 0x02 then some .sealReply else none
  | _ => none

/-- The page number and the item number of an item: the inverse of `itemAt`. -/
def Item.place : Item → Nat × Nat
  | .epoch c => (0, 0x10 + c) | .tickNow c => (0, 0x18 + c) | .commitRequest => (0, 0x20) | .commitAnswer => (0, 0x21)
  | .snapAt => (0, 0x22) | .serial => (0, 0x30) | .alcCmd => (0, 0x40) | .alcReply => (0, 0x41)
  | .sbTx n => (0x3000 + n, 0x01) | .sbRx n => (0x3000 + n, 0x02) | .timeLast n => (0x3000 + n, 0x03)
  | .gateSwap n => (0x3000 + n, 0x10) | .gateStop n => (0x3000 + n, 0x11) | .gateCancel n => (0x3000 + n, 0x12)
  | .gateInfo n => (0x3000 + n, 0x13)
  | .peerEvt => (0x900, 0x01)
  | .ptpParent => (0x443, 0x01) | .keyLoad => (0x444, 0x40) | .keyCommit => (0x444, 0x41)
  | .eccLast => (0x500, 0x01) | .journal s => (0x500, 0x02 + s) | .classBytes k => (0x500, 0x10 + k)
  | .faultRec => (0x600, 0x01) | .invRequest => (0x600, 0x02)
  | .position c => (0x610 + c, 0x01) | .lastAddr c => (0x610 + c, 0x02) | .bytes c => (0x610 + c, 0x03)
  | .lastWhole c => (0x610 + c, 0x04)
  | .running u => (0x700 + u, 0x01) | .result u => (0x700 + u, 0x02)
  | .timeNow => (0x801, 0x01) | .timeSet => (0x801, 0x02) | .ppsInTs => (0x801, 0x03)
  | .saveInfo => (0xA00, 0x01) | .saveGen => (0xA00, 0x02) | .flashErase => (0xA01, 0x01)
  | .opRequest => (0xC00, 0x01) | .opRecord => (0xC00, 0x02)
  | .sealCmd => (0xF00, 0x01) | .sealReply => (0xF00, 0x02)

/-- Whether an item allows the write direction, and the read direction. -/
def Item.writes : Item → Bool
  | .epoch _ | .commitRequest | .snapAt | .alcCmd | .sbTx _ | .gateSwap _ | .gateStop _ | .gateCancel _ | .keyLoad | .keyCommit
  | .invRequest | .running _ | .timeSet | .saveGen | .flashErase | .opRequest | .sealCmd => true
  | _ => false
def Item.reads : Item → Bool
  | .commitRequest | .snapAt | .alcCmd | .sbTx _ | .gateSwap _ | .gateStop _ | .gateCancel _ | .keyLoad | .keyCommit
  | .invRequest | .timeSet | .flashErase | .opRequest | .sealCmd => false
  | _ => true

/-- Whether a page has mailbox items (PAGE_CAP.mbx). -/
def Page.hasMbx (p : Page) : Bool :=
  match p.block with
  | .glob | .lane | .cascade | .dma | .cu | .powerBoot | .steward | .alcove => true
  | .hostport => p.page == 3 || p.page == 4
  | .hbm | .xlat => p.page == 0
  | .clock => p.page == 1
  | _ => false

/-! ## Indirect spaces (R55, R73, R103, R152, R153, R155, R189, R293, R350, R352, R381, R476, R504, R515, R526) -/

/-- Whether a page has an indirect space (PAGE_CAP.ind). -/
def Page.hasInd (p : Page) : Bool :=
  match p.block with
  | .glob | .lane | .alcove | .powerBoot => true
  | .hall => p.page == 0 || (6 ≤ p.page && p.page ≤ 10)
  | .win => p.inst < 32
  | .hostport => p.page == 6
  | .hbm => p.page == 2
  | .clock => p.page == 3
  | .events => p.page == 0
  | _ => false

/-- The words of R352 in the indirect space of a lane. -/
def laneWord (a : Nat) : Bool :=
  a < 519 || (520 ≤ a && a < 523) || (768 ≤ a && a < 772) || (776 ≤ a && a < 784)

/-- The words of R189 of a report. -/
def reportWord (a : Nat) : Bool := a < 8 || (16 ≤ a && a < 112) || (128 ≤ a && a < 384)

/-- The words of R152 on hall pages 7 and 8, R103 on page 6. -/
def toneWord (a : Nat) : Bool := a < 6144
def lut3dWord (a : Nat) : Bool := a < 262144 && a % 131072 < 71874
def coefWord (a : Nat) : Bool := a < 16384 && (a % 1024 < 384 || (512 ≤ a % 1024 && a % 1024 < 768))

/-- The words of a LUT set (R155). -/
def lutSetWord (a : Nat) : Bool := 0x10000 ≤ a && a < 0x14000 && a % 0x2000 < 0x1800

/-- The bits of an indirect word that a write stores, 0 for a word that is read-only; for the words whose page keeps them
in the indirect table. -/
def indMask (p : Page) (a : Nat) : Nat :=
  match p.block with
  | .hall =>
    match p.page with
    | 6 => 0x0FFF0FFF
    | 7 => if a < 4096 then 0xFFFFFFFF else 0
    | 8 => if a % 2 = 0 then 0xFFFFFFFF else 0xFFFF
    | 10 => 0
    | _ => 0xFFFFFFFF
  | .hostport =>
    match a % 8 with
    | 0 => 0x00FFFF0F
    | 2 => 0xFFFF
    | 3 | 4 => 0xFFFFFF
    | 7 => 0
    | _ => 0xFFFFFFFF
  | .events => 0x3F
  | .lane =>
    if 256 ≤ a ∧ a < 512 then 0
    else if a = 512 then 0x1FF
    else if a = 514 then 0x3FF
    else if 515 ≤ a ∧ a < 520 then 0
    else if a = 520 then 0x1FF
    else if a = 521 ∨ a = 522 then 0
    else 0xFFFFFFFF
  | .hbm => 0
  | _ => 0xFFFFFFFF

/-- Whether an indirect word is a counter (R283): passes and drops of filters, and the counters of a lane. -/
def indCount (p : Page) (a : Nat) : Bool :=
  match p.block with
  | .hostport => p.page == 6 && (a % 8 == 5 || a % 8 == 6)
  | .lane => 768 ≤ a && a < 784
  | _ => false

/-! ## The header words that the map gives (R273) -/

def Page.idWord (p : Page) : Nat := p.inst + p.page * 2 ^ 16 + p.block.code * 2 ^ 24
def Page.capWord (p : Page) : Nat :=
  (match p.evtGroup with
   | some g => g
   | none => 0x20) + (if p.hasInd then 0x40 else 0) + (if p.hasMbx then 0x80 else 0)

/-! ## Directory order (R272) -/

/-- The pages in directory order; the Alcove page is left out where a rule leaves it out. -/
def pageNumbers : List Nat :=
  [0] ++ (List.range 128).map (0x100 + ·) ++ (List.range 576).map (0x200 + ·) ++ (List.range 32).map (0x440 + ·) ++
  (List.range 3).map (0x500 + ·) ++ (List.range 2).map (0x600 + ·) ++ (List.range 64).map (0x610 + ·) ++
  (List.range 56).map (0x700 + ·) ++ (List.range 4).map (0x800 + ·) ++ [0x900] ++ (List.range 2).map (0xA00 + ·) ++
  (List.range 3).map (0xB00 + ·) ++ [0xC00] ++ (List.range 144).map (0x3000 + ·)
def pagesOutside : List (Nat × Page) := pageNumbers.filterMap fun n => (pageOf n).map fun p => (n, p)

/-- The offsets of a row, rising within a block. -/
def RegRow.offsets (r : RegRow) : List Nat :=
  (List.range r.bn).flatMap fun b => (List.range r.n).map fun i => r.off + b * r.bstep + i * r.step

/-- A list of offsets in rising order. -/
def rising (l : List Nat) : List Nat := l.foldr insertOfs []
where
  insertOfs (x : Nat) : List Nat → List Nat
    | [] => [x]
    | y :: ys => if x ≤ y then x :: y :: ys else y :: insertOfs x ys

/-- Whether a field is a counter: an RW field named count (R279). -/
def Fld.isCount (f : Fld) : Bool := f.name == "count" && f.acc == .rw

/-- The addresses of a page's registers that meet a condition, ascending. -/
def Page.addrs (n : Nat) (p : Page) (q : List Fld → Bool) : List Nat :=
  (rising (((rowsHeader ++ p.rows).filter fun r => q (fldsAt (n * 0x1000 + r.off))).flatMap RegRow.offsets)).map (n * 0x1000 + ·)

/-- The indirect counters of a page, ascending. -/
def Page.indCounts (p : Page) : List Nat :=
  match p.block with
  | .hostport => if p.inst = 0 ∧ p.page = 6 then (List.range 4096).flatMap fun i => [8 * i + 5, 8 * i + 6] else []
  | .lane => [768, 769, 770, 771] ++ (List.range 8).map (776 + ·)
  | _ => []

end Sys2Proof.Machine
end

