-- ==== Sys2Proof/Machine/HallWork.lean ====
section
/-! DEFINITION. What the halls do in a tick: the coverage pass with its culling (R157 to R162), the vestibule (R163 to R166),
composition of a phase (R57, R64 to R81), statistics (R140, R141), write-back (R82 to R85), kills (R87, R88) and the adaptive
tone policy (R142 to R145). -/

namespace Sys2Proof.Machine

/-! ## What composition reads -/

/-- The plane bases a layer shows under a bank: the image shown for the balustrade (R209). -/
def Dev.layerBases (d : Dev) (rd : View) (h0 n : Nat) : List Nat :=
  if n = 32 then
    let k := d.get (F.BAL_STATUS.shown h0)
    [va48 (fv rd (F.BAL_IMG_LO.va_lo h0 k)) (fv rd (F.BAL_IMG_HI.va_hi h0 k))]
  else [(d.layer h0 n).b0, (d.layer h0 n).b1, (d.layer h0 n).b2]

/-- What the composition of a gang reads, the pools and failed units of its halls aside. -/
def Dev.ctx (d : Dev) (h0 : Nat) : Ctx :=
  { rd := d.actv, st := d.stv, iw := d.ind, mem := d.mem, base := d.layerBases d.actv h0,
    steps := fun n => (d.layer h0 n).steps, fill := d.is (F.BAL_STATUS.fault_fill h0), pool := fun _ => [],
    bad := fun _ _ => false, lost := fun _ _ => false, hit := if d.unstruck then fun _ _ => false else d.vaStruck }

/-- The windows that take no part: shed (R187) or dropped for heat (R529). -/
def Dev.noWins (d : Dev) : List Nat := d.shed ++ d.pwr.dropped

/-- A hall composes: enabled, neither killed nor out of service. -/
def Dev.hallRuns (d : Dev) (h : Nat) : Bool :=
  hallOn d.actv h && !d.is (F.HALL_STATUS.killed h) && !(d.hall h).outOfService

/-! ## Culling -/

/-- Whether a layer covers for dynamic culling (R161). -/
def dynCovers (rd st : View) (steps : Nat → Nat) (h0 m : Nat) : Bool :=
  fv rd (F.LAYER_CTL.alpha_mode h0 m) == 2 && fv rd (F.LAYER_CTL.blend h0 m) == 0 &&
    fv rd (F.GLOBAL_ALPHA.alpha h0 m) == 0xFFFF &&
    (fv rd (F.LAYER_CTL.fault_mode h0 m) == 1 || fv rd (F.LAYER_CTL.fault_mode h0 m) == 2) &&
    fv rd (F.FAULT_BA.a h0 m) == 0x3C00 && fv st (F.LAYER_STATUS.no_buffer h0 m) == 0 && bitOf (steps m) 3 == 0

/-- The bank as the coverage unit sees it: a layer that covers dynamically counts as opaque. -/
def dynView (rd : View) (h0 : Nat) (dyn : List Nat) : View :=
  if dyn.isEmpty then rd
  else fun a =>
    if dyn.any fun m => A.LAYER_CTL h0 m == a then putBits (rd a) (F.LAYER_CTL.opaque_static h0 0).lsb 1 1 else rd a

/-- Whether the fetch of a unit of a layer has failed in the phase of a hall. -/
def Hall.lost (v : Hall) (n a : Nat) : Bool := v.badUnits.contains (n, a)

/-- What the fetch of a hall follows: the layers that covered dynamically at the coverage pass of this tick (R161), and the units that
failed in the phase (R110). -/
def Dev.covCtx (d : Dev) (h0 h : Nat) : Ctx :=
  { d.ctx h0 with rd := dynView d.actv h0 (d.hall h).dynNow, lost := (d.hall h).lost }

/-- Whether a tile of layer `n` is culled in a phase: some layer above covers it (R160). -/
def tileCulled (c : Ctx) (h0 n p tx ty : Nat) : Bool :=
  (layersAbove (stackOrder c h0 p) n).any fun m => tileCovered c h0 m tx ty

/-- Whether the visible rectangle of a layer meets a tile. -/
def meetsTile (rd : View) (h0 n tx ty : Nat) : Bool :=
  let v := visRect rd h0 n
  v.1 < tx * 64 + 64 && tx * 64 < v.2.1 && v.1 < v.2.1 && v.2.2.1 < ty * 64 + 64 && ty * 64 < v.2.2.2 && v.2.2.1 < v.2.2.2

/-- The tiles of a layer that a pass of a hall culls in some phase (R162): those that its visible rectangle meets, each once
whatever phases cull it, on which the manual is silent (DESIGN CHOICE, log 152). -/
def culledTiles (c : Ctx) (canvas h0 h n : Nat) (noWins : List Nat) : List (Nat × Nat) :=
  let s := stripeOf c.rd h
  ((List.range (phasesOf c.rd canvas)).flatMap fun p =>
    if takesPart c h0 n p then
      (tileRows (rowNeeds c.rd noWins canvas h0 h p)).flatMap fun ty =>
        ((List.range (ceilDiv s.2 64)).map fun i => (s.1 / 64 + i, ty)).filter fun q =>
          meetsTile c.rd h0 n q.1 q.2 && tileCulled c h0 n p q.1 q.2
    else []).eraseDups

/-- The context of a coverage pass: the bank and steps of its tick. -/
def Dev.passCtx (d : Dev) (c k h0 : Nat) (dyn : List Nat) : Ctx :=
  { rd := dynView (d.viewFor c k) h0 dyn, st := d.stv, iw := d.ind, mem := d.mem, base := d.layerBases (d.viewFor c k) h0,
    steps := d.stepsFor c k h0, fill := d.is (F.BAL_STATUS.fault_fill h0), pool := fun _ => [], bad := fun _ _ => false,
    lost := fun _ _ => false, hit := fun _ _ => false }

/-- The layers that cover dynamically as a pass of a hall finds them (R161). -/
def Dev.dynFor (d : Dev) (c k h0 h : Nat) : List Nat :=
  if d.is (F.COVER_CTL.dyn_cull h) then (List.range 33).filter (dynCovers (d.viewFor c k) d.stv (d.stepsFor c k h0) h0) else []

/-- The windows that take no part at a tick: a commit that applies by then ends the shedding of the windows of its canvas (R187), and
the drops for heat outside level 3 (R529). -/
def Dev.noWinsFor (d : Dev) (c k : Nat) : List Nat :=
  if d.appliesFor c k then (if d.get F.THERM_STATUS.level = 3 then d.pwr.dropped else []) else d.noWins

/-- Whether the coverage unit of a hall works for a tick of a canvas: a commit that applies by then brings a killed hall back
(R88, R157). -/
def Dev.covers (d : Dev) (h c k : Nat) : Bool :=
  let rd := d.viewFor c k
  hallOn rd h && hallCanvas rd h == c && canvasOn rd c && (d.appliesFor c k || !d.is (F.HALL_STATUS.killed h)) &&
    !(d.hall h).outOfService

/-- The pass of a hall for a tick, as it stands. -/
def Hall.passFor (v : Hall) (c k : Nat) : Option Pass := v.passes.find? fun p => p.canvas == c && p.tick == k

/-- Replace the pass of a tick, or add it: passes begin in the order of their ticks. -/
def Hall.setPass (v : Hall) (p : Pass) : Hall :=
  let at' (q : Pass) : Bool := q.canvas == p.canvas && q.tick == p.tick
  { v with passes := if v.passes.any at' then v.passes.map fun q => if at' q then p else q else v.passes ++ [p] }

/-- Count tiles of a layer that a pass culls, each once per layer and tick: `k` is 0 for guaranteed and 33 for dynamic culling
(R162). A tile that only a pass culled that began again under another generation stays counted (DESIGN CHOICE, log 110). -/
def Pass.noteCulled (p : Pass) (k n : Nat) (tiles : List (Nat × Nat)) : Nat × Pass :=
  let new := (tiles.map fun q => (k + n, q.1, q.2)).filter fun q => !p.culled.contains q
  (new.length, { p with culled := new ++ p.culled })

/-- A coverage pass of a hall begins for tick `k`, or begins again under another generation (R157 to R162). -/
def Dev.coveragePass (d : Dev) (h c k : Nat) : Dev :=
  if !d.covers h c k then d
  else
    let h0 := leadOf (d.viewFor c k) h
    let dyn := d.dynFor c k h0 h
    let cg := d.passCtx c k h0 []
    let cd := d.passCtx c k h0 dyn
    let culled := (((d.hall h).passFor c k).map (·.culled)).getD []
    let r := (List.range 33).foldl (fun (r : Pass × Nat × Nat) n =>
      let g := culledTiles cg c h0 h n (d.noWinsFor c k)
      let all := culledTiles cd c h0 h n (d.noWinsFor c k)
      let a := r.1.noteCulled 0 n g
      let b := a.2.noteCulled 33 n (all.filter fun q => !g.contains q)
      (b.2, r.2.1 + a.1, r.2.2 + b.1)) ({ canvas := c, tick := k, dyn := dyn, culled := culled, done := false }, 0, 0)
    ((d.setHall h ((d.hall h).setPass r.1)).bumpBy (F.CULL_GUAR.count h) r.2.1).bumpBy (F.CULL_DYN.count h) r.2.2

/-- COVERAGE_PASS_START: the first tick of the canvas that the hall belongs to then whose pass may have begun by now and has not;
else the last of them begins again (R157). -/
def Dev.coverageStart (d : Dev) (h : Nat) : Dev :=
  let ts := (d.hallTicks h d.horizon).filter fun x => d.covers h x.1 x.2
  match (ts.find? fun x => ((d.hall h).passFor x.1 x.2).isNone).or ts.getLast? with
  | some x => d.coveragePass h x.1 x.2
  | none => d

/-- The passes that have begun for ticks at which a commit is due begin again when the generation of those ticks changes (R159). -/
def Dev.coverageAgain (d : Dev) (m : Commit) : Dev :=
  if d.pwr.fail.isSome then d
  else (List.range 8).foldl (fun d h => ((d.hall h).passes.filter fun p =>
    m.canvases.contains p.canvas && m.due ≤ d.instantOf p.canvas p.tick).foldl (fun d p => d.coveragePass h p.canvas p.tick) d) d

/-- The pass of a hall that COVERAGE_PASS_DONE ends: the earliest that has not ended; and the tick that run-ahead fetches for, that
of the last pass that has. -/
def Dev.passAtWork (d : Dev) (h : Nat) : Option Pass := (d.hall h).passes.find? fun p => !p.done
def Dev.runTick (d : Dev) (h : Nat) : Nat × Nat :=
  match (d.hall h).passes.reverse.find? (·.done) with
  | some p => (p.canvas, p.tick)
  | none => (d.nextCanvas h, d.nextNumber (d.nextCanvas h))

/-! ## The vestibule -/

/-- The unit addresses that a line of a run touches. -/
def unitAddrs (base stride line : Nat) (f : Fmt) (q : Nat) (cols : Nat × Nat) : List Nat :=
  let first := f.colByte q cols.1 / 64
  (List.range (runBytes f q cols / 64)).map fun i => (base + line * stride + (first + i) * 64) / 64 * 64 % 2 ^ 48

/-- The lines that some rows need first, in their order. -/
def newLines (lines : Nat → List Nat) (rows : List Nat) : List Nat := (rows.flatMap lines).eraseDups

/-- The units a layer fetches for a phase of a hall, by plane and address (R174, R166). -/
def layerUnits (c : Ctx) (h0 n : Nat) (order : List Nat) (stripe : Nat × Nat) (rs : List RowNeed) :
    List (Nat × Nat) :=
  match fmtInfo (fv c.rd (F.FORMAT.fmt h0 n)) with
  | none => []
  | some f =>
    let v := visRect c.rd h0 n
    let pl := layerPlanes c h0 n
    (tileRows rs).flatMap fun ty =>
      let rows := (rs.filter fun r => r.row / 64 == ty && v.2.2.1 ≤ r.row && r.row < v.2.2.2).map (·.row)
      if rows.isEmpty then []
      else (runsOf c h0 n order stripe ty).flatMap fun run =>
        (List.range f.planes).flatMap fun q =>
          (newLines (planeLines c h0 n q f) rows).flatMap fun l =>
            (unitAddrs (pl.base.getD q 0) (pl.stride.getD q 0) l f q (planeCols c h0 n q f run.1 run.2)).map fun a => (q, a)

/-- Discard the vestibule entries that a test names (R164). -/
def Dev.vestDiscard (d : Dev) (c h : Nat) (drop : Tag × Nat → Bool) : Dev :=
  let v := d.hall h
  let keep := v.vest.filter fun e => !drop e
  let n := v.vest.length - keep.length
  if n = 0 then d
  else
    let d := (d.setHall h { v with vest := keep }).put (F.VEST_LEVEL.units h) keep.length
    (d.bumpBy (F.DISCARD_UNITS.count h) n).once (markOf c (128 + 32 * h + 14)) fun d => d.raiseHall h 14

/-- The bases a layer will show at a tick if every flip requested proceeds: a ready entry's, else those of a commit that applies
by then, else those shown; none where it will show no buffer (R157, R205, R208, R209, R213). -/
def Dev.basesFor (d : Dev) (c k h0 n : Nat) : Option (List Nat) :=
  let rd := d.viewFor c k
  let act := d.actv
  let v := d.hall h0
  let applies := d.appliesFor c k
  let was := leadsGang act h0 && layerOn act h0 n
  let image (k : Nat) : List Nat := [va48 (fv rd (F.BAL_IMG_LO.va_lo h0 k)) (fv rd (F.BAL_IMG_HI.va_hi h0 k))]
  let locked := d.is (F.BAL_LOCK.select_lock h0) && (d.is (F.BAL_STATUS.fallback h0) || d.is (F.BAL_STATUS.fault_fill h0))
  let applied : Option (List Nat) :=
    if !applies then none
    else if n = 32 then
      (if (!was || fv act (F.BAL_CTL.image h0) != fv rd (F.BAL_CTL.image h0)) && !locked then
        some (image (fv rd (F.BAL_CTL.image h0))) else none)
    else if fv rd (F.FLIP_CTL.commit_buf h0 n) = 1 ∧ (!was ∨ banked act h0 n ≠ banked rd h0 n) then
      let b := banked rd h0 n
      some [b.1, b.2.1, b.2.2]
    else none
  let shown : Option (List Nat) :=
    match applied with
    | some b => some b
    | none =>
      if (applies && !was && !(n == 32 && locked)) || d.is (F.LAYER_STATUS.no_buffer h0 n) ||
          (n == 32 && d.is (F.BAL_STATUS.fault_fill h0)) then none
      else some (d.layerBases rd h0 n)
  if n = 32 ∧ (v.fillNext ∨ v.fillTick) then none
  else if n = 32 ∧ (v.fallNext ∨ v.fallTick) then some (image 3)
  else
    match (d.layer h0 n).entry with
    | some e =>
      if (n < 32 && applied.isSome) || !d.readyFor c k h0 n e then shown
      else if n = 32 then (if locked then shown else some (image e.image))
      else some [e.b0, e.b1, e.b2]
    | none => shown

/-- The generation of a tick of a canvas. -/
def Dev.genFor (d : Dev) (c k : Nat) : Word :=
  match d.commit with
  | some m => if d.appliesFor c k then m.gen else d.stored (A.CANVAS_GEN c)
  | none => d.stored (A.CANVAS_GEN c)

/-- The tag of run-ahead of a layer for a tick, and what a unit of some layers that enters now is fetched for by the run-ahead of a hall
(R164). -/
def Dev.tagFor (d : Dev) (c k h0 n : Nat) : Tag :=
  let rd := d.viewFor c k
  { gen := d.genFor c k, layer := layerKey h0 n, bases := (d.basesFor c k h0 n).getD (d.layerBases rd h0 n),
    asid := fv rd (F.SRC_BASE_HI.asid h0 n) }
def Dev.aheadOf (d : Dev) (h : Nat) (ns : List Nat) : Ahead :=
  let x := d.runTick h
  { hall := h, canvas := x.1, tick := x.2, tags := ns.map fun n => (n, d.tagFor x.1 x.2 (leadOf (d.viewFor x.1 x.2) h) n) }

/-- A fault met by run-ahead is held with its tag, a read error with code 0; the sixteenth fills the store and stops the run-ahead
of its layer until the tick that it fetches for (R165). -/
def Dev.deferFault (d : Dev) (h : Nat) (x : Held) (tick : Nat × Nat) : Dev :=
  let v := d.hall h
  if 16 ≤ v.deferred.length then d.setHall h { v with stopped := (x.tag.layer, tick) :: v.stopped }
  else
    let full := v.deferred.length + 1 == 16
    let d := d.setHall h { v with
      deferred := v.deferred ++ [x], stopped := if full then (x.tag.layer, tick) :: v.stopped else v.stopped }
    let d := d.put (F.DEFER_STATUS.held h) (v.deferred.length + 1)
    if full then d.raiseHall h 15 else d

/-- The master word of a composition unit (R392). -/
def unitMaster (h n plane : Nat) : Nat := h + n * 8 + plane * 512

/-- Run-ahead fetches a unit of a plane of a layer in class BE, its walk included, unless the vestibule holds it or is full or the
run-ahead of the layer has stopped (R163, R165, R388), or its stack's traffic is held (R456). A unit passed over for want of space is
left to composition: the manual does not say whether run-ahead that paused goes on when units are taken out before T (DESIGN CHOICE,
log 153). -/
def Dev.runUnit (d : Dev) (h n : Nat) (tag : Tag) (u tick : Nat × Nat) : Dev :=
  let v := d.hall h
  if v.vest.contains (tag, u.2) || 4096 ≤ v.vest.length || v.stopped.any (·.1 == tag.layer) || d.vaHeld tag.asid u.2 then d
  else
    let held (code level : Nat) : Held :=
      { tag := tag, va := u.2, kind := 0, master := unitMaster h n u.1, code := code, level := level }
    match d.xlateAs 2 true tag.asid u.2 false with
    | (.bad c l, d) => d.deferFault h (held c l) tick
    | (.ok pa, d) =>
      let r := d.readUnit 2 true pa
      let d := r.2.bump (F.RUNAHEAD_UNITS.count h)
      if !r.1 then d.deferFault h (held 0 0) tick
      else
        let vest := (d.hall h).vest ++ [(tag, u.2)]
        (d.setHall h { d.hall h with vest := vest }).put (F.VEST_LEVEL.units h) vest.length

/-- A coverage pass ends: run-ahead fetches what it can hold, of the layers that will show a buffer (R163, R208). -/
def Dev.coverageDone (d : Dev) (h : Nat) : Dev :=
  let p := (d.passAtWork h).getD
    { canvas := d.nextCanvas h, tick := d.nextNumber (d.nextCanvas h), dyn := [], culled := [], done := false }
  let c := p.canvas
  let k := p.tick
  let d := if (d.passAtWork h).isSome then d.setHall h ((d.hall h).setPass { p with done := true }) else d
  if !d.covers h c k || !d.is (F.COVER_CTL.runahead h) || 1 ≤ d.get F.THERM_STATUS.level then d
  else
    let rd := d.viewFor c k
    let h0 := leadOf rd h
    let x := { d.passCtx c k h0 p.dyn with base := fun n => (d.basesFor c k h0 n).getD [] }
    (List.range (phasesOf rd c)).foldl (fun d ph =>
      let order := stackOrder x h0 ph
      let rs := rowNeeds rd (d.noWinsFor c k) c h0 h ph
      (order.filter fun n => (d.basesFor c k h0 n).isSome).foldl (fun d n =>
        (layerUnits x h0 n order (stripeOf rd h) rs).foldl (fun d u => d.runUnit h n (d.tagFor c k h0 n) u (c, k)) d) d) d

/-- Discard the run-ahead of a generation that will not come (R164). -/
def Dev.vestDropGen (d : Dev) (gen : Word) : Dev :=
  (List.range 8).foldl (fun d h => d.vestDiscard (hallCanvas d.actv h) h fun e => e.1.gen == gen) d

/-- Whether the buffer of a tag is shown at the next tick of a canvas, as decided: its layer takes part there, shows a buffer and
shows that one (R86, R164, R204). The generation of the tag is not compared: the manual asks whether the bases are those shown
(R164), and of a held fault only that its tag matches a buffer shown (R165; DESIGN CHOICE, log 168). -/
def Dev.tagShown (d : Dev) (rd : View) (c : Nat) (t : Tag) : Bool :=
  let h0 := t.layer / 33
  let n := t.layer % 33
  let v := d.hall h0
  let falls := n == 32 && v.fallTick
  let bases := if falls then [va48 (fv rd (F.BAL_IMG_LO.va_lo h0 3)) (fv rd (F.BAL_IMG_HI.va_hi h0 3))] else d.layerBases rd h0 n
  leadsGang rd h0 && hallCanvas rd h0 == c && takesSome rd (d.nextSteps c h0 n) c h0 n &&
    (falls || !d.is (F.LAYER_STATUS.no_buffer h0 n)) && !(n == 32 && (v.fillTick || d.is (F.BAL_STATUS.fault_fill h0))) &&
    bases == t.bases && fv rd (F.SRC_BASE_HI.asid h0 n) == t.asid

/-- The vestibule at the turnaround: entries whose bases are not shown go (R164); held faults whose tag matches are
reported and the others discarded (R165). A held read error makes no record: no code of R392 stands for it (log 99). -/
def Dev.vestTurn (d : Dev) (c h : Nat) : Dev :=
  let rd := d.nextView c
  let d := d.vestDiscard c h fun e => !d.tagShown rd c e.1
  let v := d.hall h
  let d := d.setHall h { v with deferred := [] }
  let d := d.put (F.DEFER_STATUS.held h) 0
  v.deferred.foldl (fun d x =>
    if d.tagShown rd c x.tag then
      (if x.code = 0 then d else d.faultRecord x.kind x.master x.tag.asid x.va x.code x.level false true).bump
        (F.DEFER_REPORTED.count h)
    else d.bump (F.DEFER_DISCARDED.count h)) d

/-! ## Windows whose lines are substituted -/

/-- Whether a lane's transmitter cannot send: it is off, its PLL has no lock, or the lane is out of service and nothing
carries it. -/
def Dev.laneDown (d : Dev) (n : Nat) : Bool :=
  let k := d.carrier n
  !d.is (F.LANE_STATUS.tx_on k) || !(d.pll (pllOfLane d.actv n k)).lock || (k == n && d.is (F.LANE_STATUS.out_of_service n))
def Dev.groupDown (d : Dev) (w : Nat) : Bool := (winLanes d.actv w).any d.laneDown

/-- The cause of a power failure in force: 2 VIN, 3 the thermal trip (R45). -/
def Dev.failCause (d : Dev) : List Nat :=
  match d.pwr.fail with
  | some (_, c) => [c]
  | none => []

/-- The halls whose stripes a window meets. -/
def hallsOfWin (rd : View) (w : Nat) : List Nat :=
  (hallsOf rd (winCanvas rd w)).filter fun h => winMeets rd (stripeOf rd h) w

/-- Whether every line of a window that reads row `y` goes out as a substitute, as far as it is known when the row is composed
(R45, R48). -/
def Dev.rowSubst (d : Dev) (w y : Nat) : Bool :=
  !d.failCause.isEmpty || d.noWins.contains w || d.groupDown w || d.is F.CFG_STATUS.safe || (d.win w).gone.isSome ||
    (!winTurned d.actv w && (hallsOfWin d.actv w).any fun h =>
      d.is (F.HALL_STATUS.killed h) || (d.hall h).outOfService || (d.hall h).ueRows.contains y)

/-- Whether every line of a turned window that reads pixels of a hall goes out as a substitute: each reads all rows of the window. -/
def Dev.turnedSubst (d : Dev) (w h : Nat) : Bool :=
  winTurned d.actv w && (d.hall h).ueRows.any fun y => winY d.actv w ≤ y && y < winY d.actv w + winH d.actv w

/-! ## Statistics -/

/-- The zone of a position in a stretch of `n`: the largest z with floor(n × z / 4) at most `i` (R140). -/
def zoneOf (n i : Nat) : Nat := if 3 * n / 4 ≤ i then 3 else if 2 * n / 4 ≤ i then 2 else if n / 4 ≤ i then 1 else 0

/-- One counted pixel: its bin and the maximum of its zone (R140). The maximum is u × 65,535 rounded to nearest even
(log 33). -/
def Hall.count1 (v : Hall) (z : Nat) (u : F32) : Hall :=
  let b := min (f32Floor (f32Mul u (f32OfNat 256))) 255
  let k := z * 256 + b
  let m := f32Rne (f32Mul u (f32OfNat 65535))
  let hist := Tab.set (fun _ => 0) v.hist k (Tab.get (fun _ => 0) v.hist k + 1)
  { v with
    hist := Tab.set (fun _ => 0) hist (4096 + z) (max m (Tab.get (fun _ => 0) hist (4096 + z)))
    count := v.count + 1 }

/-- Count the pixels of a composed row of a stripe that a window shows (R140). Log 85. -/
def Dev.countRow (d : Dev) (c h0 h p y : Nat) (pix : List Pix) : Dev :=
  let rd := d.actv
  let s := stripeOf rd h
  let ws := (winsIn rd d.noWins c p).filter fun w => winY rd w ≤ y && y < winY rd w + winH rd w && !d.rowSubst w y &&
    !d.turnedSubst w h
  let v := pix.zipIdx.foldl (fun (v : Hall) x =>
    let col := s.1 + x.2
    if ws.any fun w => winX rd w ≤ col && col < winX rd w + winW rd w then
      v.count1 (zoneOf (canvasH rd h0) y * 4 + zoneOf s.2 x.2) (pixelU (d.ctx h0) h0 x.1.d)
    else v) (d.hall h)
  d.setHall h v

/-- Publish the histograms of the last completed tick (R141). -/
def Dev.statsPublish (d : Dev) (h : Nat) : Dev :=
  let v := d.hall h
  match v.doneTick with
  | none => d
  | some n =>
    let page := hallPage h 10
    let d := { d with regs.ind := d.regs.ind.filter fun e => e.1 / 2 ^ 32 != page }
    let d := v.done.foldl (fun d e => d.setInd page e.1 (w32 e.2)) d
    (((d.put (F.STAT_TICK_LO.tick h) n).put (F.STAT_TICK_HI.tick h) (n / 2 ^ 32)).put (F.STAT_PIXELS.count h) v.doneN).raiseHall h 10

/-! ## The line-buffer pool (R113) -/

/-- A piece of a source line as a hall fetches it: columns `cols` of line `y` of a ring, with those that come from data that failed in
on-chip SRAM (R45). -/
def fetchPiece (c : Ctx) (h0 n : Nat) (chroma : Bool) (y : Nat) (cols : Nat × Nat) : PoolLine :=
  let code := fv c.rd (F.FORMAT.fmt h0 n)
  let is := List.range (cols.2 + 1 - cols.1)
  { chroma := chroma, line := y, x0 := cols.1,
    samples := is.map fun i => fetchRaw c h0 n code chroma (cols.1 + i) y,
    struck := is.filter fun i => touches c h0 n code chroma (cols.1 + i) y c.hit }

/-- A piece held after a unit of its layer has failed: what comes from the unit is marked invalid (R110). -/
def spoilPiece (c : Ctx) (h0 n : Nat) (l : PoolLine) : PoolLine :=
  let code := fv c.rd (F.FORMAT.fmt h0 n)
  { l with samples := l.samples.zipIdx.map fun s =>
      if touches c h0 n code l.chroma (l.x0 + s.2) l.line fun _ a => c.lost n (a / 64 * 64) then none else s.1 }

/-- Whether some pieces hold columns of a line. -/
def poolHolds (held : List PoolLine) (chroma : Bool) (q : Nat × Nat × Nat) : Bool :=
  held.any fun l => l.holds chroma q.2.1 q.1 && l.holds chroma q.2.2 q.1

/-- A line of a ring comes into use for some columns: the pieces held stay, what they lack is fetched, and the line is the most
recent. -/
def poolTake (c : Ctx) (h0 n : Nat) (chroma : Bool) (held : List PoolLine) (q : Nat × Nat × Nat) : List PoolLine :=
  let mine := held.filter fun l => l.chroma == chroma && l.line == q.1
  let rest := held.filter fun l => !(l.chroma == chroma && l.line == q.1)
  rest ++ (if poolHolds mine chroma q then mine else mine ++ [fetchPiece c h0 n chroma q.1 q.2])

/-- The slots of a ring: `nv` of them, its most recent lines; the rings advance independently (R113). Lines that hold an invalid
pixel do not displace the last intact line, which every row of a substituted tile repeats: it keeps the last slot (R81, R110;
DEDUCED, log 23). -/
def poolKeep (nv : Nat) (held : List PoolLine) : List PoolLine :=
  let lines (b : Bool) : List Nat :=
    let recent := ((held.filter fun l => l.chroma == b).map (·.line)).reverse.eraseDups
    match lastIntact held b with
    | some y => if (recent.take nv).contains y then recent.take nv else recent.take (nv - 1) ++ [y]
    | none => recent.take nv
  let luma := lines false
  let chroma := lines true
  held.filter fun l => if l.chroma then chroma.contains l.line else luma.contains l.line

/-- The lines of a ring that a row of a stripe needs, with the columns of each run of its tile row that is fetched. -/
def rowPieces (c : Ctx) (h0 n : Nat) (order : List Nat) (stripe : Nat × Nat) (f : Fmt) (chroma : Bool) (y : Nat) :
    List (Nat × Nat × Nat) :=
  (ringLines c h0 n f chroma y).flatMap fun l =>
    (runsOf c h0 n order stripe (y / 64)).map fun run => (l, tapSpan c h0 n f chroma run.1 run.2)

/-- The lines with their columns that the taps of a video layer read for a row, those of the chroma ring marked (R113). -/
def rowTakes (c : Ctx) (h0 n : Nat) (order : List Nat) (stripe : Nat × Nat) (y : Nat) : List (Bool × Nat × Nat × Nat) :=
  match fmtInfo (fv c.rd (F.FORMAT.fmt h0 n)) with
  | none => []
  | some f =>
    let v := visRect c.rd h0 n
    if 8 ≤ n || noBuffer c h0 n || visEmpty c.rd h0 n || y < v.2.2.1 || v.2.2.2 ≤ y then []
    else (rowPieces c h0 n order stripe f false y).map (false, ·) ++
      (if f.chromaCh 1 then (rowPieces c h0 n order stripe f true y).map (true, ·) else [])

/-- The pool of a video layer for a row: the lines its taps read are brought in (R113). -/
def poolFor (c : Ctx) (h0 n : Nat) (order : List Nat) (stripe : Nat × Nat) (y : Nat) (held : List PoolLine) : List PoolLine :=
  let qs := rowTakes c h0 n order stripe y
  if qs.isEmpty then held
  else poolKeep (tapsV c h0 n) (qs.foldl (fun held q => poolTake c h0 n q.1 held q.2) held)

/-- The pool of a hall for a row: what it holds of units that have failed since is invalid (R110). -/
def Dev.poolRow (d : Dev) (x : Ctx) (h0 h : Nat) (order : List Nat) (stripe : Nat × Nat) (y : Nat) : Dev :=
  d.setHall h { d.hall h with
    pool := order.foldl (fun t n =>
      let held := Tab.get (fun _ => []) t n
      let held := if (d.hall h).badUnits.any (·.1 == n) then held.map (spoilPiece x h0 n) else held
      Tab.set (fun _ => []) t n (poolFor x h0 n order stripe y held)) (d.hall h).pool }

/-! ## Composition -/

/-- A tile of a layer was substituted (R81). -/
def Dev.tilesFaulted (d : Dev) (c h0 h n k : Nat) : Dev :=
  if k = 0 then d
  else
    let d := ((d.bumpBy (F.FAULT_TILES.count h0 n) k).put (F.LAYER_STATUS.fault_tick h0 n) 1).once
      (markOf c (10000 + layerKey h0 n)) id
    d.once (markOf c (128 + 32 * h + 2)) fun d => d.raiseHall h 2

/-- Whether composition fetches a layer: it shows a buffer, and no fault fill replaces it (R66, R213). -/
def fetches (x : Ctx) (h0 n : Nat) : Bool := !noBuffer x h0 n && !(n == 32 && x.fill) && !visEmpty x.rd h0 n

/-- A unit of a layer fails in the fetch of a phase: the tiles that need it are substituted, even where it could be read later (R81,
R369, R390). -/
def Dev.noteBad (d : Dev) (h n u : Nat) : Dev := d.setHall h { d.hall h with badUnits := (n, u) :: (d.hall h).badUnits }

/-- Composition consumes a unit of a plane of a layer: from the vestibule where run-ahead holds it, else translated and read in class
RT; FETCH_UNITS counts it when it comes whole (R163, R166, R390). It waits for a stack whose traffic is held (R456). -/
def Dev.fetchUnit (d : Dev) (asid h0 h n : Nat) (u : Nat × Nat) : Dev :=
  let v := d.hall h
  if v.vest.any fun e => e.1.layer == layerKey h0 n && e.2 == u.2 then
    (d.setHall h { v with taken := (n, u.2) :: v.taken }).bump (F.FETCH_UNITS.count h)
  else if d.someHeld && d.vaHeld asid u.2 then d.setHall h { v with waits := v.waits ++ [(n, u)] }
  else
    match d.xlate 0 (unitMaster h n u.1) asid u.2 false with
    | (.bad _ _, d) => d.noteBad h n u.2
    | (.ok pa, d) => let r := d.readUnit 0 false pa; if r.1 then r.2.bump (F.FETCH_UNITS.count h) else r.2.noteBad h n u.2

/-- The units of a hall that waited for a stack are fetched once its traffic goes on (R456). -/
def Dev.fetchWaits (d : Dev) (h0 h : Nat) : Dev :=
  if (d.hall h).waits.isEmpty then d
  else (d.hall h).waits.foldl (fun d u => d.fetchUnit (fv d.actv (F.SRC_BASE_HI.asid h0 u.1)) h0 h u.1 u.2)
    (d.setHall h { d.hall h with waits := [] })

/-- What a hall fetches for a phase of a layer, with the non-finite samples among it (R72). -/
def Dev.fetchLayer (d : Dev) (x cov : Ctx) (c h0 h p : Nat) (order : List Nat) (need : List RowNeed) (n : Nat) : Dev :=
  if !fetches x h0 n then d
  else
    let s := stripeOf x.rd h
    let units := layerUnits cov h0 n order s need
    let k := nonFinite x h0 n s (need.map (·.row)) fun tx ty => !tileCulled cov h0 n p tx ty
    let d := if k = 0 then d else
      (d.bumpBy (F.NONFINITE_COUNT.count h) k).once (markOf c (128 + 32 * h + 5)) fun d => d.raiseHall h 5
    let d := units.foldl (fun d u => d.fetchUnit (fv x.rd (F.SRC_BASE_HI.asid h0 n)) h0 h n u) d
    let keep := (d.hall h).vest.filter fun e => !(e.1.layer == layerKey h0 n && units.any fun u => u.2 == e.2)
    (d.setHall h { d.hall h with vest := keep }).put (F.VEST_LEVEL.units h) keep.length

/-- A phase begins in a hall: its fetch, and the rows it has to compose, in the order of their needs (R57, R178). The tiles substituted
are counted anew, so that a tile substituted in several phases of a tick counts in each: the manual says neither once nor per phase
(R81; DESIGN CHOICE, log 164). -/
def Dev.hallPhase (d : Dev) (c h0 h p : Nat) : Dev :=
  let x := d.ctx h0
  let cov := d.covCtx h0 h
  let order := stackOrder x h0 p
  let need := inNeedOrder (rowNeeds d.actv d.noWins c h0 h p)
  let d := d.setHall h { d.hall h with badUnits := [], taken := [], waits := [] }
  let d := order.foldl (fun d n => d.fetchLayer x cov c h0 h p order need n) d
  d.setHall h { d.hall h with todo := need, pool := [], ueRows := [], faulted := [] }

/-- Whether a tile of a layer needs one of the units that failed in the fetch of the phase. -/
def tileFailed (cov : Ctx) (h0 n : Nat) (order : List Nat) (rs : List RowNeed) (failed : List (Nat × Nat)) (tx : Nat) : Bool :=
  (failed.any (·.1 == n)) && (layerUnits cov h0 n order (tx * 64, 64) rs).any fun u => failed.contains (n, u.2)

/-- The tiles of a layer in a row that are substituted: those found so before in the phase, those that need a unit whose fetch failed
and those with a pixel that needs an invalid sample (R81, R110). -/
def rowBad (x : Ctx) (h0 n : Nat) (stripe : Nat × Nat) (rows : List Nat) (y : Nat) (found : List (Nat × Nat × Nat))
    (failed : Nat → Bool) : List Nat :=
  if !fetches x h0 n then []
  else ((List.range (ceilDiv stripe.2 64)).map (stripe.1 / 64 + ·)).filter fun tx =>
    meetsTile x.rd h0 n tx (y / 64) && (found.contains (n, tx, y / 64) || failed tx || tileBad x h0 n stripe rows (tx * 64) y)

/-- Whether a row depends on failed SRAM data (R45): on an error of the hall's own SRAM in this tick the manual does not say which
rows do (a free value, log 62); a row depends on staging data that failed where a layer takes a sample from it, out of the line-buffer
pool or memory, or where a pixel takes a node of the 3D LUT that was blended from it. -/
def Dev.rowFails (d : Dev) (x cov : Ctx) (h0 h p y : Nat) (order : List Nat) (pix : List Pix) : Bool :=
  let s := stripeOf x.rd h
  let ws := (d.hall h0).lutUe
  ((d.hall h).sramUe && d.free % 2 == 1) || (!ws.isEmpty && pix.any fun q => lutTakes x h0 ws q.d) ||
    ((!d.unstruck || order.any fun n => (x.pool n).any fun l => !l.struck.isEmpty) &&
      order.any fun n => (List.range s.2).any fun i =>
        !tileCulled cov h0 n p ((s.1 + i) / 64) (y / 64) && layerStruck x h0 n (s.1 + i) y)

/-- Whether a row waits for a stack whose traffic is held: a sample that a layer has still to fetch for it, from a unit that the phase did
not take from the vestibule, is of that stack or needs a walk of it (R456). -/
def Dev.rowHeld (d : Dev) (h0 h p y : Nat) : Bool :=
  d.someHeld &&
    (let c := d.covCtx h0 h
     let order := stackOrder c h0 p
     let s := stripeOf c.rd h
     order.any fun n =>
       let code := fv c.rd (F.FORMAT.fmt h0 n)
       let held (a va : Nat) : Bool := !(d.hall h).taken.contains (n, va / 64 * 64) && d.vaHeld a va
       if n < 8 then
         (rowTakes c h0 n order s y).any fun q =>
           !poolHolds (Tab.get (fun _ => []) (d.hall h).pool n) q.1 q.2 &&
             (List.range (q.2.2.2 + 1 - q.2.2.1)).any fun i => touches c h0 n code q.1 (q.2.2.1 + i) q.2.1 held
       else fetches c h0 n && (List.range s.2).any fun i =>
         let x := s.1 + i
         inVis c.rd h0 n x y && !tileCulled c h0 n p (x / 64) (y / 64) &&
           [false, true].any fun chroma => touches c h0 n code chroma
             (fv c.rd (F.SRC_XY.x h0 n) + ((x : Int) - dstX c.rd h0 n).toNat)
             (fv c.rd (F.SRC_XY.y h0 n) + ((y : Int) - dstY c.rd h0 n).toNat) held)

/-- A layer contributed content to a row of a hall: its visible rectangle meets a tile of the row that is not culled, and it shows
something there (R92). -/
def Dev.noteShown (d : Dev) (x cov : Ctx) (c h0 p n y : Nat) (s : Nat × Nat) : Dev :=
  let v := visRect x.rd h0 n
  if v.2.2.1 ≤ y && y < v.2.2.2 &&
      ((List.range s.2).any fun i => !tileCulled cov h0 n p ((s.1 + i) / 64) (y / 64) && (layerAt x h0 n (s.1 + i) y).isSome) then
    d.once (markOf c (11000 + layerKey h0 n)) id
  else d

/-- The units of some rows of a layer whose translation has come to fail since the phase began: each is recorded, once in the phase
(R390, R392). -/
def Dev.rowFaults (d : Dev) (cov : Ctx) (h0 h n : Nat) (order : List Nat) (rs : List RowNeed) : Dev :=
  let asid := fv cov.rd (F.SRC_BASE_HI.asid h0 n)
  let us := (layerUnits cov h0 n order (stripeOf cov.rd h) rs).filter fun u =>
    !((d.hall h).badUnits.contains (n, u.2)) && (match d.translate asid u.2 false with
      | .ok _ => false
      | .bad _ _ => true)
  us.foldl (fun d u =>
    (d.xlate 0 (unitMaster h n u.1) asid u.2 false).2.noteBad h n u.2) d

/-- A further unit of a layer fails that `is` names: a tile still to be composed that needs it is substituted then; else it is a unit
of its own, whose tile counts now (R81, R369, R390). -/
def Dev.unitFails (d : Dev) (h n : Nat) (is : Nat → Bool) : Dev :=
  let c := hallCanvas d.actv h
  let h0 := leadOf d.actv h
  let cov := d.covCtx h0 h
  let order := stackOrder cov h0 (d.get (F.TICK_STATUS.phase c))
  match (layerUnits cov h0 n order (stripeOf d.actv h) (d.hall h).todo).find? fun u => is u.2 with
  | some u => d.noteBad h n u.2
  | none => d.tilesFaulted c h0 h n 1

/-- A hall composes a row with the tables as they stand (R57, R74, R104, R138): its pool, its substituted tiles, its pixels in the
Gallery and for write-back, and its statistics. -/
def Dev.composeRow (d : Dev) (c h0 h p : Nat) (r : RowNeed) : Dev :=
  let rd := d.actv
  let s := stripeOf rd h
  let y := r.row
  let rows := (rowNeeds rd d.noWins c h0 h p).map (·.row)
  let cov := d.covCtx h0 h
  let order := stackOrder cov h0 p
  let d := d.poolRow cov h0 h order s y
  let x := { d.ctx h0 with pool := fun n => Tab.get (fun _ => []) (d.hall h).pool n, lost := (d.hall h).lost }
  let found := (d.hall h).faulted
  let tile := (rows.filter fun r => r / 64 == y / 64).map fun r => RowNeed.mk r 0 true
  let bad := order.flatMap fun n =>
    (rowBad x h0 n s rows y found (tileFailed cov h0 n order tile (d.hall h).badUnits)).map fun tx => (n, tx, y / 64)
  let new := bad.filter fun q => !found.contains q
  let d := order.foldl (fun d n =>
    let k := (new.filter fun q => q.1 == n && !tileCulled cov h0 n p q.2.1 q.2.2).length
    if k = 0 then d else (d.rowFaults cov h0 h n order tile).tilesFaulted c h0 h n k) d
  let x := { x with bad := fun n tx => bad.contains (n, tx, y / 64) }
  let pix : List Pix := (List.range s.2).map fun i =>
    let v := composeD x h0 p (s.1 + i) y
    { d := v, e := encodePix x h0 v }
  let d := order.foldl (fun d n => d.noteShown x cov c h0 p n y s) d
  let ue := d.rowFails x cov h0 h p y order pix
  let d := if (d.hall h).sramUe then d.drawn else d
  let v := d.hall h
  let d := d.setHall h { v with faulted := new ++ v.faulted, ueRows := if ue then y :: v.ueRows else v.ueRows }
  let d := { d with gal := Tab.set (fun _ => []) d.gal (galKey h y) pix }
  let d := if wbReads rd h0 p then
      let w := (d.hall h).wbUe.filter (· != y)
      { d.setHall h { d.hall h with wbUe := if ue then y :: w else w } with
        wbRows := Tab.set (fun _ => []) d.wbRows (galKey h y) pix }
    else d
  if p == d.get (F.STAT_CTL.phase h0) && r.win then d.countRow c h0 h p y pix else d

/-- A hall composes the rows it has to, in order, while a test allows the next (R224) and none waits for HBM (R456). -/
def Dev.composeWhile (c h0 h p : Nat) (may : RowNeed → Bool) : List RowNeed → Dev → Dev
  | [], d => d.setHall h { d.hall h with todo := [] }
  | r :: rs, d =>
    if may r && !d.rowHeld h0 h p r.row then Dev.composeWhile c h0 h p may rs (d.composeRow c h0 h p r)
    else d.setHall h { d.hall h with todo := r :: rs }

/-- Whether the bands that a row goes into have space for it at `t` ns of the phase (R224). -/
def bandSpace (rd : View) (noWins : List Nat) (c h p t : Nat) (r : RowNeed) : Bool :=
  ((winsIn rd noWins c p).filter (winMeets rd (stripeOf rd h))).all fun w => (winRows rd w).space (winBand rd w) r.row ≤ t

/-- When every hall of a canvas has composed its rows the phase is composed, and the check units that follow it take it (R434). -/
def Dev.phaseComposed (d : Dev) (c : Nat) : Dev :=
  let p := d.get (F.TICK_STATUS.phase c)
  if (d.canvas c).composed = some p ∨ (hallsOf d.actv c).any fun h => !(d.hall h).todo.isEmpty then d
  else (d.setCanvas c { d.canvas c with composed := some p }).cuComposed c p

/-- A hall of a canvas goes on composing while a test allows it; in a power failure halls stop (R524). -/
def Dev.composeOn (d : Dev) (c h : Nat) (may : RowNeed → Bool) : Dev :=
  if (d.hall h).todo.isEmpty || d.pwr.fail.isSome then d
  else
    let h0 := leadOf d.actv h
    let d := d.fetchWaits h0 h
    (Dev.composeWhile c h0 h (d.get (F.TICK_STATUS.phase c)) may (d.hall h).todo d).phaseComposed c

/-- The halls of a canvas compose what the bands have space for at `t` ns of the phase (DESIGN CHOICE: as early as the bands
allow, log 7). -/
def Dev.composeTo (d : Dev) (c t : Nat) : Dev :=
  let p := d.get (F.TICK_STATUS.phase c)
  (hallsOf d.actv c).foldl (fun d h => d.composeOn c h (bandSpace d.actv d.noWins c h p t)) d

/-- A hall composes the rest of its phase. -/
def Dev.composeRest (d : Dev) (h : Nat) : Dev := d.composeOn (hallCanvas d.actv h) h fun _ => true

/-- A phase of a canvas begins in its halls (R17, R57): the band takes its rows afresh, and the pools correct what symbols they
must (R117). -/
def Dev.composePhase (d : Dev) (c p : Nat) : Dev :=
  let hs := hallsOf d.actv c
  match leadOfCanvas d.actv c with
  | none => d
  | some h0 =>
    let d := { d with gal := d.gal.filter fun e => !hs.contains (e.1 / 65536) }
    let d := (hs.filter d.hallRuns).foldl (fun d h => d.hallPhase c h0 h p) d
    let d := (hs.filter d.hallRuns).foldl (fun d h => d.corrected (F.POOL_CORRECTED.count h)) d
    (d.composeTo c (d.canvasNow c - phaseTime d.actv c (d.canvas c).tick p)).phaseComposed c

/-- A region of a canvas unit cannot end before its phase is composed: the halls compose the rest of it (R434). -/
def Dev.composeFor (d : Dev) (u : Nat) : Dev :=
  let c := d.cuIndex u
  if d.cuIn u && (d.cuKind u == 3 || d.cuKind u == 6) && (d.cu u).phase == d.get (F.TICK_STATUS.phase c) then
    (hallsOf d.actv c).foldl Dev.composeRest d
  else d

/-- A hall completes its tick (R93, R141), which one that a power failure has stopped on its way does not (R524), nor one that waits for
HBM (R456). -/
def Dev.hallDone (d : Dev) (h : Nat) : Dev :=
  if !d.hallRuns h then d
  else
    let rd := d.actv
    let c := hallCanvas rd h
    let d := d.composeRest h
    let v := d.hall h
    if !v.todo.isEmpty then d
    else
      let d := d.setHall h { v with done := v.hist, doneTick := some (d.canvas c).tick, doneN := v.count }
      let d := (d.bump (F.TICKS_COMPOSED.count h)).raiseHall h 0
      if d.is (F.STAT_CTL.hold (leadOf rd h)) then d else d.statsPublish h

/-! ## Write-back -/

/-- The stored bytes of a composed pixel (R83). -/
def wbPixel (fmt : Nat) (p : Pix) : List Byte :=
  match fmt with
  | 0 => (p.d.flatMap fun x => bytesLE 2 (f16OfF32 x)) ++ bytesLE 2 0x3C00
  | 1 =>
    let q (i : Nat) : Nat := quantRne 10 (vAt p.e i)
    bytesLE 4 (q 0 + q 1 * 2 ^ 10 + q 2 * 2 ^ 20 + 3 * 2 ^ 30)
  | _ =>
    let q (i : Nat) : Nat := quantRne 8 (vAt p.e i)
    bytesLE 4 (q 0 + q 1 * 2 ^ 8 + q 2 * 2 ^ 16 + 0xFF * 2 ^ 24)

/-- A write-back write that faults is dropped (R84). -/
def Dev.wbDrop (d : Dev) (h : Nat) : Dev :=
  (d.bump (F.WB_DROPPED.count h)).once (markOf (hallCanvas d.actv h) (128 + 32 * h + 4)) fun d => d.raiseHall h 4

/-- The write-back writes of some bytes, unit by unit; a unit that faults is dropped (R84). Bytes composed from failed SRAM data mark
the bursts that take them (R43, R45). -/
def Dev.wbUnits (d : Dev) (h asid : Nat) (failed : Bool) (us : List (Nat × List (Option Byte))) : Dev :=
  us.foldl (fun d u =>
    match d.xlate 1 h asid (u.1 % 2 ^ 48) true with
    | (.ok pa, d) =>
      let d := d.writeUnit 0 pa u.2
      if failed then d.strikePa pa u.2.length else d
    | (.bad _ _, d) => d.wbDrop h) d

/-- A hall has no rows left to write back. -/
def Dev.wbClear (d : Dev) (h : Nat) : Dev :=
  { d.setHall h { d.hall h with wbUe := [] } with wbRows := d.wbRows.filter fun e => e.1 / 65536 != h }

/-- The buffer of the ring that a hall writes back to in this tick (R82). -/
def Dev.wbRing (d : Dev) (h : Nat) : Nat :=
  (d.canvas (hallCanvas d.actv h)).tick % (fv d.actv (F.WB_CTL.ring_m1 (leadOf d.actv h)) + 1)

/-- The write-back of the rows composed so far (R82 to R84); a row whose walk waits for a stack stays (R456). -/
def Dev.wbFlush (d : Dev) (h : Nat) : Dev :=
  let rd := d.actv
  let h0 := leadOf rd h
  let fmt := fv rd (F.WB_CTL.format h0)
  let base := va48 (fv rd (F.WB_BASE_LO.va_lo h0)) (fv rd (F.WB_BASE_HI.va_hi h0)) +
    d.wbRing h * fv rd (F.WB_RING_STEP.step h0) * 65536
  let asid := fv rd (F.WB_BASE_HI.asid h0)
  let units (e : Nat × List Pix) : List (Nat × List (Option Byte)) :=
    let bs := e.2.flatMap (wbPixel fmt)
    splitAt 64 (bs.length + 1) (base + e.1 % 65536 * fv rd (F.WB_STRIDE.stride h0) + (stripeOf rd h).1 * wbBpp fmt) (bs.map some)
  let waits (e : Nat × List Pix) : Bool := d.someHeld && (units e).any fun u => d.walkHeld asid (u.1 % 2 ^ 48)
  let go := d.wbRows.filter fun e => e.1 / 65536 == h && !waits e
  let d := go.foldl (fun d e => d.wbUnits h asid ((d.hall h).wbUe.contains (e.1 % 65536)) (units e)) d
  { d with wbRows := d.wbRows.filter fun e => !go.contains e }

/-- A hall has issued the write-back of a tick (R85), which one whose rows or writes wait for HBM has not (R456). -/
def Dev.wbDone (d : Dev) (h : Nat) : Dev :=
  if !d.hallRuns h || fv d.actv (F.WB_CTL.enable (leadOf d.actv h)) = 0 then d.wbClear h
  else
    let d := (d.composeRest h).wbFlush h
    if d.someHeld && (!(d.hall h).todo.isEmpty || d.wbRows.any fun e => e.1 / 65536 == h) then d else
    let d := d.wbClear h
    (d.put (F.WB_INDEX.buffer h) (d.wbRing h)).raiseHall h 3

/-! ## Kill -/

/-- A hall composes no more of its phase. -/
def Dev.hallHalt (d : Dev) (h : Nat) : Dev :=
  if (d.hall h).todo.isEmpty then d
  else (d.setHall h { d.hall h with todo := [] }).phaseComposed (hallCanvas d.actv h)

/-- A hall that is killed composes what the lines whose slots begin within 1 µs read: they complete as composed (R87). -/
def Dev.killCompose (d : Dev) (c h : Nat) : Dev :=
  let p := d.get (F.TICK_STATUS.phase c)
  let t := d.canvasAt c (d.now + 1000) - phaseTime d.actv c (d.canvas c).tick p
  if (d.hall h).todo.isEmpty || !d.hallRuns h then d
  else d.composeOn c h (bandSpace d.actv d.noWins c h p t)

/-- A hall is killed (R87): the write-back writes in flight, those of the rows composed, complete. -/
def Dev.hallKillNow (d : Dev) (h : Nat) : Dev :=
  if !hallOn d.actv h || d.is (F.HALL_STATUS.killed h) then d
  else
    let c := hallCanvas d.actv h
    let d := (((d.wbFlush h).killCompose c h).wbClear h).hallHalt h
    let d := (d.put (F.HALL_STATUS.active h) 0).put (F.HALL_STATUS.killed h) 1
    let d := d.vestDiscard c h fun _ => true
    let d := d.setHall h { d.hall h with killedAt := some d.now, hist := [], count := 0 }
    let d := d.cuKilled c
    (d.bump (F.KILL_COUNT.count h)).raiseHall h 1

/-- Whether the tick at which a commit applies to a hall is due at this instant and not generated yet (R88). -/
def Dev.killWaits (d : Dev) (h : Nat) : Bool :=
  let c := hallCanvas (if hallOn d.pendv h then d.pendv else d.actv) h
  d.appliesNext c && decide (d.nextInstant c ≤ d.canvasNow c)

/-- HALL_CMD.kill (R87, R88): one accepted at the instant of an application tick takes effect after the commit. -/
def Dev.hallKill (d : Dev) (h : Nat) : Dev :=
  if d.killWaits h then d.setHall h { d.hall h with killDue := true } else d.hallKillNow h

/-- The kills that waited for a commit take effect once it has applied (R88). -/
def Dev.killsDue (d : Dev) : Dev :=
  (List.range 8).foldl (fun d h =>
    if (d.hall h).killDue && !d.killWaits h then (d.setHall h { d.hall h with killDue := false }).hallKillNow h else d) d

/-! ## The tone policy -/

/-- A binary32 value as a rational; infinities and NaN do not arise here. -/
def f32Rat (a : F32) : Rat :=
  let u := f32Unpack a
  let m : Rat := if 0 ≤ u.exp then ((u.man * 2 ^ u.exp.toNat : Nat) : Rat) else (u.man : Rat) / ((2 ^ (-u.exp).toNat : Nat) : Rat)
  if u.neg then -m else m

/-- PQ encode and decode of a rational through the evaluator of R130 (log 34). -/
def pqEnc (x : Rat) : Rat := f32Rat (tfEnc 4 (f32OfRat x))
def pqDec (x : Rat) : Rat := f32Rat (tfDec 4 (f32OfRat x))

def ratMin (a b : Rat) : Rat := if b < a then b else a
def ratClamp (x lo hi : Rat) : Rat := if x < lo then lo else if hi < x then hi else x

/-- The target curve (R143). -/
def toneTarget (uHi uP uK u : Rat) : Rat :=
  if uHi ≤ uP then ratMin u uP
  else if u ≤ uK then u
  else if u ≤ uHi then uK + (u - uK) * (uP - uK) / (uHi - uK)
  else uP

/-- The histogram of tick `n` merged over the halls of a gang, by bin: a hall without a histogram of that tick adds nothing
(R143). -/
def Dev.mergedBins (d : Dev) (hs : List Nat) (n : Nat) : List Nat :=
  let ms := (hs.map d.hall).filter fun v => v.doneTick == some n
  (List.range 256).map fun b => (ms.map fun v => ((List.range 16).map fun z =>
    Tab.get (fun _ => 0) v.done (z * 256 + b)).sum).sum

/-- The lowest bin whose cumulative count reaches 995 / 1,000 of N. -/
def binReach (n : Nat) : List Nat → Nat → Nat → Nat
  | [], b, _ => b - 1
  | x :: l, b, acc => if 995 * n ≤ 1000 * (acc + x) then b else binReach n l (b + 1) (acc + x)

/-- Entry `i` of the current curve of a hall; unlisted entries hold the identity, which is also the curve before any run: the
manual gives no reset value for it (DESIGN CHOICE, log 86). -/
def curDefault (i : Nat) : Rat := (i : Rat) / 4095
def Hall.curAt (v : Hall) (i : Nat) : Rat := Tab.get curDefault v.cur i

/-- The gains of a curve as binary16 (R143). -/
def gainOf (cur : Tab Rat) (i : Nat) : Nat :=
  let k := max i 1
  let q := pqDec (Tab.get curDefault cur k) / pqDec (curDefault k)
  f16OfDiv q.num.natAbs q.den

/-- The curve that the tone bank in use stands for (R142): the manual does not say how a bank of gains becomes a curve; it is
taken as the curve whose gains (R143) they are, cur[i] = PQ_encode(G[i] × PQ_decode(u_i)) (DESIGN CHOICE, log 87). -/
def Dev.curOfBank (d : Dev) (h0 : Nat) : Tab Rat :=
  let bank := d.get (F.CANVAS_CLR.tone_bank h0)
  (List.range 4096).foldl (fun m i =>
    let g := f32Rat (f32OfF16Fin (indHalf d.ind (hallPage h0 7) (bank * 2048) i))
    Tab.set curDefault m i (pqEnc (g * pqDec (curDefault i)))) []

/-- Write 4,096 half-words from an address of page 7. -/
def Dev.writeGains (d : Dev) (h0 addr : Nat) (g : List Nat) : Dev :=
  (List.range 2048).foldl (fun d k =>
    d.setInd (hallPage h0 7) (addr + k) (w32 (g.getD (2 * k) 0 + g.getD (2 * k + 1) 0 * 2 ^ 16))) d

/-- The nodes of a 3D LUT image, read through translation in class BE (R144, R390); none at the first fault or uncorrectable read. The
manual asks for a base whose bits 5 to 0 are 0 and gives another no
consequence: its bits are kept, and the image is read from there (R151; DESIGN CHOICE, log 167). -/
def Dev.lutImage (d : Dev) (h0 asid base : Nat) : Option (List Nat) × Dev :=
  let r := (List.range 4493).foldl (fun (r : Bool × Dev) k =>
    if r.1 then
      match r.2.xlate 7 h0 asid ((base + 64 * k) % 2 ^ 48) false with
      | (.ok pa, d) => d.readUnit 2 false pa
      | (.bad _ _, d) => (false, d)
    else (false, r.2)) (true, d)
  if r.1 then
    ((List.range 35937).mapM fun n => ((List.range 8).mapM fun i => r.2.mem asid ((base + 8 * n + i) % 2 ^ 48)).map ofLE, r.2)
  else (none, r.2)

/-- The tone policy abandons the blend of this tick: its result counts as missed (R390). -/
def Dev.toneAbandon (d : Dev) (h0 : Nat) : Dev :=
  d.setHall h0 { d.hall h0 with policyBusy := true, ready := false, lutReady := false, lutWaits := false }

/-- A blended channel (R144). -/
def lutBlend (w a b : Nat) : Nat := toField ((a : Int) + ((w : Int) * ((b : Int) - a) + 128) / 256) 16

/-- The nodes of a 3D LUT image that take bytes from data that failed in on-chip SRAM (R45). -/
def Dev.lutStruck (d : Dev) (asid base : Nat) : List Nat :=
  if d.unstruck then []
  else (List.range 35937).filter fun n => (List.range 8).any fun i => d.vaStruck asid ((base + 8 * n + i) % 2 ^ 48)

/-- Write the blended 3D LUT to the idle bank; false when the images cannot be read. The words blended from data that failed in
staging are known (R43, R45). -/
def Dev.writeLut3d (d : Dev) (h0 w : Nat) : Bool × Dev :=
  let asid := d.get (F.LUT3D_A_HI.asid h0)
  let va := va48 (d.get (F.LUT3D_A_LO.va_lo h0)) (d.get (F.LUT3D_A_HI.va_hi h0))
  let vb := va48 (d.get (F.LUT3D_B_LO.va_lo h0)) (d.get (F.LUT3D_B_HI.va_hi h0))
  let ra := d.lutImage h0 asid va
  match ra.1 with
  | none => (false, ra.2)
  | some as =>
    let rb := ra.2.lutImage h0 asid vb
    match rb.1 with
    | none => (false, rb.2)
    | some bs =>
      let idle := 1 - d.get (F.CANVAS_CLR.lut3d_bank h0)
      let ch (a b i : Nat) : Nat := lutBlend w (bitsOf a (16 * i) 16) (bitsOf b (16 * i) 16)
      (true, ((as.zip bs).zipIdx).foldl (fun d x =>
        let a := idle * 131072 + x.2 * 2
        (d.setInd (hallPage h0 8) a (w32 (ch x.1.1 x.1.2 0 + ch x.1.1 x.1.2 1 * 2 ^ 16))).setInd (hallPage h0 8) (a + 1)
          (w32 (ch x.1.1 x.1.2 2))) (rb.2.setHall h0 { rb.2.hall h0 with
            lutUe := ((d.lutStruck asid va ++ d.lutStruck asid vb).eraseDups.flatMap fun n =>
              [idle * 131072 + n * 2, idle * 131072 + n * 2 + 1]) ++ (rb.2.hall h0).lutUe.filter (· / 131072 != idle) }))

/-- The weight step of R144. -/
def weightStep (w uHi16 : Rat) (old wStep : Nat) : Nat :=
  let t : Int := if uHi16 ≤ w then 0 else min 256 ((256 * (uHi16 - w) / (1 - w) + 1 / 2).floor)
  ((old : Int) + clampI (t - old) (-wStep) wStep).toNat

/-- Whether the tone policy acts: report-only while a shedding level is in force (R527). -/
def Dev.toneActs (d : Dev) (h0 : Nat) : Bool := (d.hall h0).policyMode == 2 && d.get F.THERM_STATUS.level == 0

/-- Whether a unit of the two images waits for a stack whose traffic is held (R456). -/
def Dev.lutHeld (d : Dev) (h0 : Nat) : Bool :=
  let asid := d.get (F.LUT3D_A_HI.asid h0)
  let held (base : Nat) : Bool := (List.range 4493).any fun k => d.vaHeld asid ((base + 64 * k) % 2 ^ 48)
  d.someHeld && (held (va48 (d.get (F.LUT3D_A_LO.va_lo h0)) (d.get (F.LUT3D_A_HI.va_hi h0))) ||
    held (va48 (d.get (F.LUT3D_B_LO.va_lo h0)) (d.get (F.LUT3D_B_HI.va_hi h0))))

/-- The blend of a run by the current weight: it waits for a stack whose traffic is held, and its result is not complete until then
(R144, R145, R456). -/
def Dev.toneLut (d : Dev) (h0 : Nat) : Dev :=
  if d.lutHeld h0 then (d.toneAbandon h0).setHall h0 { (d.toneAbandon h0).hall h0 with lutWaits := true }
  else
    let r := d.writeLut3d h0 (d.hall h0).weight
    if r.1 then r.2.setHall h0 { r.2.hall h0 with policyBusy := false, ready := true, lutReady := true, lutWaits := false }
    else r.2.toneAbandon h0

/-- The blends that waited for a stack go on as its traffic does (R456). -/
def Dev.lutAgain (d : Dev) : Dev := (List.range 8).foldl (fun d h => if (d.hall h).lutWaits then d.toneLut h else d) d

/-- A run of the tone policy of a canvas (R142 to R144): the report and the proposal, and in act mode the idle banks. A run
with no counted pixel keeps the curve and stops. A report-only run with lut3d 1 reads no images: R142 names the curve and the weight
alone for it (DESIGN CHOICE, log 181). Where the blend is abandoned the curve and the weight keep the step of the run: the manual
says only that the banks in use stay (R145; DESIGN CHOICE, log 181). -/
def Dev.tonePolicy (d : Dev) (h0 : Nat) : Dev :=
  let v := d.hall h0
  let bins := v.bins
  let n := bins.sum
  let lut := d.is (F.TONE_POLICY.lut3d h0)
  let actMode := d.toneActs h0
  let b := binReach n bins 0 0
  let uHi : Rat := ((b + 1 : Nat) : Rat) / 256
  let uP := pqEnc ((d.get (F.TONE_TARGET.peak_nits h0) : Rat) / 10000)
  let uK := uP * (d.get (F.TONE_TARGET.knee h0) : Rat) / 256
  let st : Rat := (d.get (F.TONE_RATE.u_step h0) : Rat) / 65536
  if n = 0 then d.setHall h0 { v with policyBusy := false }
  else
    let dev (i : Nat) : Rat := toneTarget uHi uP uK (curDefault i) - v.curAt i
    let cur := (List.range 4096).foldl (fun m i => Tab.set curDefault m i (v.curAt i + ratClamp (dev i) (-st) st)) []
    let w := if lut then weightStep uP uHi v.weight (d.get (F.TONE_RATE.w_step h0)) else v.weight
    let worst := ((List.range 4096).map fun i => (max (dev i) (-(dev i)))).foldl max 0
    let g := (List.range 4096).map (gainOf cur)
    let d := d.setHall h0 { v with cur := cur, weight := w, policyBusy := false, ready := actMode, lutReady := false, lutWaits := false }
    let d := ((d.put (F.POLICY_REPORT.u_hi h0) (uHi * 65535).floor.toNat).put (F.POLICY_REPORT.w h0) w).put
      (F.POLICY_REPORT.valid h0) 1
    let d := d.put (F.POLICY_DEV.dev h0) (min 65535 (worst * 65536).floor.toNat)
    let d := d.writeGains h0 4096 g
    if actMode then
      let d := d.writeGains h0 ((1 - d.get (F.CANVAS_CLR.tone_bank h0)) * 2048) g
      if lut then d.toneLut h0 else d
    else d

/-- The marks of a latched exchange of tone and 3D LUT banks, and of one that a command asked for. -/
def toneMark (c : Nat) : Nat := markOf c 41000
def lutMark (c : Nat) : Nat := markOf c 42000
def toneCmdMark (c : Nat) : Nat := markOf c 43000
def lutCmdMark (c : Nat) : Nat := markOf c 44000

/-- The policy at the turnaround: a complete result is swapped with what its run wrote, an incomplete one missed in every hall of
the gang (R142, R145); a command written before is latched and stays outstanding until the exchange (R137). -/
def Dev.toneTurn (d : Dev) (c h0 : Nat) : Dev :=
  let v := d.hall h0
  let acts := d.toneActs h0
  let cmd := d.is (F.TONE_CMD.swap_tone h0)
  let cmd3 := d.is (F.TONE_CMD.swap_lut3d h0)
  let d := if acts ∧ v.policyBusy then
      (gangOf d.actv h0).foldl (fun d h => (d.bump (F.TONE_MISSED.count h)).raiseHall h 12) d
    else d
  let d := d.setHall h0 { d.hall h0 with ready := false, lutReady := false, lutWaits := false, policyBusy := false }
  let d := if cmd then (d.once (toneCmdMark c) id).once (toneMark c) id else d
  let d := if cmd3 then (d.once (lutCmdMark c) id).once (lutMark c) id else d
  let d := if acts ∧ v.ready then d.once (toneMark c) id else d
  if acts ∧ v.lutReady then d.once (lutMark c) id else d

/-- A latched exchange takes effect at the tick boundary in every hall of the gang that the bank active from then on gives the canvas,
and ends the command that asked for it (R137). -/
def Dev.toneSwap (d : Dev) (rd : View) (c h0 : Nat) : Dev :=
  let has (m : Nat) : Bool := d.first.contains m
  let t := has (toneMark c)
  let l := has (lutMark c)
  let tc := has (toneCmdMark c)
  let lc := has (lutCmdMark c)
  let hs := gangOf rd h0
  let flip (d : Dev) (r : Nat → FieldRef) : Dev := hs.foldl (fun d h =>
    ((d.put (r h) (1 - d.get (r h))).bump (F.TONE_SWAPS.count h)).raiseHall h 11) d
  let d := if t then flip d F.CANVAS_CLR.tone_bank else d
  let d := if l then flip d F.CANVAS_CLR.lut3d_bank else d
  let d := if tc then d.put (F.TONE_CMD.swap_tone h0) 0 else d
  if lc then d.put (F.TONE_CMD.swap_lut3d h0) 0 else d

/-! ## What a hall reports under the active generation -/

/-- The scaler block of a video layer in a hall (R95, R111, R114, R116), and the offset after its region. A disabled layer has no
step and no taps to report: they read 0, which the manual does not say; nor does it say what POOL_OFS and SRC_COLS read of a layer that
R114 does not count, or SRC_COLS of one with no column in the stripe: they read 0 (DESIGN CHOICE, log 94). STEP_X and STEP_Y show the step of the
gang in each of its halls: R118 takes them from the lead hall, and R60 says no more of the others (DESIGN CHOICE, log 124). -/
def Dev.scaleShow (d : Dev) (x : Ctx) (c h0 h n ofs : Nat) : Dev × Nat :=
  let on := layerOn x.rd h0 n
  let takes := (List.range (phasesOf x.rd c)).any fun p => takesPart x h0 n p
  let bytes := if takes then poolBytes x h0 n (stripeOf x.rd h) else 0
  let sx := if on then stepX x.rd h0 n else 0
  let sy := if on then stepY x h0 n else 0
  let d := (d.put (F.STEP_X_LO.step h n) sx).put (F.STEP_X_HI.step h n) (sx / 2 ^ 32)
  let d := (d.put (F.STEP_Y_LO.step h n) sy).put (F.STEP_Y_HI.step h n) (sy / 2 ^ 32)
  let d := (d.put (F.SCALE_STATUS.reduced h n) (bitOf (x.steps n) 0)).put (F.SCALE_STATUS.halved h n) (bitOf (x.steps n) 1)
  let d := (d.put (F.SCALE_STATUS.h_taps_eff h n) (if on then tapsH x h0 n else 0)).put (F.SCALE_STATUS.v_taps_eff h n)
    (if on then tapsV x h0 n else 0)
  let d := (d.put (F.POOL_OFS.ofs h n) (if takes then ofs else 0)).put (F.POOL_BYTES.bytes h n) bytes
  (d.put (F.SRC_COLS.cols h n) (if takes then poolCols x h0 n (stripeOf x.rd h) else 0), ofs + bytes)

/-- What a hall takes under the configuration in force: its scaler blocks, its line-buffer pool and its coverage pass (R114, R173,
R190). -/
def Dev.hallUse (d : Dev) (c h0 h : Nat) : Dev :=
  let rd := d.actv
  let x := d.ctx h0
  let r := (List.range 8).foldl (fun (r : Dev × Nat) n => r.1.scaleShow x c h0 h n r.2) (d, 0)
  let cols := ceilDiv (stripeOf rd h).2 64
  let tr := ((List.range (phasesOf rd c)).map fun p => (tileRows (rowNeeds rd d.noWins c h0 h p)).length).sum
  ((r.1.put (F.POOL_USED.bytes h) r.2).put (F.COVER_TILES.entries h) (tr * cols)).put (F.COVER_CYCLES.cycles h) (tr * (cols + 16))

/-- The windows that stay dropped for heat (R529), and what the halls take without them. -/
def Dev.setDropped (d : Dev) (ws : List Nat) : Dev :=
  let old := d.pwr.dropped
  let d := ({ d with pwr.dropped := ws }).put F.THERM_DROPPED.windows ws.length
  if ws = old then d
  else (canvasLeads d.actv).foldl (fun d cl => (hallsOf d.actv cl.1).foldl (fun d h => d.hallUse cl.1 cl.2 h) d) d

end Sys2Proof.Machine
end

