-- ==== Sys2Proof/Machine/Commit.lean ====
section
/-! DEFINITION. Commits: arrival checks, acceptance, admission and answer, cancel and withdrawal (R24 to R39, R571), the
resource state of an admission (R167), the admission of in-service operations (R182) and re-admission (R186 to R188). -/

namespace Sys2Proof.Machine

/-! ## The resource state -/

/-- The region ends that the Alcove's exhibits declare: one unit for each exhibit (R180). -/
def Dev.metroEnds (d : Dev) : Nat := ((List.range 8).filter fun s => ((d.cu (56 + s)).alc).isSome).length

/-- The gate lists to evaluate (R344): those that run and those that a swap brings, pending from its request (R342). -/
def Dev.gateLists (d : Dev) : List (Nat × GateList) :=
  (List.range 144).flatMap fun n =>
    (match d.running? n with | some g => [(n, g)] | none => []) ++
      (if d.gateBit n 1 then [(n, d.adminList n (d.lane n).swapBase)] else [])

/-- The operations admitted and not yet done (R182, R534), whose costs are charged. IN_SERVICE counts those requested as well
(R181). -/
def Dev.opsOn (d : Dev) : List Op := d.stw.ops.filter fun o => o.state != 0

/-- The spare of a lane: that of its landing port, else that of its quad. -/
def spareOf (rd : View) (n : Nat) : Option Nat :=
  match portOfLane rd n with
  | some k => if fv rd (F.PORT_CTL.spare_en k) = 1 then some (fv rd (F.PORT_CTL.spare_lane k)) else none
  | none => ((List.range 4).map fun i => n / 4 * 4 + i).find? fun k => k != n && laneSpare rd k

/-- A lane carries a window or belongs to a landing port. -/
def Dev.laneUsed (d : Dev) (n : Nat) : Bool :=
  (winsOn d.actv).any (fun w => (winLanes d.actv w).contains n) || (portOfLane d.actv n).isSome

/-- Whether an admitted operation that has still to start is to move another lane to a spare (R231, R537). -/
def Dev.promised (d : Dev) (n k : Nat) : Bool :=
  d.stw.ops.any fun o => o.state == 1 && o.target != n && spareOf d.actv o.target == some k && d.carrier o.target == o.target &&
    ((o.kind == 4 && o.ver == 0) || (o.kind == 5 && d.laneUsed o.target))

/-- The spare of a lane when it carries nothing and no admitted operation is to give it another lane. -/
def Dev.freeSpareOf (d : Dev) (n : Nat) : Option Nat :=
  (spareOf d.actv n).filter fun k => !d.is (F.LANE_STATUS.carrying k) && !(d.lane k).txDead && !d.promised n k

/-- The resource state of an admission with some windows left out (R167). -/
def Dev.admRes (d : Dev) (shed : List Nat) : AdmRes :=
  { hallOut := (List.range 8).filter fun h => (d.hall h).outOfService, galLost := d.galLost,
    laneDead := (List.range 144).filter fun n =>
      let k := d.carrier n
      if k == n then d.is (F.LANE_STATUS.out_of_service n) || ((d.lane n).txDead && (d.freeSpareOf n).isNone)
      else (d.lane k).txDead, shed := shed,
    pcs := d.get F.ADM_STATE.pcs - (d.opsOn.filter fun o => o.kind == 2).length, migrating := d.is F.ADM_STATE.migrating,
    therm := 2 ≤ d.get F.THERM_STATUS.level, metro := d.metroEnds,
    ops := d.stw.ops.length, stwHalf := d.opsOn.any fun o => o.kind == 1 && o.half, gates := d.gateLists }

/-- ADM_BUDGET: the HBM budget in force (R175, R528). -/
def Dev.budgetShow (d : Dev) : Dev :=
  let res : AdmRes :=
    { hallOut := [], galLost := 0, laneDead := [], shed := [],
      pcs := d.get F.ADM_STATE.pcs - (d.opsOn.filter fun o => o.kind == 2).length, migrating := d.is F.ADM_STATE.migrating,
      therm := 2 ≤ d.get F.THERM_STATUS.level, metro := 0, ops := 0, stwHalf := false, gates := [] }
  d.put F.ADM_BUDGET.bytes ({ rd := d.actv, base := d.actv, st := d.stv, steps := [], res := res : AdmCfg }).hbmBudget

/-- OP_STATUS: the operations in progress, from their admission to their end (DEDUCED, log 66). -/
def Dev.opStatus (d : Dev) : Dev :=
  let on := d.opsOn
  ((d.put F.OP_STATUS.running on.length).put F.OP_STATUS.kinds ((on.map fun o => 2 ^ o.kind).foldl (· ||| ·) 0)).budgetShow

/-! ## Requests -/

/-- A commit or dry run is admitting. -/
def Dev.admitting (d : Dev) : Bool :=
  let s := d.get F.COMMIT_STATUS.state
  s == 1 || s == 3 || d.dry.isSome

/-- Whether a request meets BUSY (R26, R535, R536). -/
def Dev.busy (d : Dev) (dryRun : Bool) : Bool :=
  d.admitting || (d.get F.COMMIT_STATUS.state == 2 && !dryRun) || (d.stw.ops.any fun o => o.state == 0 && !o.check) ||
    d.is F.FW_STATUS.switch_pending

/-- Whether this landing is a member of a system (R255). -/
def Dev.cascOn (d : Dev) : Bool := d.actIs F.CASC_CTL.enable
def Dev.member (d : Dev) : Bool := d.cascOn && bitOf (d.act F.CASC_MEMBERS.set) (d.get F.CASC_ID.landing) == 1

/-- The arrival checks of R571 after the routing of R255, for a request that arrived at `at'` under the horizon `hz` (R28): a cascade
request later than TICK_TIME(ref, T) − (210 µs + 3 · CASC_BUDGET.ns) is refused with HORIZON whatever `hz` is (R254). -/
def Dev.arrivalCode (d : Dev) (at' hz due : Nat) (gen : Word) (cascade dryRun : Bool) : Option Nat :=
  if (cascade && !(d.cascOn && d.coordinator)) || (!cascade && !dryRun && d.member) then some 0x17
  else if d.busy dryRun then some 0x12
  else if gen ≠ d.stored A.ACTIVE_GEN + 1 then some 0x13
  else if due < at' + hz then some 0x10
  else if cascade ∧ due < at' + 210000 + 3 * d.act F.CASC_BUDGET.ns then some 0x10
  else if at' + 10000000000 < due then some 0x11
  else if d.get F.CFG_CTL.reaction = 1 ∧ d.is F.CFG_STATUS.mismatch ∧ !dryRun then some 0x15
  else none

/-- An answer: code, words of COMMIT_ANSWER, report, count and COMMIT_ANSWERED (R30, R571). -/
def Dev.answerWith (d : Dev) (sess : Option Nat) (a : Answer) (rep : Tab Word) : Dev :=
  let d := { d with answer := a, answerIn := true, report := rep }
  let d := d.put F.COMMIT_STATUS.code a.code
  let d := if a.code ≤ 1 then d.bump F.ADMITTED_COUNT.count else d.bump F.REFUSED_COUNT.count
  (d.raise 64).aedAnswer sess a

/-- A refusal at arrival (R571): state, answered and PENDING_GEN stay. -/
def Dev.refuseArrival (d : Dev) (code target : Nat) (gen : Word) : Dev :=
  let a : Answer := { gen := gen, code := code, res := 0xFF, margin := 0, target := target }
  let d := d.put F.COMMIT_STATUS.outcome 2
  d.answerWith none a (reportArrival code gen target (if code = 0x17 then d.get F.CASC_ID.landing else 0) 0)

/-- The body of PREPARE (R250). -/
def prepareBody (gen : Word) (target ref : Nat) (dryRun : Bool) (set : Nat) : List Byte :=
  wordBE gen ++ bytesBE 8 target ++ [BitVec.ofNat 8 (ref + b2n dryRun * 128), 0, 0, 0] ++ bytesBE 2 set

def Merged.empty : Merged := { code := 0, landing := 0, counted := 0, entries := [] }

/-- The bank of an accepted request, and what it is checked against: a dry run beside a pending commit against the configuration
that results once that commit applies (R26). -/
def Dev.bankOfReq (d : Dev) (m : Commit) : Tab Word := if m.dryRun then d.regs.dry else d.regs.pend
def Dev.baseOfReq (d : Dev) (m : Commit) : Tab Word := if m.dryRun && d.commit.isSome then d.regs.pend else d.regs.active

/-- Offsets in a layer block that place_lock covers (R210, R89). -/
def placeOffsets (h : Nat) : List Nat :=
  [F.LAYER_CTL.enable h 32, F.FORMAT.fmt h 32, F.BUF_SIZE.w_m1 h 32, F.SRC_XY.x h 32, F.SRC_WH.w_m1 h 32, F.DST_X.x h 32,
   F.DST_Y.y h 32, F.GLOBAL_ALPHA.alpha h 32, F.FAULT_RG.r h 32, F.FAULT_BA.b h 32, F.CLR_CTL.matrix h 32,
   F.CLR_WHITE.sdr_white h 32, F.CLIP_KP.knee h 32, F.FLIP_CTL.fence_mode h 32, F.FENCE_TIME.timeout h 32].map (·.addr)

/-- Whether a set bit of BAL_LOCK covers a field, by name, of a register on a page of its hall (R210). -/
def Dev.balLocked (d : Dev) (h page a : Nat) (name : String) : Bool :=
  let place := d.is (F.BAL_LOCK.place_lock h)
  let content := d.is (F.BAL_LOCK.content_lock h)
  let select := d.is (F.BAL_LOCK.select_lock h)
  match page with
  | 0 => place && (List.range 8).any fun i => a == A.PHASE_MASK_HI h i
  | 4 => (place && (placeOffsets h).contains a) || (select && a == A.FLIP_CMD h 32)
  | 12 =>
    (place && a == A.BAL_CTL h && ["verify", "cu", "phase", "fallback_after"].contains name) ||
      (select && ((a == A.BAL_CTL h && name == "image") || a == A.BAL_NEXT h)) ||
      (content && 0x140 ≤ a % 0x1000 && a % 0x1000 < 0x180)
  | _ => false

/-- A bank with the fields that BAL_LOCK covers at their active values, which cannot be committed away (R210). -/
def Dev.keepLocked (d : Dev) (bank : Tab Word) : Tab Word :=
  if (List.range 8).all fun h => d.stored (A.BAL_LOCK h) == 0 then bank
  else
    ((bank ++ d.regs.active).map (·.1)).eraseDups.foldl (fun t a =>
      match pageAt a with
      | none => t
      | some p =>
        let m := if p.block = .hall then maskWhere a fun f => f.acc == .rws && d.balLocked p.inst p.page a f.name else 0
        if m = 0 then t else Tab.set resetWord t a ((Tab.get resetWord t a &&& ~~~m) ||| (d.actv a &&& m))) bank

/-- A lock that is set holds the fields that it covers against a commit that has been accepted too: R210 has a locked field keep its active
value (DEDUCED, log 180). -/
def Dev.locksHold (d : Dev) : Dev :=
  { d with regs.pend := d.keepLocked d.regs.pend, regs.dry := d.keepLocked d.regs.dry }

/-- Accept a request that arrived at `at'` under the horizon `hz`: the staged values are copied but those that BAL_LOCK holds, a dry run's into a bank of its own (R25, R26, R210). While a
commit is pending, COMMIT_STATUS.state and PENDING_GEN go on showing it beside a dry run: the manual does not say what they
show then (DESIGN CHOICE, log 91). -/
def Dev.accept (d : Dev) (level : Nat) (sess : Option Nat) (at' hz target ref : Nat) (gen : Word)
    (cascade dryRun : Bool) (due : Nat) : Dev :=
  let m : Commit :=
    { gen := gen, target := target, ref := ref, cascade := cascade, dryRun := dryRun, level := level, sess := sess, due := due,
      arrival := at', horizon := hz, cancelAt := none, taken := [], why := [], canvases := [], globals := true,
      refWrit := d.is F.CFG_STATUS.ref_written }
  let d := d.put F.COMMIT_STATUS.answered 0
  if dryRun then
    let d := { d with dry := some m, regs.dry := d.keepLocked d.regs.stored }
    if d.get F.COMMIT_STATUS.state = 2 then d
    else (if cascade then d.setStored A.PENDING_GEN gen else d).put F.COMMIT_STATUS.state 1
  else
    let d := { d with commit := some m, regs.pend := d.keepLocked d.regs.stored }
    (d.setStored A.PENDING_GEN gen).put F.COMMIT_STATUS.state 1

/-- Whether a bank changes a privileged field against another (R38). -/
def Dev.changesPrv (d : Dev) (bank base : Tab Word) : Bool :=
  ((bank ++ base ++ d.regs.active).map (·.1)).any fun a =>
    let m := maskWhere a fun f => f.acc == .rws && f.prv
    Tab.get resetWord bank a &&& m != Tab.get resetWord base a &&& m

/-- The cascade request that awaits its decision at this landing, with its votes (R256). -/
def Dev.openCasc (d : Dev) : Option (Commit × CascCommit) :=
  match d.dry, d.casc.dry with
  | some m, some c => some (m, c)
  | _, _ =>
    match d.commit, d.casc.commit with
    | some m, some c => if d.get F.COMMIT_STATUS.state = 3 then some (m, c) else none
    | _, _ => none

/-- Put an undecided cascade request back. -/
def Dev.setCasc (d : Dev) (m : Commit) (c : CascCommit) : Dev :=
  if m.dryRun then { d with dry := some m, casc.dry := some c } else { d with commit := some m, casc.commit := some c }

/-- An undecided cascade request sets state 3, unless a pending commit stands beside it (R54, log 91). -/
def Dev.awaitVotes (d : Dev) : Dev := if d.get F.COMMIT_STATUS.state = 2 then d else d.put F.COMMIT_STATUS.state 3

/-- A cascade request of a member set before any vote. -/
def CascCommit.start (set : Nat) (gen : Word) (dryRun : Bool) : CascCommit :=
  { set := set, votes := [], own := false, sent := false, held := none, missed := false, lateAt := none, gen := gen,
    dryRun := dryRun, kind := 0 }

/-- A cascade request at the coordinator goes to the members when the requester may make it (R256). -/
def Dev.prepareSend (d : Dev) (m : Commit) : Dev :=
  if m.level < 2 ∧ d.changesPrv (d.bankOfReq m) (d.baseOfReq m) then d
  else
    let set := d.act F.CASC_MEMBERS.set
    let d := (d.setCasc m (.start set m.gen m.dryRun)).awaitVotes
    d.landSend d.portsDown 0x10 0 true (prepareBody m.gen m.target m.ref m.dryRun set)

/-- A commit request of either path that arrived at `at'` under the horizon `hz` (R24, R28, R571): 0xFF when it is accepted, else its code. -/
def Dev.commitRequest (d : Dev) (level : Nat) (sess : Option Nat) (at' hz target ref : Nat) (gen : Word)
    (cascade dryRun : Bool) : Nat × Dev :=
  let due := d.tickTime ref target
  match d.arrivalCode at' hz due gen cascade dryRun with
  | some c => (c, d.refuseArrival c target gen)
  | none =>
    let d := d.accept level sess at' hz target ref gen cascade dryRun due
    match cascade, if dryRun then d.dry else d.commit with
    | true, some m => (0xFF, d.prepareSend m)
    | _, _ => (0xFF, d)

/-! ## The answer -/

/-- The ticks of the enabled canvases that the pending commit involves (R33). -/
def Dev.involved (d : Dev) : List Nat := (List.range 8).filter fun c => canvasOn d.pendv c || canvasOn d.actv c

/-- What a check of a bank says, in the order of R571: a code and the admission where it ran. Recovery refuses every commit with PRIV
(R513). -/
def Dev.checkBank (d : Dev) (bank base : Tab Word) (level : Nat) (steps : Tab Nat) (shed : List Nat) (permit : Nat) : Nat × AdmOut :=
  let none' : AdmOut := ⟨0, [], [], [], 0⟩
  let rd := Tab.get resetWord bank
  if (level < 2 ∧ d.changesPrv bank base) ∨ d.is F.STATUS.recovery then (0x14, none')
  else if !timingRules rd then (0x16, none')
  else
    let o := ({ rd := rd, base := Tab.get resetWord base, st := d.stv, steps := steps, res := d.admRes shed : AdmCfg }).runAdmission permit
    (o.code, o)

/-- POOL_REQ of the halls at full taps, 0 for a hall that the request gives no layers, and the refusal of a hall's pool (R115).
Bytes that the 23 bits of POOL_REQ do not hold show modulo 2^23: the manual does not say what it shows then (DESIGN CHOICE, log
92). -/
def Dev.poolNote (d : Dev) (bank : Tab Word) (o : AdmOut) : Dev :=
  if o.insts.isEmpty ∨ o.code = 0x20 then d
  else
    let rd := Tab.get resetWord bank
    let d := (List.range 8).foldl (fun d h =>
      d.put (F.POOL_REQ.bytes h) (match (canvasLeads rd).find? fun cl => (gangOf rd cl.2).contains h with
        | some cl => poolReq rd [] cl.2 h
        | none => 0)) d
    if o.code = 0x23 then d.bump (F.LINEBUF_REFUSALS.count (o.insts.getD 3 .none).inst) else d

/-- The answer of a check and its report with the answer time (R189). -/
def answerOf (o : AdmOut) (code : Nat) (m : Commit) (now landing : Nat) : Answer × Tab Word :=
  let us := ceilDiv (now - m.arrival) 1000
  if o.insts.isEmpty then
    ({ gen := m.gen, code := code, res := 0xFF, margin := 0, target := m.target }, reportArrival code m.gen m.target landing us)
  else
    let r := if 0x20 ≤ code then code - 0x20 else bindingRes o.insts
    ({ gen := m.gen, code := code, res := r, margin := (o.insts.getD r .none).margin, target := m.target },
     reportOf o m.gen m.target landing us)

/-- A refusal by a resource (R192). -/
def Dev.refusedEvent (d : Dev) (code : Nat) : Dev := if 0x20 ≤ code ∧ code ≤ 0x2D then d.raise 72 else d

/-- COMMIT_STATUS.state and PENDING_GEN after a request has ended: those of the commit that stays pending, else of the dry run
that still admits or awaits votes (R54). -/
def Dev.stateShow (d : Dev) : Dev :=
  match d.commit, d.dry with
  | some _, _ => d.put F.COMMIT_STATUS.state 2
  | none, some x => if d.casc.dry.isSome then (d.setStored A.PENDING_GEN x.gen).put F.COMMIT_STATUS.state 3
      else d.put F.COMMIT_STATUS.state 1
  | none, none => d.put F.COMMIT_STATUS.state 0

/-- A finished request with its outcome (R54); the session hears of it (R323). -/
def Dev.finish (d : Dev) (m : Commit) (outcome : Nat) : Dev :=
  let d := if m.dryRun then { d with dry := none, casc.dry := none }
    else { d with commit := none, casc.commit := none, casc.join := none }
  let d := (d.put F.COMMIT_STATUS.outcome outcome).stateShow
  if outcome = 2 then d else d.aedOutcome m.sess m.gen outcome

/-- Withdraw a commit: cancelled 3, revoked 4, aborted 5 (R36, R37, R258). A re-admission that covered it is to be made again, of
the running configuration. -/
def Dev.withdraw (d : Dev) (m : Commit) (outcome : Nat) : Dev :=
  let d := (d.finish m outcome).vestDropGen m.gen
  let d := { d with readmit := d.readmit.map fun (x : Readmit) =>
    if x.covers then { x with covers := false, applyAt := none, canvases := x.canvases.filter d.ticking } else x }
  let d := if outcome = 5 then d else d.bump F.CANCELLED_COUNT.count
  (d.raise 66).coverageAgain m

/-- What follows a held cancel at the answer (R36). -/
def Dev.heldCancel (d : Dev) (m : Commit) : Dev :=
  match m.cancelAt with
  | some tc =>
    let d := d.put F.COMMIT_CMD.cancel 0
    if tc + m.horizon ≤ m.due then d.withdraw m 3 else d
  | none => d

/-- The answer of a commit of this landing alone. -/
def Dev.answerCommit (d : Dev) (m : Commit) : Dev :=
  let r := d.checkBank d.regs.pend d.regs.active m.level [] [] 2
  let x := answerOf r.2 r.1 m d.now 0
  let d := (d.poolNote d.regs.pend r.2).put F.COMMIT_STATUS.answered 1
  let d := d.answerWith m.sess x.1 x.2
  if r.1 ≤ 1 then
    let m := { m with taken := r.2.steps, why := r.2.why, canvases := d.involved }
    ((({ d with commit := some m }).put F.COMMIT_STATUS.state 2).heldCancel m).coverageAgain m
  else ((d.refusedEvent r.1).put F.COMMIT_CMD.cancel 0).finish m 2

/-- The answer of a dry run (R26, R32). -/
def Dev.answerDry (d : Dev) (m : Commit) : Dev :=
  let r := d.checkBank d.regs.dry (d.baseOfReq m) m.level [] [] 2
  let x := answerOf r.2 r.1 m d.now 0
  let d := (d.poolNote d.regs.dry r.2).put F.COMMIT_STATUS.answered 1
  let d := (d.answerWith m.sess x.1 x.2).refusedEvent r.1
  (d.put F.COMMIT_CMD.cancel 0).finish m 6

/-! ## Cancel (R36) -/

/-- A cancel of an admitting commit is held; of a pending one it withdraws it in time. One of an admitting dry run reads 1 until
the answer and has no further effect (DESIGN CHOICE, log 102). -/
def Dev.commitCancel (d : Dev) : Dev :=
  match d.commit with
  | some m =>
    if d.get F.COMMIT_STATUS.state = 1 then
      if m.cancelAt.isSome then d
      else ({ d with commit := some { m with cancelAt := some d.now } }).put F.COMMIT_CMD.cancel 1
    else if d.get F.COMMIT_STATUS.state = 2 ∧ d.now + m.horizon ≤ m.due then d.withdraw m 3
    else d
  | none => if d.admitting then d.put F.COMMIT_CMD.cancel 1 else d

/-! ## Operations (R182, R535) -/

/-- The margins of a bank under a resource state, evaluated once with the steps in force. -/
def Dev.opMargins (d : Dev) (rd : View) (steps : Tab Nat) (res : AdmRes) : List Inst :=
  ({ rd := rd, base := rd, st := d.stv, steps := steps, res := res : AdmCfg }).margins

/-- The smaller margins of the running and of the pending configuration. -/
def smaller (a b : List Inst) : List Inst := (a.zip b).map fun x => if x.2.before x.1 then x.2 else x.1

/-- The margins of an operation (R182, R535): the running configuration and, while a commit is pending, the one it brings. -/
def Dev.opCheck (d : Dev) (tweak : AdmRes → AdmRes) : List Inst :=
  let now := d.opMargins d.actv d.stepsNow (tweak (d.admRes d.noWins))
  match d.commit with
  | some m =>
    if d.get F.COMMIT_STATUS.state = 2 then smaller now (d.opMargins d.pendv m.taken (tweak (d.admRes []))) else now
  | none => now

/-- The code of an operation's margins: admitted, or the binding resource. -/
def opCode (ms : List Inst) : Nat := if ms.all fun i => 0 ≤ i.margin then 0 else 0x20 + bindingRes ms

/-! ## Re-admission (R186 to R188) -/

/-- A loss or another ground for re-admission (R186): it answers within 150 µs and applies 200 µs after the loss. A loss later
than 50 µs before a pending commit is due covers the configuration that the commit brings (R188). `heat` is the step of thermal
shedding it comes from. -/
def Dev.lossBy (d : Dev) (heat : Nat) : Dev :=
  let late := match d.commit with
    | some m => if d.get F.COMMIT_STATUS.state = 2 ∧ m.due < d.now + 50000 then some m.canvases else none
    | none => none
  let x : Readmit :=
    { at' := d.now, applyAt := none, taken := [], shed := [], pcs := d.get F.ADM_STATE.pcs, loss := d.now,
      canvases := (List.range 8).filter fun c => d.ticking c || (late.getD []).contains c, drop := [], sheds := [],
      covers := late.isSome, heat := heat }
  if d.readmit.contains x then d else { d with readmit := d.readmit ++ [x] }
def Dev.loss (d : Dev) : Dev := d.lossBy 0

/-- Whether a landing holds a DECIDE to commit (R259). -/
def Dev.decided (d : Dev) : Bool := d.casc.commit.any fun c => c.held.isSome

/-- The windows that the answered re-admissions shed, of those that cover a pending commit or of the others. -/
def Dev.readmitSheds (d : Dev) (covers : Bool) : List Nat :=
  (d.readmit.filter fun x => x.applyAt.isSome && x.covers == covers).flatMap (·.shed)

/-- The windows dropped for heat that a re-admission finds: those of the last one answered, as windows that could not be admitted again
stay dropped until a commit applies (R529). -/
def Dev.readmitDrops (d : Dev) (brings : Bool) : List Nat :=
  if d.get F.THERM_STATUS.level = 3 then d.pwr.dropped
  else if brings then []
  else (((d.readmit.filter (·.applyAt.isSome)).getLast?).map (·.drop)).getD d.pwr.dropped

/-- The re-admission of a configuration under a resource state, from no step taken (R184), and whether it sheds a window beyond those
that are out and those dropped for heat. -/
def Dev.readmitUnder (d : Dev) (rd : View) (res : AdmRes) (drops : List Nat) : (AdmOut × List Nat) × Bool :=
  let r := ({ rd := rd, base := rd, st := d.stv, steps := [], res := res : AdmCfg }).readmit 577
  (r, r.2.any fun w => !res.shed.contains w && !drops.contains w)

/-- Level 2 does not fit: the full budget stays, and level 1 (R528). -/
def Dev.coldBudget (d : Dev) : Dev :=
  let d := d.put F.THERM_STATUS.l2_nofit 1
  (if d.get F.THERM_STATUS.level = 2 then (d.put F.THERM_STATUS.level 1).raise 35 else d).budgetShow

/-- One outstanding re-admission is answered; the one of leaving level 3 tries the dropped windows again (R529). One that could hold the
thermal budget only by shedding windows is not applied, and the full budget stays (R528); where another ground than the level asked for
it, it is made under the full budget. Its report names no T, for which R189 gives no value: the words of T read 0 (DESIGN CHOICE, log
116). -/
def Dev.readmitAnswer (d : Dev) (x : Readmit) : Dev :=
  let brings := x.covers && d.commit.isSome
  let rd := if brings then d.pendv else d.actv
  let drops := d.readmitDrops brings
  let back := x.heat == 3 && d.get F.THERM_STATUS.level != 3
  let was := (if brings then [] else d.shed) ++ (if back then [] else drops) ++ d.readmitSheds brings
  let res := d.admRes was
  let first := d.readmitUnder rd res drops
  let cold := res.therm && first.2
  let d := if cold then d.coldBudget else d
  let report (o : AdmOut) : Tab Word := reportOf o (d.stored A.ACTIVE_GEN) 0 0 (ceilDiv (d.now - x.loss) 1000)
  if cold ∧ x.heat = 2 then { d with readmit := d.readmit.erase x, reReport := report first.1.1 }
  else
    let r := if cold then (d.readmitUnder rd { res with therm := false } drops).1 else first.1
    let y := { x with
      applyAt := some (x.loss + 200000), taken := r.1.steps,
      shed := (r.2.filter fun w => !drops.contains w).eraseDups, drop := drops.filter r.2.contains,
      sheds := r.2.filter fun w => !was.contains w }
    { d with readmit := d.readmit.map fun z => if z = x then y else z, reReport := report r.1 }

/-- A pending commit is checked again (R37), unless the loss came later than 50 µs before it is due (R188). One whose DECIDE to
commit is held applies whatever the check says, and a re-admission that covers it follows (R259). -/
def Dev.recheck (d : Dev) (x : Readmit) : Dev :=
  match d.commit with
  | some m =>
    if d.get F.COMMIT_STATUS.state = 2 ∧ !x.covers then
      let r := d.checkBank d.regs.pend d.regs.active 2 [] [] 1
      if r.1 ≤ 1 then { d with commit := some { m with taken := r.2.steps, why := r.2.why } }
      else if d.decided then
        let y := { x with covers := true, canvases := (x.canvases ++ m.canvases).eraseDups }
        ({ d with readmit := d.readmit ++ [y] }).readmitAnswer y
      else d.withdraw m 4
    else d
  | none => d

/-- READMISSION: the oldest re-admission without an answer is answered. -/
def Dev.readmission (d : Dev) : Dev :=
  match d.readmit.find? fun x => x.applyAt.isNone with
  | some x => (d.readmitAnswer x).recheck x
  | none => d

/-- The windows shed, in SHED_STATUS and WIN_STATUS (R187). -/
def Dev.setShed (d : Dev) (shed : List Nat) : Dev :=
  let old := d.shed
  let d := ({ d with shed := shed }).put F.SHED_STATUS.windows shed.length
  (old ++ shed).foldl (fun d w => d.put (F.WIN_STATUS.shed w) (b2n (shed.contains w))) d

end Sys2Proof.Machine
end

