-- ==== Sys2Proof/Machine/OpBase.lean ====
section
/-! DEFINITION. In-service operations: requests, answers, records and ends (R534, R535, R546). -/

namespace Sys2Proof.Machine

/-! ## Records (R546) -/

/-- The words of a record. -/
def recordWords (kind target code result reason tick ns : Nat) : List Word :=
  [w32 (kind + target * 2 ^ 8 + code * 2 ^ 16 + result * 2 ^ 24 + 2 ^ 31), w32 reason, w32 tick, w32 ns]

/-- Whether a queued record tells of an operation that still runs. -/
def recordRuns (kind target : Nat) (r : List Word) : Bool :=
  let w := (r.getD 0 0).toNat
  bitsOf w 0 4 == kind && bitsOf w 8 8 == target && bitsOf w 24 3 == 0

/-- Queue a record behind the others; a full queue loses its oldest. -/
def Dev.opNote (d : Dev) (kind target code result reason tick : Nat) : Dev :=
  let q := d.stw.records ++ [recordWords kind target code result reason tick (nsOf d.now)]
  { d with stw.records := q.drop (q.length - 16) }

/-- Write the record of an admitted operation: in place of the one that tells of it while it is queued, else behind the others. -/
def Dev.opRecord (d : Dev) (kind target code result reason tick : Nat) : Dev :=
  let r := recordWords kind target code result reason tick (nsOf d.now)
  if d.stw.records.any (recordRuns kind target) then
    { d with stw.records := d.stw.records.map fun x => if recordRuns kind target x then r else x }
  else d.opNote kind target code result reason tick

/-- OP_RECORD: the oldest record, removed (R546). -/
def Dev.takeRecord (d : Dev) : List Word × Dev :=
  match d.stw.records with
  | [] => ([0, 0, 0, 0], d)
  | r :: q => (r, { d with stw.records := q })

/-! ## Requests and answers (R535) -/

/-- The last code of a PC command (R379). -/
def Dev.pcCode (d : Dev) (kind code : Nat) : Dev :=
  if kind = 2 ∨ kind = 3 then d.put F.PC_CMD_STATUS.code code else d

/-- A refusal sets LANE_EVT.failover (R231). -/
def Dev.laneRefused (d : Dev) (n : Nat) : Dev := if n < 144 then d.laneEvt n F.LANE_EVT.failover else d

/-- An operation request is refused: its record and events (R192, R535), and of a lane its own (R231). -/
def Dev.opRefuse (d : Dev) (kind target code reason : Nat) : Dev :=
  let d := (d.opNote kind target code 2 reason 0).refusedEvent code
  let d := if kind = 4 ∨ kind = 5 then d.laneRefused target else d
  (((d.pcCode kind code).bump F.OP_REFUSED.count).raise 832).raise 835

/-- An operation request is taken: BUSY while a commit or an operation is admitting, awaits a vote or firmware is about to
switch. -/
def Dev.opRequest (d : Dev) (kind target ref origin : Nat) : Dev :=
  if d.admitting ∨ (d.stw.ops.any fun o => o.state == 0 && !o.check) ∨ d.is F.FW_STATUS.switch_pending then
    d.opRefuse kind target 0x12 0
  else if kind = 1 ∧ d.get F.COMMIT_STATUS.state ≠ 0 then d.opRefuse kind target 0x12 0
  else
    let o : Op :=
      { kind := kind, target := target, ref := ref, state := 0, at' := d.now, start := { canvas := none, at' := 0 }, tick := 0, check := kind == 1, ver := 0,
        origin := origin, half := false, num := (d.stw.ops.map (·.num)).foldl max 0 + 1 }
    { d with stw.ops := d.stw.ops ++ [o] }

/-- The other operations that count when one is answered: those taken before it and those admitted already, as requests are admitted in
the order in which they were taken (R535). -/
def Dev.opsBefore (d : Dev) (o : Op) : List Op :=
  (d.stw.ops.takeWhile (·.num != o.num)) ++ (d.stw.ops.dropWhile (·.num != o.num)).tail.filter (·.state != 0)

/-- Whether the number of operations allows this one (R534): one of a kind, for retirements one in each stack. -/
def Dev.opRoom (d : Dev) (o : Op) : Bool :=
  let on := d.opsBefore o
  if o.kind = 3 then !on.any fun p => p.kind == 3 && p.target / 32 == o.target / 32
  else !on.any fun p => p.kind == o.kind

/-- The instant and tick at which an operation starts: the first tick of its canvas that falls at least 200 µs after the answer. -/
def Dev.opStartAt (d : Dev) (ref : Nat) : When × Nat :=
  if ref < 8 ∧ d.ticking ref then
    let n := d.tickFrom ref (d.canvasAt ref (d.now + 200000))
    ({ canvas := some ref, at' := d.tickTime ref n }, n)
  else ({ canvas := none, at' := d.now + 200000 }, 0)

/-- The first tick of any running canvas that falls at least 200 µs ahead, as its instant and number (R375). -/
def Dev.anyStartAt (d : Dev) : When × Nat :=
  let falls (x : When × Nat) : Nat := d.tcOf (x.1.canvas.getD 0) x.1.at'
  (d.running.map d.opStartAt).foldl
    (fun a x => match a with | some y => some (if falls x < falls y then x else y) | none => some x) none |>.getD (d.opStartAt 8)

/-- Replace an operation, the one of its number. -/
def Dev.setOp (d : Dev) (o p : Op) : Dev := { d with stw.ops := d.stw.ops.map fun x => if x.num = o.num then p else x }

/-- An operation is admitted: it starts at its instant (R535). The retraining of a PC, and the re-equalisation of a lane, are then no
longer to be asked for. -/
def Dev.opAdmit (d : Dev) (o : Op) (start : When) (tick : Nat) : Dev :=
  let d := (d.setOp o { o with state := 1, start := start, tick := tick }).opStatus
  let d := match o.kind with
    | 2 => { d with stw.retrain := d.stw.retrain.filter (· != o.target) }
    | 5 => { d with stw.asked := if d.stw.health.contains o.target then o.target :: d.stw.asked else d.stw.asked }
    | _ => d
  ((d.pcCode o.kind 0).opNote o.kind o.target 0 0 0 tick).raise 832

/-- An operation that admission refuses. -/
def Dev.opDrop (d : Dev) (o : Op) (code reason : Nat) : Dev :=
  (({ d with stw.ops := d.stw.ops.erase o }).opStatus).opRefuse o.kind o.target code reason

/-- The next PC that a relocked HBM PLL leaves to be retrained is asked for, one at a time (R456, R534). -/
def Dev.retrainNext (d : Dev) : Dev :=
  let d := { d with stw.retrain := d.stw.retrain.filter fun p => d.pcState p == 1 || d.pcState p == 7 }
  match d.stw.retrain with
  | p :: _ => if d.stw.ops.any (·.kind == 2) then d else d.opRequest 2 p 8 0
  | [] => d

/-- An operation ends, done (1) or failed (3). -/
def Dev.opEnd (d : Dev) (kind target result : Nat) : Dev :=
  match d.stw.ops.find? fun o => o.kind == kind && o.target == target && o.state != 0 with
  | some o =>
    let d := ({ d with stw.ops := d.stw.ops.erase o }).opStatus
    let d := d.opRecord kind target 0 result 0 o.tick
    let d := (d.bump F.OP_DONE.count).raise 834
    if kind = 2 then d.retrainNext else d
  | none => d

/-- A cancel before the start instant withdraws an operation; a request that is still admitting is withdrawn at once. -/
def Dev.opCancel (d : Dev) (kind target : Nat) : Dev :=
  match d.stw.ops.find? fun o => o.kind == kind && o.target == target && o.state < 2 && (o.state == 0 || !d.isDue o.start) with
  | some o =>
    let d := ({ d with stw.ops := d.stw.ops.erase o }).opStatus
    let d := if kind = 1 then d.put F.FW_STATUS.switch_pending 0 else d
    if o.state = 0 then d.opNote kind target 0 4 0 o.tick else d.opRecord kind target 0 4 0 o.tick
  | none => d

/-- An admitted operation starts (R535). -/
def Dev.opBegin (d : Dev) (o : Op) : Dev := ((d.setOp o { o with state := 2 }).opStatus).raise 833

/-- The answer code of an operation that has been requested (R182); requests taken after it do not count (R535). -/
def Dev.opAdmits (d : Dev) (o : Op) (tweak : AdmRes → AdmRes) : Nat :=
  opCode (d.opCheck fun r => tweak { r with ops := (d.opsBefore o).length + 1 })

end Sys2Proof.Machine
end

