-- ==== Sys2Proof/Machine/Output.lean ====
section
/-! DEFINITION. The outputs: a line of a window at its slot with its causes and substitutes (R41 to R48, R225 to R227), the window
colour stages (R146 to R149), line payloads (R234), Stairline frames (R232, R233), Stairline-over-Ethernet (R238) and SMPTE
ST 2110-20 packets (R239), halts (R230), and Stairline time and sideband (R235, R236). -/

namespace Sys2Proof.Machine

/-! ## Causes of a departure -/

/-- The lanes that send a window, by the lane whose traffic they carry. -/
def Dev.physLanes (d : Dev) (w : Nat) : List Nat := (winLanes d.actv w).map d.carrier

/-- The canvas pixels of a line, in output order. -/
def linePixels (rd : View) (w l : Nat) : List (Nat × Nat) := (List.range (winOW rd w)).map fun k => winPixel rd w l k

/-- The hall of a canvas column. -/
def hallOfCol (rd : View) (c x : Nat) : Option Nat :=
  (hallsOf rd c).find? fun h => (stripeOf rd h).1 ≤ x && x < (stripeOf rd h).1 + (stripeOf rd h).2

/-- The Gallery values of a canvas pixel, none while it is not in the band (R225). -/
def Dev.galPixel (d : Dev) (c x y : Nat) : Option Pix :=
  match hallOfCol d.actv c x with
  | none => none
  | some h => (d.rowPix h y)[x - (stripeOf d.actv h).1]?

/-- The lanes of a window's group whose transmitters send: a substitute leaves on these alone (R46). -/
def Dev.upLanes (d : Dev) (w : Nat) : List Nat := (winLanes d.actv w).filter fun n => !d.laneDown n

/-- The halls that compose some pixels. -/
def hallsOfPixels (rd : View) (c : Nat) (px : List (Nat × Nat)) : List Nat :=
  (px.filterMap fun q => hallOfCol rd c q.1).eraseDups

/-- The address of the calibration records of a line (R148). -/
def calBase (rd : View) (w l : Nat) : Nat :=
  va48 (fv rd (F.CAL_BASE_LO.va_lo w)) (fv rd (F.CAL_BASE_HI.va_hi w)) + l * fv rd (F.CAL_STRIDE.stride w)

/-- Whether the calibration reads of a line meet a unit that `p` names by its address space and address. -/
def Dev.calAny (d : Dev) (w l : Nat) (p : Nat → Nat → Bool) : Bool :=
  let rd := d.actv
  (List.range (ceilDiv (winOW rd w * calBytes (fv rd (F.WCLR_CTL.cal_fmt w))) 64)).any fun i =>
    p (fv rd (F.CAL_BASE_HI.asid w)) ((calBase rd w l + 64 * i) % 2 ^ 48)

/-- Whether a line takes calibration records from data that failed in on-chip SRAM (R43, R45). -/
def Dev.calStruck (d : Dev) (w l : Nat) : Bool :=
  !d.unstruck && d.calAny w l fun asid a => (List.range 64).any fun i => d.vaStruck asid ((a + i) % 2 ^ 48)

/-- Whether calibration records of a line wait for a stack whose traffic is held, so that the line cannot be served (R456). -/
def Dev.calHeld (d : Dev) (w l : Nat) : Bool := d.someHeld && d.calAny w l d.vaHeld

/-- The exits that a line of some pixels meets, by cause (R45): the region of the Gallery it is read from is a hardware loss while
it is out of service; an SRAM error counts where the line has an uncorrectable symbol, a
row that depends on failed data or calibration records that do (`ue`), and a hardware loss where calibration records wait for HBM
(`held`, R456). -/
def Dev.exitsOf (d : Dev) (w : Nat) (px : List (Nat × Nat)) (ue held : Bool) : List Nat :=
  let rd := d.actv
  let c := winCanvas rd w
  let lost := (hallsOfPixels rd c px).any fun h => (d.hall h).outOfService
  let sram := px.any fun q => (hallOfCol rd c q.1).any fun h => (d.hall h).ueRows.contains q.2
  d.failCause ++ (if d.pwr.dropped.contains w then [3] else []) ++
    (if d.shed.contains w || d.groupDown w || lost || (d.win w).gone.isSome || held then [1] else []) ++ (if ue || sram then [4] else [])

/-- Whether a killed hall holds a pixel of the line and the line begins more than 1 µs after the kill (R87). -/
def Dev.killHits (d : Dev) (w : Nat) (px : List (Nat × Nat)) : Bool :=
  (hallsOfPixels d.actv (winCanvas d.actv w) px).any fun h =>
    d.is (F.HALL_STATUS.killed h) &&
      match (d.hall h).killedAt with
      | some t => t + 1000 < d.now
      | none => false

/-- Whether the band lacks a pixel of a line (R225), as each of a region out of service, those of killed halls aside when the kill is
why it is substituted. -/
def Dev.lineMissing (d : Dev) (w : Nat) (px : List (Nat × Nat)) (kill : Bool) : Bool :=
  let c := winCanvas d.actv w
  (d.win w).gone.isSome || px.any fun q => (d.galPixel c q.1 q.2).isNone &&
    !(kill && (hallOfCol d.actv c q.1).any fun h => d.is (F.HALL_STATUS.killed h))

/-- The least of some causes with a breach, else a requested substitute by a kill or the safe canvas (R48, R227). -/
def causeOf (exits : List Nat) (missing kill safe : Bool) : Option (Bool × Nat) :=
  match (if exits.isEmpty && missing then [1] else exits).min? with
  | some k => some (true, k)
  | none => if kill then some (false, 8) else if safe then some (false, 9) else none

/-! ## Window colour -/

/-- The entry reader of a LUT set (R147, R155). -/
def Dev.lutSet (d : Dev) (set post c : Nat) : Nat → Nat :=
  indHalf d.ind (0x200 + set) (0x10000 + post * 0x2000 + c * 0x800)

def Dev.lutAll (d : Dev) (set post : Nat) (v : List F32) : List F32 :=
  v.zipIdx.map fun x => lut4096 (d.lutSet set post x.2) x.1

/-- The calibration record of pixel `k` of line `l`; none passes it with the identity, as every pixel of a 64-byte read that
faults (R148). -/
def Dev.calRecord (d : Dev) (w l k s : Nat) : Option (List Byte) :=
  let rd := d.actv
  let a := calBase rd w l
  match d.translate (fv rd (F.CAL_BASE_HI.asid w)) ((a + k * s / 64 * 64) % 2 ^ 48) false with
  | .ok pa => (d.readPaN pa 64).map fun bs => (bs.drop (k * s % 64)).take s
  | .bad _ _ => none

/-- A calibration read faults (R148). -/
def Dev.calFault (d : Dev) (w : Nat) : Dev :=
  (d.bump (F.CAL_FAULTS.count w)).once (markOf (winCanvas d.actv w) (30000 + w)) fun d =>
    (d.physLanes w).foldl (fun d k => d.laneEvt k F.LANE_EVT.cal_fault) d

/-- The 64-byte calibration reads of a line, with their faults counted (R148). -/
def Dev.calReads (d : Dev) (w l : Nat) : Dev :=
  let rd := d.actv
  let s := calBytes (fv rd (F.WCLR_CTL.cal_fmt w))
  if s = 0 then d
  else
    let asid := fv rd (F.CAL_BASE_HI.asid w)
    let a := calBase rd w l
    (List.range (ceilDiv (winOW rd w * s) 64)).foldl (fun d i =>
      match d.xlate 2 w asid ((a + 64 * i) % 2 ^ 48) false with
      | (.ok pa, d) => let r := d.readUnit 0 false pa; if r.1 then r.2 else r.2.calFault w
      | (.bad _ _, d) => d.calFault w) d

/-- The output codes of a pixel of a line (R146, R149). -/
def Dev.winCodes (d : Dev) (w l k : Nat) (p : Pix) : List Nat :=
  let rd := d.actv
  let set := fv rd (F.WCLR_CTL.lut_set w)
  let v := p.e.map fun x => codeOf 16 (galValue x)
  let v := if fv rd (F.WCLR_CTL.pre_lut w) = 1 then d.lutAll set 0 v else v
  let m : Mat F32 :=
    [[rd (A.WMAT_00 w), rd (A.WMAT_01 w), rd (A.WMAT_02 w)], [rd (A.WMAT_10 w), rd (A.WMAT_11 w), rd (A.WMAT_12 w)],
     [rd (A.WMAT_20 w), rd (A.WMAT_21 w), rd (A.WMAT_22 w)]]
  let v := if fv rd (F.WCLR_CTL.matrix_en w) = 1 then
      windowMat m [rd (A.WOFS_0 w), rd (A.WOFS_1 w), rd (A.WOFS_2 w)] v else v
  let fmt := fv rd (F.WCLR_CTL.cal_fmt w)
  let v := if calBytes fmt = 0 then v
    else match d.calRecord w l k (calBytes fmt) with
      | some r => calibrate fmt r v
      | none => v
  let v := if fv rd (F.WCLR_CTL.post_lut w) = 1 then d.lutAll set 1 v else v
  v.map (quantise (fv rd (F.WCLR_CTL.dither w)) (winDepth rd w) k l (d.canvas (winCanvas rd w)).tick)

/-! ## Payloads -/

/-- Values of `n` bits as a bit string placed into bytes most significant bit first (R234). -/
def packBits (n : Nat) (vs : List Nat) : List Byte :=
  let bits := n * vs.length
  let bytes := ceilDiv bits 8
  bytesBE bytes ((vs.foldl (fun a v => a * 2 ^ n + v % 2 ^ n) 0) <<< (8 * bytes - bits))

/-- The codes of a line as a payload (R234). -/
def linePayload (rd : View) (w : Nat) (codes : List Nat) : List Byte :=
  let n := winDepth rd w
  if fv rd (F.WIN_CTL.bitplane w) = 0 then packBits n codes
  else packBits 1 ((List.range n).reverse.flatMap fun b => (List.range 3).flatMap fun c =>
    (List.range (codes.length / 3)).map fun k => bitOf (codes.getD (3 * k + c) 0) b)

/-- The codes of the safe colour over a line (R226). -/
def safeCodes (rd : View) (w : Nat) : List Nat :=
  let m := 2 ^ winDepth rd w
  let c := [fv rd (F.SAFE_RG.r w) % m, fv rd (F.SAFE_RG.g w) % m, fv rd (F.SAFE_B.b w) % m]
  (List.replicate (winOW rd w) c).flatten

/-- The substitute of R46 and R226. -/
def Dev.substCodes (d : Dev) (w : Nat) : List Nat :=
  match (d.win w).hold with
  | some c => if d.actIs (F.WIN_CTL.subst w) then c else safeCodes d.actv w
  | none => safeCodes d.actv w

/-- The bytes of a payload that position `j` of a group of `g` lanes carries (R229). -/
def groupShare (g j : Nat) (bs : List Byte) : List Byte :=
  (List.range bs.length).filterMap fun i => if i / 8 % g = j then bs[i]? else none

/-! ## Sending a line -/

/-- The seven bytes and data blocks of Stairline control blocks (R232). -/
def winHi (w : Nat) : Byte := BitVec.ofNat 8 (w / 256 % 4)
def winLo (w : Nat) : Byte := BitVec.ofNat 8 w

def lineStartBlock (sub : Bool) (cause phase l tick w : Nat) : List Byte :=
  [0x55, BitVec.ofNat 8 (b2n sub * 128 + cause % 16 * 8 + phase)] ++ bytesBE 2 l ++ bytesBE 2 tick ++ [winHi w, winLo w]

def Dev.frameStartBlock (d : Dev) (w pos lane : Nat) : List Byte :=
  let rd := d.actv
  [0x33, BitVec.ofNat 8 (16 + fv rd (F.WIN_CTL.bitplane w) * 8 + winPhase rd w), winHi w, winLo w,
   BitVec.ofNat 8 (fv rd (F.WIN_CTL.depth_m1 w) + fv rd (F.WIN_CTL.rotation w) * 16 + fv rd (F.WIN_CTL.mirror w) * 64),
   BitVec.ofNat 8 lane,
   BitVec.ofNat 8 (fv rd (F.WIN_LANE.group_log2 w) + pos * 4 + d.get F.CASC_ID.landing * 16), 0]

/-- The two data blocks of FRAME_START. -/
def Dev.frameStartData (d : Dev) (w : Nat) : List Byte :=
  let rd := d.actv
  let c := winCanvas rd w
  bytesBE 8 (d.canvas c).tick ++ wordBE (d.stored (A.CANVAS_GEN c)) ++ bytesBE 2 (winOW rd w - 1) ++ bytesBE 2 (winOL rd w - 1)

/-- The Ethernet header of a window's packets (R237). -/
def Dev.winEth (d : Dev) (w etype : Nat) : EthHdr :=
  let rd := d.actv
  let n := winLane rd w
  { dmac := fv rd (F.ETH_DMAC_LO.mac w) + fv rd (F.ETH_DMAC_HI.mac w) * 2 ^ 32
    smac := fv rd (F.SRC_MAC_LO.mac n) + fv rd (F.SRC_MAC_HI.mac n) * 2 ^ 32
    tag := some (fv rd (F.ETH_VLAN.pcp w), fv rd (F.ETH_VLAN.vid w)), etype := etype }

/-- A packet of Stairline-over-Ethernet (R238). -/
def Dev.soePacket (d : Dev) (w type : Nat) (sub : Bool) (cause : Nat) (last : Bool) (l ofs : Nat) (bs : List Byte) : TxFrame :=
  let rd := d.actv
  let hdr : List Byte :=
    [BitVec.ofNat 8 (16 + type),
     BitVec.ofNat 8 (b2n sub * 128 + cause % 16 * 8 + b2n last * 4 + fv rd (F.WIN_CTL.bitplane w) * 2)] ++
    bytesBE 2 (winPhase rd w * 2 ^ 13 + w) ++ bytesBE 2 l ++ bytesBE 2 bs.length ++ bytesBE 4 ofs ++
    bytesBE 4 (d.canvas (winCanvas rd w)).tick
  { tc := fv rd (F.ETH_VLAN.pcp w), len := 38 + bs.length, enq := d.now, noFit := false, eth := d.winEth w 0x88B6,
    body := .soe hdr bs, line := if type = 0 ∧ last then some (w, sub) else none }

/-- Cut bytes into pieces. -/
def chunksOf (n : Nat) : Nat → List Byte → List (List Byte)
  | 0, _ => []
  | _, [] => []
  | k + 1, bs => bs.take n :: chunksOf n k (bs.drop n)

/-- The IP header of a sender's packets. -/
def Dev.winIp (d : Dev) (w : Nat) : IpHdr :=
  let rd := d.actv
  let n := winLane rd w
  let v6 := fv rd (F.RTP_CTL.ipv6 w) == 1
  let addr (a : Nat → Nat) : Nat := if v6 then (List.range 4).foldl (fun v i => v * 2 ^ 32 + a i) 0 else a 3
  { ipv6 := v6, src := addr fun i => fv rd (F.SRC_IP.addr n i), dst := addr fun i => fv rd (F.IP_DST.addr w i),
    sport := fv rd (F.UDP_PORTS.src w), dport := fv rd (F.UDP_PORTS.dst w), dscp := fv rd (F.RTP_CTL.dscp w),
    ttl := fv rd (F.RTP_CTL.ttl w) }

/-- The ones' complement sum of 16-bit big-endian words, and the checksum of some bytes (PRESUMED: RFC 1071, log 88). -/
def onesFold (s : Nat) : Nat := let t := s % 65536 + s / 65536; t % 65536 + t / 65536
def sumWords : List Byte → Nat
  | [] => 0
  | [a] => a.toNat * 256
  | a :: b :: l => a.toNat * 256 + b.toNat + sumWords l
def checksum16 (bs : List Byte) : Nat := 65535 - onesFold (onesFold (sumWords bs))

/-- The RTP packet of a run of pgroups: version 2, the marker, payload type, the low half of the sequence number, timestamp and
SSRC, then the high half and one SRD header with Field 0 and Continuation 0 (R239; the layout is RFC 4175's, PRESUMED,
log 88). -/
def rtpPacket (pt ssrc seq stamp : Nat) (marker : Bool) (row offset : Nat) (data : List Byte) : List Byte :=
  [0x80, BitVec.ofNat 8 (b2n marker * 128 + pt)] ++ bytesBE 2 seq ++ bytesBE 4 stamp ++ bytesBE 4 ssrc ++
    bytesBE 2 (seq / 65536) ++ bytesBE 2 data.length ++ bytesBE 2 (row % 2 ^ 15) ++ bytesBE 2 (offset % 2 ^ 15) ++ data

/-- The IPv4 header checksum and the UDP checksum of a datagram of `n` UDP bytes: over IPv4 the UDP checksum is 0, over IPv6 it is
computed and there is no header checksum (R239; headers of RFC 791 without identification or flags and RFC 8200, PRESUMED,
log 88). -/
def ipSums (ip : IpHdr) (packet : List Byte) : Nat × Nat :=
  let n := packet.length + 8
  if ip.ipv6 then
    let s := checksum16 (bytesBE 16 ip.src ++ bytesBE 16 ip.dst ++ bytesBE 4 n ++ [0, 0, 0, 17] ++
      bytesBE 2 ip.sport ++ bytesBE 2 ip.dport ++ bytesBE 2 n ++ [0, 0] ++ packet)
    (0, if s = 0 then 65535 else s)
  else
    (checksum16 ([0x45, BitVec.ofNat 8 (ip.dscp * 4)] ++ bytesBE 2 (n + 20) ++ [0, 0, 0, 0, BitVec.ofNat 8 ip.ttl, 17, 0, 0] ++
      bytesBE 4 ip.src ++ bytesBE 4 ip.dst), 0)

/-- The packets of a line of an SMPTE ST 2110-20 sender (R239). A packet takes its number as it is queued, so what a halt drops leaves a
gap in the numbers: the manual does not say (DESIGN CHOICE, log 157). -/
def Dev.rtpLine (d : Dev) (w l : Nat) (sub : Bool) (bs : List Byte) : Dev :=
  let rd := d.actv
  let c := winCanvas rd w
  let g := pgroup (winDepth rd w)
  let per := 1200 / g.2
  let parts := chunksOf (per * g.2) (bs.length + 1) bs
  let ip := d.winIp w
  let stamp := phaseTime rd c (d.canvas c).tick (winPhase rd w) * 9 / 100000 % 2 ^ 32
  parts.zipIdx.foldl (fun d x =>
    let seq := d.get (F.RTP_SEQ.seq w)
    let last := l + 1 == winOL rd w && x.2 + 1 == parts.length
    let pk := rtpPacket (fv rd (F.RTP_CTL.pt w)) (fv rd (F.RTP_SSRC.ssrc w)) seq stamp last l (x.2 * per * g.1) x.1
    let sums := ipSums ip pk
    let f : TxFrame :=
      { tc := fv rd (F.ETH_VLAN.pcp w), len := (if ip.ipv6 then 90 else 70) + x.1.length, enq := d.now, noFit := false,
        eth := d.winEth w (if ip.ipv6 then 0x86DD else 0x0800),
        body := .rtp ip sums.1 sums.2 pk, line := if x.2 + 1 = parts.length then some (w, sub) else none }
    (d.laneEnq (d.carrier (winLane rd w)) f).bump (F.RTP_SEQ.seq w)) d

/-- Send a line with its mark (R232, R238, R239). -/
def Dev.sendLine (d : Dev) (w l : Nat) (sub : Bool) (cause : Nat) (bs : List Byte) : Dev :=
  let rd := d.actv
  let c := winCanvas rd w
  let g := winGroup rd w
  match laneMode rd (winLane rd w) with
  | 1 =>
    let block := lineStartBlock sub cause (winPhase rd w) l (d.canvas c).tick w
    let v := d.win w
    let crcs := (List.range g).map fun j => crc32cReg (v.crcs.getD j 0xFFFFFFFF) (groupShare g j bs)
    let d := d.setWin w { v with crcs := crcs, sent := v.sent + 1 }
    let all := blocks8 (bs.length + 1) bs
    (winLanes rd w).zipIdx.foldl (fun d n =>
      if d.laneDown n.1 then d
      else d.emit (.stairline (d.carrier n.1) d.now block
        ((all.zipIdx.filter fun x => x.2 % g == n.2).flatMap (·.1)))) d
  | m =>
    let v := d.win w
    let d := d.setWin w { v with crcs := [crc32cReg (v.crcs.getD 0 0xFFFFFFFF) bs], sent := v.sent + 1 }
    if m ≤ 3 then
      let parts := chunksOf 1440 (bs.length + 1) bs
      parts.zipIdx.foldl (fun d x =>
        d.laneEnq (d.carrier (winLane rd w))
          (d.soePacket w 0 sub cause (x.2 + 1 == parts.length) l (x.2 * 1440) x.1)) d
    else d.rtpLine w l sub bs

/-- Whether a unit's region takes a window: its phase, and by kind its lane with the selection or its window. -/
def Dev.cuTakes (d : Dev) (u w : Nat) : Bool :=
  d.cuIn u && (if d.cuKind u = 1 then
      (winLanes d.actv w).contains (d.cuIndex u) &&
        (d.actIs (F.CU_SEL.any u) || d.act (F.CU_SEL.window u) == w) && (d.cu u).phase == winPhase d.actv w
    else d.cuKind u = 2 && d.cuIndex u == w)

/-- The first and last line of a window tap. -/
def Dev.cuLines (d : Dev) (u : Nat) : Nat × Nat :=
  match (d.cu u).alc with
  | some (_, a, b) => (a, b)
  | none => (d.act (F.CU_LINES.first u), d.act (F.CU_LINES.last u))

/-- The check units that follow a line as it is sent (R434); a lane that cannot send leaves its units short. -/
def Dev.cuLine (d : Dev) (w l : Nat) (codes : List Nat) (bs : List Byte) : Dev :=
  let g := winGroup d.actv w
  (List.range 64).foldl (fun d u =>
    if !d.cuTakes u w then d
    else if d.cuKind u = 1 ∧ d.laneDown (d.cuIndex u) then d.cuShort u
    else if d.cuKind u = 1 then d.cuAbsorb u (groupShare g (d.cuIndex u - winLane d.actv w) bs)
    else
      let r := d.cuLines u
      if r.1 ≤ l ∧ l ≤ r.2 then d.cuAbsorb u (codes.flatMap (bytesLE 2)) else d) d

/-- A line that is not sent leaves the lane frames that name it short (R436); a window's region goes on without its codes, and its
result differs (R479). -/
def Dev.cuNoLine (d : Dev) (w : Nat) : Dev :=
  (List.range 56).foldl (fun d u => if d.cuTakes u w && d.cuKind u == 1 then d.cuShort u else d) d

/-! ## Counting -/

/-- A cause is seen: its bit of CONTRACT_STATUS and CONTRACT_EXIT (R47, R54). -/
def Dev.causeSeen (d : Dev) (cause : Nat) : Dev :=
  match cause with
  | 1 => d.sticky F.CONTRACT_STATUS.hw_loss 68
  | 2 => d.sticky F.CONTRACT_STATUS.vin 68
  | 3 => d.sticky F.CONTRACT_STATUS.thermal 68
  | 4 => d.sticky F.CONTRACT_STATUS.sram_ue 68
  | 8 => d.sticky F.CONTRACT_STATUS.kill 68
  | _ => d.sticky F.CONTRACT_STATUS.cfg_safe 68

/-- A breached line (R47). -/
def Dev.breach (d : Dev) (w cause : Nat) : Dev :=
  let d := (d.bump (F.WIN_BREACH_LINES.count w)).bump F.BREACH_LINES.count
  let d := (d.put F.BREACH_LAST.window w).put F.BREACH_LAST.cause cause
  let d := d.once (markOf (winCanvas d.actv w) (20000 + w)) fun d =>
    ((d.physLanes w).foldl (fun d k => d.laneEvt k F.LANE_EVT.breach) d).raise 67
  d.causeSeen cause

/-- A requested substitute (R48). -/
def Dev.requested (d : Dev) (w cause : Nat) : Dev :=
  let d := (d.bump (F.SUBST_LINES.count w)).causeSeen cause
  (d.physLanes w).foldl (fun d k => d.laneEvt k F.LANE_EVT.subst) d

/-- The counters of a line that a Stairline group transmits; an Ethernet mode counts it with its last packet (R227). -/
def Dev.countSent (d : Dev) (w : Nat) (sub : Bool) : Dev :=
  if laneMode d.actv (winLane d.actv w) = 1 then d.lineSent (d.carrier (winLane d.actv w)) w sub else d

/-- Whether a window's lane group is halted (R230). -/
def Dev.groupHalted (d : Dev) (w : Nat) : Bool := (d.physLanes w).any fun k => d.is (F.LANE_STATUS.halted k)

/-! ## The commands of a frame -/

/-- Whether a window transmits: enabled on a running canvas. -/
def Dev.winLive (d : Dev) (w : Nat) : Bool :=
  winOn d.actv w && d.is (F.TICK_STATUS.running (winCanvas d.actv w)) && !d.is (F.TICK_STATUS.in_gap (winCanvas d.actv w)) &&
    !d.pwr.stopped

/-- The halls of a window's canvas compose what the bands have space for as the slot of line `l` begins (R224). -/
def Dev.slotBegins (d : Dev) (w l : Nat) : Dev :=
  let rd := d.actv
  let c := winCanvas rd w
  if d.get (F.TICK_STATUS.phase c) = winPhase rd w then
    d.composeTo c (max (d.canvasNow c - phaseTime rd c (d.canvas c).tick (winPhase rd w)) (winS0 rd w + l * winSl rd w))
  else d

/-- The codes of an intact line (R146 to R149). -/
def Dev.lineCodes (d : Dev) (w l : Nat) (px : List (Nat × Nat)) : List Nat :=
  px.zipIdx.flatMap fun x =>
    match d.galPixel (winCanvas d.actv w) x.1.1 x.1.2 with
    | some p => d.winCodes w l x.2 p
    | none => []

/-- The slot of line `l` of window `w` begins (R225 to R227). -/
def Dev.lineSlot (d : Dev) (w l : Nat) : Dev :=
  let rd := d.actv
  if !d.winLive w || winOL rd w ≤ l then d
  else
    let d := d.slotBegins w l
    if d.groupHalted w then (d.bump (F.HALT_LINES.count (d.carrier (winLane rd w)))).cuNoLine w
    else
      let px := linePixels rd w l
      let ue := px.any (d.win w).ue.contains
      let exits := d.exitsOf w px (ue || d.calStruck w l) (d.calHeld w l)
      let c := winCanvas rd w
      let d := if exits.contains 4 then d.setCanvas c { d.canvas c with sramExit := 2 } else d
      let d := if ue then (d.physLanes w).foldl (fun d k => d.laneEvt k F.LANE_EVT.gal_ue) d else d
      let kill := d.killHits w px
      let missing := d.lineMissing w px kill
      let d := if missing then (d.put (F.WIN_STATUS.late w) 1).once (markOf (winCanvas rd w) (60000 + w)) id else d
      let r : List Nat × Bool × Nat × Dev :=
        match causeOf exits missing kill (d.is F.CFG_STATUS.safe) with
        | none =>
          let d := d.calReads w l
          let codes := d.lineCodes w l px
          let d := d.corrected (F.GAL_CORRECTED.count w)
          (codes, false, 0, d.setWin w { d.win w with hold := some codes })
        | some (true, k) => (d.substCodes w, true, k, d.breach w k)
        | some (false, k) => (safeCodes rd w, true, k, d.requested w k)
      let d := r.2.2.2
      if (d.upLanes w).isEmpty then d.cuNoLine w
      else
        let bs := linePayload rd w r.1
        ((d.sendLine w l r.2.1 r.2.2.1 bs).countSent w r.2.1).cuLine w l r.1 bs

/-- A halted lane sends again: its resume is done (R230). -/
def Dev.laneRestart (d : Dev) (k : Nat) : Dev :=
  ((d.setLane k { d.lane k with resumeAt := none }).put (F.LANE_STATUS.halted k) 0).put (F.LANE_CMD.resume k) 0

/-- A window's halted flag follows its group; and those of all windows. -/
def Dev.winHalted (d : Dev) (w : Nat) : Dev := d.put (F.WIN_STATUS.halted w) (b2n (d.groupHalted w))
def Dev.haltWins (d : Dev) : Dev := (winsOn d.actv).foldl (fun d w => d.winHalted w) d

/-- A resume in progress ends with the first frame whose first slot is late enough (R230). -/
def Dev.resumeAtFrame (d : Dev) (w : Nat) : Dev :=
  let rd := d.actv
  let first := phaseTime rd (winCanvas rd w) (d.canvas (winCanvas rd w)).tick (winPhase rd w) + winS0 rd w
  let ks := d.physLanes w
  if ks.any fun k => match (d.lane k).resumeAt with
      | some t => t ≤ d.tcOf (winCanvas rd w) first
      | none => false then
    (ks.foldl Dev.laneRestart d).haltWins
  else d

/-- FRAME_START of a window (R232, R233, R238). -/
def Dev.frameStart (d : Dev) (w : Nat) : Dev :=
  let rd := d.actv
  if !d.winLive w then d
  else
    let d := (d.resumeAtFrame w).winHalted w
    let d := d.setWin w { (d.win w) with hold := none, sent := 0, crcs := [], open' := !d.groupHalted w && !(d.upLanes w).isEmpty }
    if !(d.win w).open' then d
    else
      match laneMode rd (winLane rd w) with
      | 1 => (winLanes rd w).zipIdx.foldl (fun d n =>
          if d.laneDown n.1 then d
          else d.emit (.stairline (d.carrier n.1) d.now (d.frameStartBlock w n.2 n.1) (d.frameStartData w))) d
      | m => if m ≤ 3 then d.laneEnq (d.carrier (winLane rd w)) (d.soePacket w 1 false 0 false 0 0 (d.frameStartData w)) else d

/-! ## Sideband -/

/-- Whether a Stairline lane sends control blocks: in mode 1, its transmitter on and clocked (R460), not halted. -/
def Dev.laneSends (d : Dev) (k : Nat) : Bool :=
  d.modeOf k == 1 && d.is (F.LANE_STATUS.tx_on k) && !d.is (F.LANE_STATUS.halted k) && d.laneClocked k

/-- The stretch of the tick in which a window keeps its lane from time and sideband blocks: from 500 ns before its first slot to
100 ns after its last (R233). -/
def Dev.busySpan (d : Dev) (w : Nat) : Nat × Nat :=
  let rd := d.actv
  let c := winCanvas rd w
  let t := phaseTime rd c (d.canvas c).tick (winPhase rd w) + winS0 rd w
  (d.tcOf c (t - 500), d.tcOf c (t + winOL rd w * winSl rd w + 100))

/-- When a time or sideband block that is ready now can leave on a lane: now where the lane is idle, at the end of the stretch
of a window whose last slot has ended, none while a window has slots to come (R233). -/
def Dev.idleFrom (d : Dev) (k : Nat) : Option Nat :=
  let ws := (winsOn d.actv).filter fun w => (winLanes d.actv w).contains (d.fieldsOf k) && d.winLive w
  let spans := (ws.map d.busySpan).filter fun s => s.1 ≤ d.now && d.now < s.2
  if (ws.any fun w => (d.win w).open') || spans.any fun s => d.now + 100 < s.2 then none
  else some (spans.foldl (fun t s => max t s.2) d.now)

/-- The SIDEBAND block of a fragment (R232). -/
def Frag.block (f : Frag) : List Byte :=
  [0x2D, BitVec.ofNat 8 (f.channel * 16 + b2n f.first * 8 + b2n f.last * 4)] ++ f.data

/-- A TIME message leaves at an instant (R236); the first one after reset has number 1, as the manual gives no first number (DESIGN
CHOICE, log 157). -/
def Dev.timeEmit (d : Dev) (k t : Nat) : Dev :=
  let l := d.lane k
  let seq := (l.timeSeq + 1) % 65536
  let d := d.setLane k { l with timeSeq := seq, timeAt := t, echoes := l.echoes ++ [(seq, t)], timeDue := false }
  d.emit (.stairline k t ([0x4B, 0] ++ bytesBE 2 seq ++ [0, 0, 0, 0])
    (bytesBE 6 (secOf t) ++ [0, 0] ++ bytesBE 4 (nsOf t) ++ bytesBE 4 (d.get (F.LINK_DELAY.delay k))))

/-- What waits for idle time on a lane leaves: TIME first, then the queued fragments in order (R233, R235). Log 37. -/
def Dev.laneDrain (d : Dev) (k : Nat) : Dev :=
  match if d.laneSends k then d.idleFrom k else none with
  | none => d
  | some t =>
    let d := if (d.lane k).timeDue then d.timeEmit k t else d
    let l := d.lane k
    let d := l.sbTx.foldl (fun d f => d.emit (.stairline k t f.block [])) d
    d.setLane k { l with sbTx := [] }

/-- What waits on the lanes that are idle leaves. -/
def Dev.drainAll (d : Dev) : Dev :=
  (d.lanes.filter fun e => !e.2.sbTx.isEmpty || e.2.timeDue).foldl (fun d e => d.laneDrain e.1) d

/-- FRAME_END of a window (R232, R233, R238). -/
def Dev.frameEnd (d : Dev) (w : Nat) : Dev :=
  let rd := d.actv
  let v := d.win w
  if !d.winLive w || !v.open' then d
  else
    let crc (j : Nat) : Nat := reflectBits 32 (v.crcs.getD j 0xFFFFFFFF) ^^^ 0xFFFFFFFF
    let d := d.setWin w { v with open' := false }
    if d.groupHalted w || (d.upLanes w).isEmpty then d
    else
      match laneMode rd (winLane rd w) with
      | 1 =>
        let d := (winLanes rd w).zipIdx.foldl (fun d n =>
          if d.laneDown n.1 then d else d.emit (.stairline (d.carrier n.1) d.now ([0x66] ++ bytesBE 4 (crc n.2) ++ bytesBE 2 v.sent ++ [0]) [])) d
        (d.physLanes w).foldl Dev.laneDrain d
      | m =>
        if m ≤ 3 then
          d.laneEnq (d.carrier (winLane rd w))
            (d.soePacket w 2 false 0 false 0 0 (bytesBE 4 (crc 0) ++ bytesBE 2 v.sent ++ [0, 0]))
        else d

/-- The mailbox words of a fragment (R242) and back. -/
def Frag.words (f : Frag) : List Word :=
  [w32 (ofBE (f.data.take 4)), w32 (ofBE (f.data.drop 4) * 2 ^ 16 + f.channel * 16 + b2n f.first * 8 + b2n f.last * 4)]
def fragOf (w0 w1 : Word) : Frag :=
  { channel := bitsOf w1.toNat 4 4, first := bitOf w1.toNat 3 == 1, last := bitOf w1.toNat 2 == 1,
    data := bytesBE 4 w0.toNat ++ bytesBE 2 (w1.toNat / 65536) }

/-- SB_TX: false while the queue is full (R235). -/
def Dev.sbTx (d : Dev) (n : Nat) (f : Frag) : Bool × Dev :=
  let d := d.laneDrain n
  let l := d.lane n
  if 64 ≤ l.sbTx.length then (false, d)
  else (true, (d.setLane n { l with sbTx := l.sbTx ++ [f] }).laneDrain n)

/-- SB_RX: the oldest received fragment (R235, R242). With the queue empty the data words read zeros, on which the manual is silent
(DESIGN CHOICE, log 157). -/
def Dev.sbRx (d : Dev) (n : Nat) : List Word × Dev :=
  let l := d.lane n
  match l.sbRx with
  | [] => ([0, 0, 0, 0], d)
  | f :: fs => (f.words ++ [1, 0], d.setLane n { l with sbRx := fs })

/-- A sideband fragment arrives (R235). -/
def Dev.sbArrive (d : Dev) (n : Nat) (f : Frag) : Dev :=
  if d.modeOf n ≠ 1 then d
  else
    let l := d.lane n
    if 64 ≤ l.sbRx.length then d.bump (F.SB_RX_DROPPED.count n)
    else
      let d := d.setLane n { l with sbRx := l.sbRx ++ [f] }
      if l.sbRx.isEmpty then d.laneEvt n F.LANE_EVT.sb_rx else d

/-! ## Stairline time (R236) -/

/-- A TIME message is due on a lane: the fields of the lane that a spare carries are in force (R241). It waits for idle time
(R233), and one that comes due while another still waits is one with it: the manual does not say whether each is sent (DESIGN CHOICE, log
172); a lane that sends nothing drops it. -/
def Dev.timeSend (d : Dev) (n : Nat) : Dev :=
  if !d.is (F.SLTIME_CTL.enable (d.fieldsOf n)) || !d.laneSends n then d
  else (d.setLane n { d.lane n with timeDue := true }).laneDrain n

/-- The mean of the last samples, in the units of the samples, halves rounded up. -/
def meanOf (l : List Int) : Int :=
  match l.length with
  | 0 => 0
  | n + 1 => (2 * l.foldl (· + ·) 0 + (n + 1 : Nat)) / (2 * (n + 1 : Nat))

/-- A TIME_ECHO arrives: one sample of the link delay. -/
def Dev.timeEcho (d : Dev) (n seq turn : Nat) : Dev :=
  let l := d.lane n
  match if d.modeOf n = 1 then l.echoes.find? fun e => e.1 == seq else none with
  | none => d
  | some e =>
    let sample : Int := ((d.now : Int) - e.2 - turn) * 65536 / 2
    let ss := (l.samples ++ [sample]).drop (l.samples.length + 1 - 8)
    (d.setLane n { l with echoes := l.echoes.erase e, samples := ss }).put (F.LINK_DELAY.delay n) (toField (meanOf ss) 32)

/-- No echo within 1 ms of the oldest TIME message that awaits one. -/
def Dev.echoTimeout (d : Dev) (n : Nat) : Dev :=
  let l := d.lane n
  if l.echoes.isEmpty then d else (d.setLane n { l with echoes := l.echoes.tail }).laneEvt n F.LANE_EVT.echo_timeout

/-- The words of TIME_LAST (R242): zeros before the first TIME message, on which the manual is silent (DESIGN CHOICE, log 157). -/
def Dev.timeLast (d : Dev) (n : Nat) : List Word :=
  let l := d.lane n
  [w32 (nsOf l.timeAt), w32 (secOf l.timeAt), w32 (secOf l.timeAt / 2 ^ 32 % 65536), w32 l.timeSeq]

/-! ## Halts and the receivers of lanes -/

/-- The lanes of the group that a lane belongs to. -/
def Dev.groupOf (d : Dev) (k : Nat) : List Nat :=
  let n := d.fieldsOf k
  match (winsOn d.actv).find? fun w => (winLanes d.actv w).contains n with
  | some w => d.physLanes w
  | none => [k]

/-- The packets of lines that wait on an Ethernet-mode lane are not sent when it halts: it stops after the packet in progress and
starts again with a whole frame. Each line that has not left whole counts as not sent (R230; DESIGN CHOICE, log 111), and the lane
frames that took it are short (R436). -/
def Dev.dropLines (d : Dev) (k : Nat) : Dev :=
  let drops (x : Nat × TxFrame) : Bool := x.1 == k && match x.2.body with
    | .soe _ _ => true
    | .rtp _ _ _ _ => true
    | _ => false
  let lines := d.laneQ.filter fun x => drops x && x.2.line.isSome
  let d := Dev.bumpBy { d with laneQ := d.laneQ.filter fun x => !drops x } (F.HALT_LINES.count k) lines.length
  (lines.filterMap fun x => x.2.line.map (·.1)).eraseDups.foldl Dev.cuNoLine d

/-- LANE_CMD.halt (R230): a resume outstanding is given up. Written on the page of a lane that a spare carries it halts the spare, which
sends the traffic, and the written lane does not show it: the manual does not say which of them stops (DESIGN CHOICE, log 171). -/
def Dev.laneHalt (d : Dev) (k : Nat) : Dev :=
  let d := (d.groupOf k).foldl (fun d k =>
    let d := (d.setLane k { d.lane k with resumeAt := none }).put (F.LANE_CMD.resume k) 0
    if d.is (F.LANE_STATUS.halted k) then d
    else ((d.put (F.LANE_STATUS.halted k) 1).laneEvt k F.LANE_EVT.halt).dropLines k) d
  d.haltWins

/-- LANE_CMD.resume (R230): outstanding until the frame that restarts the group; a repeat merges with it (R275). A group that
carries no window restarts at once. -/
def Dev.laneResume (d : Dev) (k : Nat) : Dev :=
  let ks := (d.groupOf k).filter fun k => d.is (F.LANE_STATUS.halted k) && (d.lane k).resumeAt.isNone
  if (winsOn d.actv).any fun w => (winLanes d.actv w).contains (d.fieldsOf k) then
    ks.foldl (fun d k => (d.setLane k { d.lane k with resumeAt := some (d.now + 200000) }).put (F.LANE_CMD.resume k) 1) d
  else (ks.foldl (fun d k => (d.laneRestart k).laneDrain k) d).haltWins

/-- A block rejected on LRX (R235). -/
def Dev.blockError (d : Dev) (n : Nat) : Dev := d.bump (F.RX_BLOCK_ERR.count n)

/-- A receiver has neither block lock nor link. -/
def Dev.rxClear (d : Dev) (n : Nat) : Dev := (d.put (F.LANE_STATUS.rx_lock n) 0).put (F.LANE_STATUS.link_up n) 0

/-- Block lock or link is lost (R235, R237), or found. -/
def Dev.rxLoss (d : Dev) (n : Nat) : Dev :=
  let d := if d.modeOf n = 1 then d.put (F.LANE_STATUS.rx_lock n) 0
    else if d.ethLane n then d.put (F.LANE_STATUS.link_up n) 0 else d.rxClear n
  d.laneEvt n F.LANE_EVT.rx_loss
def Dev.rxLock (d : Dev) (n : Nat) : Dev :=
  if d.modeOf n = 1 then d.put (F.LANE_STATUS.rx_lock n) 1
  else if d.ethLane n then d.put (F.LANE_STATUS.link_up n) 1 else d

end Sys2Proof.Machine
end

