-- ==== Sys2Proof/Machine/Casc.lean ====
section
/-! DEFINITION. Landing links and module trees: ports (R246 to R248), the two-phase commit (R255 to R260), joining (R261 to
R263), events, fences and time over the links (R265 to R267) and tree groups (R268). -/

namespace Sys2Proof.Machine

/-! ## Ports (R248) -/

/-- The HELLO of a port, which leaves on its first lane (R248). -/
def Dev.helloSend (d : Dev) (k : Nat) : Dev :=
  if portOn d.actv k && d.portClocked k then
    d.emit (.hello k d.now [0x99, BitVec.ofNat 8 (d.get F.CASC_ID.landing * 16 + d.act F.CASC_CTL.topology), BitVec.ofNat 8 k,
      0, 0, 0, 0, 0])
  else d

/-- A port goes down; in a ring the wrap begins (R262). -/
def Dev.portFalls (d : Dev) (k : Nat) : Dev :=
  if !d.is (F.PORT_STATUS.up k) then d
  else
    let d := (d.put (F.PORT_STATUS.up k) 0).raise 80
    if d.cascOn && d.ring then
      (({ d with casc.restore := false }.setPort k { d.port k with lost := true }).put F.CASC_STATUS.wrapped 1).raise 82
    else d

/-- A port comes up; when no ring port is lost the wrap ends at the next tick of canvas 0 (R262). -/
def Dev.portRises (d : Dev) (k : Nat) : Dev :=
  if d.is (F.PORT_STATUS.up k) then d
  else
    let d := (d.put (F.PORT_STATUS.up k) 1).raise 81
    if d.is F.CASC_STATUS.wrapped && d.ports.all (fun j => d.is (F.PORT_STATUS.up j)) then { d with casc.restore := true } else d

/-- A HELLO from the peer with the state of the bonded lanes (R247, R248). -/
def Dev.helloRx (d : Dev) (k landing topology : Nat) (lanes skewed : Bool) : Dev :=
  if !portOn d.actv k then d
  else
    let right := landing == d.act (F.PORT_CTL.peer k) && topology == d.act F.CASC_CTL.topology
    let p := d.port k
    let d := (d.put (F.PORT_STATUS.skew k) (b2n skewed)).put (F.PORT_STATUS.peer_wrong k) (b2n !right)
    let d := d.setPort k { p with heard := d.now, misses := if right then 0 else p.misses + 1 }
    if skewed || !lanes then d.portFalls k
    else if right then d.portRises k
    else if 2 ≤ p.misses then d.portFalls k
    else d

/-! ## Votes (R256, R257) -/

/-- The entries of an admission as a vote carries them (R250). -/
def voteEntries (o : AdmOut) (landing : Nat) : List (Int × Nat × Nat × Nat × Nat × Nat) :=
  (if o.insts.isEmpty then List.replicate 14 Inst.none else o.insts).map fun i =>
    (i.margin, landing, i.phase, i.inst, i.demand, i.budget)

/-- The worse of two codes with its landing: a refusal, then the lowest landing. -/
def worseCode (a b : Nat × Nat) : Nat × Nat :=
  if a.1 < 0x10 ∧ b.1 < 0x10 then (if a.1 < b.1 then b else if b.1 < a.1 then a else if b.2 < a.2 then b else a)
  else if a.1 < 0x10 then b
  else if b.1 < 0x10 then a
  else if b.2 < a.2 then b else a

/-- The smaller margin of a resource, the lowest landing at a tie. -/
def worseEntry (a b : Int × Nat × Nat × Nat × Nat × Nat) : Int × Nat × Nat × Nat × Nat × Nat :=
  if b.1 < a.1 ∨ (b.1 = a.1 ∧ b.2.1 < a.2.1) then b else a

/-- Merge a vote into another (R256). -/
def Merged.add (m v : Merged) : Merged :=
  if m.counted = 0 then v
  else
    let c := worseCode (m.code, m.landing) (v.code, v.landing)
    { code := c.1, landing := c.2, counted := m.counted ||| v.counted,
      entries := if m.entries.isEmpty then v.entries else if v.entries.isEmpty then m.entries
        else (m.entries.zip v.entries).map fun x => worseEntry x.1 x.2 }

/-- A vote of a landing takes the place of the one it sent before (R259). -/
def CascCommit.hear (c : CascCommit) (landing : Nat) (v : Merged) : CascCommit :=
  { c with votes := Tab.set (fun _ => .empty) c.votes landing v }
/-- The votes of this landing and of those heard, merged. -/
def CascCommit.vote (c : CascCommit) : Merged := (c.votes.map (·.2)).foldl Merged.add .empty

/-- The vote of this landing. -/
def Dev.ownVote (d : Dev) (code : Nat) (o : AdmOut) : Merged :=
  let l := d.get F.CASC_ID.landing
  { code := code, landing := l, counted := 2 ^ l, entries := voteEntries o l }

/-- The body of a VOTE (R250). -/
def voteBody (gen : Word) (v : Merged) : List Byte :=
  wordBE gen ++ bytesBE 1 v.code ++ bytesBE 1 v.landing ++ bytesBE 2 v.counted ++
    v.entries.flatMap fun e =>
      bytesBE 2 (toField e.1 16) ++ bytesBE 1 e.2.1 ++ bytesBE 1 e.2.2.1 ++ bytesBE 2 e.2.2.2.1 ++ [0, 0] ++
        bytesBE 4 (min e.2.2.2.2.1 0xFFFFFFFF) ++ bytesBE 4 (min e.2.2.2.2.2 0xFFFFFFFF)

/-- The landings below that are members: their votes come before this landing's in a tree. -/
def Dev.votesAwaited (d : Dev) (set : Nat) : Nat :=
  if d.ring && !d.coordinator then 2 ^ d.get F.CASC_ID.landing
  else if d.coordinator then set
  else set &&& d.subtree

/-- Whether this landing's own vote and those below are in. -/
def Dev.votesIn (d : Dev) (c : CascCommit) : Bool :=
  !d.coordinator && c.own && setMinus (d.votesAwaited c.set) c.vote.counted == 0

/-- Send the vote once it is complete; a later change is sent again (R259). -/
def Dev.voteOut (d : Dev) (c : CascCommit) : Dev :=
  if d.votesIn c then d.landSend d.portsUp 0x11 0 false (voteBody c.gen c.vote) else d

/-- The vote of an accepted cascade request, kept as sent. -/
def Dev.voteSend (d : Dev) (m : Commit) (c : CascCommit) : Dev := (d.setCasc m { c with sent := c.sent || d.votesIn c }).voteOut c

/-! ## The decision (R256 to R258) -/

/-- The body of DECIDE (R250). -/
def decideBody (gen : Word) (target : Nat) (yes : Bool) (code landing : Nat) : List Byte :=
  wordBE gen ++ bytesBE 8 target ++ [BitVec.ofNat 8 (b2n yes), BitVec.ofNat 8 code, BitVec.ofNat 8 landing, 0]

/-- Send the decision; it is kept for its repetition. -/
def Dev.decideSend (d : Dev) (m : Commit) (yes : Bool) (code landing : Nat) : Dev :=
  let body := decideBody m.gen m.target yes code landing
  let msg : LMsg :=
    { type := 0x12, src := d.get F.CASC_ID.landing, hops := 0, dst := 0, bcast := true, seq := d.casc.seq, body := body }
  ({ d with casc.decide := some msg }).landSend d.portsDown 0x12 0 true body

/-- The lowest landing of a set. -/
def lowestOf (set : Nat) : Nat := ((List.range 16).find? fun l => bitOf set l == 1).getD 0

/-- The report of the merged vote (R257). A VOTE carries no instance kind: that of a GEOMETRY refusal of another landing than this
one, `own`, reads 0 (DESIGN CHOICE, log 104). A refusal takes no descent step. -/
def mergedReport (v : Merged) (code landing own kind : Nat) (m : Commit) (now : Nat) : Answer × Tab Word :=
  if v.entries.isEmpty ∨ (0x10 ≤ code ∧ code < 0x20) then
    ({ gen := m.gen, code := code, res := 0xFF, margin := 0, target := m.target }, reportArrival code m.gen m.target landing (ceilDiv (now - m.arrival) 1000))
  else
    let insts : List Inst := v.entries.map fun e => ⟨e.1, e.2.2.2.1, e.2.2.1, e.2.2.2.2.1, e.2.2.2.2.2⟩
    let r := if 0x20 ≤ code then code - 0x20 else bindingRes insts
    let at' := (v.entries.getD r (0, 0, 0, 0, 0, 0)).2.1
    let o : AdmOut := ⟨code, insts, if code ≤ 1 then m.taken else [], m.why, if code = 0x20 ∧ at' = own then kind else 0⟩
    ({ gen := m.gen, code := code, res := r, margin := (insts.getD r .none).margin, target := m.target },
     reportOf o m.gen m.target at' (ceilDiv (now - m.arrival) 1000))

/-- The coordinator decides: with every vote in, or at t_v (R256). Its first cascade commit sets CASC_STATUS.joined on itself too, of
which R261 speaks for the other landings only (DESIGN CHOICE, log 173). -/
def Dev.cascDecide (d : Dev) (m : Commit) (c : CascCommit) : Dev :=
  let missing := setMinus c.set c.vote.counted
  let code := if 0x10 ≤ c.vote.code then c.vote.code else if missing ≠ 0 then 0x17 else c.vote.code
  let landing := if 0x10 ≤ c.vote.code then c.vote.landing else if missing ≠ 0 then lowestOf missing else c.vote.landing
  let yes := code ≤ 1
  let d := d.decideSend m yes code landing
  let d := d.put F.COMMIT_STATUS.answered 1
  let x := mergedReport c.vote code landing (d.get F.CASC_ID.landing) c.kind m d.now
  let d := (d.answerWith m.sess x.1 x.2).refusedEvent code
  if m.dryRun then d.finish m 6
  else if yes then
    let d := ({ d with casc.firstDone := true }).put F.CASC_STATUS.joined 1
    ((d.setCasc m { c with held := some (true, code, landing) }).put F.COMMIT_STATUS.state 2).coverageAgain m
  else d.withdraw m 5

/-- Every vote is in. -/
def Dev.cascReady (d : Dev) : Dev :=
  match d.openCasc with
  | some (m, c) => if d.coordinator && c.own && setMinus c.set c.vote.counted == 0 then d.cascDecide m c else d
  | none => d

/-- The own admission of a cascade request answers: the vote (R256). The report of a member other than the coordinator names its own
landing, where R189 has 0 for this module (DESIGN CHOICE, log 116). -/
def Dev.answerCascade (d : Dev) (m : Commit) (c : CascCommit) : Dev :=
  let r := d.checkBank (d.bankOfReq m) (d.baseOfReq m) 2 [] [] 2
  let d := d.poolNote (d.bankOfReq m) r.2
  let m := { m with taken := r.2.steps, why := r.2.why, canvases := d.involved }
  let c := ({ c with own := true, kind := r.2.kind }).hear (d.get F.CASC_ID.landing) (d.ownVote r.1 r.2)
  if d.coordinator then (d.setCasc m c).cascReady
  else ({ d with report := (answerOf r.2 r.1 m d.now (d.get F.CASC_ID.landing)).2 }).voteSend m c

/-- A vote that a member's own loss changes (R259). -/
def Dev.voteAgain (d : Dev) : Dev :=
  match d.openCasc with
  | some (m, c) =>
    if c.own ∧ !m.dryRun then
      let r := d.checkBank d.regs.pend d.regs.active 2 [] [] 1
      if r.1 ≤ 1 then d.setCasc { m with taken := r.2.steps, why := r.2.why } c
      else
        let c := ({ c with kind := r.2.kind }).hear (d.get F.CASC_ID.landing) (d.ownVote r.1 r.2)
        if d.coordinator then (d.setCasc m c).cascReady else d.voteSend m c
    else d
  | none => d

/-- The step 2 checks of a member, in the order of R571 with the receipt of PREPARE as arrival (R256); the horizon allows for the
way of the message, as the example after R260 shows it. PREPARE does not say who asked, so whether a bank that changes PRV
fields is refused with PRIV is a free value (log 50). -/
def Dev.prepareCode (d : Dev) (gen : Word) (due : Nat) (dryRun : Bool) : Option Nat :=
  if d.is F.CASC_STATUS.diverged then some 0x13
  else if d.busy dryRun then some 0x12
  else if gen ≠ d.stored A.ACTIVE_GEN + 1 then some 0x13
  else if due + d.act F.CASC_BUDGET.ns < d.now + d.horizon then some 0x10
  else if d.now + 10000000000 < due then some 0x11
  else if d.get F.CFG_CTL.reaction = 1 ∧ d.is F.CFG_STATUS.mismatch ∧ !dryRun then some 0x15
  else if d.changesPrv (d.keepLocked d.regs.stored) (if dryRun && d.commit.isSome then d.regs.pend else d.regs.active) && d.free % 2 == 1 then
    some 0x14
  else none

/-- Whether this landing takes part in a PREPARE (R261): one that has not joined takes part only in the first cascade commit of
the system, which follows its own generation (DEDUCED, log 50). -/
def Dev.takesPrepare (d : Dev) (gen : Word) (set : Nat) : Bool :=
  bitOf set (d.get F.CASC_ID.landing) == 1 &&
    (d.is F.CASC_STATUS.joined || d.is F.CASC_STATUS.diverged || (!d.casc.firstDone && gen == d.stored A.ACTIVE_GEN + 1))

/-- PREPARE (R256, R261): checked with its receipt as arrival; a refusal is this landing's vote, reported as its own answer and
kept until the decision (R257). -/
def Dev.prepareRx (d : Dev) (k : Nat) (m : MsgHead) (gen : Word) (target ref : Nat) (dryRun : Bool) (set : Nat) : Dev :=
  let h := d.heard k m
  if !h.1 then h.2
  else
    let d := h.2.passAll k (msgOf m 0x10 (prepareBody gen target ref dryRun set))
    if !d.takesPrepare gen set then d
    else
      let due := d.tickTime ref target
      let c := CascCommit.start set gen dryRun
      let e := d.drawn
      match d.prepareCode gen due dryRun with
      | some x =>
        let l := d.get F.CASC_ID.landing
        let c := ({ c with own := true, votes := [] }).hear (d.get F.CASC_ID.landing) (d.ownVote x ⟨x, [], [], [], 0⟩)
        ({ e with casc.turned := some c, report := reportArrival x gen target l 0 }).voteOut c
      | none =>
        let e := e.accept 2 none d.now d.horizon target ref gen true dryRun due
        match if dryRun then e.dry else e.commit with
        | some x => (e.setCasc x c).awaitVotes
        | none => e

/-- The join that a vote answers at the coordinator: one of the joining landing under the generation that JOIN carried (R263). -/
def Dev.joinVote (d : Dev) (landing code : Nat) (gen : Word) : Dev :=
  match d.casc.joining with
  | some j =>
    if j.agreed ∨ j.landing ≠ landing ∨ j.gen ≠ gen then d
    else
      let d := d.put F.CASC_JOIN_CODE.code code
      if code ≤ 1 then { d with casc.joining := some { j with agreed := true } }
      else ({ d with casc.joining := none }.opEnd 9 landing 3).raise 89
  | none => d

/-- VOTE (R256): merged with the request it is for, where a second one of a landing supersedes its first (R259); one for none that
stands here goes on toward the coordinator. -/
def Dev.voteRx (d : Dev) (k : Nat) (m : MsgHead) (v : Vote) : Dev :=
  let h := d.heard k m
  if !h.1 then h.2
  else
    let d := h.2
    let merged : Merged :=
      { code := v.code.toNat, landing := v.landing.val, counted := v.counted.toNat,
        entries := v.entries.map fun e =>
          (signedOf e.margin.toNat 16, e.landing.val, e.phase.toNat, e.inst.toNat, e.demand.toNat, e.budget.toNat) }
    let msg := msgOf m 0x11 (voteBody v.gen merged)
    if d.ring && !d.coordinator then d.pass (d.onward k) msg
    else if d.coordinator then
      let d := d.joinVote v.landing.val v.code.toNat v.gen
      match d.openCasc with
      | some (x, c) =>
        if x.gen ≠ v.gen ∨ x.due < d.now + 60000 + d.act F.CASC_BUDGET.ns then d
        else (d.setCasc x (c.hear m.src merged)).cascReady
      | none => d
    else
      match d.openCasc.filter fun x => x.1.gen == v.gen, d.casc.turned.filter fun c => c.gen == v.gen with
      | some (x, c), _ => d.voteSend x (c.hear m.src merged)
      | none, some c =>
        let c := c.hear m.src merged
        ({ d with casc.turned := some c }).voteOut c
      | none, none => d.pass d.portsUp msg

/-- t_v: the coordinator decides without the votes that are missing (R256). -/
def Dev.decideDeadline (d : Dev) : Dev :=
  match d.openCasc with
  | some (m, c) => if d.coordinator && m.due ≤ d.now + 60000 + d.act F.CASC_BUDGET.ns then d.cascDecide m c else d
  | none => d

/-- The decision is sent again: 2 µs apart, and on a port that comes up (R257). A member passes on the coordinator's message, one hop
further (R249). -/
def Dev.decideResend (d : Dev) (k : Option Nat) : Dev :=
  match d.casc.decide with
  | some msg =>
    let ports := (k.map fun k => [k]).getD d.portsDown
    if d.coordinator then (ports.filter fun k => d.is (F.PORT_STATUS.up k)).foldl (fun d k => d.emitMsg k msg) d else d.pass ports msg
  | none => d

/-- A decision on the request that this landing awaits it for (R256 to R258): a late one to commit applies 200 µs after its
receipt (R260). A landing that voted in a commit has joined (R261). Of a member the manual gives the code and the outcome alone;
here the decision is its answer in COMMIT_STATUS.answered, and it counts none and raises no COMMIT_ANSWERED (DESIGN CHOICE, log
122). -/
def Dev.decideOpen (d : Dev) (x : Commit) (c : CascCommit) (yes : Bool) (code landing : Nat) : Dev :=
  let d := (d.put F.COMMIT_STATUS.code code).put F.COMMIT_STATUS.answered 1
  if x.dryRun then d.finish x 6
  else if !yes then d.withdraw x 5
  else
    let d := if c.sent then d.put F.CASC_STATUS.joined 1 else d
    let late := c.missed || x.due < d.now + 50000
    let x := if late then { x with due := d.now + 200000 } else x
    let d := ((d.setCasc x { c with held := some (true, code, landing) }).put F.COMMIT_STATUS.state 2).coverageAgain x
    if late then (d.bump F.DECIDE_LATE.count).raise 84 else d

/-- A decision on the request that this landing refused in step 2: it ends aborted, a dry run done (R258). -/
def Dev.decideTurned (d : Dev) (c : CascCommit) (yes : Bool) (code : Nat) : Dev :=
  let d := { d with casc.turned := none }
  if yes then d
  else
    let d := d.put F.COMMIT_STATUS.code code
    if c.dryRun then d.put F.COMMIT_STATUS.outcome 6 else (d.put F.COMMIT_STATUS.outcome 5).raise 66

/-- DECIDE at a member (R256 to R260): the first copy counts, and an abort that a cancel at the coordinator sends after it
(R258). -/
def Dev.decideRx (d : Dev) (k : Nat) (m : MsgHead) (gen : Word) (target : Nat) (yes : Bool) (code landing : Nat) : Dev :=
  let h := d.heard k m
  if !h.1 then h.2
  else
    let msg := msgOf m 0x12 (decideBody gen target yes code landing)
    let d := { (h.2.passAll k msg) with casc.decide := some msg, casc.firstDone := h.2.casc.firstDone || (yes && h.2.casc.dry.isNone) }
    if d.coordinator then d
    else
      match d.openCasc.filter fun x => x.1.gen == gen, d.casc.turned.filter fun c => c.gen == gen, d.commit with
      | some (x, c), _, _ => d.decideOpen x c yes code landing
      | none, some c, _ => d.decideTurned c yes code
      | none, none, some x =>
        if x.gen = gen ∧ x.cascade ∧ !yes ∧ d.get F.COMMIT_STATUS.state = 2 then
          (d.put F.COMMIT_STATUS.code code).withdraw x 5
        else d
      | none, none, none => d

/-- T − 50 µs without a decision (R260). -/
def Dev.decideMiss (d : Dev) : Dev :=
  match d.openCasc with
  | some (m, c) => if !d.coordinator ∧ m.due ≤ d.now + 50000 then d.setCasc m { c with missed := true } else d
  | none => d

/-- No decision within 1 s after T (R260). -/
def Dev.cascLost (d : Dev) : Dev :=
  match d.openCasc with
  | some (m, _) =>
    if !d.coordinator ∧ m.due + 1000000000 ≤ d.now then
      ((((d.finish m 5).vestDropGen m.gen).put F.CASC_STATUS.diverged 1).raise 85)
    else d
  | none => d

/-- A cascade request stands at this landing, or one that it refused in step 2. -/
def Dev.inCasc (d : Dev) : Bool := d.commit.any (·.cascade) || d.dry.any (·.cascade) || d.casc.turned.isSome

/-- A cancel at the coordinator in time decides abort with outcome 3, awaiting votes or after its decision to commit (R258). The manual does
not say what code and landing the DECIDE carries, nor whether the coordinator answers: both are 0, and it does not (DESIGN CHOICE,
log 186). Of a cascade dry run, which is no commit, a cancel counts and raises nothing more (DESIGN CHOICE, log 102). At another member it is ignored
and counts as a locked write; elsewhere R36. -/
def Dev.cancelAny (d : Dev) (acc : Nat) : Dev :=
  if !d.coordinator && d.inCasc then d.ignored 0x900 acc false
  else
    let intime (m : Commit) : Bool := d.now + m.horizon ≤ m.due
    match d.commit, d.dry, d.casc.dry with
    | some m, _, _ =>
      if m.cascade ∧ d.get F.COMMIT_STATUS.state ≠ 1 then (if intime m then (d.decideSend m false 0 0).withdraw m 3 else d)
      else d.commitCancel
    | none, some m, some _ => if intime m then (d.decideSend m false 0 0).finish m 3 else d
    | none, _, _ => d.commitCancel

/-- A re-admission of a member that awaits the decision votes again (R259). -/
def Dev.readmissionAll (d : Dev) : Dev :=
  if d.readmit.isEmpty then d else d.readmission.voteAgain

/-! ## Joining (R263) -/

/-- The coordinator sends JOIN with ACTIVE_GEN and a tick at least 1 ms ahead (R263). The tick is one of canvas 0: JOIN carries no reference
canvas, and the manual names none (DESIGN CHOICE, log 185). -/
def Dev.joinSend (d : Dev) (landing : Nat) : Dev :=
  let s := streamOf d.actv 0
  let t := s.firstFrom (d.canvasAt 0 (d.now + 1000000))
  let d := { d with casc.joining := some { landing := landing, due := s.tick t, agreed := false, gen := d.stored A.ACTIVE_GEN } }
  let ports := if d.ring then d.ports else d.portsDown.filter fun k => bitOf (d.act (F.PORT_REACH.set k)) landing == 1
  d.landSend ports 0x40 landing false (bytesBE 4 (d.get F.ACTIVE_GEN.gen) ++ bytesBE 8 t)

/-- The join that is refused at this landing. -/
def Dev.joinRefused (d : Dev) (gen : Word) (code : Nat) (o : AdmOut) : Dev :=
  let d := (d.put F.CASC_JOIN_CODE.code code).raise 89
  d.landSend d.portsUp 0x11 0 false (voteBody gen (d.ownVote code o))

/-- JOIN at the landing it names: its staged configuration is admitted as a commit for T under the generation carried, with the
arrival checks but R27; elsewhere it goes on. -/
def Dev.joinRx (d : Dev) (k : Nat) (m : MsgHead) (gen : Word) (target : Nat) : Dev :=
  let h := d.heard k m
  if !h.1 then h.2
  else
    let d := h.2
    if m.dst.val ≠ d.get F.CASC_ID.landing then
      let msg := msgOf m 0x40 (wordBE gen ++ bytesBE 8 target)
      if d.ring then d.pass (d.onward k) msg
      else d.pass (d.portsDown.filter fun j => bitOf (d.act (F.PORT_REACH.set j)) m.dst.val == 1) msg
    else
      let due := d.tickTime 0 target
      let refuse (x : Nat) : Dev := d.joinRefused gen x ⟨x, [], [], [], 0⟩
      if d.busy false then refuse 0x12
      else if due < d.now + d.horizon then refuse 0x10
      else if d.now + 10000000000 < due then refuse 0x11
      else if d.get F.CFG_CTL.reaction = 1 ∧ d.is F.CFG_STATUS.mismatch then refuse 0x15
      else { (d.accept 2 none d.now d.horizon target 0 gen false false due) with casc.join := some (gen.toNat, due) }

/-- The answer of a join at the joining landing. The coordinator hears of it by a VOTE: the manual names no message for it (DESIGN
CHOICE, log 128). -/
def Dev.answerJoin (d : Dev) (m : Commit) : Dev :=
  let r := d.checkBank d.regs.pend d.regs.active 2 [] [] 2
  let d := d.answerCommit m
  if r.1 ≤ 1 then
    let d := d.put F.CASC_JOIN_CODE.code r.1
    d.landSend d.portsUp 0x11 0 false (voteBody m.gen (d.ownVote r.1 r.2))
  else ({ d with casc.join := none }).joinRefused m.gen r.1 r.2

/-- ADMISSION_ANSWER (R30): the request that is admitting is answered. -/
def Dev.admissionAnswer (d : Dev) : Dev :=
  match d.openCasc with
  | some (m, c) => if c.own then d else d.answerCascade m c
  | none =>
    match d.dry, d.commit with
    | some m, _ => d.answerDry m
    | none, some m =>
      if d.get F.COMMIT_STATUS.state = 1 then (if d.casc.join.isSome then d.answerJoin m else d.answerCommit m) else d
    | none, none => d

/-! ## Events and fences (R265) -/

/-- An EVENT message: up toward the coordinator, which queues it. -/
def Dev.eventMsg (d : Dev) (k : Nat) (m : MsgHead) (ev src time : Nat) : Dev :=
  let h := d.heard k m
  if !h.1 then h.2
  else
    let d := h.2
    if !d.coordinator then
      d.pass (if d.ring then d.onward k else d.portsUp) (msgOf m 0x30 (bytesBE 2 ev ++ bytesBE 1 src ++ timeBE time))
    else if d.casc.events.length < 256 then ({ d with casc.events := d.casc.events ++ [(ev, src, time)] }).raise 87
    else d.bump F.PEER_EVT_DROPPED.count

/-- The next entry of the peer queue (R269). -/
def Dev.peerEvt (d : Dev) : List Word × Dev :=
  match d.casc.events with
  | [] => ([0, 0, 0, 0], d)
  | (e, l, t) :: r => ([w32 (e + l * 2 ^ 16), w32 (nsOf t), w32 (secOf t), 1], { d with casc.events := r })

/-- A FENCE message moves the fences of its landing and peer fence (R198, R265). -/
def Dev.fenceMsg (d : Dev) (k : Nat) (m : MsgHead) (f : Nat) (v : Word) : Dev :=
  let h := d.heard k m
  if !h.1 then h.2
  else
    let d := h.2.passAll k (msgOf m 0x31 (bytesBE 2 f ++ bytesBE 4 v.toNat))
    ((List.range 512).filter fun g => d.get (F.FENCE_OWNER.owner g) == 2 && d.get (F.FENCE_OWNER.landing g) == m.src.val &&
      d.get (F.FENCE_OWNER.peer_fence g) == f).foldl (fun d g => d.fenceMove d.now g v) d

/-! ## Time and ticks over the links (R266, R267) -/

def Dev.timeSyncSend (d : Dev) (k : Nat) : Dev :=
  if !d.is (F.PORT_STATUS.up k) then d
  else
    let p := d.port k
    let seq := (p.syncSeq + 1) % 65536
    let d := d.setPort k { p with syncSeq := seq, syncAt := d.now, echoTo := some (seq, d.now) }
    d.peerSend k 0x20 (timeBE d.now ++ bytesBE 2 seq)

/-- A sample of a port's delay in units of 2^-16 ns: PORT_DELAY is the mean of the last eight (R236, R266). -/
def Dev.portSample (d : Dev) (k : Nat) (x : Int) : Dev :=
  let p := d.port k
  let ss := (p.samples ++ [x]).drop (p.samples.length + 1 - 8)
  (d.setPort k { p with samples := ss }).put (F.PORT_DELAY.delay k) (toField (meanOf ss) 32)

/-- TIME_SYNC is answered with TIME_ECHO, whose turnaround is the module's own, and gives a sample of the delay here (R266): that of
R236 needs the receipt of the echo, which the other landing alone has and no message brings back, so it is free. Log 42. -/
def Dev.timeSyncRx (d : Dev) (k : Nat) (m : MsgHead) (seq : Nat) : Dev :=
  let h := d.heard k m
  if !h.1 then h.2
  else
    let d := h.2.drawn.drawn
    (d.portSample k h.2.drawn.free).peerSend k 0x21 (bytesBE 2 seq ++ bytesBE 4 h.2.free)

/-- TIME_ECHO gives a sample of the port's delay, as R236 measures it. -/
def Dev.landEcho (d : Dev) (k : Nat) (m : MsgHead) (seq turn : Nat) : Dev :=
  let h := d.heard k m
  if !h.1 then h.2
  else
    let d := h.2
    let p := d.port k
    match p.echoTo with
    | some (q, at') =>
      if q ≠ seq then d else (d.setPort k { p with echoTo := none }).portSample k (((d.now : Int) - at' - turn) * 65536 / 2)
    | none => d

/-- The canvas that composes a part of a tree canvas. -/
def Dev.partOf (d : Dev) (tree : Nat) : Option Nat :=
  (List.range 8).find? fun c => canvasOn d.actv c && d.act (F.PART.tree_canvas c) == tree

/-- The edges of two landings for the same tick are compared (R267). -/
def Dev.skewNote (d : Dev) (own edge : Nat) : Dev :=
  let skew := if own < edge then edge - own else own - edge
  let ss := ((d.now, skew) :: d.casc.skews).filter fun x => d.now < x.1 + 1000000000
  let d := { d with casc.skews := ss }.skewFresh
  if d.get F.CASC_SKEW_LIMIT.ns < skew then d.raise 86 else d

/-- TICK_ALIGN of a neighbour is compared with the own edge of the same tick, one that comes before that edge waits for it, and one
that comes later is compared with the edge as it was (R267). -/
def Dev.tickAlign (d : Dev) (k : Nat) (m : MsgHead) (tree tick edge : Nat) : Dev :=
  let h := d.heard k m
  if !h.1 then h.2
  else
    let d := h.2
    match d.partOf tree with
    | none => d
    | some c =>
      let near := (streamOf d.actv c).lastAt (edge + ((d.act (F.PERIOD_NUM.num c)) / (d.act (F.PERIOD_DEN.den c)) / 2))
      let d := if near ≠ tick then d.put F.CASC_STATUS.part_mismatch 1 else d
      if (d.canvas c).tick = tick then d.skewNote (d.canvas c).edge edge
      else if (d.canvas c).tick < tick then { d with casc.aligns := ((tree, tick, edge) :: d.casc.aligns).take 64 }
      else
        match d.casc.edges.find? fun x => x.1 == c && x.2.1 == tick with
        | some x => d.skewNote x.2.2 edge
        | none => d

/-- A generated tick of a canvas: its measured edge goes to each neighbour (R16), and the neighbours' edges of it that came before
are compared (R267). No field says which canvases are partitioned: every canvas of an enabled system counts as a part of its tree
canvas (DESIGN CHOICE, log 158). -/
def Dev.tickAlignSend (d : Dev) (c : Nat) : Dev :=
  if !d.cascOn then d
  else
    let tree := d.act (F.PART.tree_canvas c)
    let t := (d.canvas c).tick
    let edge := (d.canvas c).edge
    let d := (d.casc.aligns.filter fun x => x.1 == tree && x.2.1 == t).foldl (fun d x => d.skewNote edge x.2.2) d
    let d := { d with
      casc.aligns := d.casc.aligns.filter fun x => x.1 != tree || t < x.2.1,
      casc.edges := (c, t, edge) :: d.casc.edges.filter fun x => d.now < x.2.2 + 1000000000 }
    d.ports.foldl (fun d k => d.peerSend k 0x22 (bytesBE 1 tree ++ bytesBE 8 t ++ timeBE edge)) d

/-! ## Tree groups (R268) -/

/-- Replace a tree group at its tick, or add it; the last sixteen ticks of a group are kept. -/
def Dev.setTree (d : Dev) (v : TreeGroup) : Dev :=
  let at' (x : TreeGroup) : Bool := x.group == v.group && x.tick == v.tick
  if d.casc.groups.any at' then { d with casc.groups := d.casc.groups.map fun x => if at' x then v else x }
  else
    { d with casc.groups := v :: (d.casc.groups.filter fun x => x.group == v.group).take 15 ++
        d.casc.groups.filter fun x => x.group != v.group }

/-- The landings that the coordinator knows to have a member of a group, 0 before its first decision. -/
def Dev.groupKnown (d : Dev) (g : Nat) : Nat := Tab.get (fun _ => 0) d.casc.members g
def Dev.setKnown (d : Dev) (g set : Nat) : Dev := { d with casc.members := Tab.set (fun _ => 0) d.casc.members g set }

/-- A report of a group for a tick is merged with what is in; a landing that reports has a member. -/
def Dev.groupMerge (d : Dev) (g tick counted : Nat) (ready : Bool) : Dev :=
  let v := d.treeGroup g tick
  let d := if d.groupKnown g = 0 then d else d.setKnown g (d.groupKnown g ||| counted)
  d.setTree { v with counted := v.counted ||| counted, ready := v.ready && ready }

/-- The coordinator lets a group flip or holds it; from then on it knows the landings that reported as those with a member. At the
deadline the reports that came decide: the manual does not say what those that are missing count for (DESIGN CHOICE, log 159). -/
def Dev.groupGo (d : Dev) (g tick : Nat) : Dev :=
  let v := d.treeGroup g tick
  if v.sent then d
  else
    let d := (d.setTree { v with sent := true, go := some v.ready }).setKnown g v.counted
    d.landSend d.portsDown 0x33 0 true (bytesBE 1 g ++ bytesBE 8 tick ++ bytesBE 1 (b2n v.ready))

/-- What follows a report: the coordinator decides when every landing with a member has reported, others pass on what they have merged, at
each report: the manual does not say when (R268; DESIGN CHOICE, log 188). Which
landings have one the coordinator learns from their reports; until the first decision it waits for every member of the system
(DEDUCED, log 93). -/
def Dev.groupNext (d : Dev) (g tick : Nat) : Dev :=
  let v := d.treeGroup g tick
  let known := d.groupKnown g
  if d.coordinator then
    (if setMinus (if known = 0 then d.act F.CASC_MEMBERS.set else known) v.counted = 0 then d.groupGo g tick else d)
  else
    d.landSend d.portsUp 0x32 0 false (bytesBE 1 g ++ bytesBE 8 tick ++ bytesBE 1 (b2n v.ready) ++ bytesBE 2 v.counted)

/-- The members of a group on this landing are evaluated for the tick whose horizon passes, once the horizon of each has. -/
def Dev.groupEval (d : Dev) (h n : Nat) : Dev :=
  match d.horizonTick h n with
  | none => d
  | some (c, k) =>
    let g := fv (d.viewFor c k) (F.LAYER_CTL.atomic_group h n)
    if !d.cascOn ∨ g < 8 ∨ n = 32 ∨ (d.groupMembers c k h g).any (fun m => d.now < d.horizonAt c k h m) then d
    else (d.groupMerge g k (2 ^ d.get F.CASC_ID.landing) (!d.groupStops c k h g)).groupNext g k

/-- GROUP_STATE. -/
def Dev.groupState (d : Dev) (k : Nat) (m : MsgHead) (g tick : Nat) (ready : Bool) (counted : Nat) : Dev :=
  let h := d.heard k m
  if !h.1 then h.2
  else if h.2.ring && !h.2.coordinator then
    h.2.pass (h.2.onward k) (msgOf m 0x32 (bytesBE 1 g ++ bytesBE 8 tick ++ bytesBE 1 (b2n ready) ++ bytesBE 2 counted))
  else (h.2.groupMerge g tick counted ready).groupNext g tick

/-- The coordinator waits no longer for the landings that have not reported: of the oldest tick not decided. -/
def Dev.groupDeadline (d : Dev) (g : Nat) : Dev :=
  match (d.casc.groups.filter fun v => v.group == g && !v.sent && v.counted != 0).getLast? with
  | some v => if d.cascOn && d.coordinator then d.groupGo g v.tick else d
  | none => d

/-- GROUP_GO. -/
def Dev.groupGoRx (d : Dev) (k : Nat) (m : MsgHead) (g tick : Nat) (flip : Bool) : Dev :=
  let h := d.heard k m
  if !h.1 then h.2
  else
    let d := h.2.passAll k (msgOf m 0x33 (bytesBE 1 g ++ bytesBE 8 tick ++ bytesBE 1 (b2n flip)))
    d.setTree { d.treeGroup g tick with go := some flip }

end Sys2Proof.Machine
end

