-- ==== Sys2Proof/Machine/P256.lean ====
section
/-! DEFINITION. The ECDSA signatures of the Alcove's records (R501): FIPS 186-5 on curve P-256 with SHA-256. -/

namespace Sys2Proof.Machine

/-- The field prime and the group order of P-256. -/
def p256P : Nat := 0xFFFFFFFF00000001000000000000000000000000FFFFFFFFFFFFFFFFFFFFFFFF
def p256N : Nat := 0xFFFFFFFF00000000FFFFFFFFFFFFFFFFBCE6FAADA7179E84F3B9CAC2FC632551

/-- A point of the curve in affine coordinates; none is the point at infinity. -/
abbrev Point := Option (Nat × Nat)

/-- The base point. -/
def p256G : Point :=
  some (0x6B17D1F2E12C4247F8BCE6E563A440F277037D812DEB33A0F4A13945D898C296,
    0x4FE342E2FE1A7F9B8EE7EB4A7C0F9E162BCE33576B315ECECBB6406837BF51F5)

/-- `b ^ e` modulo `m` over the bits of `e`. -/
def powMod (m : Nat) : Nat → Nat → Nat → Nat
  | 0, _, _ => 1
  | k + 1, b, e => (if e % 2 = 1 then b else 1) * powMod m k (b * b % m) (e / 2) % m

/-- The inverse modulo a prime of 256 bits. -/
def invMod (m a : Nat) : Nat := powMod m 256 (a % m) (m - 2)

/-- The point on the line of slope `l` through two points with these coordinates. -/
def chord (l x1 y1 x2 : Nat) : Point :=
  let x := (l * l + 2 * p256P - x1 - x2) % p256P
  some (x, (l * (x1 + p256P - x) + p256P - y1) % p256P)

/-- The sum of two points. -/
def Point.add (a b : Point) : Point :=
  match a, b with
  | none, q => q
  | p, none => p
  | some (x1, y1), some (x2, y2) =>
    if x1 = x2 then
      if (y1 + y2) % p256P = 0 then none
      else chord ((3 * x1 * x1 + p256P - 3) * invMod p256P (2 * y1) % p256P) x1 y1 x2
    else chord ((y2 + p256P - y1) * invMod p256P (x2 + p256P - x1) % p256P) x1 y1 x2

/-- A multiple of a point over the bits of the factor. -/
def Point.mul : Nat → Point → Nat → Point
  | 0, _, _ => none
  | k + 1, p, n =>
    let r := Point.mul k (p.add p) (n / 2)
    if n % 2 = 1 then r.add p else r

/-- The private key of the Alcove, which the manual does not show, and its public key (R482, R504). Log 26. -/
def alcovePriv : Nat := 1 + Config.alcovePriv % (p256N - 1)
def alcovePub : List Byte :=
  let q := (Point.mul 256 p256G alcovePriv).getD (0, 0)
  bytesBE 32 q.1 ++ bytesBE 32 q.2

/-- The pair of a signature under a nonce: zero in either part asks for another nonce. -/
def ecdsaPair (z k : Nat) : Nat × Nat :=
  let r := ((Point.mul 256 p256G k).getD (0, 0)).1 % p256N
  (r, invMod p256N k * (z + r * alcovePriv) % p256N)

/-- The signature of some bytes (R501): r and s, 32 bytes each. The deterministic nonces are free values (log 26). -/
def ecdsaSign (bs : List Byte) : List Byte :=
  let z := ofBE (sha256 bs)
  let tries := (List.range 8).map fun i => ecdsaPair z (1 + Config.ecdsaNonce bs i % (p256N - 1))
  let x := (tries.find? fun x => x.1 != 0 && x.2 != 0).getD (1, 1)
  bytesBE 32 x.1 ++ bytesBE 32 x.2

end Sys2Proof.Machine
end

