-- ==== Sys2Proof/Machine/Alcove.lean ====
section
/-! DEFINITION. The Alcove Metrology Partition (R478 to R505). Nothing here reads or writes the rest of the module. -/

namespace Sys2Proof.Machine

/-- The capacity of the record ring (R497). -/
def ringSize : Nat := 5120

def Alcove.slot (a : Alcove) (s : Nat) : Slot := Tab.get (fun _ => Slot.idle) a.slots s
def Alcove.setSlot (a : Alcove) (s : Nat) (v : Slot) : Alcove := { a with slots := Tab.set (fun _ => Slot.idle) a.slots s v }
def Alcove.raise (a : Alcove) (e : Nat) : Alcove := { a with evs := a.evs ++ [e] }
/-- Free entries of the ring. -/
def Alcove.free (a : Alcove) : Nat := ringSize - (a.nextSeq - a.oldest)
/-- The operating time moves on with a command (R491). -/
def Alcove.at (a : Alcove) (ot : Nat) : Alcove := { a with ot := max a.ot ot }

/-! ## Records (R497 to R501) -/

/-- The header of a record with its flags. -/
def Alcove.header (a : Alcove) (type : Nat) (restart labels : Bool) : List Byte :=
  bytesLE 2 0xA1C0 ++ [1, BitVec.ofNat 8 type] ++ bytesLE 4 a.nextSeq ++ bytesLE 8 a.ot ++ bytesLE 4 a.powerUps ++
    bytesLE 2 a.sealCount ++
    [BitVec.ofNat 8 (1 + b2n a.opened * 2 + b2n a.suspect * 4 + b2n restart * 8 + b2n labels * 16), 0] ++
    bytesLE 4 a.swId.toNat ++ bytesLE 2 a.fwVer ++ bytesLE 2 0 ++ bytesLE 16 a.serial

/-- A body padded to its 80 bytes. -/
def recordBody (b : List Byte) : List Byte := b ++ List.replicate (80 - b.length) 0

/-- Put a record into the ring; a ring without a free entry takes none (R497). -/
def Alcove.push (a : Alcove) (type : Nat) (body : List Byte) (labels signed : Bool) : Alcove :=
  if a.free = 0 then a
  else
    let b := a.header type false labels ++ recordBody body
    let r := b ++ (if signed then ecdsaSign b else List.replicate 64 0)
    let a := { a with
      ring := Tab.set (fun _ => []) a.ring (a.nextSeq % ringSize) r, nextSeq := a.nextSeq + 1,
      unsigned := if signed then a.unsigned else a.unsigned ++ [a.nextSeq] }
    let a := a.raise 768
    if a.free = 256 then a.raise 772 else a

/-- A label: seconds and nanoseconds. -/
def Label.bytes (l : Label) : List Byte := bytesLE 6 (l.time / 1000000000) ++ bytesLE 4 (l.time % 1000000000)

/-- How an exhibit record came about: final, truncated, closed by activation, closed by a full ring (R499). -/
structure ExEnd where
  final : Bool
  trunc : Bool
  fw    : Bool
  full  : Bool
deriving DecidableEq, Repr

/-- The body of EXHIBIT_END and EXHIBIT_PROGRESS (R499). -/
def Slot.body (x : Slot) (s : Nat) (k : ExEnd) : List Byte :=
  bytesLE 8 x.ident ++ bytesLE 2 x.window ++
    [BitVec.ofNat 8 s, BitVec.ofNat 8 (b2n k.final + b2n k.trunc * 2 + b2n x.ordered * 4 + b2n x.repeats * 8 + b2n k.fw * 16 +
      b2n k.full * 32 + b2n x.repaired * 64)] ++
    bytesLE 8 x.firstOt ++ bytesLE 8 x.lastOt ++ bytesLE 8 x.e ++ bytesLE 4 x.verified ++ bytesLE 4 x.mismatched ++
    bytesLE 4 x.missing ++ bytesLE 4 x.refFaults ++ x.firstLb.bytes ++ x.lastLb.bytes ++
    [BitVec.ofNat 8 (x.firstLb.state + x.lastLb.state * 4), 0] ++ bytesLE 4 x.pdecl ++ bytesLE 2 x.count

/-- An exhibit ends: its record, and the slot is idle. -/
def Alcove.close (a : Alcove) (s : Nat) (k : ExEnd) (signed : Bool) : Alcove :=
  (a.push 0x01 ((a.slot s).body s k) true signed).setSlot s .idle

/-- The slots with an exhibit. -/
def Alcove.exhibits (a : Alcove) : List Nat := (List.range 8).filter fun s => (a.slot s).state == 2

/-- The reserve runs out when the free entries that remain are those of the exhibits' own end records: they close and nothing
is classified until ACK frees entries (R497, log 52). -/
def Alcove.reserve (a : Alcove) : Alcove :=
  if a.full ∨ a.exhibits.length < a.free then a
  else
    let a := a.exhibits.foldl (fun a s => a.close s ⟨true, false, false, true⟩ true) a
    ({ a with full := true }).raise 773

/-- A record of a type that may use the reserve, or one that may not. -/
def Alcove.record (a : Alcove) (type : Nat) (body : List Byte) (labels : Bool) : Alcove :=
  (a.push type body labels true).reserve
def Alcove.recordLow (a : Alcove) (type : Nat) (body : List Byte) (labels : Bool) : Alcove :=
  if a.free ≤ 64 then a else a.record type body labels

/-! ## Expected values and reference faults (R495, R496) -/

/-- The bytes of expected values, and their CRC. -/
def expCrc (vs : List Nat) : Word := crc32c (vs.flatMap (bytesLE 8))

/-- The staged values of indices 0 to F − 1. -/
def Slot.stagedValues (x : Slot) (f : Nat) : List Nat := (List.range f).map (Tab.get (fun _ => 0) x.staged)

/-- Errors that the stored copies have taken. -/
def Slot.upset (x : Slot) (up : List CopyUpset) : Slot :=
  up.foldl (fun x u =>
    let flip (l : List Nat) : List Nat := l.mapIdx fun i v => if i = u.index then v ^^^ u.bits.toNat else v
    if u.inB then { x with copyB := flip x.copyB } else { x with copyA := flip x.copyA }) x

def Slot.okA (x : Slot) : Bool := expCrc x.copyA == x.crcA
def Slot.okB (x : Slot) : Bool := expCrc x.copyB == x.crcB

/-- A REF_FAULT record, with its event where the ring has room for it (R500, R505). -/
def Alcove.refFault (a : Alcove) (s kind tick : Nat) : Alcove :=
  let b := bytesLE 8 (a.slot s).ident ++ [BitVec.ofNat 8 s, BitVec.ofNat 8 kind] ++ bytesLE 2 0 ++ bytesLE 8 a.ot ++ bytesLE 4 tick
  let c := a.record 0x06 b false
  if a.free = 0 then c else c.raise 769

/-- Copies of which one fails its CRC are repaired from the other; when both fail the reference is lost. -/
def Alcove.repair (a : Alcove) (s tick : Nat) : Alcove :=
  let x := a.slot s
  match x.okA, x.okB with
  | true, true => a
  | false, true => (a.setSlot s { x with copyA := x.copyB, crcA := x.crcB, repaired := true }).refFault s 1 tick
  | true, false => (a.setSlot s { x with copyB := x.copyA, crcB := x.crcA, repaired := true }).refFault s 2 tick
  | false, false => (a.setSlot s { x with lost := true }).refFault s 4 tick

/-- The periodic check of both copies (R495). -/
def Alcove.copyCheck (a : Alcove) (ot s : Nat) (up : List CopyUpset) : Alcove :=
  if !a.on ∨ (a.slot s).state ≠ 2 ∨ (a.slot s).lost then a.at ot
  else
    let a := a.at ot
    (a.setSlot s ((a.slot s).upset up)).repair s 0

/-! ## Measurement (R479, R480) -/

/-- The entries a region end may match (R479). -/
def Slot.allowed (x : Slot) : List Nat :=
  if !x.ordered then List.range x.count
  else
    let from' := match x.entry with
      | none => 0
      | some k => k
    let n := match x.entry with
      | none => x.ends
      | some _ => x.ends + 1
    let l := (List.range n).map (from' + ·)
    if x.repeats then (l.map (· % x.count)).eraseDups else l.filter (· < x.count)

/-- The first allowed entry that a result equals. -/
def Slot.matched (x : Slot) (r : Nat) : Option Nat := x.allowed.find? fun k => x.copyA[k]? == some r

/-- A region starts: an armed exhibit becomes active (R481). -/
def Alcove.regionStart (a : Alcove) (s : Nat) : Alcove :=
  if a.on ∧ (a.slot s).state = 2 ∧ (a.slot s).armed then a.setSlot s { a.slot s with armed := false } else a

/-- The interval that ends at a region end counts when it is within the cap (R480). -/
def Slot.interval (x : Slot) (ot truncK : Nat) : Slot :=
  match x.prevEnd with
  | some t =>
    if !x.prevOk then x
    else if ot - t ≤ truncK * ((x.pdecl * 25 + 999) / 1000) then { x with e := x.e + (ot - t) }
    else { x with missing := x.missing + 1 }
  | none => x

/-- The tick is compared: verified, mismatched or a reference fault (R479, R496). -/
def Alcove.classify (a : Alcove) (s r tick : Nat) : Alcove :=
  let x := a.slot s
  let same := x.allowed.all fun k => x.copyA[k]? == x.copyB[k]?
  let a := if x.lost ∨ same then a else a.repair s tick
  let x := a.slot s
  if (a.slot s).state ≠ 2 then a
  else if x.lost then a.setSlot s { x with refFaults := x.refFaults + 1, prevOk := false, inFault := true }
  else if !(x.allowed.all fun k => x.copyA[k]? == x.copyB[k]?) then
    let a := a.setSlot s { x with refFaults := x.refFaults + 1, prevOk := false, inFault := true }
    if x.inFault then a else a.refFault s 3 tick
  else
    match x.matched r with
    | some k =>
      let x := if x.verified = 0 then { x with firstOt := a.ot, firstLb := a.label } else x
      a.setSlot s { x with verified := x.verified + 1, entry := some k, ends := 0, prevOk := true, inFault := false }
    | none => a.setSlot s { x with mismatched := x.mismatched + 1, prevOk := false, inFault := false }

/-- A region of an exhibit's unit ends with result `r`, or incomplete (R479, R480, R493); a parameter changed since applies from now on
(R490). -/
def Alcove.regionEnd (a : Alcove) (ot s r : Nat) (short : Bool) (label : Label) (tick : Nat) (up : List CopyUpset) : Alcove :=
  let a := { a.at ot with label := label, progNow := a.progressS }
  let x := (a.slot s).upset up
  if !a.on ∨ x.state ≠ 2 ∨ x.armed ∨ a.full then a
  else
    let x := { x.interval a.ot a.truncK with ends := x.ends + 1, lastOt := a.ot, lastLb := label, prevEnd := some a.ot }
    if short then a.setSlot s { x with missing := x.missing + 1, prevOk := false }
    else (a.setSlot s x).classify s r tick

/-- EXHIBIT_PROGRESS after progress_s seconds since the last record of the exhibit, which at first is its DECLARE record (R481; DEDUCED,
log 139). -/
def Alcove.progressRecord (a : Alcove) (ot s : Nat) : Alcove :=
  let a := a.at ot
  let x := a.slot s
  if !a.on ∨ x.state ≠ 2 ∨ x.armed ∨ a.ot - x.progress < a.progNow * 25000000 then a
  else (a.setSlot s { x with progress := a.ot }).recordLow 0x02 (x.body s ⟨false, false, false, false⟩) true

/-! ## Commands (R485 to R487) -/

/-- A reply of a door. -/
def Alcove.reply (a : Alcove) (key op status seq : Nat) : Alcove :=
  { a with replies := Tab.set (fun _ => Reply.idle) a.replies key { opcode := op, status := status, done := true, seq := seq } }

/-- What a command gives: a status, the sequence of its record and the Alcove after it; a refused one changes nothing. -/
abbrev AlcRes := Nat × Nat × Alcove

/-- The record a command writes: its sequence, or 0 when it wrote none (R487). -/
def Alcove.cmdRecord (a b : Alcove) : AlcRes := (0, if b.nextSeq = a.nextSeq then 0 else a.nextSeq, b)

def Alcove.cmdDeclare (a : Alcove) (s : Nat) (w1 w2 w3 : Word) : AlcRes :=
  let w := bitsOf w3.toNat 0 10
  let ordered := w3.getLsbD 10
  let repeats := w3.getLsbD 11
  if 8 ≤ s then (3, 0, a)
  else if (a.slot s).state ≠ 0 then (2, 0, a)
  else if 576 ≤ w ∨ (repeats ∧ !ordered) then (3, 0, a)
  else if a.free ≤ 64 then (5, 0, a)
  else (0, 0, a.setSlot s { Slot.idle with
    state := 1, ident := w1.toNat + w2.toNat * 2 ^ 32, window := w, ordered := ordered, repeats := repeats })

def Alcove.cmdTiming (a : Alcove) (s : Nat) (w1 w2 : Word) : AlcRes :=
  let f := bitsOf w1.toNat 0 14
  let l := bitsOf w1.toNat 16 14
  if 8 ≤ s then (3, 0, a)
  else if (a.slot s).state ≠ 1 then (2, 0, a)
  else if l < f ∨ w2.toNat < 2083333 ∨ 41708334 < w2.toNat then (3, 0, a)
  else (0, 0, a.setSlot s { a.slot s with first := f, last := l, pdecl := w2.toNat })

def Alcove.cmdLoad (a : Alcove) (s i : Nat) (w1 w2 : Word) : AlcRes :=
  if 8 ≤ s then (3, 0, a)
  else if (a.slot s).state ≠ 1 then (2, 0, a)
  else if 4096 ≤ i then (3, 0, a)
  else (0, 0, a.setSlot s { a.slot s with
    staged := Tab.set (fun _ => 0) (a.slot s).staged i (w1.toNat + w2.toNat * 2 ^ 32) })

/-- ARM: both copies are stored and read back, then the slot is ACTIVE (R495). -/
def Alcove.cmdArm (a : Alcove) (s f : Nat) (w1 : Word) (up : List CopyUpset) : AlcRes :=
  if 8 ≤ s then (3, 0, a)
  else if (a.slot s).state ≠ 1 then (2, 0, a)
  else if f = 0 ∨ 4096 < f ∨ (a.slot s).pdecl = 0 then (3, 0, a)
  else if a.free ≤ 64 then (5, 0, a)
  else
    let x := a.slot s
    let vs := x.stagedValues f
    let crc := expCrc vs
    if crc ≠ w1 then (4, 0, a)
    else
      let x := ({ x with count := f, copyA := vs, copyB := vs, crcA := crc, crcB := crc }).upset up
      if !x.okA ∨ !x.okB then (4, 0, a)
      else
        let b := bytesLE 8 x.ident ++ bytesLE 2 x.window ++ [BitVec.ofNat 8 s, BitVec.ofNat 8 (b2n x.ordered * 4 + b2n x.repeats * 8)] ++
          bytesLE 2 x.first ++ bytesLE 2 x.last ++ bytesLE 4 x.pdecl ++ bytesLE 2 f ++ bytesLE 2 0 ++ bytesLE 4 x.crcA.toNat
        a.cmdRecord ((a.setSlot s { x with state := 2, armed := true, progress := a.ot }).record 0x03 b false)

def Alcove.cmdEnd (a : Alcove) (s : Nat) : AlcRes :=
  if 8 ≤ s then (3, 0, a)
  else if (a.slot s).state ≠ 2 then (2, 0, a)
  else a.cmdRecord ((a.close s ⟨true, false, false, false⟩ true).reserve)

/-- ACK frees every entry up to and including q. -/
def Alcove.cmdAck (a : Alcove) (q : Nat) : AlcRes :=
  let k := (q + 2 ^ 32 - a.oldest % 2 ^ 32) % 2 ^ 32
  if a.nextSeq - a.oldest ≤ k then (3, 0, a)
  else (0, 0, { a with oldest := a.oldest + k + 1, full := false })

/-- The ASCII codes of a text. -/
def asciiOf (s : String) : List Byte := s.toList.map fun c => BitVec.ofNat 8 c.toNat
/-- An upper-case hex digit. -/
def hexDigit (n : Nat) : Byte := BitVec.ofNat 8 (if n < 10 then 48 + n else 55 + n)

/-- The identification string (R502): the minor version as two digits. -/
def identString (ver : Nat) (id : Word) : List Byte :=
  let hex := (List.range 8).map fun i => hexDigit (bitsOf id.toNat (28 - 4 * i) 4)
  asciiOf "Cloennak Alcove v" ++ asciiOf (toString (ver / 256)) ++ [0x2E] ++
    asciiOf ((if ver % 256 < 10 then "0" else "") ++ toString (ver % 256)) ++
    asciiOf " ID " ++ hex.take 4 ++ [0x2D] ++ hex.drop 4

def Alcove.cmdIdentify (a : Alcove) : AlcRes :=
  if a.free ≤ 64 then (5, 0, a)
  else a.cmdRecord (a.record 0x09 (identString a.fwVer a.swId) false)

/-- SET_PARAM (R490). -/
def Alcove.cmdParam (a : Alcove) (i v : Nat) : AlcRes :=
  let ok := (i = 0 ∧ 1 ≤ v ∧ v ≤ 3600) ∨ (i = 1 ∧ 2 ≤ v ∧ v ≤ 8)
  if ¬ ok then (3, 0, a)
  else if a.free ≤ 64 then (5, 0, a)
  else
    let old := if i = 0 then a.progressS else a.truncK
    let b := if i = 0 then { a with progressS := v } else { a with truncK := v }
    a.cmdRecord (b.record 0x08 ([BitVec.ofNat 8 i, 0, 0, 0] ++ bytesLE 4 old ++ bytesLE 4 v) false)

/-- The image in the slot that is not in force, and its SW_ID: the first 32 bits of the SHA-256 of its bytes, each word least significant
byte first (R502, R503; log 26); that of the image formerly in force while it stands there as it was. -/
def Alcove.staged (a : Alcove) : List Word := (List.range 81920).map (Tab.get (Config.alcSlotWord (1 - a.fwSlot)) a.staging)
def Alcove.stagedId (a : Alcove) : Word :=
  let ws := a.staged
  a.stagedSw.getD (w32 (ofBE ((sha256 ((ws.take (Config.imageWords ws)).flatMap fun w => bytesLE 4 w.toNat)).take 4)))

/-- FW_ACTIVATE (R503): the two slots in MRAM change their parts. The image that the check of the staged slot finds, or none. A ring without room for the records it writes
answers NO_SPACE (DESIGN CHOICE, log 141). -/
def Alcove.cmdFw (a : Alcove) (img : Option Nat) : AlcRes :=
  match img with
  | none => (7, 0, a)
  | some v =>
    if v < a.fwVer then (8, 0, a)
    else if a.free ≤ a.exhibits.length then (5, 0, a)
    else
      let id := a.stagedId
      let b := a.exhibits.foldl (fun a s => a.close s ⟨true, false, true, false⟩ true) a
      let body := bytesLE 4 a.swId.toNat ++ bytesLE 2 a.fwVer ++ bytesLE 2 0 ++ bytesLE 4 id.toNat ++ bytesLE 2 v
      let c := b.record 0x07 body false
      (0, if b.free = 0 then 0 else b.nextSeq,
        ({ c with
            fwVer := v, swId := id, fwOt := some a.ot, fwSlot := 1 - c.fwSlot, slots := [], staging := c.inForce,
            inForce := c.staging, stagedSw := some a.swId }).raise 774)

/-- The command of a word pair at a door. -/
def Alcove.dispatch (a : Alcove) (c : AlcCmd) (up : List CopyUpset) (img : Option Nat) : AlcRes :=
  let op := bitsOf c.w0.toNat 0 8
  let s := bitsOf c.w0.toNat 8 8
  let arg := bitsOf c.w0.toNat 16 16
  if c.sealDoor then
    if op ≠ 0x20 ∧ op ≠ 0x21 then (1, 0, a)
    else if !a.opened then (6, 0, a)
    else if op = 0x20 then a.cmdParam arg c.w1.toNat
    else a.cmdFw img
  else
    match op with
    | 0x01 => a.cmdDeclare s c.w1 c.w2 c.w3
    | 0x02 => a.cmdTiming s c.w1 c.w2
    | 0x03 => a.cmdLoad s arg c.w1 c.w2
    | 0x04 => a.cmdArm s arg c.w1 up
    | 0x05 => a.cmdEnd s
    | 0x06 => a.cmdAck c.w1.toNat
    | 0x07 => a.cmdIdentify
    | _ => (1, 0, a)

/-- A command is taken at a door and answered; an Alcove without supply takes none. -/
def Alcove.command (a : Alcove) (c : AlcCmd) (up : List CopyUpset) (img : Option Nat) : Alcove :=
  if !a.on then a
  else
    let r := a.dispatch c up img
    r.2.2.reply (if c.sealDoor then 18 else c.acc) (bitsOf c.w0.toNat 0 8) r.1 r.2.1

/-- The words of ALC_REPLY and SEAL_REPLY. -/
def Alcove.replyWords (a : Alcove) (key : Nat) : List Word :=
  let r := Tab.get (fun _ => Reply.idle) a.replies key
  [BitVec.ofNat 32 (r.opcode + r.status * 256 + b2n r.done * 65536), BitVec.ofNat 32 r.seq, 0, 0]

/-- A word written into the firmware staging (R503): taken only while open. -/
def Alcove.stage (a : Alcove) (k : Nat) (w : Word) : Alcove :=
  if a.on ∧ a.opened then { a with staging := Tab.set (Config.alcSlotWord (1 - a.fwSlot)) a.staging k w, stagedSw := none } else a

/-- What an access has put at the Alcove is taken at once (R485, R503). -/
def Alcove.knock (a : Alcove) : Knock → Alcove
  | .word k w => a.stage k w
  | .cmd c x => (a.at (a.ot + x.gap)).command c x.up x.img

/-! ## The seal (R488, R489) -/

/-- The SEAL record of a change. -/
def Alcove.sealRecord (a : Alcove) : Alcove :=
  (a.record 0x05 ([BitVec.ofNat 8 (b2n a.opened), 0] ++ bytesLE 2 a.sealCount ++ bytesLE 8 a.ot) false).raise (if a.opened then 770 else 771)

/-- The seal-event count is stored in both copies (R489). -/
def Alcove.sealStore (a : Alcove) (n : Nat) : Alcove := { a with sealCount := n, sealA := .of n, sealB := .of n }

/-- The count that the copies hold: that of one whose CRC holds, and never less than it was (R489). -/
def Alcove.sealRead (a : Alcove) : Nat :=
  let ok (c : SealCopy) : Bool := c == .of c.count
  min 65535 (max a.sealCount (if ok a.sealA then a.sealA.count else if ok a.sealB then a.sealB.count else 0))

/-- The seal changes state. -/
def Alcove.sealChange (a : Alcove) (ot : Nat) (opened : Bool) : Alcove :=
  let a := a.at ot
  if !a.on ∨ a.opened = opened then a
  else
    let n := if opened then min 65535 (a.sealCount + 1) else a.sealCount
    ({ a.sealStore n with opened := opened, savedOpen := opened }).sealRecord

/-! ## Operating time, power and supervision (R483, R491 to R494) -/

/-- The periodic save of OT. -/
def Alcove.save (a : Alcove) (ot kind : Nat) : Alcove :=
  let a := a.at ot
  if a.on then { a with savedOt := a.ot, savedKind := kind, savedLb := a.label } else a

/-- The power-fail warning: OT is saved and every exhibit ends truncated, its record left unsigned (R492). -/
def Alcove.warning (a : Alcove) (ot : Nat) : Alcove :=
  if !a.on then a
  else
    let a := a.save ot 1
    a.exhibits.foldl (fun a s => a.close s ⟨true, true, false, false⟩ false) a

/-- The supply is gone; both firmware slots lie in MRAM and stay (R503). -/
def Alcove.powerDown (a : Alcove) : Alcove := { a with on := false, slots := [], replies := [] }

/-- Sign the records the power-fail save left unsigned. -/
def Alcove.signPending (a : Alcove) : Alcove :=
  a.unsigned.foldl (fun a q =>
    let r := Tab.get (fun _ => []) a.ring (q % ringSize)
    let b := (r.take 128).mapIdx fun i x => if i = 22 then x ||| 8 else x
    { a with ring := Tab.set (fun _ => []) a.ring (q % ringSize) (b ++ ecdsaSign b) }) { a with unsigned := [] }

/-- Power-up: pending signatures, the seal found, a POWER record, then a SEAL record of a change (R488, R489, R492). -/
def Alcove.powerUp (a : Alcove) (opened : Bool) : Alcove :=
  if a.on then a
  else
    let a := ({ a with
      on := true, ot := a.savedOt, powerUps := a.powerUps + 1, slots := [], suspect := false, progNow := a.progressS,
      fwOt := none }).signPending
    let changed := a.savedOpen != opened
    let n := if opened ∧ !a.savedOpen then min 65535 (a.sealRead + 1) else a.sealRead
    let a : Alcove := { a.sealStore n with opened := opened, savedOpen := opened }
    let body := bytesLE 8 a.savedOt ++ [BitVec.ofNat 8 a.savedKind] ++ bytesLE 7 0 ++ a.savedLb.bytes ++ [BitVec.ofNat 8 a.savedLb.state]
    let b := a.record 0x04 body true
    let a := if a.free = 0 then b else b.raise 775
    if changed then a.sealRecord else a

/-- The crystal check of each second (R494), the difference in parts per 10^9. -/
def Alcove.clkCheck (a : Alcove) (ot ppb : Nat) : Alcove :=
  let a := a.at ot
  if !a.on then a
  else if 50000 < ppb then (if a.suspect then a else ({ a with suspect := true }).raise 776)
  else { a with suspect := false }

/-- The Alcove watchdog restarts its core: the measurement it keeps goes on (R483, log 53). -/
def Alcove.watchdog (a : Alcove) (ot : Nat) : Alcove := a.at ot

/-! ## The indirect space (R504) -/

/-- State of the core (R504): starting while it has no supply; for at most 200 ms after an activation it may still be restarting
(R503), which a drawn value says. -/
def Alcove.coreState (a : Alcove) (ot draw : Nat) : Nat :=
  if !a.on then 0
  else if (match a.fwOt with
      | some t => decide (ot < t + 5000000)
      | none => false) && draw % 2 == 1 then 3
  else if a.full then 2 else 1

/-- A word of the ALCOVE indirect space, with the operating time at the reading and a drawn value; none where unassigned. -/
def Alcove.word (a : Alcove) (ot draw k : Nat) : Option Word :=
  let w (n : Nat) : Option Word := some (BitVec.ofNat 32 n)
  if k = 0 then w (a.coreState ot draw + b2n a.opened * 4 + b2n a.suspect * 8)
  else if k = 1 then w a.sealCount
  else if k = 2 then w (a.nextSeq + 2 ^ 32 - 1)
  else if k = 3 then w a.oldest
  else if k = 4 then w a.free
  else if k = 5 then w ringSize
  else if k = 6 then w ot
  else if k = 7 then w (ot / 2 ^ 32)
  else if k = 8 then w a.powerUps
  else if k = 9 then some a.swId
  else if k = 10 then w a.fwVer
  else if k = 11 then w a.progressS
  else if k = 12 then w a.truncK
  else if 16 ≤ k ∧ k < 32 then
    w (ofBE (slice alcovePub (4 * (k - 16)) 4))
  else if 64 ≤ k ∧ k < 128 then
    let x := a.slot ((k - 64) / 8)
    match (k - 64) % 8 with
    | 0 => w (x.state + x.window * 4)
    | 1 => w x.ident
    | 2 => w (x.ident / 2 ^ 32)
    | 3 => w x.verified
    | 4 => w x.mismatched
    | 5 => w x.e
    | 6 => w (x.e / 2 ^ 32)
    | _ => w x.refFaults
  else if 4096 ≤ k ∧ k < 4096 + ringSize * 48 then
    let r := Tab.get (fun _ => []) a.ring ((k - 4096) / 48)
    w (ofLE ((r.drop ((k - 4096) % 48 * 4)).take 4))
  else if 1048576 ≤ k ∧ k < 1130496 then w 0
  else none

end Sys2Proof.Machine
end

