-- ==== Sys2Proof/Machine/Hbm.lean ====
section
/-! DEFINITION. The HBM controller: the Reed–Solomon decoder (R367, R368), requests and hazards (R359 to R364), read returns
(R369), refresh (R365, R366), scrub (R370), training (R357, R358, R371), retraining (R372), sparing and retirement (R373, R374),
migration with its journal (R375 to R378). -/

namespace Sys2Proof.Machine

/-! ## The field and the decoder -/

/-- Multiplication by α in GF(2^8) with 0x11D. -/
def gfDouble (a : Nat) : Nat := if 128 ≤ a then (2 * a) ^^^ 0x11D else 2 * a

/-- Multiplication in GF(2^8). -/
def gfMul (a b : Nat) : Nat :=
  ((List.range 8).foldl (fun (r : Nat × Nat) i => ((if bitOf b i = 1 then r.1 ^^^ r.2 else r.1), gfDouble r.2)) (0, a)).1

/-- α to a power. -/
def gfPow : Nat → Nat
  | 0 => 1
  | n + 1 => gfDouble (gfPow n)

/-- The inverse, as the 254th power. -/
def gfInv (a : Nat) : Nat := (List.range 253).foldl (fun r _ => gfMul r a) a

/-- The locator of symbol position `j`: d_j is the coefficient of x^(35 - j). -/
def rsLoc (j : Nat) : Nat := gfPow (35 - j)

/-- The syndromes of an error pattern. -/
def rsSyndromes (e : List Nat) : List Nat :=
  (List.range 4).map fun i => e.zipIdx.foldl (fun s x => s ^^^ gfMul x.1 (gfPow (i * (35 - x.2)))) 0

/-- A single error that explains the syndromes. -/
def rsOne (s : List Nat) : Option (List (Nat × Nat)) :=
  let v := s.getD 0 0
  if v = 0 then none
  else
    ((List.range 36).find? fun j =>
      let x := rsLoc j
      gfMul v x == s.getD 1 0 && gfMul (s.getD 1 0) x == s.getD 2 0 && gfMul (s.getD 2 0) x == s.getD 3 0).map fun j => [(j, v)]

/-- Two errors at given positions that explain the syndromes. -/
def rsPair (s : List Nat) (i j : Nat) : Option (List (Nat × Nat)) :=
  let x := rsLoc i
  let y := rsLoc j
  let b := gfMul (s.getD 1 0 ^^^ gfMul x (s.getD 0 0)) (gfInv (x ^^^ y))
  let a := s.getD 0 0 ^^^ b
  let x2 := gfMul x x
  let y2 := gfMul y y
  if a ≠ 0 ∧ b ≠ 0 ∧ gfMul a x2 ^^^ gfMul b y2 = s.getD 2 0 ∧ gfMul a (gfMul x2 x) ^^^ gfMul b (gfMul y2 y) = s.getD 3 0 then
    some [(i, a), (j, b)]
  else none

/-- The decoder's answer to an error pattern: the symbols it corrects, none when it finds the burst uncorrectable (R368). -/
def rsDecode (mode : Nat) (e : List Nat) : Option (List (Nat × Nat)) :=
  let s := rsSyndromes e
  if s.all (· == 0) then some []
  else
    match rsOne s with
    | some c => some c
    | none =>
      if mode = 1 then
        (List.range 36).findSome? fun i => (List.range i).findSome? fun j => rsPair s j i
      else none

/-- An error pattern as its 36 symbols. -/
def symbols (err : List Byte) : List Nat := (List.range 36).map fun i => (err.getD i 0).toNat

/-- A word with an error pattern on it. -/
def rsAdd (w e : List Nat) : List Nat := List.zipWith (· ^^^ ·) w e

/-- The coefficients of g(x) = (x - α^0)(x - α^1)(x - α^2)(x - α^3) below x^4, highest first. -/
def rsGen : List Nat := [0x0F, 0x36, 0x78, 0x40]

/-- The check bytes c0 to c3 of the data bytes: the remainder of the data polynomial times x^4 modulo g (R367). -/
def rsCheck (data : List Nat) : List Nat :=
  data.foldl (fun r x =>
    let q := x ^^^ r.getD 0 0
    List.zipWith (· ^^^ ·) (r.drop 1 ++ [0]) (rsGen.map (gfMul q))) [0, 0, 0, 0]

/-! ## Spares and the resource state (R167) -/

/-- N and the spares, in ADM_STATE (R191): the target of a migration counts from its start, unless its source is DEAD (R374, R375). -/
def Dev.admState (d : Dev) : Dev :=
  let n := ((List.range 64).filter fun p => let s := d.pcState p; s == 1 || s == 7 ||
    (s == 3 && !(List.range 2).any fun i => match d.migrOf i with | some m => m.started && m.source == p | none => false) ||
    (s == 4 && (List.range 2).any fun i => match d.migrOf i with | some m => m.started && m.target == p && d.pcState m.source != 6 | none => false)).length
  let sp := ((List.range 64).filter fun p => d.pcState p == 2).length
  let mg := (List.range 2).any fun i => match d.migrOf i with | some m => m.started | none => false
  (((d.put F.ADM_STATE.pcs n).put F.ADM_STATE.spares sp).put F.ADM_STATE.migrating (b2n mg)).budgetShow

/-- The free spare of lowest index of a stack. -/
def Dev.freeSpare (d : Dev) (stack : Nat) : Option Nat :=
  (List.range 32).map (fun i => stack * 32 + i) |>.find? fun p => d.pcState p == 2

/-! ## Requests (R359 to R364) -/

/-- The RT requests that a transfer of a class is split into: at most 2,048 bytes each, none across a multiple of 2,048 (R361). A
transfer of another class is one request. -/
def requestParts (cls pa len : Nat) : List (Nat × Nat) :=
  if cls = 0 then
    (List.range ((pa + len + 2047) / 2048 - pa / 2048)).map fun i =>
      let a := max pa ((pa / 2048 + i) * 2048)
      (a, min (pa + len) ((pa / 2048 + i + 1) * 2048) - a)
  else [(pa, len)]

/-- The units of a request with the bytes of each that it reads. -/
def requestUnits (pa len : Nat) : List (Nat × List Nat) :=
  (List.range ((pa + len + 63) / 64 - pa / 64)).map fun i =>
    let a := (pa / 64 + i) * 64
    (a, (List.range 64).filter fun k => pa ≤ a + k && a + k < pa + len)

/-- A read unit of a request (R359, R363, R376). -/
def Dev.readRequest (d : Dev) (cls : Nat) (spec : Option Ahead) (u : Nat × List Nat) : Dev :=
  if d.paEnd ≤ u.1 then d.paRange
  else
    let d := d.classBytes cls spec.isSome 64
    match d.pcOfPa u.1 with
    | some pc => (d.issueSome pc).readEnter pc u.1 u.2 cls spec
    | none => d

/-- A request of a master, request by request and unit by unit; of run-ahead where `spec` says what for (R163). -/
def Dev.hbmRequest (d : Dev) (pa len : Nat) (wr : Option (List (Option Byte))) (cls : Nat) (spec : Option Ahead) : Dev :=
  (requestParts cls pa len).foldl (fun d r =>
    match wr with
    | some bs => d.writePa cls r.1 ((bs.drop (r.1 - pa)).take r.2)
    | none => (requestUnits r.1 r.2).foldl (fun d u => d.readRequest cls spec u) d) d

/-- Request `k` of a PC's queue exceeds the limit of its class: it is promoted, and a write that a promoted read waits for rises with
it (R362, R363). -/
def Dev.agePromote (d : Dev) (pc k : Nat) : Dev :=
  let d := d.issueSome pc
  let mine := d.pcq.zipIdx.filter fun x => x.1.pc == pc && !x.1.issued
  match mine[k]? with
  | none => d
  | some (r, i) =>
    let limit := match r.cls with
      | 1 => d.get F.AGE_CTL.is_us | 2 => d.get F.AGE_CTL.be_us | _ => d.get F.AGE_MT.mt_us
    if r.cls = 0 ∨ r.promo ∨ d.now ≤ r.at' + limit * 1000 then d
    else
      ({ d with pcq := lendClasses (d.pcq.set i { r with promo := true }) }).bump F.PROMOTED.count

/-! ## Read returns (R369) -/

/-- The codeword of a burst as the PC stores it: its data and their check bytes (R367). -/
def Dev.codewordAt (d : Dev) (pa : Nat) : List Nat :=
  let data := (List.range 32).map fun i => (Tab.get (fun _ => 0) d.hbm (pa / 32 * 32 + i)).toNat
  data ++ rsCheck data

/-- The outcome of a burst read with an error pattern on what the PC stores: the symbols corrected, or none; a poisoned burst and a
DEAD PC are uncorrectable (R364, R374). -/
def Dev.burstRead (d : Dev) (pa : Nat) (err : List Byte) : Option (List (Nat × Nat)) :=
  if d.burstBad (pa / 32) then none
  else rsDecode (d.get F.HBM_CTL.ecc_mode) (rsAdd (d.codewordAt pa) (symbols err))

/-- The oldest read of a unit in the queue of its PC, with its place. -/
def Dev.queuedRead (d : Dev) (pc pa : Nat) : Option (HReq × Nat) :=
  d.pcq.zipIdx.find? fun x => x.1.pc == pc && !x.1.write && x.1.pa == pa / 64 * 64

/-- A read that came back leaves its queue; a write that it waited for has been issued before it (R363). -/
def Dev.readLeaves (d : Dev) (pc pa : Nat) : Dev :=
  match d.queuedRead pc pa with
  | some (r, i) =>
    let waits (x : HReq × Nat) : Bool := decide (x.2 < i) && r.behind x.1
    let d := if !r.issued && d.pcq.zipIdx.any waits then d.drainTo pc r.pa waits else d
    ({ d with pcq := (d.queuedRead pc pa).elim d.pcq fun x => d.pcq.eraseIdx x.2 }).refreshIdle pc
  | none => d

/-- A read that has not been issued cannot come back while the stack's traffic is held (R456). -/
def Dev.readCannot (d : Dev) (pc pa : Nat) : Bool := d.pcHeld pc && (d.queuedRead pc pa).any fun x => !x.1.issued

/-- The counts of a burst read with the on-die corrections that the device reports, and whether it is uncorrectable. The read of a
read-modify-write of a burst that is already poisoned was counted with its write. -/
def Dev.readDone (d : Dev) (pa : Nat) (ret : BurstRet) (cls : Nat) (rmw migr : Bool) : Bool × Dev :=
  match d.pcOfPa pa with
  | none => (true, d)
  | some pc =>
    if d.readCannot pc pa then (false, d) else
    let d := (d.readLeaves pc pa).bumpBy (F.PC_ODECC.count pc) ret.ondie
    let l := d.locOf pa
    match d.burstRead pa ret.err with
    | some [] => (false, d)
    | some fix => (false, (d.countCe pc).setEcc pc l cls false false migr fix)
    | none =>
      if rmw && d.bad.contains (pa / 32) then (true, d)
      else
        let d := (d.countUe pc rmw).setEcc pc l cls true false migr []
        (true, if rmw then d.rmwPoison (pa / 32) else d)

/-! ## Refresh (R365, R366) -/

/-- A refresh of a bank falls due: it is done at once when the bank has no request, else it is owed and forced at the limit; one that
is owed is done when the bank's last request is issued. -/
def Dev.refreshDue (d : Dev) (pc bank : Nat) : Dev :=
  let d := d.issueSome pc
  let key := pc * 64 + bank
  let busy := d.pcq.any fun r => r.pc == pc && !r.issued && (d.locOf r.pa).bank == bank
  if !busy then { d with owed := Tab.set (fun _ => 0) d.owed key 0 }
  else
    let n := Tab.get (fun _ => 0) d.owed key + 1
    if d.get F.REFRESH_CTL.postpone_max ≤ n then
      ({ d with owed := Tab.set (fun _ => 0) d.owed key (n - 1) }).bump F.REF_FORCED.count
    else { d with owed := Tab.set (fun _ => 0) d.owed key n }

/-- The draw of R366 has hit: the neighbour rows that exist are refreshed and counted. -/
def Dev.neighbourRefresh (d : Dev) (row : Nat) : Dev :=
  let ofs : List Int := if d.is F.HBM_CTL.nbr_radius then [-2, -1, 1, 2] else [-1, 1]
  d.bumpBy F.NBR_REFRESHES.count ((ofs.filter fun o => 0 ≤ (row : Int) + o ∧ (row : Int) + o < d.pcRows).length)

/-- A stack reports its temperature (R365). -/
def Dev.stackTemp (d : Dev) (s temp : Nat) : Dev :=
  if s = 0 then (d.put F.STACK_TEMP.t0 temp).put F.STACK_TEMP.hot0 (b2n (85 < temp))
  else (d.put F.STACK_TEMP.t1 temp).put F.STACK_TEMP.hot1 (b2n (85 < temp))

/-! ## Retirement and migration (R374, R375) -/

/-- The size of a span, and the spans of a slot (R375). -/
def spanBytes : Nat := 16777216
def Dev.spans (d : Dev) : Nat := d.pcBytes / spanBytes

/-- A journal record (R377). -/
def journalBytes (slot source target state done spans seq order : Nat) : List Byte :=
  let b := bytesLE 2 0x4D47 ++ [BitVec.ofNat 8 slot, BitVec.ofNat 8 source, BitVec.ofNat 8 target, BitVec.ofNat 8 state,
    BitVec.ofNat 8 done, BitVec.ofNat 8 spans] ++ bytesLE 4 seq ++ [BitVec.ofNat 8 order] ++ List.replicate 15 0
  b ++ bytesLE 4 (crc32c b).toNat

/-- Record A or B of a stack, whether it is valid, and its sequence. -/
def Dev.journalAt (d : Dev) (i : Nat) : List Byte := Tab.get (fun _ => []) d.journal i
def journalOk (b : List Byte) : Bool :=
  b.length == 32 && ofLE (b.take 2) == 0x4D47 && ofLE (slice b 28 4) == (crc32c (b.take 28)).toNat
def journalSeq (b : List Byte) : Nat := ofLE (slice b 8 4)

/-- The record that counts. -/
def Dev.journalCounts (d : Dev) (s : Nat) : Option (Nat × List Byte) :=
  let a := d.journalAt (2 * s)
  let b := d.journalAt (2 * s + 1)
  match journalOk a, journalOk b with
  | true, true => if journalSeq a < journalSeq b then some (1, b) else some (0, a)
  | true, false => some (0, a)
  | false, true => some (1, b)
  | false, false => none

/-- Write the next record of a migration, A and B in turn, and the migration after it (R377). -/
def Dev.journalWrite (d : Dev) (s : Nat) (m : Migr) (state : Nat) : Dev :=
  let seq := match d.journalCounts s with | some e => (journalSeq e.2 + 1) % 2 ^ 32 | none => 0
  let b := journalBytes m.slot m.source m.target state (m.ptr / spanBytes) d.spans seq (d.get F.MAP_CTL.order)
  { d with journal := Tab.set (fun _ => []) d.journal (2 * s + m.record) b }.setMigr s (some { m with record := 1 - m.record })

/-- MIGR_STATUS of a stack. -/
def Dev.migrStatus (d : Dev) (s : Nat) : Dev :=
  match d.migrOf s with
  | some m =>
    if m.started then
      let d := ((d.put (F.MIGR_STATUS.active s) 1).put (F.MIGR_STATUS.slot s) m.slot).put (F.MIGR_STATUS.source s) m.source
      ((d.put (F.MIGR_STATUS.target s) m.target).put (F.MIGR_STATUS.span s) (m.ptr / spanBytes)).put (F.MIGR_STATUS.spans s) d.spans
    else d
  | none => d.put (F.MIGR_STATUS.active s) 0

/-- A migration is set up: it starts at its instant. -/
def Dev.migrPlan (d : Dev) (source target : Nat) (from' : When) (poison : Bool) : Dev :=
  d.setMigr (source / 32) (some
    { slot := d.get (F.PC_STATE.slot source), source := source, target := target, ptr := 0, started := false, from' := from',
      poison := poison, record := 0, kept := [] })

/-- The migration of a stack starts (R375): a DEAD source stays DEAD. -/
def Dev.migrStart (d : Dev) (s : Nat) : Dev :=
  match d.migrOf s with
  | some m =>
    if m.started ∨ !d.isDue m.from' then d
    else
      let d := d.setMigr s (some { m with started := true })
      let d := if d.pcState m.source = 6 then d else d.put (F.PC_STATE.state m.source) 3
      let d := (d.put (F.PC_STATE.state m.target) 4).raise 580
      let d := match d.stw.ops.find? fun o => o.kind == 3 && o.target == m.source && o.state == 1 with
        | some o => d.opBegin o
        | none => d
      (d.migrStatus s).admState.loss
  | none => d

/-- The bursts of a chunk by physical address. -/
def Dev.chunkBursts (d : Dev) (m : Migr) : List Nat :=
  (List.range 64).map fun i => paOf (d.get F.MAP_CTL.order) d.slots m.slot (m.ptr + i * 32) / 32

/-- The end of a migration: the target holds the slot (R375). -/
def Dev.migrEnd (d : Dev) (s : Nat) (m : Migr) : Dev :=
  let deg := d.get (F.PC_STATE.degraded m.target)
  let d := ((d.put (F.PC_STATE.state m.target) 1).put (F.PC_STATE.slot m.target) m.slot).put (F.PC_STATE.degraded m.target) deg
  let d := d.put (F.PC_STATE.state m.source) 5
  let left (l : List Nat) : List Nat := l.filter (· != m.source)
  let d := { d with meets := left d.meets, ueSeen := left d.ueSeen, policyMet := left d.policyMet }
  let d := (d.setMigr s none).migrStatus s
  ((d.opEnd 3 m.source 1).raise 581).admState.loss

/-- A burst that a chunk reads from its source is uncorrectable: it is counted on the source (R369) and written poisoned. -/
def Dev.chunkUe (d : Dev) (m : Migr) (b : Nat) : Dev :=
  ((d.countUe m.source false).setEcc m.source (d.locOf (b * 32)) 3 true false true []).poison b

/-- The reads of a chunk meet the queue of the source (R363): the lines that its queued writes forward. -/
def Dev.chunkRead (d : Dev) (bs : List Nat) : List Nat × Dev :=
  ((bs.map (· / 2 * 64)).eraseDups).foldl (fun r u =>
    let x := r.2.readThrough u (List.range 64)
    (if x.1 then u :: r.1 else r.1, x.2)) ([], d)

/-- A chunk is copied (R375): `ue` names its bursts whose read is uncorrectable, beside those poisoned before; a line that a queued
write forwards is not read. A source without content gives poison (R374, R378). -/
def Dev.migrChunk (d : Dev) (s : Nat) (ue : List Nat) : Dev :=
  match d.migrOf s with
  | none => d
  | some m =>
    if !m.started || d.pcHeld m.source then d
    else
      let bs := d.chunkBursts m
      let r := if m.poison then ([], d) else d.chunkRead bs
      let d := r.2
      let bad := (bs.zipIdx.filter fun x =>
        m.poison || ((ue.contains x.2 || d.bad.contains x.1) && !r.1.contains (x.1 / 2 * 64))).map (·.1)
      let d := d.classBytes 3 false 4096
      let d := bad.foldl (fun (d : Dev) b => d.sourceKeeps b fun m => m.ptr + 2048) d
      let m := (d.migrOf s).getD m
      let d := bad.foldl (fun d b => if m.poison then d.poison b else d.chunkUe m b) d
      let d := d.bumpBy F.MIGR_UE.count (if bad.isEmpty then 0 else 1)
      let m := { m with ptr := m.ptr + 2048 }
      let d := d.setMigr s (some m)
      if d.pcBytes ≤ m.ptr then (d.journalWrite s m 2).migrEnd s m
      else if m.ptr % spanBytes = 0 then (d.journalWrite s m 1).migrStatus s
      else d

/-- A migration ends without moving its slot (R375): the chunks copied return to the source, and the source stays in service,
degraded; one that has lost its content, by its link or a failed training, cannot serve the slot and is DEAD (DESIGN CHOICE, log
107). -/
def Dev.migrAbort (d : Dev) (s : Nat) (m : Migr) : Dev :=
  let d := if m.started then (d.journalWrite s m 3).classBytes 3 false (2 * m.ptr) else d
  let d :=
    if !m.started || d.pcState m.source = 6 then d
    else if m.poison then (d.put (F.PC_STATE.state m.source) 6).raise 585
    else (d.put (F.PC_STATE.state m.source) 1).put (F.PC_STATE.degraded m.source) 1
  let d := (d.setMigr s none).migrStatus s
  ((d.opEnd 3 m.source 3).raise 590).admState.loss

/-- The target of a migration is lost, or that of one which is still to start (R375): another free spare restarts the copy from the source,
which holds what it held, else the migration ends. -/
def Dev.migrRetarget (d : Dev) (s : Nat) : Dev :=
  match d.migrOf s with
  | none => d
  | some m =>
    let d := d.put (F.PC_STATE.state m.target) 0
    match d.freeSpare s with
    | some t =>
      let d := d.sourceBack m
      let m := { m with target := t, ptr := 0, kept := [] }
      let d := if m.started then d.put (F.PC_STATE.state t) 4 else d
      (d.setMigr s (some m)).migrStatus s |>.admState
    | none => d.migrAbort s m

/-- The target of a migration fails (R375). -/
def Dev.migrTargetFail (d : Dev) (s : Nat) : Dev := if (d.migrOf s).isSome then (d.raise 576).migrRetarget s else d

/-- A spare that fails (R370, R374): one that a migration still to start was to take is its target's failure. -/
def Dev.spareFails (d : Dev) (pc : Nat) : Dev :=
  match d.migrOf (pc / 32) with
  | some m =>
    if m.target = pc then d.migrTargetFail (pc / 32) else ((d.put (F.PC_STATE.state pc) 0).raise 576).admState
  | none => ((d.put (F.PC_STATE.state pc) 0).raise 576).admState

/-- Where the scrubber stands in a PC: in its slot, which a target takes over from its source, or in a spare (R370, R375). -/
def Dev.scrubKey (d : Dev) (pc : Nat) : Nat :=
  if d.pcState pc = 2 then 64 + pc
  else
    match (d.migrOf (pc / 32)).filter fun m => m.target == pc with
    | some m => m.slot
    | none => d.get (F.PC_STATE.slot pc)
def Dev.scrubAt (d : Dev) (pc : Nat) : Nat := Tab.get (fun _ => 0) d.scrub (d.scrubKey pc)
def Dev.scrubTo (d : Dev) (pc i : Nat) : Dev := { d with scrub := Tab.set (fun _ => 0) d.scrub (d.scrubKey pc) i }

/-- The pass is complete when every PC in service has come to its end (R370). -/
def Dev.scrubPass (d : Dev) : Dev :=
  let on := (List.range 64).filter d.inService
  if !on.isEmpty && on.all fun p => decide (d.pcBytes / 32 ≤ d.scrubAt p) then
    (({ d with scrub := d.scrub.filter fun e => 64 ≤ e.1 }).bump F.SCRUB_PASSES.count).raise 589
  else d

/-- A PC becomes DEAD: the loss is an exit with cause code 1 (R45, R47, R374) and is followed by a re-admission. -/
def Dev.pcDead (d : Dev) (pc : Nat) : Dev :=
  let d := ((d.put (F.PC_STATE.state pc) 6).raise 585).sticky F.CONTRACT_STATUS.hw_loss 68
  d.scrubPass.admState.loss

/-- A PC loses its link (R374). -/
def Dev.pcLinkLoss (d : Dev) (pc : Nat) : Dev :=
  match d.pcState pc with
  | 2 => d.spareFails pc
  | 4 => d.migrTargetFail (pc / 32)
  | 0 => d
  | 5 => d
  | 6 => d
  | 3 =>
    match d.migrOf (pc / 32) with
    | some m => (d.setMigr (pc / 32) (some { m with poison := true })).pcDead pc
    | none => d.pcDead pc
  | _ =>
    let d := d.pcDead pc
    match d.migrOf (pc / 32), d.freeSpare (pc / 32) with
    | none, some t => d.migrPlan pc t { canvas := none, at' := d.now } true
    | some m, _ => if m.source = pc then d.setMigr (pc / 32) (some { m with poison := true }) else d
    | _, _ => d

/-- The answer to a retirement (R374). The code of one that finds no spare is not given: a free value. Log 44. -/
def Dev.retireAnswer (d : Dev) (o : Op) : Dev :=
  let pc := o.target
  if (d.migrOf (pc / 32)).isSome ∨ !d.opRoom o then d.opDrop o 0x2C 0
  else if d.pcState pc ≠ 1 ∧ d.pcState pc ≠ 7 then d.opDrop o 0x20 1
  else
    match d.freeSpare (pc / 32) with
    | none =>
      let code := d.free % 256
      ((d.drawn.put (F.PC_STATE.degraded pc) 1).opDrop o code 0).raise 586
    | some t =>
      let code := d.opAdmits o fun r => { r with migrating := true }
      if code ≠ 0 then d.opDrop o code 0
      else
        let start := d.anyStartAt
        (d.opAdmit o start.1 start.2).migrPlan pc t start.1 false

/-! ## Scrub (R370) -/

/-- A decoded burst whose corrections are written back: a correction that is not the error changes the data. -/
def Dev.writeBack (d : Dev) (pa : Nat) (err : List Byte) (fix : List (Nat × Nat)) : Dev :=
  let d := d.sourceKeeps (pa / 32) (·.ptr)
  (List.range 32).foldl (fun d i =>
    let e := (err.getD i 0) ^^^ BitVec.ofNat 8 (((fix.find? fun f => f.1 == i).map (·.2)).getD 0)
    if e = 0 then d
    else
      let a := pa / 32 * 32 + i
      { d with hbm := Tab.set (fun _ => 0) d.hbm a (Tab.get (fun _ => 0) d.hbm a ^^^ e) }) d

/-- Whether a write to a burst is queued. -/
def Dev.burstQueued (d : Dev) (pc pa : Nat) : Bool :=
  d.pcq.any fun r => r.pc == pc && r.write && r.pa == pa / 64 * 64 && r.ens.any fun k => k / 32 == pa % 64 / 32

/-- The scrubber writes a pattern to the next burst of a spare and reads it back (R370). -/
def Dev.scrubSpare (d : Dev) (pc : Nat) (err : List Byte) : Dev :=
  let i := d.scrubAt pc
  let l := locIn (d.get F.MAP_CTL.order) 0 (i * 32)
  let d := (d.scrubTo pc ((i + 1) % (d.pcBytes / 32))).classBytes 3 false 64
  match rsDecode (d.get F.HBM_CTL.ecc_mode) (symbols err) with
  | some [] => d
  | some fix => (d.countCe pc).setEcc pc l 3 false true false fix
  | none => ((d.countUe pc false).setEcc pc l 3 true true false []).spareFails pc

/-- The bytes of its unit that a burst holds. -/
def burstEns (pa : Nat) : List Nat := (List.range 32).map fun k => pa % 64 / 32 * 32 + k

/-- A read of a burst in class MT meets its PC queue (R363). The command that brings its return does not say when it entered: where a
write to the burst is queued, a free value says whether that entered after the read (log 105). True when the line was forwarded. -/
def Dev.burstMeets (d : Dev) (pc pa : Nat) : Bool × Dev :=
  if !d.burstQueued pc pa then (false, d)
  else if d.free % 2 = 1 then (false, d.drawn)
  else d.drawn.readThrough (pa / 64 * 64) (burstEns pa)

/-- The corrected burst enters the queue of its PC, unless a write to the same burst is queued (R370). -/
def Dev.scrubWrite (d : Dev) (pc pa : Nat) (err : List Byte) (fix : List (Nat × Nat)) : Dev :=
  if d.burstQueued pc pa then d
  else ((d.classBytes 3 false 32).writeEnter pc (pa / 64 * 64) 3 (burstEns pa)).writeBack pa err fix

/-- The scrubber reads the next burst of a PC in service and writes a correction back (R370). A target holds nothing of its slot at and
above the copy pointer (R375): what it reads there is what its cells held, and a correction is no byte of the slot. -/
def Dev.scrubBurst (d : Dev) (pc : Nat) (err : List Byte) : Dev :=
  let i := d.scrubAt pc
  if d.pcBytes / 32 ≤ i then d
  else
    let pa := paOf (d.get F.MAP_CTL.order) d.slots (d.scrubKey pc) (i * 32)
    let l := d.locOf pa
    let d := (d.scrubTo pc (i + 1)).classBytes 3 false 32
    let bare := d.pcState pc == 4 && (d.migrOf (pc / 32)).any fun m => decide (m.ptr ≤ i * 32)
    let d :=
      if bare then
        match rsDecode (d.get F.HBM_CTL.ecc_mode) (symbols err) with
        | some [] => d
        | some fix => (d.countCe pc).setEcc pc l 3 false true false fix
        | none => (d.countUe pc false).setEcc pc l 3 true true false []
      else
        let r := d.burstMeets pc pa
        let d := r.2
        if r.1 then d else match d.burstRead pa err with
          | some [] => d
          | some fix => ((d.countCe pc).setEcc pc l 3 false true false fix).scrubWrite pc pa err fix
          | none => (d.countUe pc false).setEcc pc l 3 true true false []
    d.scrubPass

/-- A scrub step of a PC, none while its stack's traffic is held (R370, R456). -/
def Dev.scrubStep (d : Dev) (pc : Nat) (ret : BurstRet) : Dev :=
  if d.pcHeld pc then d else
  let d := d.bumpBy (F.PC_ODECC.count pc) ret.ondie
  if d.pcState pc = 2 then d.scrubSpare pc ret.err
  else if d.inService pc then d.scrubBurst pc ret.err
  else d

/-! ## Retraining (R371, R372) -/

/-- The page of the training results (R381). -/
def trainPage : Nat := 0x502

/-- The widest run of consecutive passing delay steps of a voltage step, as its first step and its length; the first of equals. -/
def widestRun (row : BitVec 64) : Nat × Nat :=
  ((List.range 64).foldl (fun (r : (Nat × Nat) × (Nat × Nat)) i =>
    let cur := if row.getLsbD i then (if r.2.2 = 0 then (i, 1) else (r.2.1, r.2.2 + 1)) else (0, 0)
    (if r.1.2 < cur.2 then cur else r.1, cur)) ((0, 0), (0, 0))).1

/-- The voltage step that a sweep chooses, the lowest of those whose run is widest, with its run (R371). -/
def chosenStep (sweep : Sweep) : Nat × Nat × Nat :=
  ((List.range 32).foldl (fun (b : Nat × Nat × Nat) v =>
    let r := widestRun (sweep.getD v 0)
    if b.2.2 < r.2 then (v, r.1, r.2) else b) (0, (widestRun (sweep.getD 0 0)).1, (widestRun (sweep.getD 0 0)).2))

/-- The result word of a lane's sweep (R371, R381). A sweep without a passing step has no run whose ends and centre could be given:
those fields are a free value (log 108). -/
def laneResult (minSteps free : Nat) (sweep : Sweep) : Word :=
  let c := chosenStep sweep
  if c.2.2 = 0 then w32 (free % 2 ^ 18)
  else
    let right := c.2.1 + c.2.2 - 1
    w32 (c.2.1 + right * 2 ^ 6 + (c.2.1 + right) / 2 * 2 ^ 12 + c.1 * 2 ^ 18 + b2n (minSteps ≤ c.2.2) * 2 ^ 23)

/-- A lane passes. -/
def lanePasses (minSteps : Nat) (sweep : Sweep) : Bool := minSteps ≤ (chosenStep sweep).2.2 && (chosenStep sweep).2.2 != 0

/-- A PC passes when its five lanes pass in both directions (R371). -/
def pcPasses (minSteps : Nat) (sweeps : List Sweep) : Bool :=
  (List.range 10).all fun i => lanePasses minSteps (sweeps.getD i [])

/-- Where the result of sweep `i` of a PC stands, the five lanes of the read direction before those of the write direction
(R381). -/
def resultAddr (pc i : Nat) : Nat := pc * 16 + (i / 5) * 8 + i % 5

/-- The ten results of a PC are stored. -/
def Dev.trainResults (d : Dev) (pc : Nat) (sweeps : List Sweep) : Dev :=
  (List.range 10).foldl (fun d i =>
    d.drawn.setInd trainPage (resultAddr pc i) (laneResult (d.get F.TRAIN_MIN.steps) d.free (sweeps.getD i []))) d

/-- A slice of a retraining: the PC serves nothing while it lasts and is in state RETRAINING. -/
def Dev.retrainSlice (d : Dev) (pc : Nat) : Dev :=
  if d.stw.ops.any (fun o => o.kind == 2 && o.target == pc && o.state == 2) && d.pcState pc == 1 then
    d.put (F.PC_STATE.state pc) 7
  else d

/-- A burst of the verification of a failed retraining, read with the old settings: `v` is its number within the PC and the error
pattern (R372). -/
def Dev.verifyRead (d : Dev) (pc : Nat) (v : Nat × List Byte) : Bool × Dev :=
  let pa := paOf (d.get F.MAP_CTL.order) d.slots (d.get (F.PC_STATE.slot pc)) (v.1 * 32)
  let r := d.burstMeets pc pa
  let d := r.2
  if r.1 then (false, d)
  else
    match d.burstRead pa v.2 with
    | some [] => (false, d)
    | some fix => (false, (d.countCe pc).setEcc pc (d.locOf pa) 3 false false false fix)
    | none => (true, (d.countUe pc false).setEcc pc (d.locOf pa) 3 true false false [])

/-- The verification: a granule of 2 KiB in each of the 48 banks in class MT, its bursts clean but for those named. -/
def Dev.verifyReads (d : Dev) (pc : Nat) (vs : List (Nat × List Byte)) : Bool × Dev :=
  vs.foldl (fun (r : Bool × Dev) v => let x := r.2.verifyRead pc v; (r.1 || x.1, x.2)) (false, d.classBytes 3 false (48 * 2048))

/-- The sweep of a retraining ends (R372). -/
def Dev.retrainDone (d : Dev) (pc : Nat) (sweeps : List Sweep) (verify : List (Nat × List Byte)) : Dev :=
  if !d.stw.ops.any (fun o => o.kind == 2 && o.target == pc && o.state == 2) then d
  else
    let d := if d.pcState pc = 7 then d.put (F.PC_STATE.state pc) 1 else d
    if pcPasses (d.get F.TRAIN_MIN.steps) sweeps then ((d.trainResults pc sweeps).raise 583).opEnd 2 pc 1
    else
      let d := (List.range 10).foldl (fun d i =>
        d.setInd trainPage (resultAddr pc i) (d.ind trainPage (resultAddr pc i) ||| 0x1000000)) d
      let r := d.verifyReads pc verify
      if !r.1 then ((r.2.put (F.PC_STATE.degraded pc) 1).raise 584).opEnd 2 pc 3
      else
        let d := (r.2.meetsPolicy pc).opEnd 2 pc 3
        if (d.freeSpare (pc / 32)).isNone then d.pcDead pc else d

/-! ## The sparing policy (R373) -/

/-- Whether a PC in service meets the policy now. -/
def Dev.policyMeets (d : Dev) (pc : Nat) : Bool :=
  d.inService pc &&
    (d.meets.contains pc || (d.is F.SPARE_POLICY.ue_retire && d.ueSeen.contains pc) ||
      d.get F.SPARE_POLICY.ce_limit < (d.ceRecent pc).length)

/-- Whether the policy asks for the retirement of a PC that meets it: none is asked for already. The answer that no spare is left
counts as a refusal, so the request is made again at the next tick (R373, R374; DEDUCED, log 109). -/
def Dev.policyAsks (d : Dev) (pc : Nat) : Bool := !d.stw.ops.any fun o => o.kind == 3 && o.target == pc

/-- The run of a tick: a PC in service that comes to meet the policy raises HBM_RETIRE_REQUEST; in act mode the policy asks for
the retirement of each that meets it until it is admitted, and may ask for the retraining of the PC named in PC_CMD.pc: the
manual does not say when (a free value, log 106). The mode is the one taken over at the last tick boundary (R539, log 130). -/
def Dev.sparePolicy (d : Dev) (overrun : Bool) : Dev :=
  let d := d.retrainNext
  if overrun then (d.bump F.POLICY_OVERRUNS.count).raise 838
  else if d.stw.spareMode = 0 then d
  else
    let on := (List.range 64).filter d.policyMeets
    let old := d.policyMet
    let d : Dev := { d with policyMet := on }
    let d : Dev := (on.filter fun p => !old.contains p).foldl (fun d _ => d.raise 579) d
    if d.stw.spareMode = 2 then
      let retrain : Bool := d.free % 2 == 1
      let d := (on.filter d.policyAsks).foldl (fun d p => d.opRequest 3 p 8 0) d.drawn
      if retrain then d.opRequest 2 (d.get F.PC_CMD.pc) 8 0 else d
    else d

/-! ## Start-up training (R357, R358, R378) -/

/-- The PCs of a stack that trained, in ascending order, without the source and target of a migration to resume. -/
def workingPcs (failed skip : List Nat) (stack : Nat) : List Nat :=
  ((List.range 32).map fun i => stack * 32 + i).filter fun p => !failed.contains p && !skip.contains p

/-- The migration that a stack's journal shows running. -/
def Dev.journalRuns (d : Dev) (s : Nat) : Option (List Nat) :=
  match d.journalCounts s with
  | some (_, b) => if ofLE (slice b 5 1) = 1 then some ((List.range 5).map fun i => ofLE (slice b (2 + i) 1)) else none
  | none => none

/-- The slot map: spares first, then slots. The source of a migration to resume is a working PC that holds a slot and no spare, and
takes the one of its place in the order of R357, which is not that of the journal where fewer slots are left (DEDUCED, log 177). -/
def Dev.slotMap (d : Dev) (failed : List Nat) : Dev :=
  let jr := (List.range 2).filterMap fun s => d.journalRuns s
  let skip := jr.flatMap fun j => [j.getD 1 0, j.getD 2 0]
  let sources := jr.map fun j => j.getD 1 0
  let n := d.get F.MAP_CTL.spares_next
  let d := (List.range 64).foldl (fun d p => d.setStored (A.PC_STATE p) 0) d
  let ws (s : Nat) := workingPcs failed skip s
  let spares := (List.range 2).flatMap fun s => (ws s).drop ((ws s).length - n)
  let act := (List.range 2).flatMap fun s => (ws s).take ((ws s).length - n)
  let held := (List.range 64).filter fun p => act.contains p || sources.contains p
  let d := spares.foldl (fun d p => d.put (F.PC_STATE.state p) 2) d
  let d := held.zipIdx.foldl (fun d x => (d.put (F.PC_STATE.state x.1) 1).put (F.PC_STATE.slot x.1) x.2) d
  let d := jr.foldl (fun d j =>
    (d.put (F.PC_STATE.state (j.getD 1 0)) 3).put (F.PC_STATE.state (j.getD 2 0)) 4) d
  let s := held.length
  let d := (d.put F.MAP_CTL.spares n).put F.MAP_CTL.order (d.get F.MAP_CTL.order_next)
  (d.put F.CAPACITY.slots s).put F.CAPACITY.mib (s * d.pcBytes / 1048576)

/-- A migration resumes at the first byte of its span (R378); a failed source gives poison, a failed target, whose training
has raised its event, is handled as during a migration. -/
def Dev.migrResume (d : Dev) (s : Nat) (failed : List Nat) (kept : List Kept) : Dev :=
  match d.journalRuns s with
  | none => d
  | some j =>
    let m : Migr :=
      { slot := d.get (F.PC_STATE.slot (j.getD 1 0)), source := j.getD 1 0, target := j.getD 2 0, ptr := j.getD 4 0 * spanBytes, started := true,
        from' := { canvas := none, at' := d.now },
        poison := failed.contains (j.getD 1 0), record := match d.journalCounts s with | some (0, _) => 1 | _ => 0,
        kept := kept }
    let d := ((d.setMigr s (some m)).migrStatus s).raise 582
    if failed.contains m.target then d.migrRetarget s else d

/-- The sweep of a lane that passes at every step. -/
def cleanSweep : Sweep := List.replicate 32 (BitVec.allOnes 64)

/-- The sweeps of PCs that pass at no step. -/
def deadSweeps (dead : List (Fin 64)) : List (Nat × List Sweep) := dead.map fun p => (p.val, [])

/-- The sweeps of a PC at start-up training: those given for it, else clean ones. -/
def sweepsOf (sweeps : List (Nat × List Sweep)) (pc : Nat) : List Sweep :=
  ((sweeps.find? fun x => x.1 == pc).map (·.2)).getD (List.replicate 10 cleanSweep)

/-- The map under which HBM holds its content. -/
def Dev.placement (d : Dev) : Placement :=
  { order := d.get F.MAP_CTL.order, slots := d.slots,
    pcs := ((List.range 64).filter d.holdsSlot).map fun p => (d.get (F.PC_STATE.slot p), p)
    kept := (List.range 2).foldl (fun t s => Tab.set (fun _ => []) t s (((d.migrOf s).map (·.kept)).getD [])) [] }

/-- Where a byte is found after start-up training: the same place of the same PC under the new map; none where that PC holds no slot
any more (R360). -/
def Dev.movedPa (d : Dev) (m : Placement) (a : Nat) : Option Nat :=
  let l := mapPa m.order m.slots a
  ((m.pcs.find? fun e => e.1 == l.slot).filter fun e => d.holdsSlot e.2).map fun e =>
    paOf (d.get F.MAP_CTL.order) d.slots (d.get (F.PC_STATE.slot e.2)) l.ofs

/-- The content that the stacks kept, with its poisoned bursts, moves to the addresses of the new map. -/
def Dev.remap (d : Dev) : Dev :=
  match d.pwr.placed with
  | none => d
  | some m =>
    { d with
      pwr.placed := none
      bad := d.bad.filterMap fun b => (d.movedPa m (b * 32)).map (· / 32)
      hbm := d.hbm.foldl (fun t e =>
        match d.movedPa m e.1 with
        | some a => Tab.set (fun _ => 0) t a e.2
        | none => t) [] }

/-- Start-up training ends (R357, R358, R371, R378): `sweeps` are those of the PCs that do not pass at every step, and `kept` says
that HBM kept its content. -/
def Dev.trained (d : Dev) (sweeps : List (Nat × List Sweep)) (kept : Bool) : Dev :=
  let failed := (List.range 64).filter fun p => !pcPasses (d.get F.TRAIN_MIN.steps) (sweepsOf sweeps p)
  let keeps (s : Nat) : List Kept := if kept then (d.pwr.placed.map fun m => Tab.get (fun _ => []) m.kept s).getD [] else []
  let old := (keeps 0, keeps 1)
  let d := d.slotMap failed
  let d := (List.range 64).foldl (fun d p => d.trainResults p (sweepsOf sweeps p)) d
  let d := failed.foldl (fun d _ => d.raise 576) d
  let d := if kept then d.remap else { d with hbm := [], bad := [], pwr.placed := none }
  let d := { d with pcq := [], scrub := [], owed := [], ceTimes := [], meets := [], ueSeen := [], policyMet := [] }
  ((d.migrResume 0 failed old.1).migrResume 1 failed old.2).admState

/-- The words of JOURNAL (R379). -/
def Dev.journalWords (d : Dev) (s : Nat) : List Word :=
  match d.journalCounts s with
  | some (_, b) => (List.range 4).map fun i => w32 (ofLE (slice b (4 * i) 4))
  | none => [0, 0, 0, 0]

/-- The words of CLASS_BYTES (R379). -/
def Dev.classWords (_d : Dev) (t : Tab Nat) (k : Nat) : List Word :=
  let v := Tab.get (fun _ => 0) t k
  [w32 v, w32 (v / 2 ^ 32), 0, 0]

end Sys2Proof.Machine
end

