-- ==== Sys2Proof/Machine/Clock.lean ====
section
/-! DEFINITION. Clocks, synthesizers and time (R448 to R477). -/

namespace Sys2Proof.Machine

/-! ## Synthesizer arithmetic (R452, R453), frequencies in units of 500 Hz -/

/-- The reference times D, for D given as 0 half, 1 one, 2 double. -/
def pfdOf (dd : Nat) : Nat := 156250 * 2 ^ dd

/-- The set of a target frequency at a D. -/
def setAt (target dd : Nat) : PllSet :=
  let p := pfdOf dd
  let f := (2 * (target % p) * 2 ^ 24 + p) / (2 * p)
  if f = 2 ^ 24 then { d := dd, n := target / p + 1, f := 0 } else { d := dd, n := target / p, f := f }

/-- The distance of the fractional spur, in units of 500 Hz times 2^24. -/
def spurOf (s : PllSet) : Nat :=
  let p := pfdOf s.d
  if s.f = 0 then p * 2 ^ 23 else p * min s.f (2 ^ 24 - s.f)

/-- The D of largest spur distance: ties to 1, then 2, then a half; N is at least 16. -/
def setBest (target : Nat) : PllSet :=
  ([1, 2, 0].map (setAt target)).foldl (fun a s => if 16 ≤ s.n ∧ spurOf a < spurOf s then s else a) (setAt target 1)

/-- Whether the spur lies below 2 MHz. -/
def spurWarn (s : PllSet) : Bool := decide (spurOf s < 4000 * 2 ^ 24)

/-- The target of a fixed PLL. -/
def pllTarget (i : Nat) : Nat :=
  if i < 2 then 12001200 else if i < 4 then 12800000 else if i < 6 then 53125000 else 8000000

/-- Multiply a set by a ratio. -/
def PllSet.scale (s : PllSet) (num den : Nat) : PllSet :=
  let x := (2 * (s.n * 2 ^ 24 + s.f) * num + den) / (2 * den)
  { s with n := x / 2 ^ 24, f := x % 2 ^ 24 }

/-- A new set is loaded whole into next and then applies in one PFD cycle (R454). -/
def Pll.load (p : Pll) (s : PllSet) : Pll := { p with next := s }
def Pll.apply (p : Pll) : Pll := { p with set := p.next }

/-- The set of a fixed PLL or of a synthesizer; a synthesizer's is that of CV 0. -/
def fixedSet (i : Nat) : PllSet := if 8 ≤ i then setBest (pllTarget i) else setAt (pllTarget i) 1

/-! ## Lock status -/

/-- The lock bits that registers show of a PLL (R473, R475, R476). -/
def Dev.pllShow (d : Dev) (i : Nat) : Dev :=
  let p := d.pll i
  let b := b2n p.lock
  if i = 0 then d.put F.PLL_STATUS.core_lock b
  else if i = 1 then d.put F.PLL_STATUS.hold_lock b
  else if i < 4 then d.put F.PLL_STATUS.hbm_lock (setFlag (d.get F.PLL_STATUS.hbm_lock) (i - 2) p.lock)
  else if i < 6 then d.put F.PLL_STATUS.hp_lock (setFlag (d.get F.PLL_STATUS.hp_lock) (i - 4) p.lock)
  else if i < 8 then d
  else if i < 16 then (d.put (F.TSYN_STATUS.lock (i - 8)) b).put (F.TSYN_STATUS.spur_warn (i - 8)) (b2n p.spur)
  else
    let q := (i - 16) / 2
    if i % 2 = 0 then
      ((d.put (F.QPLL_STATUS.lock0 q) b).put (F.QPLL_STATUS.spur_warn0 q) (b2n p.spur)).put (F.QPLL_STATUS.d0 q) p.set.d
    else ((d.put (F.QPLL_STATUS.lock1 q) b).put (F.QPLL_STATUS.spur_warn1 q) (b2n p.spur)).put (F.QPLL_STATUS.d1 q) p.set.d
where
  /-- Set or clear a bit of a number. -/
  setFlag (n k : Nat) (v : Bool) : Nat := if v then n ||| 2 ^ k else n &&& (3 - 2 ^ k)

/-- Replace a PLL and show it. -/
def Dev.withPll (d : Dev) (i : Nat) (p : Pll) : Dev := (d.setPll i p).pllShow i

/-- The part of each 1 µs for which LOCK_A is low, in percent (R470). -/
def Dev.lockA (d : Dev) : Nat :=
  let i := d.get F.CLK_CTL.lock_sel
  if !(d.pll i).lock then 100
  else if 8 ≤ i ∧ i < 16 ∧ d.is (F.TICK_STATUS.coasting (i - 8)) then 50
  else 10

/-- LOCK_A follows a change. -/
def Dev.lockShow (d : Dev) : Dev :=
  if d.lockA = d.clk.lockU then d else { d with clk.lockU := d.lockA }.emit (.lockA d.now d.lockA)

/-- The guard swallows edges (R458). -/
def Dev.guard (d : Dev) (edges : Nat) : Dev :=
  if edges = 0 then d
  else
    let d := d.bumpBy F.GUARD_SWALLOWED.count edges
    if d.clk.guardMs = some (d.now / 1000000) then d
    else ({ d with clk.guardMs := some (d.now / 1000000) }).raise 31

/-- The coasting flags of the canvases (R464, R469), which LOCK_A may show (R470). -/
def Dev.coastShow (d : Dev) : Dev :=
  ((List.range 8).foldl (fun d c =>
    d.put (F.TICK_STATUS.coasting c) (b2n (d.get F.TIME_STATUS.state == 3 || d.is (F.TSYN_STATUS.relock c)))) d).lockShow

/-! ## The difference of a synthesizer (R467, R469) -/

/-- Δ_c in whole nanoseconds. -/
def Tsyn.ns (s : Tsyn) : Int := if s.delta < 0 then -((-s.delta) / 1000000000) else s.delta / 1000000000

/-- A signed value that saturates in 32 bits. -/
def sat32s (x : Int) : Nat := toField (max (-(2 ^ 31)) (min (2 ^ 31 - 1) x)) 32

/-- The registers of a synthesizer. -/
def Dev.tsynShow (d : Dev) (c : Nat) : Dev :=
  let s := d.tsyn c
  let d := d.put (F.TSYN_DELTA.delta c) (sat32s s.ns)
  let d := d.put (F.TICK_STATUS.slewing c) (b2n (s.delta != 0))
  let d := if s.delta = 0 then d.put (F.TSYN_STATUS.stepping c) 0 else d
  d.put (F.TSYN_CV.cv c) (sat32s s.cv)

/-- Bring Δ_c up to date (R467). While the PLL relocks CV_c is frozen (R469). -/
def Dev.tsynUpdate (d : Dev) (c : Nat) : Dev :=
  let s := d.tsyn c
  let cv := if d.is (F.TSYN_STATUS.relock c) then s.cv
    else Config.tsynCv (s.delta / 1000000000) (d.get (F.TSYN_CTL.slew_ns_s c)) (signedOf (d.get F.TIME_FCV.fcv) 32)
  (d.setTsyn c { s with delta := d.deltaAt c d.now, last := d.now, cv := cv }).tsynShow c

/-- A synthesizer begins to relock, or ends it: Δ_c is brought up to date before (R469). -/
def Dev.tsynRelock (d : Dev) (c : Nat) (on : Bool) : Dev :=
  ((d.tsynUpdate c).put (F.TSYN_STATUS.relock c) (b2n on)).coastShow

/-! ## Loss of lock and lock (R455 to R457) -/

/-- The core class moves to HOLD (R457). -/
def Dev.toHold (d : Dev) : Dev := if (d.pll 1).lock then d.put F.PLL_STATUS.core_on_hold 1 else d

/-- A host port goes down, with its PLL (R456) or under a commit (R299): the sub-ports that were up lose their link (R329), all their
FEC lock, and their sessions close (R315). -/
def Dev.hpDown (d : Dev) (p : Nat) : Dev :=
  let up := d.get (F.HP_PORT_STATUS.link_up p)
  let d := (d.put (F.HP_PORT_STATUS.link_up p) 0).put (F.HP_PORT_STATUS.fec_lock p) 0
  let d := (List.range 4).foldl (fun d i => if bitOf up i = 1 then d.raise (544 + p) else d) d
  (List.range 4).foldl (fun d i => d.aedSubLost (4 * p + i)) d.bmca

/-- The PCs of a stack are to be retrained after its PLL locks again (R456), each by an operation of its own, one after the other
(R372, R534): the module asks for the first now and for the next when one ends, again at each run of the sparing policy while
admission refuses it (DEDUCED, log 131). -/
def Dev.retrainStack (d : Dev) (s : Nat) : Dev :=
  let ps := ((List.range 32).map (32 * s + ·)).filter fun p => d.pcState p == 1 || d.pcState p == 7
  { d with stw.retrain := (d.stw.retrain ++ ps).eraseDups }.retrainNext

/-- A PLL loses lock (R456). -/
def Dev.loseLock (d : Dev) (i : Nat) : Dev :=
  if !(d.pll i).lock then d
  else
    let d := (d.withPll i { d.pll i with lock := false, lost := true }).raise 26
    let d := if i = 0 then d.toHold
      else if i = 4 ∨ i = 5 then d.hpDown (i - 4)
      else if 8 ≤ i ∧ i < 16 then d.tsynRelock (i - 8) true
      else d
    d.lockShow

/-- PLL_UNLOCK: core and tick clocks pass the guard. -/
def Dev.pllUnlock (d : Dev) (i edges : Nat) : Dev :=
  let d := d.loseLock i
  if i = 0 ∨ i = 1 ∨ (8 ≤ i ∧ i < 16) then d.guard edges else d

/-- The temperature distance of a cache entry, in degrees signed. -/
def tempNear (a b : Nat) : Bool :=
  let s (x : Nat) : Int := if 128 ≤ x then (x : Int) - 256 else x
  decide ((s a - s b).natAbs ≤ 20)

/-- The band search: the cache is used or filled; the entry used stands first (R455). -/
def Pll.search (p : Pll) (band temp : Nat) : Bool × Pll :=
  match p.cache.find? fun e => e.2.set == p.set && tempNear e.2.temp temp with
  | some e => (true, { p with band := e.2.band, cache := e :: p.cache.erase e })
  | none =>
    let slot := if p.cache.length < 16 then p.cache.length else (p.cache.getLast?.map (·.1)).getD 0
    (false, { p with
      band := band, cache := (slot, { set := p.set, band := band, temp := temp }) :: p.cache.take 15 })

/-- A PLL locks after its band search (R455, R456); with the PLL of lanes that windows use an exit ends (R45, R50). CLK_RELOCKED of the core PLL comes with the switch back where the core class is on
HOLD (R457). -/
def Dev.pllLock (d : Dev) (i band temp : Nat) : Dev :=
  let p := d.pll i
  if p.lock ∨ i = 6 ∨ i = 7 then d
  else
    let r := p.search band temp
    let d := d.withPll i { r.2 with lock := true, lost := false }
    let d := if r.1 then d.bump F.BAND_HITS.count else d.bump F.BAND_MISSES.count
    let d := if p.lost then d.bump F.RELOCKS.count else d
    let d := if p.lost && !(i == 0 && d.is F.PLL_STATUS.core_on_hold) then d.raise 27 else d
    let d :=
      if i = 2 ∨ i = 3 then (if p.lost then (d.retrainStack (i - 2)).loss else d)
      else if 8 ≤ i ∧ i < 16 then (d.tsynRelock (i - 8) false).opEnd 6 (i - 8) 1
      else if i = 0 ∧ !d.is F.PLL_STATUS.core_on_hold then d.put F.CLK_CTL.core_recal 0
      else if 16 ≤ i ∧ p.lost ∧ (winsOn d.actv).any (fun w => (winLanes d.actv w).any fun n => pllOfLane d.actv n (d.carrier n) == i) then
        d.loss
      else d
    d.lockShow

/-- CORE_SWITCH_BACK (R457): CLK_RELOCKED of the core PLL comes here. -/
def Dev.coreSwitchBack (d : Dev) : Dev :=
  if d.is F.PLL_STATUS.core_on_hold ∧ (d.pll 0).lock then ((d.put F.PLL_STATUS.core_on_hold 0).put F.CLK_CTL.core_recal 0).raise 27 else d

/-- CLK_CMD.core_recal (R457): not accepted while HOLD is unlocked; one accepted while the core PLL is unlocked ends with the lock that is
already sought. -/
def Dev.coreRecal (d : Dev) (edges : Nat) : Dev :=
  if !(d.pll 1).lock then d else ((d.pllUnlock 0 edges).toHold).put F.CLK_CTL.core_recal 1

/-- The ratio ρ in units of 2^-40. -/
def Dev.rho (d : Dev) : Nat := ((2 ^ 40 : Int) + signedOf (d.get F.REF_RATIO.rho) 32).toNat

/-! ## Quad PLLs at an application (R454, R459, R460) -/

/-- The set of a target on the reference in use: on the XO its fraction is multiplied by ρ (R451). -/
def Dev.setOn (d : Dev) (s : PllSet) : PllSet := if d.is F.REF_STATUS.on_xo then s.scale d.rho (2 ^ 40) else s

/-- A quad PLL takes its frequency; a change relocks it from the application tick. -/
def Dev.quadTune (d : Dev) (q : Nat) : Dev :=
  (quadVs d.actv q).zipIdx.foldl (fun (d : Dev) v =>
    let i := 16 + 2 * q + v.2
    let p := d.pll i
    if p.goal = v.1 then d
    else
      let s := setBest v.1
      let d := d.loseLock i
      d.withPll i { ((d.pll i).load (d.setOn s)).apply with goal := v.1, spur := spurWarn s, lost := p.lock || p.lost }) d

def Dev.clkTune (d : Dev) : Dev := (List.range 36).foldl (fun d q => d.quadTune q) d

/-- The fixed sets are loaded at the start of the module; the core class locks before the internal reset is released (R508), after a
band search whose band and temperature are free values (log 134). -/
def Dev.clkStart (d : Dev) : Dev :=
  let d := ([0, 1, 2, 3, 4, 5] ++ (List.range 8).map (· + 8)).foldl (fun (d : Dev) i =>
    let s := fixedSet i
    d.withPll i { (Pll.idle.load s).apply with goal := pllTarget i, spur := 8 ≤ i && spurWarn s }) d
  let free (k : Nat) : Nat := Config.freeNat (d.seed + k) % 256
  (({ d with seed := d.seed + 4 }).pllLock 0 (free 0) (free 1)).pllLock 1 (free 2) (free 3)

/-! ## References (R450, R451) -/

/-- Every PLL but HOLD moves to another reference without losing lock. -/
def Dev.refMove (d : Dev) (num den : Nat) : Dev :=
  (d.clk.plls.map (·.1)).foldl (fun d i =>
    if i = 1 then d else d.setPll i ((d.pll i).load ((d.pll i).set.scale num den)).apply) d

/-- The ratio that the module measures while REFCLK is valid: a free value (log 10). -/
def Dev.rhoSample (d : Dev) : Dev :=
  if d.is F.REF_STATUS.refclk_ok then d.drawn.put F.REF_RATIO.rho d.free else d

/-- The reference in use changes: REFCLK is taken back under the ratio measured now, and CLK_REF_RESTORED is raised (R451, R477). -/
def Dev.refUse (d : Dev) (xo : Bool) : Dev :=
  if xo = d.is F.REF_STATUS.on_xo then d
  else if xo then (d.refMove d.rho (2 ^ 40)).put F.REF_STATUS.on_xo 1
  else
    let d := d.rhoSample
    ((d.refMove (2 ^ 40) d.rho).put F.REF_STATUS.on_xo 0).raise 25

/-- Under sel 1 an invalid REFCLK leaves every PLL but HOLD without a reference. -/
def Dev.refUnlock (d : Dev) : Dev := (d.clk.plls.map (·.1)).foldl (fun d i => if i = 1 then d else d.loseLock i) d

/-- REFCLK that has been invalid may have become valid again: no command tells when, so a free value says it where the module looks
(log 135). -/
def Dev.refSense (d : Dev) : Dev :=
  if d.is F.REF_STATUS.refclk_ok then d else d.drawn.put F.REF_STATUS.refclk_ok (d.free % 2)

/-- The reference that REF_CTL.sel selects (R450). -/
def Dev.refChoose (d : Dev) : Dev :=
  match d.get F.REF_CTL.sel with
  | 0 => d.refUse (!d.is F.REF_STATUS.refclk_ok)
  | 1 =>
    let d := d.refUse false
    if d.is F.REF_STATUS.refclk_ok then d else d.refUnlock
  | _ => d.refUse true

/-- A write to REF_CTL (R450, R451): a new selection takes its reference; under the same one REFCLK is taken back when revert is set and
it has been valid for 10 s. -/
def Dev.refSelect (d old : Dev) : Dev :=
  let d := d.refSense
  if d.get F.REF_CTL.sel ≠ old.get F.REF_CTL.sel then d.refChoose
  else if d.get F.REF_CTL.sel = 0 ∧ d.is F.REF_CTL.revert ∧ d.clk.refLong then d.refUse false
  else d

/-- REFCLK_LOSS (R451). -/
def Dev.refclkLoss (d : Dev) : Dev :=
  if !d.is F.REF_STATUS.refclk_ok then d
  else
    let d := { d.rhoSample.put F.REF_STATUS.refclk_ok 0 with clk.refLong := false }
    match d.get F.REF_CTL.sel with
    | 0 => if d.is F.REF_STATUS.on_xo then d else (d.refUse true).raise 24
    | 1 => d.refUnlock
    | _ => d

/-- REFCLK_REVERT: REFCLK has been valid for 10 s (R451). -/
def Dev.refclkRevert (d : Dev) : Dev :=
  let d := { d.put F.REF_STATUS.refclk_ok 1 with clk.refLong := true }
  if d.get F.REF_CTL.sel = 0 ∧ d.is F.REF_CTL.revert then d.refUse false else d

/-! ## Tick synthesizers (R466 to R468) -/

/-- One step is taken. -/
def Dev.tsynTake (d : Dev) (c : Nat) (delta : Int) : Dev :=
  (((d.setTsyn c { d.tsyn c with delta := delta }).bump (F.TSYN_STEPS.count c)).raise 30).tsynShow c

/-- The step at a tick boundary (R468). -/
def Dev.tsynTick (d : Dev) (c : Nat) : Dev :=
  let d := d.tsynUpdate c
  if !d.tsynSteps c then d
  else
    let x := (d.tsyn c).delta
    if 0 < x then d.tsynTake c 0
    else
      let m := ((d.tsyn c).slack : Int) * 1000000000
      if -x ≤ m then d.tsynTake c 0 else (d.put (F.TSYN_STATUS.stepping c) 1).tsynTake c (x + m)

/-- SLACK_c of the configuration in force: the slots of every enabled window count, those shed or dropped too (R46, R468). -/
def slackOf (m : AdmCfg) (c : Nat) : Nat :=
  let rd := m.rd
  let p := phasesOf rd c - 1
  let len := phaseLen rd c p
  let ends := (winsIn rd [] c p).map fun w => winS0 rd w + winOL rd w * winSl rd w
  let halls := (m.hallCycles.filter fun i => i.phase == p && hallCanvas rd i.inst == c).map fun i => (i.budget - i.demand) / 3
  halls.foldl min (len - ends.foldl max 0)

/-- SLACK_c is taken down. What exceeds the 24 bits of TSYN_SLACK shows as their largest value: the manual does not say what it shows
then (DESIGN CHOICE, log 92). -/
def Dev.setSlack (d : Dev) (c ns : Nat) : Dev :=
  (d.setTsyn c { d.tsyn c with slack := ns }).put (F.TSYN_SLACK.ns c) (min ns 0xFFFFFF)

/-- A canvas that does not run takes a step that is admitted whole, at once (R468). -/
def Dev.tsynRest (d : Dev) (c : Nat) : Dev :=
  let x := (d.tsyn c).delta
  if !d.is (F.TICK_STATUS.running c) && d.is (F.TSYN_CTL.phase_step_allow c) && x != 0 &&
      (d.is (F.TSYN_STATUS.stepping c) || decide (d.get (F.TSYN_CTL.step_thr_us c) * 1000000000000 < x.natAbs)) then d.tsynTake c 0
  else d

/-- TC steps by θ, given in ns and in units of 10^-9 ns beside them (R465): every synthesizer absorbs it, and the instant at which
PPS_OUT rose moves with TC, so that a pulse keeps its width and a second that TC reaches again has its own (R471). An instant that TC
reaches again is not that at which an exhibit was armed (R481). -/
def Dev.tcStep (d : Dev) (theta part : Int) : Dev :=
  let d := (List.range 8).foldl (fun d c => d.tsynUpdate c) d
  let moved (t : Nat) : Nat := ((t : Int) + theta).toNat
  let d := { d with now := moved d.now, clk.ppsAt := d.clk.ppsAt.map moved }
  let d := (List.range 8).foldl (fun d s => d.setCu (56 + s) { d.cu (56 + s) with alcAt := none }) d
  let d := (d.bump F.TIME_STEPS.count).put F.TIME_STATUS.stepped 1
  (List.range 8).foldl (fun d c =>
    ((d.setTsyn c { d.tsyn c with delta := (d.tsyn c).delta - (theta * 1000000000 + part), last := d.now }).tsynShow c).tsynRest c) d

/-! ## Time sources (R461 to R465) -/

/-- The source in use: the primary while it is available, else the secondary (R462). -/
def Dev.timeSource (d : Dev) : Nat :=
  let ok (s : Nat) : Bool := s != 0 && bitOf d.clk.avail s == 1
  if ok (d.get F.TIME_CTL.src_pri) then d.get F.TIME_CTL.src_pri
  else if ok (d.get F.TIME_CTL.src_sec) then d.get F.TIME_CTL.src_sec
  else 0

/-- The mean of the last FCV values, toward the smaller value. -/
def fcvMean (l : List Int) (d : Int) : Int := if l.isEmpty then d else Int.fdiv l.sum l.length

/-- The selection of the source: a change is a return; when every named source is lost TC coasts (R464), and when none is named it runs
free (R462). -/
def Dev.timeSelect (d : Dev) : Dev :=
  let old := d.get F.TIME_STATUS.src_used
  let new := d.timeSource
  if new = old then
    (if d.get F.TIME_CTL.src_pri = 0 ∧ d.get F.TIME_CTL.src_sec = 0 ∧ d.get F.TIME_STATUS.state = 3 then
      (d.put F.TIME_STATUS.state 0).coastShow
    else d)
  else
    let d := d.put F.TIME_STATUS.src_used new
    if new ≠ 0 then { d with clk.fresh := true }
    else if d.get F.TIME_CTL.src_pri = 0 ∧ d.get F.TIME_CTL.src_sec = 0 then (d.put F.TIME_STATUS.state 0).coastShow
    else
      let f := fcvMean d.clk.fcvs (signedOf (d.get F.TIME_FCV.fcv) 32)
      let d := (d.put F.TIME_FCV.fcv (sat32s f)).put F.TIME_STATUS.state 3
      ((d.bump F.COAST_COUNT.count).raise 28).coastShow

/-- The loop of R463 after an update. -/
def Dev.timeLoop (d : Dev) (theta : Int) (stepped : Bool) : Dev :=
  let d := if stepped then d
    else
      let f := max (-549755813) (min 549755813 (Config.piLoop d.clk.fcvs theta (d.get F.TIME_CTL.bw)))
      ({ d with clk.fcvs := (f :: d.clk.fcvs).take 16 }).put F.TIME_FCV.fcv (sat32s f)
  let ns := d.get F.LOCK_NS.ns
  let a := if theta.natAbs < ns then d.clk.inside + 1 else 0
  let b := if 4 * ns ≤ theta.natAbs then d.clk.outside + 1 else 0
  let d := { d with clk.inside := a, clk.outside := b }
  let st := d.get F.TIME_STATUS.state
  if st = 0 ∨ st = 3 then (d.put F.TIME_STATUS.state 1).coastShow
  else if st = 1 ∧ 8 ≤ a then (d.put F.TIME_STATUS.state 2).raise 29
  else if st = 2 ∧ 8 ≤ b then d.put F.TIME_STATUS.state 1
  else d

/-- θ of PPS_IN: from the last edge to the nearest whole second of TC, within half a second (R462). -/
def ppsTheta (edge : Nat) : Int :=
  let f := edge % 1000000000
  if f ≤ 500000000 then -(f : Int) else 1000000000 - (f : Int)

/-- An update of a source that the module hears, with its offset (R463, R465). -/
def Dev.timeHeard (d : Dev) (src : Nat) (theta : Int) : Dev :=
  let d := ({ d with clk.avail := d.clk.avail ||| 2 ^ src }).timeSelect
  if d.get F.TIME_STATUS.src_used ≠ src then d
  else
    let d := d.put F.TIME_OFFSET.theta (sat32s theta)
    let step := d.clk.fresh && decide (d.get F.TIME_STEP.step_ns ≤ theta.natAbs)
    let d := if d.clk.fresh then { d with clk.fresh := false, clk.inside := 0, clk.outside := 0 } else d
    let d := if step then d.tcStep theta 0 else d
    d.timeLoop theta step

/-- TIME_SOURCE_UPDATE: the offset of PPS_IN follows from its edge, so without one that source has no update. -/
def Dev.timeUpdate (d : Dev) (src : Nat) (theta : Int) : Dev :=
  match src, d.clk.ppsEdge with
  | 0, _ => d
  | 3, some e => d.timeHeard 3 (ppsTheta e)
  | 3, none => d
  | _, _ => d.timeHeard src theta

/-- TIME_SOURCE_LOSS. -/
def Dev.timeLoss (d : Dev) (src : Nat) : Dev :=
  ({ d with clk.avail := d.clk.avail &&& (15 - 2 ^ src) }).timeSelect

/-- The fraction of a nanosecond of TC, in units of 2^-32 ns: within the nanosecond it was last known for it has not gone back, and else
it is a free value (log 10). -/
def Dev.fracNow (d : Dev) : Nat :=
  let f := d.clk.frac.toNat
  if d.clk.fracAt = some d.now then f + d.free % (2 ^ 32 - f) else d.free % 2 ^ 32

/-- The fraction is known for the present nanosecond. -/
def Dev.knowFrac (d : Dev) (f : Nat) : Dev := { d with clk.frac := w32 f, clk.fracAt := some d.now }

/-- TIME_SET: TC steps to the time written, with its fraction (R465, R474). -/
def Dev.timeSet (d : Dev) (ns sec hi frac : Nat) : Dev :=
  let target : Nat := (sec + hi % 65536 * 2 ^ 32) * 1000000000 + ns
  let part : Int := Int.fdiv (((frac : Int) - d.fracNow) * 1000000000) (2 ^ 32)
  (d.drawn.tcStep ((target : Int) - d.now) part).knowFrac frac

/-- TIME_NOW (R474). -/
def Dev.timeNow (d : Dev) : List Word × Dev :=
  let f := d.fracNow
  ([w32 (nsOf d.now), w32 (secOf d.now), w32 (secOf d.now / 2 ^ 32 % 65536), w32 f], d.drawn.knowFrac f)

/-! ## 1PPS (R471, R472) -/

/-- The level of PPS_OUT from an instant on. -/
def Dev.ppsPut (d : Dev) (t : Nat) (up : Bool) : Dev :=
  if d.clk.ppsOut = up then d else ({ d with clk.ppsOut := up }).emit (.ppsOut t up)

/-- The last whole second of TC plus PPS_OFS.ofs_ns (R471). -/
def Dev.ppsSecond (d : Dev) : Nat :=
  let o := signedOf (d.get F.PPS_OFS.ofs_ns) 32
  (Int.fdiv ((d.now : Int) - o) 1000000000 * 1000000000 + o).toNat

/-- PPS_OUT rises at its second, and falls when its width has passed, or at once where it is switched off (R471). -/
def Dev.ppsLevel (d : Dev) (up : Bool) : Dev :=
  if up then ({ d.ppsPut d.ppsSecond true with clk.ppsAt := some d.ppsSecond })
  else if !d.is F.PPS_CTL.out_en then d.ppsPut d.now false
  else
    let t := d.clk.ppsAt.getD 0 + d.get F.PPS_CTL.width_us * 1000
    if t ≤ d.now then d.ppsPut t false else d

/-- Whether PPS_CTL lets a pulse out. -/
def Dev.ppsAllowed (d : Dev) : Bool :=
  let st := d.get F.TIME_STATUS.state
  d.is F.PPS_CTL.out_en &&
    match d.get F.PPS_CTL.out_mode with
    | 0 => true
    | 1 => st == 2 || st == 3
    | _ => st == 2

/-- PPS_OUT_RISE: one rise a second. -/
def Dev.ppsRise (d : Dev) : Dev := if d.ppsAllowed && some d.ppsSecond != d.clk.ppsAt then d.ppsLevel true else d

/-- An edge of PPS_IN: those of the polarity set are timestamped and counted while in_en is set, and serve source 3 whether or not. -/
def Dev.ppsEdge (d : Dev) (falling : Bool) (frac : Word) : Dev :=
  if d.is F.PPS_CTL.in_edge != falling then d
  else
    let d := { d with clk.ppsEdge := some d.now }
    if d.is F.PPS_CTL.in_en then ({ d with clk.ppsTs := (d.now, frac) }).bump F.PPS_IN_COUNT.count else d

/-- PPS_IN_TS. -/
def Dev.ppsWords (d : Dev) : List Word :=
  let t := d.clk.ppsTs.1
  [w32 (nsOf t), w32 (secOf t), w32 (secOf t / 2 ^ 32 % 65536), d.clk.ppsTs.2]

/-! ## The indirect space of page 3 (R476) -/

/-- A word of the space. -/
def Dev.pllWord (d : Dev) (a : Nat) : Option Word :=
  let i := a / 64
  let k := a % 64
  if 88 ≤ i ∨ i = 6 ∨ i = 7 then none
  else
    let p := d.pll i
    let set (s : PllSet) : Word := w32 (s.f + s.n * 2 ^ 24)
    if k < 32 then
      match p.cache.find? fun e => e.1 == k / 2 with
      | some e =>
        some (if k % 2 = 0 then set e.2.set else w32 (e.2.set.d + e.2.band * 4 + e.2.temp * 2 ^ 10 + 2 ^ 31))
      | none => some 0
    else if k = 32 then some (set p.set)
    else if k = 33 then some (w32 (p.set.d + p.band * 4))
    else none

end Sys2Proof.Machine
end

