-- ==== Sys2Proof/Machine/Power.lean ====
section
/-! DEFINITION. Power, reset, flash, hold-up and thermal shedding (R506 to R533). -/

namespace Sys2Proof.Machine

/-! ## Flash (R514, R515) -/

/-- A word of flash: the calibration and factory regions hold bytes the manual does not give (log 27); other words not yet
written are erased (log 55). -/
def Dev.flashWord (d : Dev) (k : Nat) : Word :=
  if 0x18000000 ≤ 4 * k then w32 (ofLE ((List.range 4).map fun i => Config.factoryByte (4 * k + i)))
  else Tab.get (fun _ => 0xFFFFFFFF) d.pwr.flash k
def Dev.setFlash (d : Dev) (k : Nat) (w : Word) : Dev :=
  { d with pwr.flash := Tab.set (fun _ => 0xFFFFFFFF) d.pwr.flash k w }

/-- Bytes of flash. -/
def Dev.flashBytes (d : Dev) (a n : Nat) : List Byte :=
  (List.range n).map fun i => BitVec.ofNat 8 ((d.flashWord ((a + i) / 4)).toNat >>> (8 * ((a + i) % 4)))

/-- The base of a configuration image, 0 A or 1 B. -/
def cfgBase (i : Nat) : Nat := 0x08000000 + i * 0x08000000

/-- Whether a flash byte address may be written (R514). -/
def Dev.flashWritable (d : Dev) (a : Nat) : Bool :=
  a < 0x18000000 && !(d.pwr.cfgUsed.any fun i => cfgBase i ≤ a && a < cfgBase i + 0x08000000)

/-- An operation starts (R515). -/
def Dev.flashStart (d : Dev) (o : FlashOp) : Dev :=
  ({ d with pwr.flashQ := d.pwr.flashQ ++ [o] }).put F.FLASH_STATUS.busy 1

/-- The first byte of an upload's region (R514, R545). -/
def regionBase (r : Nat) : Nat := if r < 2 then r * 0x04000000 else cfgBase (r - 2)

/-- A sector is all ones, or holds words that the manual does not give. -/
def Dev.flashBlank (d : Dev) (s : Nat) : Dev := { d with pwr.flash := d.pwr.flash.filter fun e => e.1 / 16384 != s }
def Dev.flashSpoil (d : Dev) (s : Nat) : Dev :=
  (List.range 16384).foldl (fun d i => (d.setFlash (s * 16384 + i) (w32 d.free)).drawn) d

/-- The words an operation leaves; an image whose head is erased is what is written there from then on (log 178); one that fails to verify leaves words the manual does not give (log 10). -/
def Dev.flashApply (d : Dev) (o : FlashOp) (verified : Bool) : Dev :=
  match o with
  | .program k w => if verified then d.setFlash k (d.flashWord k &&& w) else (d.setFlash k (w32 d.free)).drawn
  | .erase s =>
    if verified then { d.flashBlank s with pwr.torn := d.pwr.torn.filter fun r => regionBase r / 65536 != s } else d.flashSpoil s
  | .clear s => if verified then d.flashBlank s else d.flashSpoil s

/-- FLASH_OP_DONE. -/
def Dev.flashDone (d : Dev) (verified : Bool) : Dev :=
  match d.pwr.flashQ with
  | [] => d
  | o :: q =>
    let d := ({ d with pwr.flashQ := q }).flashApply o verified
    let d := d.put F.FLASH_STATUS.busy (b2n (!q.isEmpty))
    let d := if verified then d else d.put F.FLASH_STATUS.error 1
    match o, verified with
    | .program _ _, true => d
    | _, _ => d.raise 41

/-! ## Saves (R525, R526) -/

/-- The newest valid save. -/
def Dev.newestSave (d : Dev) : Option Save :=
  match d.pwr.saveA.filter (·.valid), d.pwr.saveB.filter (·.valid) with
  | some a, some b => some (if a.seq < b.seq then b else a)
  | some a, none => some a
  | none, b => b

/-- The 64-bit counters of mailbox items: the classes of R379 and the bytes of each channel (R283). -/
def Dev.wideCounters (d : Dev) : Tab Nat :=
  d.chans.foldl (fun t e => Tab.set (fun _ => 0) t (16 + e.1) e.2.total) d.classB

/-- The save of this instant, its sequence following the newest. -/
def Dev.saveNow (d : Dev) (cause : Nat) : Save :=
  { seq := match d.newestSave with
      | some s => s.seq + 1
      | none => 0,
    t0 := d.now, tc := d.get F.TIME_STATUS.state, cause := cause, gen := d.stored A.ACTIVE_GEN,
    ticks := d.running.map fun c => (c, (d.canvas c).tick), regs := d.regs.stored, ind := d.regs.ind,
    wide := d.wideCounters, valid := true }

/-- Put a save into the area that does not hold the newest valid one. -/
def Dev.storeSave (d : Dev) (s : Save) : Dev :=
  match d.newestSave with
  | some n => if d.pwr.saveA = some n then { d with pwr.saveB := some s } else { d with pwr.saveA := some s }
  | none => { d with pwr.saveA := some s }

/-- SAVE_INFO. -/
def Dev.saveInfo (d : Dev) : List Word :=
  match d.newestSave with
  | some s => [w32 s.seq, w32 (s.cause + s.tc * 4 + 2 ^ 31), w32 (nsOf s.t0), w32 (secOf s.t0)]
  | none => [0, 0, 0, 0]

/-- SAVE_GEN in the read direction. -/
def Dev.saveGen (d : Dev) : List Word :=
  match d.newestSave with
  | some s =>
    let n := Tab.get (fun _ => 0) s.ticks d.pwr.saveSel
    [s.gen, w32 d.pwr.saveSel, w32 n, w32 (n / 2 ^ 32)]
  | none => [0, w32 d.pwr.saveSel, 0, 0]

/-- The boot looks for a save; PF_COUNT counts the power fails among the saves found (log 56). -/
def Dev.findSave (d : Dev) : Dev :=
  let n := ([d.pwr.saveA, d.pwr.saveB].filterMap id).filter fun s => s.valid && s.cause != 3
  let d := d.put F.PF_COUNT.count n.length
  if d.newestSave.isSome then (d.put F.STATUS.saved 1).raise 40 else d

/-! ## Reset (R509 to R512) -/

/-- The levels of PWRGOOD and VIO_OUT. -/
def Dev.pwrgood (d : Dev) (up : Bool) : Dev :=
  if d.pwr.pwrgood = up then d else ({ d with pwr.pwrgood := up }).emit (.pwrgood d.now up)
def Dev.vioOut (d : Dev) (up : Bool) : Dev :=
  if d.pwr.vio = up then d else ({ d with pwr.vio := up }).emit (.vioOut d.now up)

/-- The MAC addresses of the sub-ports at reset: the factory base address + 4p + s when it is valid (R300, R567). -/
def Dev.factoryMacs (d : Dev) : Dev :=
  if !d.baseOk then d
  else
    (List.range 8).foldl (fun d k =>
      let m := (d.baseMac + k) % 2 ^ 48
      let lo := A.SUB_MAC_LO (k / 4) (k % 4)
      let hi := A.SUB_MAC_HI (k / 4) (k % 4)
      let d := (d.setStored lo (w32 m)).setStored hi (w32 (m / 2 ^ 32))
      { d with regs.active := Tab.set resetWord (Tab.set resetWord d.regs.active lo (w32 m)) hi (w32 (m / 2 ^ 32)) }) d

/-- No PLL runs: LOCK_A shows it (R470). -/
def Dev.lockOff (d : Dev) : Dev := if d.clk.lockU = 100 then d else d.emit (.lockA d.now 100)

/-- What a reset leaves of the check units: those of the Alcove keep their exhibits, and a region in progress is cut off (R483). -/
def Dev.alcCus (d : Dev) : Tab Cu :=
  (List.range 8).foldl (fun t s =>
    Tab.set (fun _ => Cu.idle) t (56 + s) { Cu.idle with alc := (d.cu (56 + s)).alc }) []

/-- What the lanes and host ports of a module that works transmit is cut (R510, R524). -/
def Dev.cutLines (d : Dev) : Dev := if d.pwr.on && !d.pwr.stopped then d.emit (.cut d.now) else d

/-- The EVT_N lands that are low are released (R512). -/
def Dev.evtRelease (d : Dev) : Dev :=
  (List.range 4).foldl (fun d i =>
    if bitOf (d.get F.EVT_N_STATUS.low) i = 1 then d.emit (.evtN i d.now false) else d) d

/-- A reset of a kind (R509, R510, R512): every block takes its reset state; MRAM, flash, identity and, under kinds 1 to 3, HBM
content with the mapping registers stay; TC runs from 0; lines in transmission are cut, EVT_N and PPS_OUT are released. The image of
the next reset is the one that BOOT_CTL asks for, whatever its kind (R517; DEDUCED, log 149). While RESET_N is low nothing of the module works (R508). -/
def Dev.modReset (d : Dev) (kind : Nat) : Dev :=
  let keep := decide (1 ≤ kind ∧ kind ≤ 3)
  let d := (((d.cutLines.evtRelease).pwrgood false).ppsPut d.now false).lockOff
  let log := (d.pwr.log ++ [(kind, d.now, d.stored A.ACTIVE_GEN)])
  let p := { Pwr.reset with
    resetN := d.pwr.resetN, vio := d.pwr.vio, saveA := d.pwr.saveA, saveB := d.pwr.saveB, log := log.drop (log.length - 256),
    flash := d.pwr.flash, torn := d.pwr.torn, kind := kind, cfgSel := d.get F.BOOT_CTL.cfg_next,
    stopped := !d.pwr.resetN, placed := if keep then some (d.pwr.placed.getD d.placement) else none }
  let n : Dev := { Dev.reset with
    h48 := d.h48, serial := d.serial, baseMac := d.baseMac, factoryOk := d.factoryOk, out := d.out, seed := d.seed, journal := d.journal,
    alcOn := d.alcOn, sealOpen := d.sealOpen, otSeen := d.otSeen, cus := d.alcCus,
    hbm := if keep then d.hbm else [], bad := if keep then d.bad else [], pwr := p }
  let n := (if d.h48 then n else n.put F.CAPACITY.mib 23808).factoryMacs
  let n := if keep then n.setStored A.MAP_CTL (d.stored A.MAP_CTL) else n
  let n := n.put F.RESET_COUNT.count (if kind = 0 then 0 else d.get F.RESET_COUNT.count + 1)
  n.put F.RST_CAUSE.kind kind

/-- VIN is in the operating range. -/
def vinOk (mv : Nat) : Bool := decide (36000 ≤ mv ∧ mv ≤ 75000)

/-- VIN as the power stage reads it. -/
def Dev.vinShow (d : Dev) (mv : Nat) : Dev := (d.put F.VIN_MV.mv mv).put F.PWR_STATUS.vin_ok (b2n (vinOk mv))

/-- The power-on sequence starts at t_v (R508). -/
def Dev.powerStart (d : Dev) (mv : Nat) : Dev :=
  let d := (({ d with pwr.vio := false }).modReset 0).vioOut true
  ({ d with pwr.tv := d.now }.vinShow mv).put F.PWR_STATUS.charging 1

/-- POWER_ON: VIN rises through the start threshold (R506). Below it nothing starts; a sequence of R524 that runs goes on to its end, and
the start follows it. -/
def Dev.powerOn (d : Dev) (mv : Nat) : Dev :=
  if mv < 34000 then d
  else if d.pwr.fail.isSome then { d with pwr.vinBack := some mv }
  else if d.pwr.standby then d
  else if d.pwr.on then d.vinShow mv
  else d.powerStart mv

/-- The module leaves standby (R511, R530); its hold-up charger starts as at power-on (R508, R509). -/
def Dev.standbyExit (d : Dev) : Dev :=
  let d := ((d.modReset (if d.pwr.kind = 4 then 4 else 5)).vioOut true).put F.PWR_STATUS.charging 1
  { d with pwr.on := true, pwr.standby := false }

/-- PIN_RESET: a reset, the exit from standby, or nothing until a save is complete (R509 to R511, R530). -/
def Dev.pinReset (d : Dev) : Dev :=
  let d := { d with pwr.resetN := false }
  if d.pwr.fail.isSome then d
  else if d.pwr.standby then d.standbyExit
  else if d.pwr.on then d.modReset 1
  else d

/-- A canvas is enabled in the active configuration (R511). -/
def Dev.anyCanvas (d : Dev) : Bool := (List.range 8).any fun c => d.actIs (F.TICK_CTL.enable c)

/-- RST_CMD.module and RST_CMD.standby: false when refused (R511). -/
def Dev.rstModule (d : Dev) : Bool × Dev :=
  if d.anyCanvas then (false, d.put F.RST_STATUS.refused 1)
  else (true, if d.pwr.rstAt.isSome then d else { d with pwr.rstAt := some (d.now + 1000000) })
def Dev.rstStandby (d : Dev) : Bool × Dev :=
  if d.anyCanvas then (false, d.put F.RST_STATUS.refused 1)
  else
    let d := (d.pwrgood false).vioOut false
    (true, { d with pwr.on := false, pwr.standby := true, pwr.kind := 5 })

/-- SOFTWARE_RESET_EFFECT; a sequence of R524 runs to its end without it. -/
def Dev.softReset (d : Dev) : Dev := if d.pwr.rstAt.isSome ∧ d.pwr.fail.isNone then d.modReset 2 else d

/-! ## Start (R508, R513, R516, R517) -/

/-- BOOT_RESET_RELEASE: straps, reference, core PLL, and the search for a save. BOOT_TIME_MS counts from here after a software or
watchdog reset, else from t_v or the rise of RESET_N (R532, log 142). -/
def Dev.bootRelease (d : Dev) (straps : Nat) (refclk : Bool) : Dev :=
  let d := if d.pwr.kind = 2 ∨ d.pwr.kind = 3 then { d with pwr.tv := d.now } else d
  let d := d.put F.STRAPS.straps straps
  let d := d.put F.STATUS.cfg_skipped (b2n (straps % 4 == 1))
  let d := d.put F.STATUS.recovery (b2n (straps % 4 == 2))
  let d := (d.put F.URURI_CTL.ceiling (bitsOf straps 3 2)).clkStart
  let d := (d.put F.REF_STATUS.refclk_ok (b2n refclk)).refChoose
  d.findSave

/-- The firmware image that a check finds in a slot: none in one that an upload has left invalid (R545). -/
def Dev.fwFound (d : Dev) (slot : Nat) (img : Option Nat) : Option Nat := if d.pwr.torn.contains slot then none else img

/-- FW_IMAGE_CHECKED: the valid image of higher version, A when equal; none valid boots as in recovery (R516). In recovery the stewards
run the firmware of the ROM, and no image is chosen (R513). -/
def Dev.fwChecked (d : Dev) (a b : Option Nat) : Dev :=
  let a := d.fwFound 0 a
  let b := d.fwFound 1 b
  let d := { d with pwr.fwA := a, pwr.fwB := b }
  let d := (d.put F.STATUS.fw_a_ok (b2n a.isSome)).put F.STATUS.fw_b_ok (b2n b.isSome)
  let use (d : Dev) (slot v : Nat) : Dev :=
    if d.is F.STATUS.recovery then d else (((d.put F.STATUS.fw_used slot).put F.FW_STATUS.slot slot).put F.FW_STATUS.minor (v % 256)).put F.FW_STATUS.major (v / 256)
  match a, b with
  | some x, some y => if x < y then use d 1 y else use d 0 x
  | some x, none => use d 0 x
  | none, some y => use d 1 y
  | none, none => d.put F.STATUS.recovery 1

/-- The sequence of a configuration image, when it is valid (R517, R518); one that an upload has left partly written is not (R545). -/
def Dev.imageSeq (d : Dev) (i : Nat) : Option Nat :=
  let h := d.flashBytes (cfgBase i) 64
  let len := ofLE (slice h 12 4)
  let serial := ofLE (slice h 32 16)
  if d.pwr.torn.contains (i + 2) then none
  else if h.take 4 ≠ [0x54, 0x4D, 0x4C, 0x31] ∨ ofLE (slice h 4 2) ≠ 1 ∨ len % 4 ≠ 0 ∨ len < 68 ∨ 0x08000000 < len then none
  else if serial ≠ 0 ∧ serial ≠ d.serial then none
  else if crc32c (d.flashBytes (cfgBase i) (len - 4)) ≠ w32 (ofLE (d.flashBytes (cfgBase i + len - 4) 4)) then none
  else some (ofLE (slice h 8 4))

/-- Whether a sequence is higher under the comparison of R199. -/
def seqAfter (a b : Nat) : Bool := a != b && decide ((a + 2 ^ 32 - b) % 2 ^ 32 < 2 ^ 31)

/-- The configuration images are checked and one is chosen, or none (R517). -/
def Dev.imageChoice (d : Dev) : Dev :=
  let a := d.imageSeq 0
  let b := d.imageSeq 1
  let d := (d.put F.STATUS.cfg_a_ok (b2n a.isSome)).put F.STATUS.cfg_b_ok (b2n b.isSome)
  let d := (d.put F.CFG_SEQ_A.seq (a.getD 0)).put F.CFG_SEQ_B.seq (b.getD 0)
  if d.is F.STATUS.cfg_skipped ∨ d.is F.STATUS.recovery then d
  else
    let pick : Option Nat :=
      match d.pwr.cfgSel with
      | 1 => a.map fun _ => 0
      | 2 => b.map fun _ => 1
      | _ =>
        match a, b with
        | some x, some y => some (if seqAfter y x then 1 else 0)
        | some _, none => some 0
        | none, some _ => some 1
        | none, none => none
    match pick with
    | some i => { d.put F.STATUS.cfg_used i with pwr.cfgUsed := some i, pwr.applying := true, pwr.imageAt := cfgBase i + 64 }
    | none => (d.put F.STATUS.defaulted 1).raise 38

/-- HBM_TRAINING_DONE: the slot map, then the configuration images (R357, R508). -/
def Dev.trainingDone (d : Dev) (sweeps : List (Nat × List Sweep)) : Dev :=
  let kept := decide (1 ≤ d.pwr.kind ∧ d.pwr.kind ≤ 3)
  ((d.trained sweeps kept).put F.RST_CAUSE.hbm_kept (b2n kept)).imageChoice

/-- BOOT_DONE. PWRGOOD is released when the module is management-ready: Aedwin accepts OPEN, which it does not in recovery, and no
sequence of R524 runs (R507, R513). -/
def Dev.bootDone (d : Dev) : Dev :=
  let d := (d.put F.STATUS.done 1).put F.BOOT_TIME_MS.ms (min 65535 ((d.now - d.pwr.tv) / 1000000))
  (({ d with pwr.applying := false }).raise 37).pwrgood (!d.is F.STATUS.recovery && d.pwr.resetN && d.pwr.fail.isNone)

/-! ## Hold-up (R523, R524) -/

/-- hold_ok follows HOLD and the capacitance. -/
def Dev.holdOk (d : Dev) (low : Bool) : Dev :=
  let ok := decide (55000 ≤ d.get F.HOLD_MV.mv ∧ 120 ≤ d.get F.HOLD_UF.uf)
  let was := d.is F.PWR_STATUS.hold_ok
  let d := d.put F.PWR_STATUS.hold_ok (b2n ok)
  if ok ∧ !was then d.raise 34 else if (was ∧ !ok) ∨ low then d.raise 33 else d

/-- HOLD_CAPACITY_MEASURED: the charge time from 30 V to 50 V at 100 mA. -/
def Dev.holdMeasured (d : Dev) (ns : Nat) : Dev :=
  let uf := min 4095 (ns / 200000)
  (d.put F.HOLD_UF.uf uf).holdOk (uf < 120)

/-- Whether the module runs from HOLD with VIN disconnected: a sequence of R524 that a power fail has started. -/
def Dev.onHold (d : Dev) : Bool := d.pwr.failing.any fun s => s.cause == 1 || s.cause == 2

/-- The hold-up charger works from t_v on, RESET_N low or not, until the stop of a power failure or standby (R508, R511, R523). -/
def Dev.chargerRuns (d : Dev) : Bool := d.pwr.on && !(d.pwr.stopped && d.pwr.fail.isSome)

/-- HOLD_LEVEL_CHANGE: the charger runs from VIN, up to 58 V. -/
def Dev.holdLevel (d : Dev) (mv : Nat) : Dev :=
  ((d.put F.HOLD_MV.mv mv).put F.PWR_STATUS.charging (b2n (decide (mv < 58000) && !d.onHold))).holdOk false

/-- VIN has crossed the power-fail threshold, cause 1, or the over-voltage threshold, cause 2 (R506): PWR_FAIL, and VIN disconnected, so
that nothing charges HOLD. The manual gives no reading of VIN past the threshold: a free value. Log 143. -/
def Dev.vinLost (d : Dev) (cause : Nat) : Dev :=
  let d := d.drawn.put F.VIN_MV.mv (if cause = 2 then 78000 + d.free % 53072 else d.free % 33001)
  ((d.put F.PWR_STATUS.vin_ok 0).put F.PWR_STATUS.charging 0).raise 32

/-- The sequence of R524 starts: under-voltage 1, over-voltage 2 or the thermal trip 3. One that runs goes on; a power fail during that
of a trip leaves it no VIN to enter standby from, and VIN that came back during one has gone again. In standby the module has only the
Alcove to power down, and no steward runs to write a save: cause 0 (DEDUCED, log 144). A trip raises PWR_FAIL too and keeps VIN
(R530). -/
def Dev.failStart (d : Dev) (cause : Nat) : Dev :=
  match d.pwr.failing with
  | some s =>
    let d := if cause = 3 then d else { d with pwr.vinBack := none }
    if s.cause = 3 ∧ cause ≠ 3 then
      ({ d with pwr.failing := some { s with cause := cause }, pwr.fail := d.pwr.fail.map fun (f : Nat × Nat) => (f.1, 2) }).vinLost cause
    else d
  | none =>
    if d.pwr.standby ∧ cause ≠ 3 then
      { d with pwr.standby := false, pwr.fail := some (d.now, 2), pwr.failing := some (d.saveNow 0) }
    else if !d.pwr.on then d
    else
      let d := { d with pwr.failing := some (d.saveNow cause), pwr.fail := some (d.now, if cause = 3 then 3 else 2) }
      (if cause = 3 then d.raise 32 else d.vinLost cause).pwrgood false

/-- POWER_FAIL_STOP: lanes and host ports go off, and what they transmit is cut. -/
def Dev.failStop (d : Dev) : Dev :=
  if d.pwr.fail.isSome then ({ d.cutLines with pwr.stopped := true }).vioOut false else d

/-- SAVE_COMPLETE: the save is stored, and the module powers down or, after a trip, enters standby (R530). A RESET_N still low then takes
it out of standby (R510), and VIN that has come back starts it (R524). -/
def Dev.saveComplete (d : Dev) (whole : Bool) : Dev :=
  match d.pwr.fail, d.pwr.failing with
  | some _, some s =>
    let back := d.pwr.vinBack
    let d := if s.cause = 0 then d else d.storeSave { s with valid := whole }
    let d := { d with pwr.fail := none, pwr.failing := none, pwr.vinBack := none, pwr.on := false, pwr.standby := s.cause == 3,
                      pwr.kind := if s.cause = 3 then 4 else 0 }
    if s.cause = 3 then (if d.pwr.resetN then d else d.standbyExit)
    else
      match back with
      | some mv => d.powerStart mv
      | none => d
  | _, _ => d

/-! ## Thermal shedding (R527 to R530) -/

/-- A level is taken or left. -/
def Dev.setTherm (d : Dev) (l : Nat) : Dev := ((d.put F.THERM_STATUS.level l).raise 35).budgetShow

/-- The threshold of a level in °C. -/
def Dev.thermAt (d : Dev) (l : Nat) : Nat :=
  match l with
  | 1 => d.get F.THERM_CTL.t1
  | 2 => d.get F.THERM_CTL.t2
  | _ => 104

/-- Tj as a module with power samples it. -/
def Dev.thermShow (d : Dev) (tj : Int) : Dev :=
  if !d.pwr.on then d
  else
    let d := d.put F.THERM_STATUS.tj (toField tj 8)
    if signedOf (d.get F.THERM_STATUS.tj_peak) 8 < tj then d.put F.THERM_STATUS.tj_peak (toField tj 8) else d

/-- The trip at 110 °C (R530). -/
def Dev.thermTrip (d : Dev) (tj : Int) : Dev := (d.thermShow tj).failStart 3

/-- THERMAL_SAMPLE, short of the trip. After a level 2 that did not fit, the next level is 3 (R528). A step into level 2 and the steps out
of levels 2 and 3 ask for a re-admission, as they change the budget or the windows that it admits; those into levels 1 and 3 and a
window dropped do not, where R186 names no step of shedding (DESIGN CHOICE, log 169). -/
def Dev.thermSample (d : Dev) (tj : Int) : Dev :=
  let d := d.thermShow tj
  let l := d.get F.THERM_STATUS.level
  let noFit := d.is F.THERM_STATUS.l2_nofit
  let up := if noFit ∧ l = 1 then 3 else l + 1
  let down := if noFit ∧ l = 3 then 1 else l - 1
  if l < 3 ∧ (d.thermAt up : Int) ≤ tj then
    let d := d.setTherm up
    if up = 2 then d.lossBy 2 else d
  else if 0 < l ∧ tj ≤ (d.thermAt l : Int) - 3 then
    let d := d.setTherm down
    let d := if down = 0 then d.put F.THERM_STATUS.l2_nofit 0 else d
    if 1 < l then d.lossBy (if l = 3 then 3 else 0) else d
  else d

/-- THERMAL_WINDOW_DROP (R529). -/
def Dev.thermDrop (d : Dev) : Dev :=
  if d.get F.THERM_STATUS.level ≠ 3 then d
  else
    match ((winsOn d.actv).filter fun w => !d.pwr.dropped.contains w).getLast? with
    | some w =>
      (d.setDropped (d.pwr.dropped ++ [w])).raise 36
    | none => d

end Sys2Proof.Machine
end

