-- ==== Sys2Proof/Machine/Steward.lean ====
section
/-! DEFINITION. In-service operations by kind, lane failover, the lane-health policy, firmware switches and self-tests
(R231, R247, R534 to R540, R544). -/

namespace Sys2Proof.Machine

/-! ## Failover and failback (R231, R247) -/

/-- Windows on a lane show whether a spare carries one of their lanes (R231). -/
def Dev.spareShow (d : Dev) : Dev :=
  (winsOn d.actv).foldl (fun d w =>
    d.put (F.WIN_STATUS.on_spare w) (b2n ((winLanes d.actv w).any fun n => d.carrier n != n))) d

/-- Lanes whose transmitter has failed and for which no spare is free any more leave service (R45, R231). -/
def Dev.lanesStranded (d : Dev) : Dev :=
  let ns := (List.range 144).filter fun n =>
    (d.lane n).txDead && d.laneUsed n && d.carrier n == n && !d.is (F.LANE_STATUS.out_of_service n) && (d.freeSpareOf n).isNone
  if ns.isEmpty then d else (ns.foldl (fun (d : Dev) n => d.put (F.LANE_STATUS.out_of_service n) 1) d).loss

/-- The receiver of a spare comes under the fields of another lane, its own included: what it had found under another kind of mode is
lost (R228, R241). -/
def Dev.spareSide (d : Dev) (k old new : Nat) : Dev := if laneSide d.actv old = laneSide d.actv new then d else d.rxClear k

/-- The failover applies: the spare carries the lane, which leaves service; its own transmitter no longer runs (DEDUCED,
log 65), and sideband fragments and packets queued on the lane stay there until its failback: the manual does not say where they go
(DESIGN CHOICE, log 127). A halt does not go with the traffic: the spare sends what a halted lane did not, and one halted on the spare stays
with the spare after the failback, of which the manual says nothing (DESIGN CHOICE, log 170). Re-admission follows (R50, R186). -/
def Dev.failover (d : Dev) (n : Nat) : Dev :=
  match d.freeSpareOf n with
  | some k =>
    let d := ((d.spareSide k k n).put (F.LANE_STATUS.carrying k) 1).put (F.LANE_STATUS.carried_lane k) n
    let d := ((d.put (F.LANE_STATUS.tx_on k) 1).put (F.LANE_STATUS.tx_on n) 0).put (F.LANE_STATUS.out_of_service n) 1
    (((d.laneEvt n F.LANE_EVT.failover).spareShow.haltWins).laneDrain k).lanesStranded.loss
  | none => d

/-- The failback applies: the traffic returns; when its spare had failed an exit ends (R50). -/
def Dev.failback (d : Dev) (n : Nat) : Dev :=
  let k := d.carrier n
  if k = n then d
  else
    let d := ((d.spareSide k n k).put (F.LANE_STATUS.carrying k) 0).put (F.LANE_STATUS.carried_lane k) 0
    let d := ((d.put (F.LANE_STATUS.tx_on k) 0).put (F.LANE_STATUS.tx_on n) (b2n (!(d.lane n).txDead))).put (F.LANE_STATUS.out_of_service n) 0
    let d := (((d.laneEvt n F.LANE_EVT.failover).spareShow.haltWins).laneDrain k).laneDrain n
    if (d.lane k).txDead then d.loss else d

/-- A write of 1 to LANE_CMD.failover or failback: the operation's version 1 stands for failback. -/
def Dev.laneMove (d : Dev) (n : Nat) (back : Bool) : Dev :=
  let before := d.stw.ops.length
  let d := d.opRequest 4 n (d.laneCanvas n) 2
  if back ∧ d.stw.ops.length ≠ before then { d with stw.ops := d.stw.ops.mapIdx fun i o => if before ≤ i then { o with ver := 1 } else o }
  else d

/-! ## Answers (R535) -/

/-- The code of a refusal that the manual gives a reason but no answer code: a free value. Log 44. -/
def Dev.opReason (d : Dev) (o : Op) (reason : Nat) : Dev := d.drawn.opDrop o (d.free % 256) reason

/-- The resource state that the move of a lane creates (R182): a spare that can send carries it, or its own transmitter does
again. -/
def Dev.laneTweak (d : Dev) (n : Nat) (back : Bool) (r : AdmRes) : AdmRes :=
  let rest := r.laneDead.filter (· != n)
  { r with laneDead := if back && (d.lane n).txDead then n :: rest else rest }

/-- The answer to a lane operation: the refusals of R231 in their order, then admission. A failover needs a free spare also for
a lane that a spare carries already; a re-equalisation moves no lane that is not used or is carried, and then starts at a tick of the
reference canvas of its request, as that of a lane of no canvas does (R535, R537). -/
def Dev.laneAnswer (d : Dev) (o : Op) : Dev :=
  let n := o.target
  let rd := d.actv
  let back := o.kind == 4 && o.ver == 1
  let inPlace := o.kind == 5 && (!d.laneUsed n || d.carrier n != n)
  if 144 ≤ n ∨ laneSpare rd n ∨ !laneOn rd n ∨ laneMode rd n = 0 ∨ (back ∧ d.carrier n = n) then
    d.opDrop o 0x20 (if 144 ≤ n then 1 else 0)
  else if !back ∧ !inPlace ∧ (d.freeSpareOf n).isNone then d.opDrop o 0x27 0
  else if !d.opRoom o then d.opDrop o 0x2C 0
  else
    let code := d.opAdmits o (if inPlace then id else d.laneTweak n back)
    if code ≠ 0 then d.opDrop o code 0
    else
      let s := d.opStartAt (if o.kind = 5 ∧ (inPlace ∨ d.laneCanvas n = 8) then o.ref else d.laneCanvas n)
      d.opAdmit o s.1 s.2

/-- The answer to an operation whose only refusals are resources. -/
def Dev.plainAnswer (d : Dev) (o : Op) (tweak : AdmRes → AdmRes) : Dev :=
  if !d.opRoom o then d.opDrop o 0x2C 0
  else
    let code := d.opAdmits o tweak
    if code ≠ 0 then d.opDrop o code 0
    else
      let s := d.opStartAt o.ref
      d.opAdmit o s.1 s.2

/-- The answer to a configuration image selection (R538). -/
def Dev.imageAnswer (d : Dev) (o : Op) : Dev :=
  if 2 ≤ o.target then d.opReason o 1
  else if (d.imageSeq o.target).isNone then d.opReason o 2
  else d.plainAnswer o id

/-- The answer to an operation request by its kind (R534, R535). -/
def Dev.answerOp (d : Dev) (o : Op) : Dev :=
  match o.kind with
  | 1 =>
    if d.get F.COMMIT_STATUS.state ≠ 0 ∨ d.dry.isSome then d.opDrop o 0x12 0 else
    let d' := d.plainAnswer o fun r => { r with stwHalf := true }
    if d'.stw.ops.any fun p => p.kind == 1 && p.state == 1 then d'.put F.FW_STATUS.switch_pending 1 else d'
  | 2 =>
    if d.pcState o.target ≠ 1 ∧ d.pcState o.target ≠ 7 then d.opDrop o 0x20 1
    else d.plainAnswer o fun r => { r with pcs := r.pcs - 1 }
  | 3 => d.retireAnswer o
  | 4 => d.laneAnswer o
  | 5 => d.laneAnswer o
  | 8 => d.imageAnswer o
  | 9 =>
    let d' := d.plainAnswer o id
    if d'.stw.ops.any fun p => p.kind == 9 && p.state == 1 then d'.joinSend o.target else d'
  | _ => d.plainAnswer o id

/-- OP_ANSWER: the oldest request whose check is done is answered. -/
def Dev.opAnswer (d : Dev) : Dev :=
  match d.stw.ops.find? fun o => o.state == 0 && !o.check with
  | some o => d.answerOp o
  | none => d

/-! ## Firmware switch (R536) -/

/-- FW_CHECK_DONE: the image that the check of the other slot finds. -/
def Dev.fwCheckDone (d : Dev) (img : Option Nat) : Dev :=
  match d.stw.ops.find? fun o => o.kind == 1 && o.check with
  | none => d
  | some o =>
    match d.fwFound (1 - d.get F.FW_STATUS.slot) img with
    | none => d.opReason o 2
    | some v =>
      if v ≤ d.get F.FW_STATUS.major * 256 + d.get F.FW_STATUS.minor then d.opReason o 3
      else d.setOp o { o with check := false, ver := v }

/-- FW_SWITCH_PREPARE at T − P: stewards 2 and 3 start the new image, and the old image goes on at half budget until T. -/
def Dev.fwPrepare (d : Dev) : Dev :=
  match d.stw.ops.find? fun o => o.kind == 1 && o.state == 1 with
  | some o => d.setOp o { o with half := true }
  | none => d

/-- The new image runs at T. -/
def Dev.fwSwitch (d : Dev) (o : Op) : Dev :=
  let slot := d.get F.FW_STATUS.slot
  let d := ((d.put F.FW_STATUS.minor (o.ver % 256)).put F.FW_STATUS.major (o.ver / 256)).put F.FW_STATUS.slot (1 - slot)
  let d := if slot = 0 then { d with pwr.fwB := some o.ver } else { d with pwr.fwA := some o.ver }
  ((d.put F.FW_STATUS.switch_pending 0).raise 836).opEnd 1 o.target 1

/-! ## Starts (R535, R537) -/

/-- OP_START: an admitted operation starts at its instant; the failback of a re-equalisation at its own. A failover whose spare has
failed since its answer is not made, and the operation has failed. -/
def Dev.opStart (d : Dev) (kind target : Nat) : Dev :=
  match d.stw.ops.find? fun o => o.kind == kind && o.target == target && o.state != 0 && d.isDue o.start with
  | none => d
  | some o =>
    let b := if o.state = 1 then d.opBegin o else d
    match kind with
    | 1 => b.fwSwitch o
    | 3 => if o.state = 1 then d.migrStart (target / 32) else d
    | 4 =>
      if o.ver = 1 then (b.failback target).opEnd 4 target 1
      else if (d.freeSpareOf target).isSome then (b.failover target).opEnd 4 target 1
      else (b.laneRefused target).opEnd 4 target 3
    | 5 =>
      if o.state = 1 then
        if !d.laneUsed target ∨ d.carrier target ≠ target then b
        else if (d.freeSpareOf target).isSome then b.failover target
        else (b.laneRefused target).opEnd 5 target 3
      else if o.state = 3 then (b.failback target).opEnd 5 target 1
      else d
    | 8 => (b.put F.BOOT_CTL.cfg_next (target + 1)).opEnd 8 target 1
    | 6 => if o.state = 1 then b.loseLock (8 + target) else d
    | _ => b

/-- The firmware switch that is due at a tick of its canvas (R536). -/
def Dev.dueSwitch (d : Dev) (c : Nat) : Dev :=
  (d.stw.ops.filter fun o => o.kind == 1 && o.state == 1 && d.isDue o.start && o.ref == c).foldl (fun d o => d.opStart 1 o.target) d

/-- REEQ_DONE: step 2 ends; the lane fails back at a tick, stays on the spare, or is done (R537). -/
def Dev.reeqDone (d : Dev) (n : Nat) (ok : Bool) : Dev :=
  match d.stw.ops.find? fun o => o.kind == 5 && o.target == n && o.state == 2 with
  | none => d
  | some o =>
    let dead := (d.lane n).txDead && d.carrier n == n
    let d := if ok then d.setLane n { d.lane n with txDead := false } else d
    let d := if ok && dead && d.laneUsed n then d.loss else d
    if !ok then d.opEnd 5 n 3
    else if (o.origin = 1 ∨ d.is F.LANE_POLICY.auto_failback) ∧ d.carrier n ≠ n then
      let s := d.opStartAt (d.laneCanvas n)
      d.setOp o { o with state := 3, start := s.1 }
    else d.opEnd 5 n 1

/-- The failbacks due at a tick of a canvas (R537). -/
def Dev.dueFailbacks (d : Dev) (c : Nat) : Dev :=
  (d.stw.ops.filter fun o => o.kind == 5 && o.state == 3 && d.isDue o.start && d.laneCanvas o.target == c).foldl
    (fun d o => d.opStart 5 o.target) d

/-! ## The lane-health policy (R540) -/

/-- Whether a lane meets the policy now. -/
def Dev.laneMeets (d : Dev) (n : Nat) : Bool :=
  let errs := (Tab.get (fun _ => []) d.stw.errs n).filter fun t => d.now < t + 1000000000
  laneOn d.actv n && laneMode d.actv n != 0 &&
    (decide (d.get F.LANE_POLICY.err_limit < errs.length) || (d.lane n).txDead ||
      (match Tab.get (fun _ => none) d.stw.lossAt n with
        | some t => decide (t + 10000000 ≤ d.now)
        | none => false))

/-- LANE_POLICY_RUN: lanes that come to meet the policy raise LANE_HEALTH; in act mode each one requests kind 5 until it is
admitted. The mode is the one taken over at the last tick boundary (R539, log 130). -/
def Dev.lanePolicy (d : Dev) (overrun : Bool) : Dev :=
  if overrun then (d.bump F.POLICY_OVERRUNS.count).raise 838
  else
    let mode := d.stw.laneMode
    if mode = 0 then { d with stw.health := [], stw.asked := [] }
    else
      let meets := (List.range 144).filter d.laneMeets
      let old := d.stw.health
      let d : Dev := { d with stw.health := meets, stw.asked := d.stw.asked.filter meets.contains }
      let act := mode == 2 && d.get F.THERM_STATUS.level == 0
      meets.foldl (fun d n =>
        let d := if old.contains n then d else d.raise 837
        if act && !d.stw.ops.any (fun o => (o.kind == 5 || o.kind == 4) && o.target == n) && !d.stw.asked.contains n then
          d.opRequest 5 n (d.laneCanvas n) 0
        else d) d

/-- LANE_TX_STOP: the transmitter of a lane stops; with no free spare its traffic is lost, and where it is a spare that others waited
for, theirs (R45, R231, R540). -/
def Dev.txStop (d : Dev) (n : Nat) : Dev :=
  if (d.lane n).txDead then d
  else
    let d := (d.setLane n { d.lane n with txDead := true }).put (F.LANE_STATUS.tx_on n) 0
    let f := d.fieldsOf n
    if f ≠ n ∧ d.laneUsed f then (d.put (F.LANE_STATUS.out_of_service f) 1).loss else d.lanesStranded

/-- A rejected block counts for the policy over one second. -/
def Dev.noteBlockError (d : Dev) (n : Nat) : Dev :=
  let l := (Tab.get (fun _ => []) d.stw.errs n).filter fun t => d.now < t + 1000000000
  { d with stw.errs := Tab.set (fun _ => []) d.stw.errs n (d.now :: l) }

/-- Lock or link of a lane lost or found. -/
def Dev.noteLock (d : Dev) (n : Nat) (lost : Bool) : Dev :=
  { d with stw.lossAt := Tab.set (fun _ => none) d.stw.lossAt n (if lost then some d.now else none) }

/-! ## Operation requests of the mailbox (R546) -/

/-- OP_REQUEST: false when the request fails under R281. One of an accessor below Privileged, a cancel too, is refused with PRIV in
place of the ignored write of R277 (R535; DEDUCED, log 129). -/
def Dev.opMailbox (d : Dev) (level w0 w1 : Nat) : Bool × Dev :=
  let kind := bitsOf w0 0 4
  let target := bitsOf w0 8 8
  if kind ≠ 1 ∧ kind ≠ 5 ∧ kind ≠ 8 then (false, d)
  else if level < 2 then (true, d.opRefuse kind target 0x14 0)
  else if bitOf w0 16 = 1 then (true, d.opCancel kind target)
  else (true, d.opRequest kind target (bitsOf w1 0 3) 1)

/-! ## Self-tests (R544) -/

/-- Whether the conditions of a test hold. -/
def Dev.testAllowed (d : Dev) (test i : Nat) : Bool :=
  !d.is F.TEST_STATUS.running && !d.is F.STATUS.recovery &&
    match test with
    | 5 => !d.anyCanvas
    | 6 => laneMode d.actv i == 0 && !laneSpare d.actv i
    | 7 => d.pcState i == 2
    | _ => true

/-- A row of the page directory of R272: first page, block code, instances and pages of an instance. -/
structure DirRow where
  first : Nat
  code  : Nat
  insts : Nat
  pages : Nat

/-- The page directory (R272). -/
def pageDirectory : List DirRow :=
  [⟨0x0, 0x01, 1, 1⟩, ⟨0x100, 0x02, 8, 16⟩, ⟨0x200, 0x03, 576, 1⟩, ⟨0x440, 0x05, 2, 16⟩, ⟨0x500, 0x06, 1, 256⟩, ⟨0x600, 0x07, 1, 16⟩,
   ⟨0x610, 0x08, 64, 1⟩, ⟨0x700, 0x09, 64, 1⟩, ⟨0x800, 0x0A, 1, 256⟩, ⟨0x900, 0x0B, 1, 256⟩, ⟨0xA00, 0x0C, 1, 256⟩,
   ⟨0xB00, 0x0D, 1, 256⟩, ⟨0xC00, 0x0E, 1, 256⟩, ⟨0xF00, 0x0F, 1, 1⟩, ⟨0x3000, 0x04, 144, 1⟩]

/-- Whether PAGE_ID of a page gives the block code and the instance of its row of the directory (R272). -/
def pageIdRight (n : Nat) (p : Page) : Bool :=
  pageDirectory.any fun r =>
    decide (r.first ≤ n) && decide (n < r.first + r.insts * r.pages) && bitsOf p.idWord 24 8 == r.code &&
      bitsOf p.idWord 0 16 == (n - r.first) / r.pages

/-- CRC of the CRC test: the reset parameters over "123456789" (R544). -/
def crcTestValue : Nat := CuPar.crc32c.result (CuPar.crc32c.absorb CuPar.crc32c.init ("123456789".toList.map fun c => BitVec.ofNat 8 c.toNat))

/-- The errors of a test that the state decides: pages whose PAGE_ID is not that of the directory (REG), PLLs that have lost their lock
(CLOCK, which the manual has report the locks and gives no errors: DESIGN CHOICE, log 162), configuration images that fail their check
(FLASH), units not enabled that find another value (CRC). -/
def Dev.testErrors (d : Dev) (test : Nat) : Nat :=
  match test with
  | 1 => (pagesOutside.filter fun e => !pageIdRight e.1 e.2).length + b2n !((pageOf 0xF00).any (pageIdRight 0xF00))
  | 2 => ((List.range 88).filter fun i => (d.pll i).lost).length
  | 3 => b2n (d.imageSeq 0).isNone + b2n (d.imageSeq 1).isNone
  | 4 => if crcTestValue = 0xE3069283 then 0 else ((List.range 56).filter fun u => !cuOn d.actv u).length
  | _ => 0

/-- Bytes that the manual does not give. -/
def Dev.freeBytes (d : Dev) (n : Nat) : List Byte × Dev :=
  ((List.range n).map fun k => BitVec.ofNat 8 (Config.freeNat (d.seed + k)), { d with seed := d.seed + n })

/-- A test starts; the SRAM test leaves the content of Gallery, line-buffer pools and staging undefined, the last a free value: nothing
reads the others before the next application tick. The staging holds the buffers of channels and the data of bulk writes (R320). -/
def Dev.testStart (d : Dev) (test i : Nat) : Dev :=
  let e := d.testErrors test
  let d := { d with stw.test := some (test, i), stw.testErr := e }
  let d := (d.put F.TEST_STATUS.running 1).put F.TEST_STATUS.test test
  if test = 5 then
    let d := (List.range 8).foldl (fun d h => d.setHall h { d.hall h with pool := [] }) { d with gal := [], wbRows := [] }
    let d := (List.range 64).foldl (fun d c =>
      let r := d.freeBytes (d.chan c).buf.length
      if (d.chan c).buf.isEmpty then d else r.2.setChan c { r.2.chan c with buf := r.1 }) d
    d.bulk.foldl (fun d b =>
      let r := d.freeBytes b.2.data.length
      { r.2 with bulk := d.bulk ++ [(b.1, { b.2 with data := r.1 })] }) { d with bulk := [] }
  else d

/-- TEST_COMPLETE: `errors` is what the test finds beside the errors that the state decides, of firmware signatures, of lanes, bursts and
SRAM, and of faulty hardware, which the state does not hold.
The HBM test has written and read its PC in class MT (R376). -/
def Dev.testDone (d : Dev) (errors : Nat) : Dev :=
  match d.stw.test with
  | none => d
  | some (test, _) =>
    let n := errors + d.stw.testErr
    let d := { d with stw.test := none }
    let d := if test = 7 then d.classBytes 3 false (2 * d.pcBytes) else d
    let d := (d.put F.TEST_STATUS.running 0).put F.TEST_STATUS.pass (b2n (n == 0))
    (d.put F.TEST_STATUS.errors (min n 65535)).raise 839

end Sys2Proof.Machine
end

