-- ==== Sys2Proof/Machine/Xlat.lean ====
section
/-! DEFINITION. The translation unit's own steps: lookups and walks (R383 to R388), the handling of a fault (R390), the record
queue (R392) and invalidation (R393 to R395). -/

namespace Sys2Proof.Machine

/-- A unit of run-ahead before its tick: it travels in class BE until then (R163, R361). -/
def unitAhead (r : XReq) : Bool := r.spec && r.kind.val == 0 && r.cls != .rt
/-- A unit as it enters: that of run-ahead in class BE. -/
def unitEntered (r : XReq) : XReq := if r.spec && r.kind.val == 0 then { r with cls := .be } else r

/-- The hall and layer that the master word of a composition unit names (R392). -/
def unitHall (m : Nat) : Nat := bitsOf m 0 3
def unitLayer (m : Nat) : Nat := bitsOf m 3 6

/-- A unit as it waits, and of run-ahead what it is fetched for. -/
def Dev.waiting (d : Dev) (r : XReq) : XWait :=
  { req := r, ahead := if unitAhead r then some (d.aheadOf (unitHall r.master.toNat) [unitLayer r.master.toNat]) else none }

/-- Whether what is fetched for is due with tick `n` of a canvas, or with `all` of a new stream. -/
def Ahead.due (a : Ahead) (c n : Nat) (all : Bool) : Bool := a.canvas == c && (all || decide (a.tick ≤ n))

/-- At a tick of a canvas the run-ahead requests for it become RT (R163, R361): walks that wait, and reads in the PC queues; `all` where
a new stream begins. -/
def Dev.promoteAhead (d : Dev) (c n : Nat) (all : Bool) : Dev :=
  { d with
    walks := d.walks.map fun w => if w.ahead.any (·.due c n all) then { req := { w.req with cls := .rt }, ahead := none } else w
    pcq := lendClasses (d.pcq.map fun x => if x.spec.any (·.due c n all) then { x with cls := 0, spec := none } else x) }

/-- A translation fault of a unit: held with its tag for run-ahead (R165), else recorded (R390, R392). -/
def Dev.unitFault (d : Dev) (w : XWait) (code level : Nat) : Dev :=
  let r := w.req
  match w.ahead with
  | some a =>
    d.deferFault a.hall
      { tag := a.tag (unitLayer r.master.toNat), va := r.va.toNat, kind := 0, master := r.master.toNat, code := code,
        level := level } (a.canvas, a.tick)
  | none => d.faultRecord r.kind.val r.master.toNat r.asid.val r.va.toNat code level r.write false

/-- A unit is looked up (R383, R386, R387): the fault it meets, or none; a miss waits for its walk. -/
def Dev.lookup (d : Dev) (r : XReq) : Option (Nat × Nat) × Dev :=
  match d.get (F.SPACE_CTL.mode r.asid.val) with
  | 0 => (some (1, 0), d.unitFault (d.waiting r) 1 0)
  | 1 =>
    match d.leafFor r.asid.val r.va.toNat with
    | some l =>
      let d := d.bump F.XLAT_HITS.count
      let lv := if l.big then 2 else 3
      match permRes l r.write r.va.toNat lv with
      | .ok _ => (none, d)
      | .bad c v => (some (c, v), d.unitFault (d.waiting r) c v)
    | none => (none, { (d.bump F.XLAT_MISSES.count) with walks := d.walks ++ [d.waiting r] })
  | _ => (none, d)

/-- The oldest walk, as it is after a change of its space's mode: the request waiting on it was restarted and walks no more (R383,
R393). -/
def Dev.walkless (d : Dev) (x : XWait) : Option (Option XReq × Dev) :=
  match d.get (F.SPACE_CTL.mode x.req.asid.val) with
  | 1 => none
  | 0 => some (some x.req, ({ d with walks := d.walks.tail }).unitFault x 1 0)
  | _ => some (none, { d with walks := d.walks.tail })

/-- The oldest walk ends with a cached leaf or a fault (R384, R387), its reads in the class of its request (R388): the unit whose walk
faulted. None ends while it needs a read of a stack whose traffic is held (R456). -/
def Dev.walkDone (d : Dev) : Option XReq × Dev :=
  match d.walks with
  | [] => (none, d)
  | u :: q =>
    match d.walkless u with
    | some x => x
    | none =>
      let r := u.req
      let w := d.walk r.asid.val r.va.toNat r.write
      if w.reads.any fun x => d.paHeld x.2 then (none, d)
      else
        let d := ({ d with walks := q }).walked w (clsNat r.cls) r.spec r.asid.val r.va.toNat
        match w.res with
        | .ok _ => (none, d)
        | .bad c v => (some r, d.unitFault u c v)

/-- A walk read comes back uncorrectable: the oldest walk faults with WALK_UE at the level of that read, with the reads it made until
then (R385). -/
def Dev.walkUe (d : Dev) (pa : Nat) : Option XReq × Dev :=
  match d.walks with
  | [] => (none, d)
  | u :: q =>
    match d.walkless u with
    | some x => x
    | none =>
    let r := u.req
    let d := { d with walks := q }
    let w := d.walk r.asid.val r.va.toNat r.write
    let k := w.reads.findIdx fun x => x.2 / 64 == pa / 64
    let reads := w.reads.take (k + 1)
    let level := (reads.getLast?.map (·.1)).getD 0
    let d := (d.bumpBy F.WALK_READS.count reads.length).classBytes (clsNat r.cls) r.spec (64 * reads.length)
    (some r, (d.raise 643).unitFault u 6 level)

/-! ## Records (R392, R396) -/

/-- FAULT_REC: the oldest record, removed. -/
def Dev.faultRec (d : Dev) : List Word × Dev :=
  match d.faults with
  | [] => ([0, 0, 0, 0], { d with lostOpen := false })
  | r :: q =>
    let d := { d with faults := q, lostOpen := d.lostOpen && !q.isEmpty }
    ([w32 r.va,
      w32 (r.va / 2 ^ 32 + r.asid * 2 ^ 16 + r.code * 2 ^ 20 + r.level * 2 ^ 23 + r.kind * 2 ^ 25 + b2n r.write * 2 ^ 28 +
        b2n r.spec * 2 ^ 29 + 2 ^ 30),
      w32 (r.master + r.count * 2 ^ 16), w32 r.ns], d.put F.INV_STATUS.queued q.length)

/-! ## Invalidation (R393 to R395) -/

/-- The scope of an invalidation: spaces and the range of addresses. -/
structure InvScope where
  asid : Option Nat
  lo   : Nat
  hi   : Nat
deriving DecidableEq, Repr

def InvScope.meets (s : InvScope) (asid va size : Nat) : Bool :=
  s.asid.all (· == asid) && s.lo < va + size && va < s.hi

/-- Whether a vestibule entry was fetched from a page in the scope (R394). -/
def vestIn (s : InvScope) (e : Tag × Nat) : Bool := s.meets e.1.asid e.2 64

/-- Remove what the scope meets; the drain begins. A walk reads its tables and the mode of its space when it ends, so one in progress
runs from ROOT again (R393). -/
def Dev.invalidate (d : Dev) (s : InvScope) : Dev :=
  let d := { d with
    leaves := d.leaves.filter (fun l => !s.meets l.asid l.va (if l.big then 2 ^ 21 else 2 ^ 16)),
    wcache := d.wcache.filter (fun e => !s.meets (e.1 / 2 ^ 27) (e.1 % 2 ^ 27 * 2 ^ 21) (2 ^ 21)), invAt := some d.now }
  let d := (List.range 8).foldl (fun d h => d.vestDiscard (hallCanvas d.actv h) h (vestIn s)) d
  d.put F.INV_STATUS.busy 1

/-- The scope of INV_REQUEST; none for one that fails (R393, R396). -/
def scopeOf (w0 w1 w2 : Nat) : Option InvScope :=
  let a := bitsOf w0 4 4
  match bitsOf w0 0 2 with
  | 0 => some { asid := none, lo := 0, hi := 2 ^ 48 }
  | 1 => some { asid := some a, lo := 0, hi := 2 ^ 48 }
  | 2 => if w2 = 0 then none else some { asid := some a, lo := w1 * 65536, hi := (w1 + w2) * 65536 }
  | _ => none

/-- A change of a space's root or mode invalidates the space (R395). -/
def Dev.invSpace (d : Dev) (a : Nat) : Dev := d.invalidate { asid := some a, lo := 0, hi := 2 ^ 48 }

/-- The drain is done (R394). -/
def Dev.invDone (d : Dev) : Dev :=
  if !d.is F.INV_STATUS.busy then d
  else
    let us := (d.now - d.invAt.getD d.now) / 1000
    let d := (({ d with invAt := none }).put F.INV_STATUS.busy 0).bump F.INV_COUNT.count
    (d.put F.INV_DRAIN_US.us (min us 65535)).raise 642

end Sys2Proof.Machine
end

