-- ==== Sys2Proof/Machine/Reg.lean ====
section
/-! DEFINITION. Software accesses (R271 to R287, R293): reads and writes of registers with their access codes, privilege and
locks, the commands a write gives, the indirect pair, the mailbox, snapshots and the configuration scan. An access takes
the Alcove as the command found it, for the words of it that the pages show; what it gives the Alcove is taken at once, and stands in
`alcq` until the command ends. -/

namespace Sys2Proof.Machine

/-! ## Snapshots (R283, R284) -/

/-- A snapshot: the counters as they stand, those of the ALCOVE page apart, then SNAP_SEQ and SNAP_DONE. -/
def Dev.snapshot (d : Dev) (late : Bool) : Dev :=
  let d := { d with regs.held := d.regs.stored.filter fun e => pageNo e.1 != 0xF00, regs.heldInd := d.regs.ind, heldB := d.wideCounters }
  let d := d.bump F.SNAP_SEQ.seq
  let d := if late then d.put F.SNAP_STATUS.late 1 else d
  d.raise 4

/-- The outstanding at_tick snapshot is taken. -/
def Dev.snapFire (d : Dev) (late : Bool) : Dev :=
  (({ d with snapTick := none }.put F.SNAP_STATUS.armed 0).put F.SNAP_CMD.at_tick 0).snapshot late

/-- SNAP_CMD.at_tick on the canvas of the register: at once when the tick has passed or the canvas does not run. -/
def Dev.snapArm (d : Dev) : Dev :=
  let c := d.get F.SNAP_CMD.canvas
  if !d.is (F.TICK_STATUS.running c) || d.snapFrom ≤ (d.canvas c).tick then d.snapFire true
  else (({ d with snapTick := some d.snapFrom, snapCanvas := c }).put F.SNAP_STATUS.armed 1).put F.SNAP_CMD.at_tick 1

/-! ## The configuration scan (R285, R286) -/

/-- The word a register gives to the scan, none when it takes no part. -/
def Dev.scanWord (d : Dev) (a : Nat) : Option Word :=
  let m := maskWhere a fun f => f.acc == .rws
  let r := if 0x601100 ≤ a ∧ a < 0x601200 then maskWhere a fun f => f.acc == .rw && !f.isCount else 0
  if a = A.CFG_REFCRC ∨ (m = 0 ∧ r = 0) then none else some ((d.actv a &&& m) ||| (d.stored a &&& r))

/-- The registers that take part, in directory order. -/
def scanAddrs : List Nat :=
  pagesOutside.flatMap fun x => x.2.addrs x.1 fun fs =>
    fs.any fun f => f.acc == .rws || (x.2.block == .xlat && x.2.page == 1 && f.acc == .rw && !f.isCount)

/-- The CRC-32C of a scan. -/
def Dev.scanCrc (d : Dev) : Word := crc32c (scanAddrs.flatMap fun a => ((d.scanWord a).map fun w => bytesLE 4 w.toNat).getD [])

/-- CFG_STATUS.safe follows the mismatch and the reaction selected (R288). -/
def Dev.cfgSafe (d : Dev) : Dev := d.put F.CFG_STATUS.safe (b2n (d.is F.CFG_STATUS.mismatch && d.get F.CFG_CTL.reaction == 2))

/-- A completed scan (R287, R288). -/
def Dev.scanDone (d : Dev) (us : Nat) : Dev :=
  let crc := d.scanCrc
  let d := ((d.setStored A.CFG_SCANCRC crc).bump F.CFG_SCANS.count).put F.CFG_SCAN_US.us us
  if !d.is F.CFG_STATUS.armed then d
  else
    let bad := crc != d.actv A.CFG_REFCRC
    let was := d.is F.CFG_STATUS.mismatch
    let d := (d.put F.CFG_STATUS.mismatch (b2n bad)).cfgSafe
    if bad && !was then (d.bump F.CFG_MISMATCHES.count).raise 2
    else if !bad && was then d.raise 3
    else d

/-! ## How an access ends -/

/-- The end of a write of which nothing, or something, was ignored. -/
def AccEnd.of (b : Bool) : AccEnd := if b then .ok else .ignored

/-! ## Locks (R139, R210, R395, R422) -/

/-- The lead hall whose tone policy owns the LUTs of a hall. -/
def Dev.leadNow (d : Dev) (h : Nat) : Nat := if hallOn d.actv h then leadOf d.actv h else h

/-- Whether the tone policy owns the tone banks, and the 3D LUT banks, of a hall (R139): the mode as written counts,
not the one that R142 takes over at the next tick boundary, and the mode of the lead hall also locks the banks and swap commands of
the other halls of its gang, whose writes R138 keeps (DESIGN CHOICE, log 114). -/
def Dev.toneOwned (d : Dev) (h : Nat) : Bool := d.get (F.TONE_POLICY.mode (d.leadNow h)) == 2
def Dev.lut3dOwned (d : Dev) (h : Nat) : Bool := d.toneOwned h && d.is (F.TONE_POLICY.lut3d (d.leadNow h))

/-- Whether a lock bit covers a field (R139, R210, R395, R422). -/
def Dev.fieldLocked (d : Dev) (a : Nat) (f : Fld) : Bool :=
  match pageAt a with
  | none => false
  | some p =>
    let h := p.inst
    match p.block with
    | .hall =>
      d.balLocked h p.page a f.name ||
        (a == A.TONE_CMD h && ((f.name == "swap_tone" && d.toneOwned h) || (f.name == "swap_lut3d" && d.lut3dOwned h)))
    | .dma =>
      (a == A.CQ_CTL h || a == A.CQ_BASE_LO h || a == A.CQ_BASE_HI h) && d.chState h != 0
    | .xlat =>
      match actingAt a with
      | .space _ => d.is F.INV_STATUS.busy
      | _ => false
    | _ => false

/-- Whether a write-once field no longer holds its reset value (R275). -/
def Dev.wosSet (d : Dev) (a : Nat) (f : Fld) : Bool := f.acc == .wos && bitsOf (d.stored a).toNat f.lsb f.width != f.reset

/-- The command bits of a register that read 1 because their command is outstanding (R275): the operations that they requested,
a resume that waits for its frame (R230), a pause that is not yet complete (R424), a core recalibration until the switch back
(R457) and the reset to come (R511). A bit of PC_CMD serves all PCs and stays set until its operation is answered (DEDUCED, log
63). -/
def Dev.cmdBits (d : Dev) (a : Nat) : Word :=
  let asked (k : Nat) (p : Op → Bool) : Nat := b2n (d.stw.ops.any fun o => o.origin == 2 && o.kind == k && p o)
  match actingAt a with
  | .laneCmd n => w32 (asked 4 (fun o => o.target == n && o.ver == 0) + 2 * asked 4 (fun o => o.target == n && o.ver == 1) +
      8 * b2n (d.lane n).resumeAt.isSome)
  | .cascCmd => w32 (16 * asked 9 fun _ => true)
  | .pcCmd => w32 (256 * asked 3 (fun o => o.state == 0) + 512 * asked 2 fun o => o.state == 0)
  | .chCmd c => w32 (b2n (d.chState c == 4))
  | .tsyn c => if a = (F.TSYN_CMD.recal c).addr then w32 (asked 6 fun o => o.target == c) else 0
  | .clkCtl => w32 (d.get F.CLK_CTL.core_recal)
  | .rstCmd => w32 (b2n d.pwr.rstAt.isSome)
  | _ => 0

/-! ## What a write does beside storing -/

/-- The level of an accessor on a page (R277, R485). -/
def Dev.levelOn (d : Dev) (acc page : Nat) : Nat := if page = 0xF00 then d.heldLevel acc else d.levelOf acc

/-- An acting register after its fields are stored; `v` holds the command bits and write-only bits written as 1, `old` is
the module before the write. The Bool says that nothing was ignored under R276. Commands written together act in the order of their
bits, so a FLIP_CMD write of request and withdraw withdraws the entry that it queues: the manual does not say (DESIGN CHOICE, log
126). -/
def Dev.act1 (d old : Dev) (acc a v : Nat) : Bool × Dev :=
  match actingAt a with
  | .snapCmd =>
    let d := if bitOf v 0 = 1 then d.snapshot false else d
    (true, if bitOf v 1 = 1 then d.snapArm else d)
  | .commitCmd => (true, if bitOf v 0 = 1 then d.cancelAny acc else d)
  | .hallCmd h => (true, if bitOf v 0 = 1 then d.hallKill h else d)
  | .toneCmd h =>
    let d := if bitOf v 0 = 1 then d.put (F.TONE_CMD.swap_tone h) 1 else d
    (true, if bitOf v 1 = 1 then d.put (F.TONE_CMD.swap_lut3d h) 1 else d)
  | .statCtl h =>
    (true, if old.is (F.STAT_CTL.hold h) && !d.is (F.STAT_CTL.hold h) then
      (if leadOf d.actv h = h then gangOf d.actv h else []).foldl (fun d k => d.statsPublish k) d else d)
  | .flipCmd h n =>
    let d := if bitOf v 0 = 1 then d.flipRequest h n else d
    (true, if bitOf v 1 = 1 then d.flipWithdraw h n else d)
  | .laneCmd n =>
    let d := if bitOf v 0 = 1 then d.laneMove n false else d
    let d := if bitOf v 1 = 1 then d.laneMove n true else d
    (true, if bitOf v 2 = 1 then d.laneHalt n else if bitOf v 3 = 1 then d.laneResume n else d)
  -- CASC_CMD.join at a landing that is not the coordinator does nothing and is not answered: the manual is silent (R263; DESIGN CHOICE, log 174).
  | .cascCmd => (true, if bitOf v 4 = 1 ∧ d.coordinator then d.opRequest 9 (d.get F.CASC_CMD.landing) 0 2 else d)
  | .doorbell hi =>
    (true, (List.range 32).foldl (fun d k => if bitOf v k = 1 then d.raise (960 + (if hi then 32 else 0) + k) else d) d)
  | .evtCtl => (true, d.evtN)
  | .fence f => (old.get (F.FENCE_OWNER.owner f) == 0, d)
  | .shpReset s => (true, d.bucketReset s v)
  | .shaper _ _ => (true, d)
  | .polCmd => (true, if bitOf v 12 = 1 then d.policerReset (d.get F.POL_CMD.index) else d)
  | .sampler k => (true, d.samplerStart k)
  | .pcCmd =>
    let pc := d.get F.PC_CMD.pc
    let d := if bitOf v 8 = 1 then d.opRequest 3 pc 8 2 else d
    (true, if bitOf v 9 = 1 then d.opRequest 2 pc 8 2 else d)
  | .space s => (true, d.invSpace s)
  | .chCtl c =>
    (true, if d.chEn c && !old.chEn c then d.chEnable c else if !d.chEn c && old.chEn c then d.chDisable c else d.chPaced c)
  | .bulkCtl => (true, ((List.range 64).foldl (fun d c => d.bulkAdopt c) d).engTurn)
  | .chCmd c => (true, d.chCmd c v)
  | .cqHead _ => (true, d)
  | .refCtl => (true, d.refSelect old)
  | .clkCtl => (true, (if bitOf v 0 = 1 then (d.drawn).coreRecal (d.free % 2) else d).lockShow)
  | .ppsCtl => (true, if d.is F.PPS_CTL.out_en then d else d.ppsPut d.now false)
  | .timeCtl => (true, d.timeSelect)
  | .tsyn c => (true, if bitOf v 0 = 1 then (d.tsynRest c).opRequest 6 c c 2 else d.tsynRest c)
  | .rstCmd =>
    let r := if bitOf v 0 = 1 then d.rstModule else (true, d)
    let q := if bitOf v 1 = 1 then r.2.rstStandby else (true, r.2)
    (r.1 && q.1, q.2)
  | .cfgRef => (true, d.put F.CFG_STATUS.ref_written 1)
  | .cfgCtl => (true, d.cfgSafe)
  | .balLock _ => (true, d)
  | .plain => (true, d)

/-- The operations that command bits `v` of a kind's own page ask for are refused with PRIV where the accessor is below Privileged,
beside what R277 says of the write (R535; DEDUCED, log 129); `w` is the word as written. -/
def Dev.opDenied (d : Dev) (a w v : Nat) : Dev :=
  let ask (d : Dev) (bit kind target : Nat) : Dev := if bitOf v bit = 1 then d.opRefuse kind target 0x14 0 else d
  match actingAt a with
  | .laneCmd n => ask (ask d 0 4 n) 1 4 n
  | .pcCmd =>
    let pc := bitsOf w F.PC_CMD.pc.lsb F.PC_CMD.pc.width
    ask (ask d 8 3 pc) 9 2 pc
  | .tsyn c => if a = A.TSYN_CMD c then ask d 0 6 c else d
  | .cascCmd => if d.coordinator then ask d 4 9 (bitsOf w F.CASC_CMD.landing.lsb F.CASC_CMD.landing.width) else d
  | _ => d

/-- The stored fields of a write take their values, in the way the register has for it. -/
def Dev.storeWord (d : Dev) (acc a : Nat) (w : Word) : Bool × Dev :=
  match actingAt a with
  | .balLock _ => (true, (d.setStored a w).locksHold)
  | .fence f => (true, d.fenceWrite d.now acc f w)
  | .cqHead c => d.cqHeadWrite c (w.toNat % 65536)
  | .shaper s tc => (true, d.shaperWrite s tc fun d => d.setStored a w)
  | .tsyn c => (true, (d.tsynUpdate c).setStored a (((d.tsynUpdate c).stored a &&& ~~~(maskWhere a fun f => f.acc == .rw)) |||
      (w &&& maskWhere a fun f => f.acc == .rw)))
  | _ => (true, d.setStored a w)

/-! ## Register writes (R275 to R277) -/

/-- The level test of a page's fields (R277), with PRIV_LEVEL held between the block minimum and 2 outside the Alcove. -/
def privStore (p : Page) (v : Nat) : Nat :=
  let v := max p.block.minLevel v
  if p.block = .alcove then v else min 2 v

/-- What a field would store. -/
def fieldNew (p : Page) (a : Nat) (f : Fld) (v : Nat) : Nat :=
  if pageOfs a = 0x48 then privStore p v else f.store v % 2 ^ f.width

/-- The bits of a word of the event arrays that exist outside the Alcove (R291). -/
def evtBits (a : Nat) : Word := if 0xB00100 ≤ a ∧ a < 0xB00280 ∧ a % 0x80 = 0x5C then 0x00FFFFFF else 0xFFFFFFFF

/-- The fields that a write of the bits `m` of a register reaches. -/
def writeFlds (a : Nat) (m : Word) : List Fld :=
  (fldsAt a).filter fun f => f.acc != .ro && f.acc != .rc && f.acc != .loc && m &&& BitVec.ofNat 32 f.mask != 0

/-- The command bits, of a value `v` written to the bits `m` of some fields. -/
def cmdsOf (fs : List Fld) (v m : Word) : Nat :=
  fs.foldl (fun x f => if f.acc == .cmd || f.acc == .wo then x ||| (v &&& (m &&& BitVec.ofNat 32 f.mask)).toNat else x) 0

/-- What a write of fields that is ignored for privilege does beside R277: the operations that command bits ask for are refused where
the accessor is below Privileged (R535, log 129). -/
def Dev.deniedAsks (d : Dev) (acc a : Nat) (fs : List Fld) (v m : Word) : Dev :=
  if d.levelOn acc (pageNo a) < 2 then d.opDenied a ((d.stored a &&& ~~~m) ||| (v &&& m)).toNat (cmdsOf fs v m) else d

/-- A write of the bits `m` of a register that is not session-local. The Bool says that nothing of it was ignored. -/
def Dev.writeFields (d : Dev) (acc a : Nat) (p : Page) (v m : Word) : Bool × Dev :=
  let m := m &&& evtBits a
  let act (f : Fld) : Bool := f.acc == .cmd || f.acc == .wo
  let bits (f : Fld) : Word := m &&& BitVec.ofNat 32 f.mask
  let fs := writeFlds a m
  let page := pageNo a
  let lvl := d.levelOn acc page
  if fs.isEmpty then (true, d)
  else
    let mixed := (d.stored a &&& ~~~m) ||| (v &&& m)
    if lvl < d.get (F.PRIV_LEVEL.level page) then (false, (d.deniedAsks acc a fs v m).ignored page acc true) else
    let asks := fs.filter fun f => !act f || (v &&& bits f) != 0
    let denied := asks.filter fun f => f.prv && lvl < 2
    let rest := asks.filter fun f => !(f.prv && lvl < 2)
    let new (f : Fld) : Nat := fieldNew p a f (bitsOf mixed.toNat f.lsb f.width)
    let cur (f : Fld) : Nat := bitsOf (d.stored a).toNat f.lsb f.width
    let locked := rest.filter fun f => (d.fieldLocked a f || d.wosSet a f) && (act f || new f != cur f)
    let done := rest.filter fun f => !(d.fieldLocked a f || d.wosSet a f)
    let w := done.foldl (fun w f => if act f then w else putBits w f.lsb f.width (new f)) (d.stored a)
    let cmds := (w32 (cmdsOf done v m) &&& ~~~(d.cmdBits a)).toNat
    let stores := done.any fun f => !act f
    let r := if stores then d.storeWord acc a w else (true, d)
    let q := if done.isEmpty then r else if r.1 then r.2.act1 d acc a cmds else r
    let e := if r.1 then q.2 else q.2.ignored page acc false
    let e := if r.1 ∧ !q.1 ∧ actingAt a = .rstCmd then e.ignored page acc false else e
    let e := if denied.isEmpty then e else (e.deniedAsks acc a denied v m).ignored page acc true
    let e := if locked.isEmpty then e else e.ignored page acc false
    (q.1 && denied.isEmpty && locked.isEmpty, e)

/-! ## Session-local header fields (R273, R278) -/

/-- The word of the event arrays a header register shows (R274). -/
def evtAlias (p : Page) (o : Nat) : Option Nat :=
  p.evtGroup.bind fun g =>
    if o = 0x14 then some (A.EVT_RAW_ALL g) else if o = 0x18 then some (A.EVT_ENABLE_ALL g)
    else if o = 0x1C then some (A.EVT_PENDING_ALL g) else none

/-- Where the model keeps the number of the item that waits to be taken, plus 1: a reserved offset. -/
def waitAddr (pg : Nat) : Nat := pg * 0x1000 + 0x2C

/-- Whether a write-direction item of an accessor waits on a page. -/
def Dev.itemWaits (d : Dev) (acc pg : Nat) : Bool := d.loc acc (waitAddr pg) != 0

/-! ## Indirect words (R280) -/

/-- How an indirect access ends: the address is unassigned, the write is ignored for a lock or privilege, it waits for the flash
(R515), or it is done. -/
inductive IndRes where
  | unassigned
  | ignored (priv : Bool)
  | waits
  | done (d : Dev)

/-- A coefficient word as it reads: each half sign-extended from 12 bits (R103). -/
def coefRead (w : Word) : Word :=
  let h (x : Nat) : Nat := toField (signedOf (x % 4096) 12) 16
  w32 (h (w.toNat % 65536) + h (w.toNat / 65536) * 65536)

/-- The counters that a save lists, in order: the address of a register counter, or the key of an indirect one (R526). -/
def saveList : List (Nat ⊕ Nat) :=
  pagesOutside.flatMap fun x =>
    ((x.2.addrs x.1 fun fs => fs.any (·.isCount)).map Sum.inl) ++ (x.2.indCounts.map fun a => Sum.inr (indKey x.1 a))

/-- A word of the save that is found (R525, R526). -/
def Dev.saveWord (d : Dev) (a : Nat) : Option Word :=
  let n := saveList.length
  let rd (f : Save → Word) : Word := (d.newestSave.map f).getD 0
  match saveList[a]? with
  | some (.inl x) => some (rd fun s => Tab.get resetWord s.regs x)
  | some (.inr k) => some (rd fun s => Tab.get indDefault s.ind k)
  | none => if a < n + 32 then some (rd fun s => Tab.get resetWord s.regs (A.EVT_RAW_ALL (a - n))) else none

/-! ## The doors of the Alcove (R485) -/

/-- The finding of a command that names none: the manual's signature check is opaque and the access names no operating time, so both are
free values. Log 61. -/
def Dev.finding (d : Dev) : Finding :=
  d.alcFind.getD { up := [], img := if d.free % 2 = 1 then some (Config.freeNat (d.seed + 1) % 65536) else none,
                   gap := Config.freeNat (d.seed + 2) }

/-- A command is put at a door. -/
def Dev.knock (d : Dev) (c : AlcCmd) : Dev := { d with alcq := d.alcq ++ [.cmd c d.finding], seed := d.seed + 3 }

/-- The Alcove with all taken that the command in progress has put at it, `al` being the Alcove as the command found it. -/
def Dev.alcNow (al : Alcove) (d : Dev) : Alcove := d.alcq.foldl Alcove.knock al

/-- The streams that the Alcove's units follow are those of its exhibits, from the instant they are armed (R446, R478, R481), and its
supply and its seal as the doors see them (R485). -/
def Dev.alcUnits (d : Dev) (a : Alcove) : Dev :=
  let d := (List.range 8).foldl (fun d s =>
    let x := a.slot s
    let u := d.cu (56 + s)
    d.setCu (56 + s) { u with
      alc := if a.on ∧ x.state = 2 then some (x.window, x.first, x.last) else none,
      alcAt := if a.on ∧ x.state = 2 ∧ u.alc.isNone then some d.now else u.alcAt }) d
  { d with alcOn := a.on, sealOpen := a.on && a.opened }

/-- After a command at a door the module's taps follow the Alcove, and the module has the events of what it took (R446, R481, R505). -/
def Dev.alcFollow (al : Alcove) (d : Dev) : Dev :=
  if d.alcq.isEmpty then d
  else
    let a := d.alcNow al
    { (a.evs.drop d.alcSeen).foldl (fun d e => d.raise e) (d.alcUnits a) with alcSeen := a.evs.length }

/-- What an indirect address holds, none when it is unassigned. -/
def Dev.indRead (al : Alcove) (d : Dev) (acc pg : Nat) (p : Page) (a : Nat) : Option Word × Dev :=
  let held := d.loc acc (A.SNAP_CTL pg) &&& 1 == 1
  let word (ok : Bool) : Option Word × Dev :=
    if ok then (some (if held && indCount p a then Tab.get indDefault d.regs.heldInd (indKey pg a) else d.ind pg a), d)
    else (none, d)
  match p.block with
  | .glob =>
    if a < 1024 ∧ reportWord a then (some (Tab.get (fun _ => 0) d.report a), d)
    else if 1024 ≤ a ∧ a < 2048 ∧ reportWord (a - 1024) then (some (Tab.get (fun _ => 0) d.reReport (a - 1024)), d)
    else (none, d)
  | .hall =>
    match p.page with
    | 0 => if 24576 ≤ a ∧ a < 25600 ∧ d.levelOn acc pg < 2 then (some 0, d) else word (a < 25600)
    | 6 => if coefWord a then (some (coefRead (d.ind pg a)), d) else (none, d)
    | 7 => word (toneWord a)
    | 8 => word (lut3dWord a)
    | 9 =>
      if a < 81920 then (if a % 8192 < 5377 then (some (tfNode (a / 8192) (a % 8192)), d) else (none, d))
      else (pageConsts[a - 81920]?, d)
    | 10 => word (a < 4112)
    | _ => (none, d)
  | .win => word (p.inst < 32 && lutSetWord a)
  | .hostport =>
    if p.page = 6 ∧ a < 32768 then
      let d := if a % 8 = 7 then d.policerRefresh (a / 8) else d
      (some (if held && indCount p a then Tab.get indDefault d.regs.heldInd (indKey pg a) else d.ind pg a), d)
    else (none, d)
  | .events => word (p.page == 0 && a < 1024)
  | .lane =>
    if a = 518 then
      let d := d.gateEntry p.inst
      (some (d.ind pg a), d)
    else word (laneWord a)
  | .hbm => word (p.page == 2 && a < 1024 && a % 8 < 5)
  | .clock => if p.page = 3 then (d.pllWord a, d) else (none, d)
  | .powerBoot =>
    if p.page = 0 then (d.saveWord a, d) else if a < 0x08000000 then (some (d.flashWord a), d) else (none, d)
  | .alcove =>
    let ot := max (d.alcNow al).ot d.otSeen + d.free
    ((d.alcNow al).word ot (Config.freeNat (d.seed + 1)) a, { d.drawn.drawn with otSeen := ot })
  | _ => (none, d)

/-- Whether a layer of a lead hall that takes part in the current tick uses a bank of hall page 6: the reduced bank while the
fewer-taps step is in force, else the bank of its own (R64, R104, R111). A layer that takes part counts although it shows no buffer or
an empty rectangle: the manual does not say (DESIGN CHOICE, log 125). -/
def Dev.coefInUse (d : Dev) (h bank : Nat) : Bool :=
  leadsGang d.actv h && (List.range 8).any fun n =>
    takesSome d.actv (d.layer h n).steps (hallCanvas d.actv h) h n &&
      (if bitOf (d.layer h n).steps 0 = 1 then d.act (F.SCALE_CTL.desc_bank h n) else d.act (F.SCALE_CTL.coef_bank h n)) == bank

/-- A write of an indirect word that the page keeps in the indirect table. -/
def Dev.indStore (d : Dev) (pg : Nat) (p : Page) (a : Nat) (w : Word) : Dev :=
  d.setInd pg a (w &&& BitVec.ofNat 32 (indMask p a))

/-- A write of a word of a locked space: ignored when it would change the word (R276). -/
def Dev.indLocked (d : Dev) (pg : Nat) (p : Page) (a : Nat) (w : Word) : IndRes :=
  if d.ind pg a = w &&& BitVec.ofNat 32 (indMask p a) then .done d else .ignored false

/-- A write of a word of a LUT bank of a hall, `used` when the bank is in use: its event is raised where the LUTs of the hall have
an effect, for the lead hall alone and not for the other halls of its gang (R138; DESIGN CHOICE, log 113). -/
def Dev.lutStore (d : Dev) (h pg : Nat) (p : Page) (a : Nat) (w : Word) (used : Bool) : Dev :=
  if used && !notLead d.actv h then (d.indStore pg p a w).raiseHall h 13 else d.indStore pg p a w

/-- A word of a 3D LUT bank that software writes depends on failed data no longer (R45). -/
def Dev.lutClean (d : Dev) (h a : Nat) : Dev := d.setHall h { d.hall h with lutUe := (d.hall h).lutUe.filter (· != a) }

/-- A write of an indirect word by an accessor that has the page's level. -/
def Dev.indWrite (d : Dev) (acc pg : Nat) (p : Page) (a : Nat) (w : Word) : IndRes :=
  let prv := d.levelOn acc pg < 2
  match p.block with
  | .glob =>
    if (a < 1024 ∧ reportWord a) ∨ (1024 ≤ a ∧ a < 2048 ∧ reportWord (a - 1024)) then .done d else .unassigned
  | .hall =>
    let h := p.inst
    match p.page with
    | 0 =>
      if 25600 ≤ a then .unassigned
      else if 24576 ≤ a ∧ prv then .ignored true
      else if 24576 ≤ a ∧ d.is (F.BAL_LOCK.content_lock h) then d.indLocked pg p a w
      else .done (d.indStore pg p a w)
    | 6 =>
      if !coefWord a then .unassigned
      else .done (if d.coefInUse h (a / 1024) then (d.indStore pg p a w).raiseHall h 9 else d.indStore pg p a w)
    | 7 =>
      if !toneWord a then .unassigned
      else if 4096 ≤ a then .done d
      else if d.toneOwned h then d.indLocked pg p a w
      else .done (d.lutStore h pg p a w (a / 2048 == d.get (F.CANVAS_CLR.tone_bank h)))
    | 8 =>
      if !lut3dWord a then .unassigned
      else if d.lut3dOwned h then d.indLocked pg p a w
      else .done ((d.lutClean h a).lutStore h pg p a w (a / 131072 == d.get (F.CANVAS_CLR.lut3d_bank h)))
    | 9 => if (a < 81920 ∧ a % 8192 < 5377) ∨ (81920 ≤ a ∧ a - 81920 < pageConsts.length) then .done d else .unassigned
    | 10 => if a < 4112 then .done d else .unassigned
    | _ => .unassigned
  | .win => if p.inst < 32 ∧ lutSetWord a then .done (d.indStore pg p a w) else .unassigned
  | .hostport =>
    if p.page ≠ 6 ∨ 32768 ≤ a then .unassigned
    else if a % 8 = 7 then .done d
    else if a % 8 = 0 then .done (d.indStore pg p a (if 5 ≤ w.toNat % 8 then w &&& 0xFFFFFFF8 else w))
    else if a % 8 = 3 ∨ a % 8 = 4 then .done (((d.policerRefresh (a / 8)).indStore pg p a w).policerRefresh (a / 8))
    else .done (d.indStore pg p a w)
  | .events => if p.page = 0 ∧ a < 1024 then .done ((d.indStore pg p a w).evtN) else .unassigned
  | .lane =>
    let w := if a = 512 then w32 (min 256 (w.toNat % 512)) else w
    if !laneWord a then .unassigned
    else if (a < 256 ∨ (512 ≤ a ∧ a < 515)) ∧ d.gateBit p.inst 1 then d.indLocked pg p a w
    else if indMask p a = 0 then .done d
    else .done (d.indStore pg p a w)
  | .hbm => if p.page = 2 ∧ a < 1024 ∧ a % 8 < 5 then .done d else .unassigned
  | .clock => if p.page = 3 ∧ (d.pllWord a).isSome then .done d else .unassigned
  | .powerBoot =>
    if p.page = 0 then (if a < saveList.length + 32 then .done d else .unassigned)
    else if 0x08000000 ≤ a then .unassigned
    else if !d.flashWritable (4 * a) then .ignored false
    else if d.is F.FLASH_STATUS.busy then .waits
    else .done (d.flashStart (.program a w))
  | .alcove =>
    if 1048576 ≤ a ∧ a < 1130496 then .done { d with alcq := d.alcq ++ [.word (a - 1048576) w] }
    else if (Alcove.word Alcove.factory 0 0 a).isSome then .done d
    else .unassigned
  | _ => .unassigned

/-- IND_ADDR moves on by 1 (R280). -/
def Dev.indNext (d : Dev) (acc pg : Nat) : Dev := d.setLoc acc (A.IND_ADDR pg) (d.loc acc (A.IND_ADDR pg) + 1)
def Dev.indRange (d : Dev) (pg : Nat) : Dev := d.put (F.PAGE_STATUS.ind_range pg) 1

/-- A read of IND_DATA; an internal read leaves IND_ADDR (R275). -/
def Dev.indDataRead (al : Alcove) (d : Dev) (acc pg : Nat) (p : Page) (peek : Bool) : Word × Dev :=
  let r := d.indRead al acc pg p (d.loc acc (A.IND_ADDR pg)).toNat
  match r.1 with
  | some w => (w, if peek then r.2 else r.2.indNext acc pg)
  | none => (0, if peek then r.2 else (r.2.indNext acc pg).indRange pg)

/-- A write of IND_DATA. One that finds the flash busy is not granted (`Dev.flashHolds`, R515). -/
def Dev.indDataWrite (d : Dev) (acc pg : Nat) (p : Page) (w : Word) : Bool × Dev :=
  let a := (d.loc acc (A.IND_ADDR pg)).toNat
  if d.levelOn acc pg < d.get (F.PRIV_LEVEL.level pg) then (false, (d.indNext acc pg).ignored pg acc true)
  else
    match d.indWrite acc pg p a w with
    | .unassigned => (true, (d.indNext acc pg).indRange pg)
    | .ignored b => (false, (d.indNext acc pg).ignored pg acc b)
    | .waits => (true, d)
    | .done e => (true, e.indNext acc pg)

/-! ## Mailbox items (R281) -/

/-- How a write-direction item is met: it fails, waits, is taken, or is taken and handled as a locked write. -/
inductive ItemRes where
  | fails
  | waits
  | taken (d : Dev)
  | locked (d : Dev)

/-- The instant that three words give: ns, seconds [31:0] and [47:32]. -/
def timeOfWords (w0 w1 w2 : Word) : Nat := (w1.toNat + w2.toNat % 65536 * 2 ^ 32) * 1000000000 + w0.toNat

/-- KEY_LOAD and KEY_COMMIT (R327). -/
def keyStaged (d : Dev) (acc : Nat) : List Byte := Tab.get (fun _ => List.replicate 32 0) d.keyStage acc
def Dev.keyLoad (d : Dev) (acc : Nat) (w0 w1 w2 : Word) : Dev :=
  let q := w2.toNat % 4
  let s := keyStaged d acc
  let s := s.take (8 * q) ++ bytesBE 4 w0.toNat ++ bytesBE 4 w1.toNat ++ s.drop (8 * q + 8)
  { d with keyStage := Tab.set (fun _ => List.replicate 32 0) d.keyStage acc s }
def Dev.keyCommit (d : Dev) (acc : Nat) (w0 : Word) : Bool × Dev :=
  let k := bitsOf w0.toNat 0 3
  let erase := bitOf w0.toNat 8 = 1
  if bitOf (d.get F.AED_KEY_LOCK.lock) k = 1 then (false, d)
  else
    let loaded := d.get F.AED_KEY_STATUS.loaded
    let ceil := d.get F.AED_KEY_STATUS.ceiling
    let clear := ceil - ceil / 4 ^ k % 4 * 4 ^ k
    let d' := { d with keys := Tab.set (fun _ => []) d.keys k (if erase then [] else keyStaged d acc),
                       keyStage := Tab.erase acc d.keyStage }
    (true, if erase then (d'.put F.AED_KEY_STATUS.loaded (loaded - bitOf loaded k * 2 ^ k)).put F.AED_KEY_STATUS.ceiling clear
      else (d'.put F.AED_KEY_STATUS.loaded (loaded ||| 2 ^ k)).put F.AED_KEY_STATUS.ceiling
        (clear + bitsOf w0.toNat 4 2 * 4 ^ k))

/-- A write-direction item with its words (R281). A command for an Alcove without supply waits until it can be taken (R485; DEDUCED,
log 61). -/
def Dev.itemWrite (d : Dev) (acc : Nat) (i : Item) (w0 w1 w2 w3 : Word) : ItemRes :=
  match i with
  | .epoch c =>
    .taken (((d.setStored (epochAddr c 0) (w0 &&& 0x3FFFFFFF)).setStored (epochAddr c 1) w1).setStored (epochAddr c 2)
      (w2 &&& 0xFFFF))
  | .commitRequest =>
    .taken (d.commitRequest (d.levelOf acc) none d.now d.horizon (w0.toNat + w1.toNat * 2 ^ 32) (bitsOf w3.toNat 0 3) w2
      (bitOf w3.toNat 8 == 1) (bitOf w3.toNat 9 == 1)).2
  | .snapAt => .taken { d with snapFrom := w0.toNat + w1.toNat * 2 ^ 32 }
  | .alcCmd =>
    if d.alcOn then .taken (d.knock { acc := acc, sealDoor := false, w0 := w0, w1 := w1, w2 := w2, w3 := w3 }) else .waits
  | .sealCmd =>
    if d.alcOn then .taken (d.knock { acc := acc, sealDoor := true, w0 := w0, w1 := w1, w2 := w2, w3 := w3 }) else .waits
  | .sbTx n =>
    let r := d.sbTx n (fragOf w0 w1)
    if r.1 then .taken r.2 else .waits
  | .gateSwap n => .taken (d.gateSwap n (timeOfWords w0 w1 w2))
  | .gateStop n => .taken (d.gateStop n)
  | .gateCancel n => .taken (d.gateCancel n)
  | .keyLoad => .taken (d.keyLoad acc w0 w1 w2)
  | .keyCommit =>
    let r := d.keyCommit acc w0
    if r.1 then .taken r.2 else .locked r.2
  | .invRequest =>
    match scopeOf w0.toNat w1.toNat w2.toNat with
    | none => .fails
    | some s => if d.is F.INV_STATUS.busy then .waits else .taken (d.invalidate s)
  | .running u => if d.cuIn u then .waits else .taken (d.cuLoad u (w0.toNat + w1.toNat * 2 ^ 32))
  | .timeSet => .taken (d.timeSet w0.toNat w1.toNat w2.toNat w3.toNat)
  | .saveGen => .taken { d with pwr.saveSel := w1.toNat % 8 }
  | .flashErase =>
    if w0.toNat % 65536 ≠ 0 then .fails
    else if !d.flashWritable w0.toNat then .locked d
    else if d.is F.FLASH_STATUS.busy then .waits
    else .taken (d.flashStart (.erase (w0.toNat / 65536)))
  | .opRequest =>
    let r := d.opMailbox (d.levelOf acc) w0.toNat w1.toNat
    if r.1 then .taken r.2 else .fails
  | _ => .fails

/-- A read-direction item: its words, and what the read removes. `held` asks for the counters of the last snapshot. -/
def Dev.itemRead (al : Alcove) (d : Dev) (acc : Nat) (held : Bool) (i : Item) : List Word × Dev :=
  match i with
  | .epoch c => ([d.actv (epochAddr c 0), d.actv (epochAddr c 1), d.actv (epochAddr c 2), 0], d)
  | .tickNow c =>
    if !d.is (F.TICK_STATUS.running c) then ([0, 0, 0, 0], d)
    else
      let n := (d.canvas c).tick
      let t := (d.canvas c).inst
      ([w32 n, w32 (n / 2 ^ 32), w32 (nsOf t), w32 (secOf t)], d)
  | .commitAnswer =>
    let a := d.answer
    ([a.gen, w32 (a.code + a.res * 2 ^ 8 + margin16 a.margin * 2 ^ 16), w32 a.target, w32 (a.target / 2 ^ 32)], d)
  | .serial => ((List.range 4).map fun k => w32 (d.serial / 2 ^ (32 * k)), d)
  | .alcReply => ((d.alcNow al).replyWords acc, d)
  | .sealReply => ((d.alcNow al).replyWords 18, d)
  | .sbRx n => d.sbRx n
  | .timeLast n => (d.timeLast n, d)
  | .gateInfo n => (d.gateInfo n, d)
  | .peerEvt => d.peerEvt
  | .ptpParent => (d.ptpParent, d)
  | .eccLast => (d.eccLast, d)
  | .journal s => (d.journalWords s, d)
  | .classBytes k => (d.classWords (if held then d.heldB else d.classB) k, d)
  | .faultRec => d.faultRec
  | .position c =>
    let d := d.chProgress c
    (d.posWords c, d)
  | .lastAddr c =>
    let d := d.chProgress c
    (d.lastAddrWords c, d)
  | .bytes c =>
    if held then (d.classWords d.heldB (16 + c), d)
    else
      let d := d.chProgress c
      (d.bytesWords c, d)
  | .lastWhole c => (d.lastWholeWords c, d)
  | .running u => (d.cuRunning u, d)
  | .result u => ((d.cu u).result, d)
  | .timeNow => d.timeNow
  | .ppsInTs => (d.ppsWords, d)
  | .saveInfo => (d.saveInfo, d)
  | .saveGen => (d.saveGen, d)
  | .opRecord => d.takeRecord
  | _ => ([0, 0, 0, 0], d)

/-- The words of an accessor's mailbox. -/
def Dev.mbxWord (d : Dev) (acc pg i : Nat) : Word := d.loc acc (A.MBX_DATA pg i)

/-- MBX_CTL with item and direction kept, and go and valid as given. -/
def Dev.setMbx (d : Dev) (acc pg : Nat) (go valid : Bool) : Dev :=
  d.setLoc acc (A.MBX_CTL pg) ((d.loc acc (A.MBX_CTL pg) &&& 0x1FF) ||| w32 (b2n go * 2 ^ 16 + b2n valid * 2 ^ 24))

/-- A request fails (R281). -/
def Dev.mbxFail (d : Dev) (acc pg : Nat) (read : Bool) : Dev :=
  let d := d.put (F.PAGE_STATUS.mbx_error pg) 1
  if read then ((List.range 4).foldl (fun d i => d.setLoc acc (A.MBX_DATA pg i) 0) d).setMbx acc pg false true else d

/-- A write-direction item is offered to the module: taken, or it waits with go and valid set. -/
def Dev.offerItem (d : Dev) (acc pg : Nat) (i : Item) : AccEnd × Dev :=
  match d.itemWrite acc i (d.mbxWord acc pg 0) (d.mbxWord acc pg 1) (d.mbxWord acc pg 2) (d.mbxWord acc pg 3) with
  | .fails => (.failed, ((d.setLoc acc (waitAddr pg) 0).setMbx acc pg false false).mbxFail acc pg false)
  | .waits => (.ok, (d.setLoc acc (waitAddr pg) (w32 (i.place.2 + 1))).setMbx acc pg true true)
  | .taken e => (.ok, (e.setLoc acc (waitAddr pg) 0).setMbx acc pg false false)
  | .locked e => (.ignored, ((e.setLoc acc (waitAddr pg) 0).setMbx acc pg false false).ignored pg acc false)

/-- The items of the Alcove's doors (R485). -/
def Item.door (i : Item) : Bool := i == .alcCmd || i == .sealCmd

/-- An item for a door of the Alcove is offered, and what the Alcove took has its effect on the module. -/
def Dev.offerDoor (al : Alcove) (d : Dev) (acc pg : Nat) (i : Item) : AccEnd × Dev :=
  let r := d.offerItem acc pg i
  (r.1, r.2.alcFollow al)

/-- What a write-direction request below the page's level does beside the ignored write of R277: an operation that it asks for is refused
with PRIV (R535, log 129). -/
def Dev.sendDenied (d : Dev) (acc pg : Nat) (i : Option Item) : Dev :=
  if i = some .opRequest then (d.opMailbox (d.levelOf acc) (d.mbxWord acc pg 0).toNat (d.mbxWord acc pg 1).toNat).2 else d

/-- A go with the item and direction that MBX_CTL holds (R277, R281). -/
def Dev.mbxGo (al : Alcove) (d : Dev) (acc pg : Nat) (p : Page) : AccEnd × Dev :=
  let ctl := (d.loc acc (A.MBX_CTL pg)).toNat
  let wr := bitOf ctl 8 = 1
  if wr ∧ d.levelOn acc pg < d.get (F.PRIV_LEVEL.level pg) then
    (.ignored, (d.sendDenied acc pg (itemAt p (bitsOf ctl 0 8))).ignored pg acc true)
  else
    match itemAt p (bitsOf ctl 0 8) with
    | none => (.failed, d.mbxFail acc pg (!wr))
    | some i =>
      if d.itemWaits acc pg then (.failed, d.mbxFail acc pg (!wr))
      else if wr then (if i.door then d.offerDoor al acc pg i else if i.writes then d.offerItem acc pg i else (.failed, d.mbxFail acc pg false))
      else if i.reads then
        let r := d.itemRead al acc (d.loc acc (A.SNAP_CTL pg) &&& 1 == 1) i
        (.ok, ((List.range 4).foldl (fun d k => d.setLoc acc (A.MBX_DATA pg k) (r.1.getD k 0)) r.2).setMbx acc pg false true)
      else (.failed, d.mbxFail acc pg true)

/-- A whole write-direction request of an accessor: the four words, the item and go. -/
def Dev.mbxSend (al : Alcove) (d : Dev) (acc pg : Nat) (p : Page) (item : Nat) (w : List Word) : AccEnd × Dev :=
  let d := (List.range 4).foldl (fun d k => d.setLoc acc (A.MBX_DATA pg k) (w.getD k 0)) d
  let d := d.setLoc acc (A.MBX_CTL pg) ((d.loc acc (A.MBX_CTL pg) &&& 0x01010000) ||| w32 (item % 256 + 256))
  d.mbxGo al acc pg p

/-- A whole read-direction request of an accessor. -/
def Dev.mbxFetch (al : Alcove) (d : Dev) (acc pg : Nat) (p : Page) (item : Nat) : AccEnd × Dev :=
  let d := d.setLoc acc (A.MBX_CTL pg) ((d.loc acc (A.MBX_CTL pg) &&& 0x01010000) ||| w32 (item % 256))
  d.mbxGo al acc pg p

/-- The items that wait are offered again, those for a door of the Alcove or the others (R485). -/
def Dev.retry (d : Dev) (door : Bool) (offer : Dev → Nat → Nat → Item → Dev) : Dev :=
  (d.regs.loc.filter fun e => e.1 % 0x1000 == 0x2C && e.2 != 0).foldl (fun d e =>
    let acc := e.1 / 2 ^ 32
    let pg := e.1 % 2 ^ 32 / 0x1000
    match (pageOf pg).bind fun p => itemAt p (e.2.toNat - 1) with
    | some i => if i.door == door then offer d acc pg i else d
    | none => d) d

/-- The items that wait for the module are offered again (R235, R395, R443). -/
def Dev.retryItems (d : Dev) : Dev := d.retry false fun d acc pg i => (d.offerItem acc pg i).2

/-- The commands that wait at the doors of the Alcove are offered again (R485). -/
def Dev.retryDoors (al : Alcove) (d : Dev) : Dev := d.retry true fun d acc pg i => (d.offerDoor al acc pg i).2

/-! ## Reads (R274, R275, R284) -/

/-- The power stage reads its inputs as a register of it is read: VIN within its thresholds, unless a power fail has disconnected it,
and the power drawn. The manual gives neither: free values. Log 143. -/
def Dev.powerFresh (d : Dev) (a : Nat) : Dev :=
  if a = A.PWR_IN then d.drawn.put F.PWR_IN.dw (d.free % 65536)
  else if (a = A.VIN_MV ∨ a = A.PWR_STATUS) ∧ !d.onHold then d.drawn.vinShow (33001 + d.free % 44999)
  else d

/-- What a read brings up to date before the value is taken. -/
def Dev.readFresh (d : Dev) (a : Nat) : Dev :=
  match pageAt a with
  | some p =>
    match p.block with
    | .glob =>
      let c := (a - 0x41C) / 0x40
      if c < 8 ∧ a = A.TICK_STATUS c then d.tsynUpdate c else d
    | .hostport =>
      if p.page = 5 ∧ 0x100 ≤ pageOfs a ∧ pageOfs a < 0x500 ∧ 0x70 ≤ a % 0x100 ∧ a % 0x100 < 0x90 then
        d.shaperRefresh (p.inst * 4 + (pageOfs a - 0x100) / 0x100) ((a % 0x100 - 0x70) / 4)
      else d
    | .hall =>
      match layerOfAddr a with
      | some x => if pageOfs a % 0x100 = 0xE8 then d.flipShow x.1 x.2 else d
      | none => d
    | .cascade => if a = A.TICK_SKEW then d.skewFresh else d
    | .clock => if a = A.REF_RATIO then d.rhoSample else if a = A.REF_STATUS then d.refSense else match actingAt a with | .tsyn c => d.tsynUpdate c | _ => d
    | .powerBoot => d.powerFresh a
    | _ => d
  | none => d

/-- The register whose value a register shows: DST_WH of a graphic layer or the balustrade equals SRC_WH (R65, log 98). -/
def shownAt (a : Nat) : Nat :=
  match layerOfAddr a with
  | some x => if 8 ≤ x.2 ∧ a = A.DST_WH x.1 x.2 then A.SRC_WH x.1 x.2 else a
  | none => a

/-- The value of a register for an accessor, before privilege: the stored word, with the active values of RWS fields or the
counters of the last snapshot where the accessor's view asks for them, and zero in write-only fields. -/
def Dev.viewWord (d : Dev) (acc a : Nat) : Word :=
  let pg := pageNo a
  let rws := if d.loc acc (A.PAGE_CTL pg) &&& 1 = 1 then maskWhere a (fun f => f.acc == .rws) else 0
  let cnt := if pg ≠ 0xF00 ∧ d.loc acc (A.SNAP_CTL pg) &&& 1 = 1 then maskWhere a Fld.isCount else 0
  let w := (d.stored a &&& ~~~rws) ||| (d.actv a &&& rws)
  let w := (w &&& ~~~cnt) ||| (Tab.get resetWord d.regs.held a &&& cnt)
  ((w &&& ~~~(maskWhere a fun f => f.acc == .wo)) ||| d.cmdBits a) &&& evtBits a

/-- A read of an array word or a block register: the value, then the read-cleared bits returned are cleared. -/
def Dev.readWord (d : Dev) (acc a : Nat) (peek : Bool) : Word × Dev :=
  let d := d.readFresh a
  let w := d.viewWord acc (shownAt a)
  let w := if d.levelOn acc (pageNo a) < 2 then w &&& ~~~(maskWhere a (·.prv)) else w
  if peek then (w, d)
  else
    let rc := maskWhere a fun f => f.acc == .rc
    if rc = 0 then (w, d)
    else
      let d := d.setStored a (d.stored a &&& ~~~(w &&& rc))
      (w, if 0xB00200 ≤ a ∧ a < 0xB00280 then d.evtN else d)

/-- A register read of an accessor (R275); `peek` is the internal read of a masked write. -/
def Dev.regRead (al : Alcove) (d : Dev) (acc addr : Nat) (peek : Bool) : Word × Dev :=
  let a := wordAddr addr
  match pageAt a with
  | none => (0, d)
  | some p =>
    let o := pageOfs a
    let pg := pageNo a
    if 0x100 ≤ o then
      (if a = 0x100 then ((w32 (((d.stored a).toNat / 2 ^ 20) * 2 ^ 20 + b2n d.h48 * 2 ^ 16 + 0x0144), d)) else d.readWord acc a peek)
    else if o = 0x00 then (w32 p.idWord, d)
    else if o = 0x08 then (w32 p.capWord, d)
    else if o = 0x0C then
      ((d.loc acc a &&& 1) ||| (if d.levelOn acc pg < 2 then 0 else d.stored a &&& 2), d)
    else if o = 0x14 ∨ o = 0x18 ∨ o = 0x1C then
      (match evtAlias p o with
       | some b => d.readWord acc b peek
       | none => (0, d))
    else if o = 0x20 ∨ o = 0x28 ∨ (0x30 ≤ o ∧ o < 0x40) then (d.loc acc a, d)
    else if o = 0x24 then d.indDataRead al acc pg p peek
    else if o = 0x40 then ((d.loc acc a &&& 1) ||| w32 (d.get F.SNAP_SEQ.seq * 65536), d)
    else d.readWord acc a peek

/-! ## Writes -/

/-- A write of the bits `m` of a register by an accessor, with its end. -/
def Dev.regWrite (al : Alcove) (d : Dev) (acc addr : Nat) (v m : Word) : AccEnd × Dev :=
  let a := wordAddr addr
  match pageAt a with
  | none => (.ok, d)
  | some p =>
    let o := pageOfs a
    let pg := pageNo a
    let mix (w : Word) : Word := (w &&& ~~~m) ||| (v &&& m)
    if o = 0x0C then
      let r := (d.setLoc acc a (mix (d.loc acc a) &&& 1)).writeFields acc a p v (m &&& 2)
      (.of r.1, r.2)
    else if o = 0x14 ∨ o = 0x18 ∨ o = 0x1C then
      (match evtAlias p o with
       | some b =>
         if o ≠ 0x18 then (.ok, d)
         else if d.levelOn acc pg < d.get (F.PRIV_LEVEL.level pg) then (.ignored, d.ignored pg acc true)
         else (.ok, d.setStored b ((d.stored b &&& ~~~(m &&& evtBits b)) ||| (v &&& m &&& evtBits b)))
       | none => (.ok, d))
    else if o = 0x20 ∨ (0x30 ≤ o ∧ o < 0x40) then (.ok, d.setLoc acc a (mix (d.loc acc a)))
    else if o = 0x40 then (.ok, d.setLoc acc a (mix (d.loc acc a) &&& 1))
    else if o = 0x24 then
      let old := if m = 0xFFFFFFFF then (0, d) else d.indDataRead al acc pg p true
      let r := old.2.indDataWrite acc pg p (mix old.1)
      (.of r.1, r.2)
    else if o = 0x28 then
      let d := d.setLoc acc a ((d.loc acc a &&& 0x01010000) ||| (mix (d.loc acc a) &&& 0x1FF))
      if (v &&& m).getLsbD 16 then d.mbxGo al acc pg p else (.ok, d)
    else
      let r := d.writeFields acc a p v m
      (.of r.1, r.2)

/-- A full-word write. -/
def Dev.write (al : Alcove) (d : Dev) (acc a : Nat) (v : Word) : AccEnd × Dev := d.regWrite al acc a v 0xFFFFFFFF

/-! ## The arbiter (R278) -/

/-- The page of an access. -/
def Access.page : Access → Nat
  | .read a => pageNo (wordAddr a)
  | .write a _ _ => pageNo (wordAddr a)
  | .send pg _ _ => pg
  | .fetch pg _ => pg

/-- Whether the arbiter grants an accessor an access to a page: none while a request of this accessor waits for the flash (R515), and
none between the accesses of a request to the same page (R278). -/
def Dev.grants (d : Dev) (acc pg : Nat) : Bool :=
  d.pwr.flashWait.all fun j => j.acc != acc && (j.sum.n == 0 || j.steps.all fun x => x.page != pg)

/-- The page of the flash. -/
def flashPage : Nat := pageNo A.FLASH_STATUS

/-- Whether an erase request of an accessor would wait for the flash. -/
def Dev.eraseHolds (d : Dev) (acc : Nat) (w0 : Word) : Bool :=
  !d.itemWaits acc flashPage && w0.toNat % 65536 == 0 && d.flashWritable w0.toNat

/-- A program or an erase that finds the flash busy waits, and the accessor's grant with it (R515). -/
def Dev.flashHolds (d : Dev) (acc : Nat) (x : Access) : Bool :=
  d.is F.FLASH_STATUS.busy && decide (d.get (F.PRIV_LEVEL.level flashPage) ≤ d.levelOn acc flashPage) &&
    match x with
    | .write a v m =>
      let a := wordAddr a
      let at' := (d.loc acc (A.IND_ADDR flashPage)).toNat
      let ctl := ((d.loc acc (A.MBX_CTL flashPage) &&& ~~~m) ||| (v &&& m)).toNat % 512
      (a == A.IND_DATA flashPage && decide (at' < 0x08000000) && d.flashWritable (4 * at')) ||
        (a == A.MBX_CTL flashPage && (v &&& m).getLsbD 16 && ctl == 256 + Item.flashErase.place.2 &&
          d.eraseHolds acc (d.mbxWord acc flashPage 0))
    | .send pg item ws => pg == flashPage && item % 256 == Item.flashErase.place.2 && d.eraseHolds acc (ws.getD 0 0)
    | _ => false

/-- A granted access: the words read, or those of the mailbox, and its end. -/
def Dev.access1 (al : Alcove) (d : Dev) (acc : Nat) (x : Access) : (List Word × AccEnd) × Dev :=
  let box (pg : Nat) (r : AccEnd × Dev) : (List Word × AccEnd) × Dev := (((List.range 4).map fun k => r.2.mbxWord acc pg k, r.1), r.2)
  match x with
  | .read a =>
    let r := d.regRead al acc a false
    (([r.1], .ok), r.2)
  | .write a v m =>
    let r := d.regWrite al acc a v m
    (([], r.1), r.2)
  | .send pg item ws =>
    (match pageOf pg with
     | some p => box pg (d.mbxSend al acc pg p item ws)
     | none => ((List.replicate 4 0, .failed), d))
  | .fetch pg item =>
    (match pageOf pg with
     | some p => box pg (d.mbxFetch al acc pg p item)
     | none => ((List.replicate 4 0, .failed), d))

def AccSum.zero : AccSum := { n := 0, ignored := 0, first := none, failed := false }
def AccSum.add (s : AccSum) (e : AccEnd) : AccSum :=
  match e with
  | .ok => { s with n := s.n + 1 }
  | .failed => { s with n := s.n + 1, failed := true }
  | .ignored => { s with n := s.n + 1, ignored := s.ignored + 1, first := some (s.first.getD s.n) }

/-- A request before its first access. -/
def Job.new (acc : Nat) (steps : List Access) (fin : JobEnd) : Job :=
  { acc := acc, steps := steps, words := [], sum := .zero, last := .ok, fin := fin }

/-- The accesses of a request one after the other, as far as they are granted. -/
def Dev.runSteps (al : Alcove) (j : Job) : List Access → Dev → Job × Dev
  | [], d => ({ j with steps := [] }, d)
  | x :: xs, d =>
    if d.flashHolds j.acc x || !d.grants j.acc x.page then ({ j with steps := x :: xs }, d)
    else
      let r := d.access1 al j.acc x
      Dev.runSteps al { j with words := j.words ++ r.1.1, sum := j.sum.add r.1.2, last := r.1.2 } xs r.2

/-- A request waits for its grant behind the others. -/
def Dev.park (d : Dev) (j : Job) : Dev := { d with pwr.flashWait := d.pwr.flashWait ++ [j] }

/-- A request of an accessor runs to its end, which `fin` answers, or waits with what it has still to do behind those of the same
accessor (R278, R515). -/
def Dev.grant (al : Alcove) (d : Dev) (j : Job) (fin : Job → Dev → Dev) : Dev :=
  if d.pwr.flashWait.any fun k => k.acc == j.acc then d.park j
  else
    let r := Dev.runSteps al j j.steps d
    if r.1.steps.isEmpty then fin r.1 r.2 else r.2.park r.1

/-- One access of an accessor that exists (R278). -/
def Dev.access (al : Alcove) (d : Dev) (acc : Nat) (x : Access) : Dev :=
  if d.present acc then d.grant al (.new acc [x] .quiet) fun _ d => d else d

/-- A write of some bits of a register. -/
def Dev.writeBits (al : Alcove) (d : Dev) (acc a : Nat) (v m : Nat) : Dev := d.access al acc (.write a (w32 v) (w32 m))

/-- A mailbox item of an accessor in one of the two directions, as the commands of the table give it. -/
def Dev.itemSend (al : Alcove) (d : Dev) (acc : Nat) (i : Item) (w : List Word) : Dev := d.access al acc (.send i.place.1 i.place.2 w)
def Dev.itemFetch (al : Alcove) (d : Dev) (acc : Nat) (i : Item) : Dev := d.access al acc (.fetch i.place.1 i.place.2)

/-- A register read of an accessor, for what it changes. -/
def Dev.readOnce (al : Alcove) (d : Dev) (acc a : Nat) : Dev := d.access al acc (.read a)

end Sys2Proof.Machine
end

