-- ==== Sys2Proof/Machine/Aedwin.lean ====
section
/-! DEFINITION. Aedwin sessions, requests, ordering, events and bulk writes (R312 to R323). -/

namespace Sys2Proof.Machine

/-! ## Frames -/

/-- The bytes of a received frame that its tag covers (R313). -/
def aedCovered (type : Nat) (f : AedFrame) : List Byte :=
  aedBytes type f.hdr.sid.toNat f.hdr.seq.toNat f.hdr.ref.toNat f.body none

/-- A datagram that reaches an Aedwin port of the module (R312). -/
def Dev.aedDatagram (d : Dev) (f : AedFrame) : Bool × Dev :=
  let r := d.hostRx (asUdp f.rx)
  if !r.1 then r
  else if r.2.ownAddr f.rx && f.rx.dport.toNat == r.2.get F.AED_CTL.udp_port &&
      bitOf (r.2.get F.AED_CTL.ports) f.rx.sub.val == 1 then r
  else (false, r.2.notMine f.rx)

/-- A dropped frame (R313, R315, R318). -/
def Dev.aedDrop (d : Dev) : Dev := d.bump F.AED_DROPPED.count

/-- Magic and length of a frame, and its version. -/
def aedShape (f : AedFrame) : Bool := f.hdr.magic.toNat == 0xAED1 && f.hdr.len == f.body.length && f.hdr.len ≤ 8960
def aedVersion (f : AedFrame) : Bool := f.hdr.version.toNat == 1

/-- The type of a request. -/
def aedType (type : Nat) (f : AedFrame) : Nat :=
  match f.hdr.other with
  | some x => x.toNat
  | none => type

/-- The peer of a frame. -/
def peerOf (rx : RxHdr) : Peer :=
  { sub := rx.sub.val, mac := rx.smac.toNat, ipv6 := rx.ipv6, addr := rx.src.toNat, port := rx.sport.toNat, own := rx.dst.toNat }

/-- Whether a frame comes from a session's own address and port. -/
def Peer.sends (p : Peer) (rx : RxHdr) : Bool := p.ipv6 == rx.ipv6 && p.addr == rx.src.toNat && p.port == rx.sport.toNat

/-- The open session a frame names. -/
def Dev.sessOf (d : Dev) (f : AedFrame) : Option (Nat × Sess) :=
  (List.range 16).findSome? fun i =>
    match d.sess i with
    | some s => if sidOf i = f.hdr.sid.toNat then some (i, s) else none
    | none => none

/-- A frame of an established session, checked under R313; the session has heard it (R315). -/
def Dev.aedFrame (d : Dev) (type : Nat) (f : AedFrame) : Option Nat × Dev :=
  let r := d.aedDatagram f
  let d := r.2
  if !r.1 then (none, d)
  else
    match d.sessOf f with
    | some (i, s) =>
      if aedShape f && aedVersion f && s.peer.sends f.rx &&
          (if s.keyless then f.tag.isEmpty else f.tag == (hmac s.key (aedCovered type f)).take 16) then
        (some i, d.setSess i (some { s with heard := d.now }))
      else (none, d.aedDrop)
    | none => (none, d.aedDrop)

/-! ## Opening and closing (R314, R315) -/

/-- A frame before a session is established carries no tag; its sequence number is a free value (log 57). -/
def Dev.aedHello (d : Dev) (p : Peer) (type sid ref : Nat) (body : List Byte) : Dev :=
  (d.drawn).aedTo p false (aedBytes type sid (d.free % 2 ^ 32) ref body none)
def Dev.aedReject (d : Dev) (f : AedFrame) (reason : Nat) : Dev :=
  d.aedHello (peerOf f.rx) 0x05 f.hdr.sid.toNat f.hdr.seq.toNat [BitVec.ofNat 8 reason]

/-- The index a new session takes: the lowest that is neither open nor promised by a challenge, or, where there is none, the lowest
that is not open; none while all 16 are open (log 57). -/
def Dev.freeSession (d : Dev) : Option Nat :=
  let closed := (List.range 16).filter fun i => (d.sess i).isNone
  (closed.find? fun i => !(d.challenges.any fun c => c.sid == i)).or closed.head?

/-- A session opens. -/
def Dev.aedEstablish (d : Dev) (i : Nat) (p : Peer) (slot level : Nat) (key : Option (List Byte)) : Dev :=
  let s : Sess :=
    { peer := p, keyless := key.isNone, key := key.getD [], txSeq := 0, last := 0, held := [], stored := [], subs := [],
      events := [], lost := 0, heard := d.now, gapAt := none, bulks := [] }
  let d := d.setSess i (some s)
  (((((d.put (F.SESS.open i) 1).put (F.SESS.level i) level).put (F.SESS.slot i) slot).put (F.SESS.subport i) p.sub)).raise 547

/-- AED_OPEN. -/
def Dev.aedOpen (d : Dev) (f : AedFrame) : Dev :=
  let r := d.aedDatagram f
  let d := r.2
  let slot := (f.body.getD 16 0).toNat
  let level := (f.body.getD 17 0).toNat
  if !r.1 ∨ d.is F.STATUS.recovery then d
  else if !aedShape f || f.body.length ≠ 20 || !f.tag.isEmpty then d.aedDrop
  else if !aedVersion f then d.aedReject f 4
  else
    match d.freeSession with
    | none => d.aedReject f 1
    | some i =>
      if slot = 255 ∧ level = 0 ∧ d.is F.AED_CTL.open_observer then
        let p := peerOf f.rx
        let d := d.aedEstablish i p 255 0 none
        let tag := (Config.nonce d.seed ++ Config.nonce (d.seed + 1) ++ List.replicate 32 0).take 32
        (d.drawn).drawn.aedHello p 0x04 (sidOf i) f.hdr.seq.toNat ([0, 0, 0, 0] ++ tag)
      else if 8 ≤ slot ∨ bitOf (d.get F.AED_KEY_STATUS.loaded) slot = 0 then d.aedReject f 2
      else if 4 ≤ d.challenges.length then d.aedDrop
      else
        let p := peerOf f.rx
        let nm := (Config.nonce d.seed ++ List.replicate 16 0).take 16
        let c : Challenge := { sid := i, peer := p, slot := slot, level := level, nc := f.body.take 16, nm := nm, at' := d.now }
        let d := { d.drawn with challenges := d.challenges ++ [c] }
        d.aedHello p 0x02 (sidOf i) f.hdr.seq.toNat (nm ++ bytesBE 2 (sidOf i))

/-- The text that a step of the opening signs (R314). -/
def aedSigned (step : List Byte) (c : Challenge) (level : Nat) : List Byte :=
  step ++ c.nc ++ c.nm ++ bytesBE 2 (sidOf c.sid) ++ bytesBE 1 level
def aedC : List Byte := [0x41, 0x45, 0x44, 0x57, 0x49, 0x4E, 0x2D, 0x43]
def aedM : List Byte := [0x41, 0x45, 0x44, 0x57, 0x49, 0x4E, 0x2D, 0x4D]
def aedS : List Byte := [0x41, 0x45, 0x44, 0x57, 0x49, 0x4E, 0x2D, 0x53]

/-- AED_AUTH. One whose session another has opened meanwhile is rejected as an OPEN is that finds none free (log 57). -/
def Dev.aedAuth (d : Dev) (f : AedFrame) : Dev :=
  let r := d.aedDatagram f
  let d := r.2
  if !r.1 then d
  else
    match d.challenges.find? fun c => sidOf c.sid == f.hdr.sid.toNat && c.peer.sends f.rx with
    | none => d.aedDrop
    | some c =>
      if !aedShape f || !aedVersion f || !f.tag.isEmpty then d.aedDrop
      else
        let d := { d with challenges := d.challenges.erase c }
        let key := Tab.get (fun _ => []) d.keys c.slot
        if (d.sess c.sid).isSome then d.aedReject f 1
        else if bitOf (d.get F.AED_KEY_STATUS.loaded) c.slot = 0 ∨ f.body ≠ hmac key (aedSigned aedC c c.level) then
          ((d.bump F.AED_AUTH_FAIL.count).raise 549).aedReject f 3
        else
          let level := min c.level (bitsOf (d.get F.AED_KEY_STATUS.ceiling) (2 * c.slot) 2)
          let d := d.aedEstablish c.sid c.peer c.slot level (some (hmac key (aedSigned aedS c level)))
          d.aedHello c.peer 0x04 (sidOf c.sid) f.hdr.seq.toNat
            ([BitVec.ofNat 8 level, 0, 0, 0] ++ hmac key (aedSigned aedM c level))

/-- A challenge that was not answered in 100 ms is dropped. -/
def Dev.aedChallengeTimeout (d : Dev) (i : Nat) : Dev :=
  { d with challenges := d.challenges.filter fun c => !(c.sid == i && c.at' + 100000000 ≤ d.now) }

/-- AED_IDLE_TIMEOUT (R315). The manual gives idle_s the range 1 to 255 and no meaning to a 0: it is stored, as a limit of 0 s (DESIGN
CHOICE, log 190). -/
def Dev.aedIdle (d : Dev) (i : Nat) : Dev :=
  match d.sess i with
  | some s => if s.heard + d.get F.AED_TIMING.idle_s * 1000000000 ≤ d.now then d.aedClose i else d
  | none => d

/-! ## Requests (R316, R317) -/

/-- Big-endian fields of a body. -/
def beAt (b : List Byte) (o n : Nat) : Nat := ofBE (slice b o n)
def wordAt (b : List Byte) (o : Nat) : Word := w32 (beAt b o 4)

/-- The status of a request, and the count of ignored words with the index of the first, a free value when none was. -/
def AccSum.status (s : AccSum) : Nat := if s.failed then 2 else if s.ignored ≠ 0 then 1 else 0
def AccSum.body (s : AccSum) (d : Dev) : List Byte := bytesBE 2 s.ignored ++ bytesBE 2 (s.first.getD d.free)

/-- Answer with the counts. -/
def Dev.aedCounts (d : Dev) (i type seq : Nat) (s : AccSum) (before : List Byte) : Dev :=
  d.drawn.aedResp i type seq s.status (before ++ s.body d)

def Dev.aedBad (d : Dev) (i type seq : Nat) : Dev := d.aedResp i type seq 5 []

/-- A request of register accesses has made them all: the words read, those of the mailbox, or the counts (R317). -/
def Dev.aedDone (d : Dev) (i type seq : Nat) (j : Job) : Dev :=
  let ws := j.words.flatMap wordBE
  match type with
  | 0x10 => d.aedResp i type seq 0 ws
  | 0x14 => d.aedResp i type seq (match j.last with | .ok => 0 | .failed => 2 | .ignored => 1) ws
  | _ => d.aedCounts i type seq j.sum ws

/-- A request of register accesses runs. -/
def Dev.aedJob (al : Alcove) (d : Dev) (i type seq : Nat) (steps : List Access) : Dev :=
  d.grant al (.new i steps (.aed type seq)) fun j d => d.aedDone i type seq j

/-- READ. -/
def Dev.aedRead (al : Alcove) (d : Dev) (i seq : Nat) (b : List Byte) : Dev :=
  let n := beAt b 4 2
  if b.length ≠ 8 ∨ n = 0 ∨ 256 < n then d.aedBad i 0x10 seq
  else
    let step := if bitOf (beAt b 6 2) 0 = 1 then 0 else 4
    d.aedJob al i 0x10 seq ((List.range n).map fun k => .read (beAt b 0 4 + step * k))

/-- WRITE. -/
def Dev.aedWrite (al : Alcove) (d : Dev) (i seq : Nat) (b : List Byte) : Dev :=
  let n := beAt b 4 2
  if b.length ≠ 8 + 4 * n ∨ n = 0 ∨ 256 < n then d.aedBad i 0x11 seq
  else
    let step := if bitOf (beAt b 6 2) 0 = 1 then 0 else 4
    d.aedJob al i 0x11 seq ((List.range n).map fun k => .write (beAt b 0 4 + step * k) (wordAt b (8 + 4 * k)) 0xFFFFFFFF)

/-- MASKED_WRITE. -/
def Dev.aedMasked (al : Alcove) (d : Dev) (i seq : Nat) (b : List Byte) : Dev :=
  let n := b.length / 12
  if b.length ≠ 12 * n ∨ n = 0 ∨ 64 < n then d.aedBad i 0x12 seq
  else d.aedJob al i 0x12 seq ((List.range n).map fun k => .write (beAt b (12 * k) 4) (wordAt b (12 * k + 8)) (wordAt b (12 * k + 4)))

/-- SEQUENCE: reads, writes and masked writes of one page. -/
def Dev.aedSequence (al : Alcove) (d : Dev) (i seq : Nat) (b : List Byte) : Dev :=
  let n := (b.length - 4) / 12
  let op (k : Nat) : Nat := (b.getD (4 + 12 * k) 0).toNat
  if b.length ≠ 4 + 12 * n ∨ n = 0 ∨ 64 < n ∨ (List.range n).any (fun k => 2 < op k || 4096 ≤ beAt b (6 + 12 * k) 2) then
    d.aedBad i 0x13 seq
  else
    let page := beAt b 0 4 / 0x1000 * 0x1000
    d.aedJob al i 0x13 seq ((List.range n).map fun k =>
      let a := page + beAt b (6 + 12 * k) 2
      if op k = 0 then .read a
      else .write a (wordAt b (8 + 12 * k)) (if op k = 1 then 0xFFFFFFFF else wordAt b (12 + 12 * k)))

/-- MAILBOX: a request of one item with its four words. -/
def Dev.aedMailbox (al : Alcove) (d : Dev) (i seq : Nat) (b : List Byte) : Dev :=
  let dir := (b.getD 5 0).toNat
  let pg := beAt b 0 4 / 0x1000
  let item := (b.getD 4 0).toNat
  if b.length ≠ 24 ∨ 1 < dir then d.aedBad i 0x14 seq
  else d.aedJob al i 0x14 seq [if dir = 1 then .send pg item ((List.range 4).map fun k => wordAt b (8 + 4 * k)) else .fetch pg item]

/-- SUBSCRIBE. -/
def Dev.aedSubscribe (d : Dev) (i seq : Nat) (b : List Byte) : Dev :=
  if b.length ≠ 128 then d.aedBad i 0x15 seq
  else
    match d.sess i with
    | none => d
    | some s =>
      let subs := (List.range 1024).filter fun e => bitOf (b.getD (e / 8) 0).toNat (e % 8) == 1
      (d.setSess i (some { s with subs := subs })).aedResp i 0x15 seq 0 []

/-- The bytes waiting in the staging of a port (R320). -/
def Dev.bulkBytes (d : Dev) (p : Nat) : Nat := ((d.bulk.filter fun b => b.1 == p).map fun b => b.2.data.length).sum

/-- BULK_WRITE: the data waits in the port's staging for its channel. -/
def Dev.aedBulk (d : Dev) (i seq : Nat) (b : List Byte) : Dev :=
  let data := b.drop 8
  let asid := (b.getD 0 0).toNat
  if d.levelOf i < 1 then d.aedResp i 0x20 seq 7 []
  else if data.isEmpty ∨ 8192 < data.length ∨ 15 < asid then d.aedBad i 0x20 seq
  else
    match d.sess i with
    | none => d
    | some s =>
      let p := s.peer.sub / 4
      let c := if p = 0 then d.get F.AED_BULK_CTL.chan0 else d.get F.AED_BULK_CTL.chan1
      if !d.chEn c ∨ d.bulkPort c ≠ some p ∨ [0, 4, 5].contains (d.chState c) ∨ 2097152 < d.bulkBytes p + data.length then
        d.aedResp i 0x20 seq 3 []
      else
        let idle := (d.chan c).bulk = some p ∧ (d.chan c).stage = .none ∧ d.chState c = 2
        let w : Bulk := { sess := i, seq := seq, asid := asid, va := beAt b 2 6, data := data }
        let d := { (d.setSess i (some { s with bulks := s.bulks ++ [seq] })) with bulk := d.bulk ++ [(p, w)] }
        if idle then (d.bulkNext c).engServe else d

/-- FENCE: the entries in order, which arrived with the frame (R200, R322). -/
def Dev.aedFence (d : Dev) (i seq at' : Nat) (b : List Byte) : Dev :=
  let n := b.length / 8
  if b.length ≠ 8 * n ∨ n = 0 ∨ 64 < n ∨ (List.range n).any (fun k => 512 ≤ beAt b (8 * k) 2) then d.aedBad i 0x30 seq
  else
    let r := (List.range n).foldl (fun (r : AccSum × Dev) k =>
      let f := beAt b (8 * k) 2
      let v := wordAt b (8 * k + 4)
      (r.1.add (.of (r.2.fenceTakes f v)), r.2.fenceWrite at' i f v)) (AccSum.zero, d)
    if (List.range n).all fun k => bitOf (beAt b (8 * k + 2) 2) 0 == 1 then r.2 else r.2.aedCounts i 0x30 seq r.1 []

/-- COMMIT_REQUEST, which arrived with the frame under the horizon of that instant (R28, R323). -/
def Dev.aedCommit (d : Dev) (i seq at' hz : Nat) (b : List Byte) : Dev :=
  if d.levelOf i < 1 then d.aedResp i 0x40 seq 7 []
  else if b.length ≠ 16 then d.aedBad i 0x40 seq
  else
    let flags := beAt b 12 4
    let r := d.commitRequest (d.levelOf i) (some i) at' hz (beAt b 0 8) (bitsOf flags 0 3) (wordAt b 8)
      (bitOf flags 8 == 1) (bitOf flags 9 == 1)
    r.2.aedResp i 0x40 seq 0 (slice b 8 4 ++ bytesBE 1 r.1)

/-- Execute a request of a session. -/
def Dev.aedExec (al : Alcove) (d : Dev) (i : Nat) (q : HeldReq) : Dev :=
  match q.type with
  | 0x10 => d.aedRead al i q.seq q.body
  | 0x11 => d.aedWrite al i q.seq q.body
  | 0x12 => d.aedMasked al i q.seq q.body
  | 0x13 => d.aedSequence al i q.seq q.body
  | 0x14 => d.aedMailbox al i q.seq q.body
  | 0x15 => d.aedSubscribe i q.seq q.body
  | 0x20 => d.aedBulk i q.seq q.body
  | 0x30 => d.aedFence i q.seq q.at' q.body
  | 0x40 => d.aedCommit i q.seq q.at' q.horizon q.body
  | 0x07 => d
  | _ => d.aedBad i q.type q.seq

/-! ## Ordering (R318, R319) -/

/-- Execute the held requests that follow the last executed one, until a number is missing, a bulk write is awaited or an access of the
session waits for the flash (R515). -/
def Dev.aedRunN (al : Alcove) (i : Nat) : Nat → Dev → Dev
  | 0, d => d
  | n + 1, d =>
    match d.sess i with
    | none => d
    | some s =>
      if !s.bulks.isEmpty || d.pwr.flashWait.any (fun j => j.acc == i) then d
      else
        match s.held.find? fun q => q.seq == (s.last + 1) % 2 ^ 32 with
        | none => d
        | some q =>
          Dev.aedRunN al i n ((d.setSess i (some { s with
            last := q.seq, held := s.held.erase q, stored := ((q.seq, []) :: s.stored).take 8 })).aedExec al i q)

/-- The gap timer of a session: it runs from when the first of the requests beyond the missing number came. -/
def Dev.aedGap (d : Dev) (i : Nat) : Dev :=
  match d.sess i with
  | none => d
  | some s =>
    let gap := !s.held.isEmpty && !(s.held.any fun q => q.seq == (s.last + 1) % 2 ^ 32)
    d.setSess i (some { s with gapAt := if gap then (s.held.map (·.at')).min? else none })

def Dev.aedRun (al : Alcove) (d : Dev) (i : Nat) : Dev := (Dev.aedRunN al i 17 d).aedGap i

/-- The sessions whose requests waited for a bulk write go on. -/
def Dev.aedRunAll (al : Alcove) (d : Dev) : Dev :=
  d.sessions.foldl (fun d e =>
    match e.2 with
    | some s => if s.held.isEmpty then d else d.aedRun al e.1
    | none => d) d

/-- A request arrives on a session (R318). One more than 64 ahead, one that would be the 17th held, and a second copy of a held one are
dropped and counted: the manual does not say what becomes of them (DESIGN CHOICE, log 189). -/
def Dev.aedArrive (al : Alcove) (d : Dev) (i type seq : Nat) (body : List Byte) : Dev :=
  match d.sess i with
  | none => d
  | some s =>
    let ahead := (seq + 2 ^ 32 - s.last) % 2 ^ 32
    if 1 ≤ ahead ∧ ahead ≤ 64 then
      if s.held.any fun q => q.seq == seq then d.aedDrop
      else if ahead ≠ 1 ∧ 16 ≤ s.held.length then d.aedDrop
      else (d.setSess i (some { s with held := s.held ++ [{ type := type, seq := seq, body := body, at' := d.now, horizon := d.horizon }] })).aedRun al i
    else
      match s.stored.find? fun x => x.1 == seq with
      | some x => if x.2.isEmpty then d else d.aedTo s.peer false x.2
      | none => d.aedDrop

/-- A request frame; one of an unknown type takes its turn and is answered BAD_REQUEST (R317). -/
def Dev.aedRequest (al : Alcove) (d : Dev) (type : Nat) (f : AedFrame) : Dev :=
  let type := aedType type f
  let r := d.aedFrame type f
  match r.1 with
  | some i => r.2.aedArrive al i type f.hdr.seq.toNat f.body
  | none => r.2

/-- AED_CLOSE. -/
def Dev.aedCloseRx (d : Dev) (f : AedFrame) : Dev :=
  let r := d.aedFrame 0x06 f
  match r.1 with
  | some i => r.2.aedClose i
  | none => r.2

/-- Insert a held request in the order of its distance from the last executed one. -/
def heldInsert (last : Nat) (q : HeldReq) : List HeldReq → List HeldReq
  | [] => [q]
  | x :: xs => if (q.seq + 2 ^ 32 - last) % 2 ^ 32 ≤ (x.seq + 2 ^ 32 - last) % 2 ^ 32 then q :: x :: xs
    else x :: heldInsert last q xs

/-- AED_GAP_TIMEOUT: the held requests are dropped and answered GAP. -/
def Dev.aedGapTimeout (d : Dev) (i : Nat) : Dev :=
  match d.sess i with
  | none => d
  | some s =>
    match s.gapAt with
    | none => d
    | some t =>
      if d.now < t + 2000000 then d
      else
        let qs := s.held.foldr (heldInsert s.last) []
        let top := match qs.getLast? with | some q => q.seq | none => s.last
        let d := (d.setSess i (some { s with held := [], last := top, gapAt := none })).bump F.AED_GAPS.count
        (qs.filter (·.type != 0x07)).foldl (fun d q => d.aedResp i q.type q.seq 6 []) d

/-! ## Events (R321) -/

/-- An entry of an EVENT frame. -/
def EvEntry.bytes (e : EvEntry) : List Byte :=
  bytesBE 2 e.ev ++ bytesBE 2 e.count ++ bytesBE 4 (nsOf e.time) ++ bytesBE 6 (secOf e.time) ++ [0, 0]

/-- AED_EVENT_SEND: the frame holds 64 entries, or its oldest has waited long enough. -/
def Dev.aedEventSend (d : Dev) (i : Nat) : Dev :=
  match d.sess i with
  | none => d
  | some s =>
    match s.events with
    | [] => d
    | e :: _ =>
      if s.events.length < 64 ∧ d.now < e.time + d.get F.AED_TIMING.coalesce_us * 1000 then d
      else
        let es := s.events.take 64
        let d := d.setSess i (some { s with events := s.events.drop 64, lost := 0 })
        d.aedNote i 0x60 true (bytesBE 2 s.lost ++ bytesBE 2 es.length ++ es.flatMap EvEntry.bytes)

end Sys2Proof.Machine
end

