-- ==== Sys2Proof/Machine/Boot.lean ====
section
/-! DEFINITION. The application of a configuration image and the commit of the boot (R519 to R521), and the Ururi monitor:
commands, self-tests and uploads (R541 to R545). -/

namespace Sys2Proof.Machine

/-! ## Records (R519, R520) -/

/-- A record of the image in use, as its head of type, three zeros and body length, and its body (R519): it acts when it is what the
flash holds next, and the application goes on behind it. A record that the image does not hold there, or that comes while one before it
waits for the flash (R515), does nothing (log 146). -/
def Dev.imageRecord (d : Dev) (type : Byte) (body : List Byte) (f : Dev → Dev) : Dev :=
  if d.pwr.flashWait.any fun j => j.acc == 17 then d
  else if d.flashBytes d.pwr.imageAt (8 + body.length) = [type, 0, 0, 0] ++ bytesLE 4 body.length ++ body then
    f { d with pwr.imageAt := d.pwr.imageAt + 8 + body.length }
  else d

/-- Words as the image holds them. -/
def wordsLE (ws : List Word) : List Byte := ws.flatMap fun w => bytesLE 4 w.toNat

/-- The code of an access. -/
def AccEnd.code : AccEnd → Nat
  | .ok => 0 | .failed => 4 | .ignored => 3

/-- A line of the monitor ends: words shown and the code, 0 for OK. -/
def Dev.say (d : Dev) (ws : List Word) (code : Nat) : Dev := d.emit (.uart d.now ws code)

/-- The end of a request: the boot counts the ignored words, and a session or the monitor is answered. -/
def Dev.jobEnd (al : Alcove) (j : Job) (d : Dev) : Dev :=
  match j.fin with
  | .quiet => d
  | .apply => d.bumpBy F.APPLY_ERRORS.count j.sum.ignored
  | .aed type seq => d.aedDone j.acc type seq j
  | .line words => d.say (if words && j.last == .ok then j.words else []) j.last.code
  | .ident =>
    d.say (j.words ++ ((List.range 4).map fun k => w32 (d.serial / 2 ^ (32 * k))) ++ [d.stored F.FW_STATUS.minor.addr, al.swId, w32 al.fwVer]) 0

/-- A request runs, and its end is answered. -/
def Dev.job (al : Alcove) (d : Dev) (acc : Nat) (steps : List Access) (fin : JobEnd) : Dev :=
  d.grant al (.new acc steps fin) (Dev.jobEnd al)

/-- The flash is free again: what waits is granted in its order, as far as the flash stays free (R278, R515). The session-local fields of
a session that has closed go with the last of its requests (R315). -/
def Dev.flashNext (al : Alcove) (d : Dev) : Dev :=
  if d.is F.FLASH_STATUS.busy then d
  else
    let d := d.pwr.flashWait.foldl (fun (d : Dev) j => d.grant al j (Dev.jobEnd al)) { d with pwr.flashWait := [] }
    let gone (acc : Nat) : Bool := 32 ≤ acc && !d.pwr.flashWait.any fun j => j.acc == acc
    { d with regs.loc := d.regs.loc.filter fun e => !gone (e.1 / 2 ^ 32) }.aedRunAll al

/-- WRITE: words to consecutive addresses. -/
def Dev.imageWrite (al : Alcove) (d : Dev) (a : Nat) (ws : List Word) : Dev :=
  d.imageRecord 0x01 (bytesLE 4 a ++ wordsLE ws) fun d =>
    d.job al 17 (ws.zipIdx.map fun x => .write (a + 4 * x.2) x.1 0xFFFFFFFF) .apply

/-- MASKED. -/
def Dev.imageMasked (al : Alcove) (d : Dev) (es : List MaskEntry) : Dev :=
  d.imageRecord 0x02 (es.flatMap fun e => bytesLE 4 e.addr.toNat ++ wordsLE [e.mask, e.value]) fun d =>
    d.job al 17 (es.map fun e => .write e.addr.toNat e.value e.mask) .apply

/-- MAILBOX, in the write direction. -/
def Dev.imageMailbox (al : Alcove) (d : Dev) (page item : Nat) (ws : Mbx4) : Dev :=
  d.imageRecord 0x03 (bytesLE 4 page ++ [BitVec.ofNat 8 item, 0, 0, 0] ++ wordsLE [ws.w0, ws.w1, ws.w2, ws.w3]) fun d =>
    d.job al 17 [.send (pageNo page) item [ws.w0, ws.w1, ws.w2, ws.w3]] .apply

/-- Words through IND_DATA of a page from an indirect address. -/
def indWrites (pg : Nat) (first : Word) (ws : List Word) : List Access :=
  .write (A.IND_ADDR pg) first 0xFFFFFFFF :: ws.map fun w => .write (A.IND_DATA pg) w 0xFFFFFFFF

/-- INDIRECT. -/
def Dev.imageIndirect (al : Alcove) (d : Dev) (page : Nat) (first : Word) (ws : List Word) : Dev :=
  d.imageRecord 0x04 (bytesLE 4 page ++ wordsLE (first :: ws)) fun d => d.job al 17 (indWrites (pageNo page) first ws) .apply

/-- The data of an HBM_LOAD: each 64-byte unit through translation; one that faults is counted, and the others are written. The kind and
master of its fault record and its class are free values. Log 58. It waits for a stack whose traffic is held (R456). -/
def Dev.loadData (d : Dev) (asid va : Nat) (data : List Byte) : Dev :=
  if d.ingestWaits 257 || d.partsHeld asid [(va, data)] then d.ingestHold (.load asid va data)
  else
    let k := d.free
    (splitAt 64 (data.length + 1) va (data.map some)).foldl (fun d u =>
      match d.xlate (k % 8) (k / 8 % 65536) asid (u.1 % 2 ^ 48) true with
      | (.ok pa, d) => d.writeUnit (k / 2 ^ 19 % 4) pa u.2
      | (.bad _ _, d) => d.bump F.APPLY_ERRORS.count) d.drawn

/-- HBM_LOAD. -/
def Dev.imageLoad (d : Dev) (asid va : Nat) (data : List Byte) : Dev :=
  d.imageRecord 0x05 ([BitVec.ofNat 8 asid, 0] ++ bytesLE 6 va ++ data) fun d => d.loadData asid va data

/-- COMMIT: the boot is to request a commit (R521). -/
def Dev.imageCommit (d : Dev) (ref lead wait : Nat) : Dev :=
  d.imageRecord 0x06 ([BitVec.ofNat 8 ref, 0, 0, 0] ++ bytesLE 4 lead ++ bytesLE 4 wait) fun d =>
    { d with pwr.bootReq := some { ref := ref, lead := lead, wait := wait, from' := d.now } }

/-- The application ends: the session-local fields of accessor 17 and its key staging are cleared (R520). -/
def Dev.applyDone (d : Dev) : Dev :=
  { d with pwr.applying := false, pwr.flashWait := d.pwr.flashWait.filter (fun j => j.acc != 17), regs.loc := d.regs.loc.filter (fun e => e.1 / 2 ^ 32 != 17),
           keyStage := Tab.erase 17 d.keyStage }

/-- END. -/
def Dev.imageEnd (d : Dev) : Dev := d.imageRecord 0x7F [] Dev.applyDone

/-- BOOT_DONE: an application that has not come to its END stopped at a record of unknown type (log 59). -/
def Dev.bootEnds (d : Dev) : Dev :=
  let d := if d.pwr.applying then d.applyDone.put F.STATUS.apply_stopped 1 else d
  d.bootDone

/-- BOOT_COMMIT_REQUEST (R521): TC is locked, or the wait has ended. -/
def Dev.bootCommit (d : Dev) : Dev :=
  match d.pwr.bootReq with
  | none => d
  | some b =>
    let locked := d.get F.TIME_STATUS.state == 2
    if !locked ∧ d.now < b.from' + b.wait * 1000000 then d
    else
      let d := { d with pwr.bootReq := none }
      let d := if locked then d else d.put F.STATUS.tc_unlocked 1
      let t := d.tickFrom b.ref (d.now + b.lead * 1000000)
      let r := d.commitRequest 2 none d.now d.horizon t b.ref (w32 (d.get F.ACTIVE_GEN.gen + 1)) false false
      if r.1 = 0xFF then { r.2 with pwr.bootAns := true } else (r.2.put F.STATUS.commit_code r.1).raise 39

/-- The answer of the boot's commit (R521). -/
def Dev.bootAnswer (d : Dev) : Dev :=
  if !d.pwr.bootAns ∨ d.admitting then d
  else
    let d := ({ d with pwr.bootAns := false }).put F.STATUS.commit_code d.answer.code
    if d.answer.code ≤ 1 then d else d.raise 39

/-! ## Ururi (R541 to R543) -/

/-- A line reaches the monitor. -/
def Dev.ururi (d : Dev) (f : Dev → Dev) : Dev := f { d with stw.heard := d.now }

/-- A command that recovery does not take answers ERR 05. -/
def Dev.ururiFull (d : Dev) (f : Dev → Dev) : Dev := d.ururi fun d => if d.is F.STATUS.recovery then d.say [] 5 else f d

/-- The commands of R543 by name, as HELP lists them: a line of ASCII with spaces between, four characters to a word (DESIGN CHOICE, log
147). -/
def ururiNames : List Word :=
  let cs := "HELP ID LEVEL BAUD RD WR WM IND INDW MBX EVT SNAP ADM TEST LOAD ".toList.map fun c => BitVec.ofNat 8 c.toNat
  (List.range (cs.length / 4)).map fun k => w32 (ofLE (slice cs (4 * k) 4))

/-- The level of Ururi. -/
def Dev.ururiLvl (d : Dev) : Nat := d.get F.URURI_CTL.level

def Dev.ururiId (al : Alcove) (d : Dev) : Dev := d.job al 16 [.read 0x100] .ident

def Dev.ururiLevel (d : Dev) (n : Option Nat) : Dev :=
  match n with
  | none => d.say [w32 d.ururiLvl] 0
  | some n => if d.get F.URURI_CTL.ceiling < n then d.say [] 2 else (d.put F.URURI_CTL.level n).say [] 0

def Dev.ururiBaud (d : Dev) (n : Nat) : Dev :=
  if 7 < n then d.say [] 1 else (d.put F.URURI_CTL.baud (if 3 < n then 0 else n)).say [] 0

def Dev.ururiRd (al : Alcove) (d : Dev) (a count : Nat) : Dev :=
  if count = 0 ∨ 256 < count then d.say [] 1 else d.job al 16 ((List.range count).map fun k => .read (a + 4 * k)) (.line true)

def Dev.ururiWr (al : Alcove) (d : Dev) (a : Nat) (v m : Word) : Dev := d.job al 16 [.write a v m] (.line false)

def Dev.ururiInd (al : Alcove) (d : Dev) (page : Nat) (first : Word) (count : Nat) : Dev :=
  let pg := pageNo page
  if count = 0 ∨ 256 < count then d.say [] 1
  else d.job al 16 (.write (A.IND_ADDR pg) first 0xFFFFFFFF :: List.replicate count (.read (A.IND_DATA pg))) (.line true)

def Dev.ururiIndw (al : Alcove) (d : Dev) (page : Nat) (first v : Word) : Dev :=
  d.job al 16 (indWrites (pageNo page) first [v]) (.line false)

def Dev.ururiMbx (al : Alcove) (d : Dev) (page item : Nat) (ws : Option Mbx4) : Dev :=
  let pg := pageNo page
  match ws with
  | some w => d.job al 16 [.send pg item [w.w0, w.w1, w.w2, w.w3]] (.line false)
  | none => d.job al 16 [.fetch pg item] (.line true)

def Dev.ururiEvt (al : Alcove) (d : Dev) (raw : Bool) : Dev :=
  d.job al 16 ((List.range 32).map fun g => .read (if raw then A.EVT_RAW_ALL g else A.EVT_PENDING_ALL g)) (.line true)

/-- ADM: the answer, the binding instance and the 14 resources of a report (R189, R543). -/
def Dev.ururiAdm (d : Dev) (readm : Bool) : Dev :=
  let w (a : Nat) : Word := Tab.get (fun _ => 0) (if readm then d.reReport else d.report) a
  d.say ((List.range 8).map w ++ (List.range 14).map fun r => w (16 + r)) 0

/-! ## Self-tests (R544) -/

/-- A test by its code: level, condition and start; the line OK or ERR 06 comes at its end. -/
def Dev.ururiTest (d : Dev) (test i level : Nat) : Dev :=
  if d.ururiLvl < level then d.say [] 2
  else if d.testAllowed test i then d.testStart test i
  else d.say [] 5

/-- The end of a test. The CLOCK test shows the locks of the PLLs and REF_STATUS. -/
def Dev.testEnds (d : Dev) (errors : Nat) : Dev :=
  match d.stw.test with
  | none => d
  | some (test, _) =>
    let d := d.testDone errors
    let ws := if test = 2 then
        [d.stored F.PLL_STATUS.core_on_hold.addr] ++ ((List.range 36).map fun q => d.stored (F.QPLL_STATUS.lock0 q).addr) ++
          ((List.range 8).map fun c => d.stored (F.TSYN_STATUS.lock c).addr) ++ [d.stored F.REF_STATUS.refclk_ok.addr]
      else [d.stored F.TEST_STATUS.errors.addr]
    d.say ws (if d.is F.TEST_STATUS.pass then 0 else 6)

/-! ## Uploads (R545) -/

/-- The size of an upload's region. -/
def regionSize (r : Nat) : Nat := if r < 2 then 0x04000000 else 0x08000000

/-- Whether a region is the firmware slot or the configuration image in use; in recovery the firmware of the ROM runs. -/
def Dev.regionInUse (d : Dev) (r : Nat) : Bool :=
  if r < 2 then d.get F.FW_STATUS.slot == r && !d.is F.STATUS.recovery else d.pwr.cfgUsed == some (r - 2)

/-- A character of the XMODEM protocol leaves the monitor: 0x43 asks for a transmission with CRC, 0x06 acknowledges a block or the end,
0x15 has the block sent again (R545; PRESUMED from XMODEM-1K, log 178). -/
def Dev.xmodem (d : Dev) (char : Byte) : Dev := d.emit (.xmodem d.now char)

/-- LOAD. -/
def Dev.ururiLoad (d : Dev) (region : Nat) : Dev :=
  if d.ururiLvl < 2 then d.say [] 2
  else if d.regionInUse region ∨ d.stw.load.isSome then d.say [] 5
  else ({ d with stw.load := some { region := region, next := 1, addr := regionBase region, heard := d.now, ended := none } }).xmodem 0x43

/-- A block of a region is programmed, and the sector it is the first to reach erased before, by operations of the flash, each of which
waits until those before it are done (R515, R538). The region is invalid from its first block until its upload ends, and stays so where that
breaks off. -/
def Dev.loadBlock (d : Dev) (region a : Nat) (data : List Byte) : Dev :=
  let d : Dev := { d with
    pwr.fwA := if region = 0 then none else d.pwr.fwA
    pwr.fwB := if region = 1 then none else d.pwr.fwB
    pwr.torn := region :: d.pwr.torn.filter (· != region) }
  ((if a % 65536 = 0 then [FlashOp.clear (a / 65536)] else []) ++
    (List.range 256).map fun k => FlashOp.program (a / 4 + k) (w32 (ofLE (slice data (4 * k) 4)))).foldl Dev.flashStart d

/-- The image of a region is checked at the end of its upload (R516, R517); the version of a firmware image that checks is a
free value (log 60), and a slot with one that does not stays invalid. -/
def Dev.loadEnd (d : Dev) (region : Nat) (sigOk : Bool) : Dev :=
  let d := { d with stw.load := none, pwr.torn := d.pwr.torn.filter fun r => r != region || (decide (r < 2) && !sigOk) }
  let v := if sigOk then some (d.free % 65536) else none
  let ok := if region < 2 then sigOk else (d.imageSeq (region - 2)).isSome
  let d := if region = 0 then { d.drawn with pwr.fwA := v } else if region = 1 then { d.drawn with pwr.fwB := v } else d
  d.say [] (if ok then 0 else 6)

/-- An upload whose last block has come ends as the flash has done what it asked for (R515, R545; DESIGN CHOICE, log 178). -/
def Dev.loadDone (d : Dev) : Dev :=
  match d.stw.load with
  | some u => (match u.ended with
    | some ok => if d.is F.FLASH_STATUS.busy then d else d.loadEnd u.region ok
    | none => d)
  | none => d

/-- XMODEM_BLOCK: a block, or the end of the transmission. A block that fails its check, or that is not the next, is sent again; one
that was taken before is acknowledged and passed over, and one beyond the region ends the upload (log 178). -/
def Dev.xmodemBlock (d : Dev) (b : Option XBlock) (sigOk : Bool) : Dev :=
  match d.stw.load with
  | none => d
  | some u =>
    if u.ended.isSome then d else
    match b with
    | none => (({ d with stw.heard := d.now, stw.load := some { u with ended := some sigOk } }).xmodem 0x06).loadDone
    | some x =>
      let d := { d with stw.heard := d.now, stw.load := some { u with heard := d.now } }
      if x.data.length ≠ 1024 ∨ crc16Xmodem x.data ≠ x.crc.toNat then d.xmodem 0x15
      else if 1 < u.next ∧ x.num.toNat = (u.next + 255) % 256 then d.xmodem 0x06
      else if x.num.toNat ≠ u.next % 256 then d.xmodem 0x15
      else if regionBase u.region + regionSize u.region ≤ u.addr then ({ d with stw.load := none }).say [] 6
      else
        let d := d.loadBlock u.region u.addr x.data
        ({ d with stw.load := some { u with next := u.next + 1, addr := u.addr + 1024, heard := d.now } }).xmodem 0x06

/-- LOAD_TIMEOUT: the region that blocks have reached stays invalid. -/
def Dev.loadTimeout (d : Dev) : Dev :=
  match d.stw.load with
  | some u => if u.ended.isNone ∧ u.heard + 60000000000 ≤ d.now then ({ d with stw.load := none }).say [] 6 else d
  | none => d

/-- URURI_IDLE_TIMEOUT. -/
def Dev.ururiIdle (d : Dev) : Dev :=
  if d.stw.heard + 600000000000 ≤ d.now then d.put F.URURI_CTL.level 0 else d

end Sys2Proof.Machine
end

