-- ==== Sys2Proof/Machine/Tap.lean ====
section
/-! DEFINITION. The test access port (R561, R562): its instructions and data registers, what it shifts out, and what it makes the lands
show. -/

namespace Sys2Proof.Machine

/-! ## Instructions (R561, R562) -/

/-- The instructions of the port (R561). -/
inductive TapOp where
  | extest | idcode | sample | highz | clamp | extestPulse | extestTrain | bypass
deriving DecidableEq, Repr

/-- The instruction of an opcode; others are taken as BYPASS (R561). -/
def tapOp (ir : BitVec 8) : TapOp :=
  match ir.toNat with
  | 0x00 => .extest
  | 0x01 => .idcode
  | 0x02 => .sample
  | 0x04 => .highz
  | 0x05 => .clamp
  | 0x06 => .extestPulse
  | 0x07 => .extestTrain
  | _ => .bypass

/-- The instructions that drive lands (R562). -/
def TapOp.drives : TapOp → Bool
  | .extest | .highz | .clamp | .extestPulse | .extestTrain => true
  | _ => false

/-- The instructions that select the boundary register. -/
def TapOp.boundary : TapOp → Bool
  | .extest | .extestPulse | .extestTrain | .sample => true
  | _ => false

/-- The instruction in force: those that drive lands act as BYPASS while RESET_N is high, and where they were loaded while it was
(R562). -/
def tapInForce (p : Tap) (resetN : Bool) : TapOp :=
  if (tapOp p.ir).drives && (resetN || p.high) then .bypass else tapOp p.ir

/-! ## Lands (R553, R557, R562) -/

/-- The lands that the boundary register covers: those of R557, and each pair of R553. -/
inductive Land where
  | resetN | pwrgood | ppsIn | ppsOut | uartTxd | uartRxd | tck | tms | tdi | tdo | trstN
  | evtN (i : Nat)
  | strap (i : Nat)
  | ltx (n : Nat)
  | lrx (n : Nat)
  | hpTx (n : Nat)
  | hpRx (n : Nat)
deriving DecidableEq, Repr

/-- All of them. -/
def boundaryLands : List Land :=
  [.resetN, .pwrgood, .ppsIn, .ppsOut, .uartTxd, .uartRxd] ++ (List.range 4).map .evtN ++ (List.range 8).map .strap ++
    [.tck, .tms, .tdi, .tdo, .trstN] ++ (List.range 144).map .ltx ++ (List.range 144).map .lrx ++ (List.range 16).map .hpTx ++
    (List.range 16).map .hpRx

/-- The lands that the module drives in operation, and among the lands the pairs (R557, R562). -/
def Land.output : Land → Bool
  | .pwrgood | .ppsOut | .uartTxd | .evtN _ | .ltx _ | .hpTx _ => true
  | _ => false
def Land.pair : Land → Bool
  | .ltx _ | .lrx _ | .hpTx _ | .hpRx _ => true
  | _ => false

/-- Lands in some order: one of those left after another, as `Config.boundaryOrder` picks them. -/
def pickLands : Nat → List Land → List Land
  | 0, _ => []
  | n + 1, ls =>
    match ls[Config.boundaryOrder n % ls.length]? with
    | some l => l :: pickLands n (ls.erase l)
    | none => []

/-- The lands in the order of the cells of the boundary register, one cell for each land (R562; DESIGN CHOICE, log 163). -/
def cellOrder : List Land := pickLands boundaryLands.length boundaryLands
def cellLand (k : Nat) : Land := cellOrder.getD k .resetN

/-- What the cells hold for a land. -/
def Tap.cellOf (p : Tap) (l : Land) : Bool := p.cells.getD (cellOrder.idxOf l) false

/-- What drives a land: the module in operation, a level of the boundary register, an AC test signal of it (IEEE 1149.6), or nothing. -/
inductive LandDrive where
  | module
  | level (high : Bool)
  | pulse (high : Bool)
  | train (high : Bool)
  | none
deriving DecidableEq, Repr

/-- What the port makes of a land: EXTEST and CLAMP drive the lands that the module drives in operation from the boundary register,
EXTEST_PULSE and EXTEST_TRAIN their pairs with test signals, and HIGHZ lets them go (R561, R562). -/
def landDrive (p : Tap) (resetN : Bool) (l : Land) : LandDrive :=
  if !l.output then .module
  else
    match tapInForce p resetN with
    | .extest => .level (p.cellOf l)
    | .clamp => .level (p.cellOf l)
    | .extestPulse => if l.pair then .pulse (p.cellOf l) else .level (p.cellOf l)
    | .extestTrain => if l.pair then .train (p.cellOf l) else .level (p.cellOf l)
    | .highz => .none
    | _ => .module

/-- The level of a land in operation, where the state decides it: a low open-drain land, an idle transmitter. -/
def Dev.landLevel (d : Dev) : Land → Option Bool
  | .resetN => some d.pwr.resetN
  | .pwrgood => some d.pwr.pwrgood
  | .ppsOut => some d.clk.ppsOut
  | .uartTxd => some true
  | .evtN i => some (bitOf (d.get F.EVT_N_STATUS.low) i == 0)
  | .trstN => some true
  | _ => none

/-- What a cell captures of its land: the level it is driven to, or a free value where the state holds none. -/
def Dev.landSeen (d : Dev) (p : Tap) (k : Nat) : Bool :=
  match landDrive p d.pwr.resetN (cellLand k) with
  | .level b => b
  | .module => (d.landLevel (cellLand k)).getD (Config.freeNat (d.seed + k) % 2 == 1)
  | _ => Config.freeNat (d.seed + k) % 2 == 1

/-! ## Shifting (R557, R561) -/

/-- The word that IDCODE shifts out: version, part number, manufacturer and a one (R561). -/
def idcodeWord : Word := w32 (1 + 0x2A5 * 2 + 0x0144 * 2 ^ 12 + 0x1 * 2 ^ 28)

/-- What the instruction register gives out as the next is shifted in: IEEE 1149.1 fixes its two first bits alone (PRESUMED, log 145). -/
def irOut (free : Nat) : List Bool := [true, false] ++ (List.range 6).map fun i => bitOf free i == 1

/-- What the selected data register captures, the bit next to TDO first. -/
def Dev.drCapture (d : Dev) (p : Tap) : List Bool :=
  match tapInForce p d.pwr.resetN with
  | .idcode => (List.range 32).map idcodeWord.getLsbD
  | .extest | .extestPulse | .extestTrain | .sample => (List.range boundaryLands.length).map (d.landSeen p)
  | _ => [false]

/-- TDO drives bits, while the port shifts. -/
def Dev.tdo (d : Dev) (bits : List Bool) : Dev := d.emit (.tdo d.now bits)

/-- An instruction is shifted in, and data through the register that it selects, which the boundary register takes as its update
(R561, R562). -/
def tapShift (p : Tap) (d : Dev) (x : TapScan) : Tap × Dev :=
  let p := { p with ir := x.ir, high := d.pwr.resetN }
  let d := (d.tdo (irOut d.free)).drawn
  if x.dr.isEmpty then (p, d)
  else
    let all := d.drCapture p ++ x.dr
    (if (tapInForce p d.pwr.resetN).boundary then { p with cells := all.drop x.dr.length } else p,
      { d.tdo (all.take x.dr.length) with seed := d.seed + boundaryLands.length })

/-! ## RESET_N (R508, R562) -/

/-- RESET_RELEASE: leaving EXTEST by it is a reset of kind 1, but a sequence of R524 runs to its end. The boot resumes, and BOOT_TIME_MS
counts from here (R508, R532). -/
def Dev.resetRelease (d : Dev) (t : Tap) : Dev :=
  let low := !d.pwr.resetN
  let d := { d with pwr.resetN := true }
  if !low ∨ d.pwr.fail.isSome then d
  else
    let d := if tapInForce t false = .extest ∧ d.pwr.on then d.modReset 1 else d
    { d with pwr.stopped := false, pwr.tv := d.now }

end Sys2Proof.Machine
end

