-- ==== Sys2Proof/Machine/Tick.lean ====
section
/-! DEFINITION. The instants of a canvas: the tick with the application of a commit (R20, R21, R33, R34) and of a
re-admission (R186), the turnaround (R40, R204), the start of a phase (R17), and the module tick (R568). -/

namespace Sys2Proof.Machine

/-! ## Which canvas a field belongs to (R34) -/

/-- The canvas of a hall, window or lane in a commit: under the pending bank where it is enabled there, else under the active
one. -/
def hallHome (act pend : View) (h : Nat) : Option Nat :=
  if hallOn pend h then some (hallCanvas pend h) else if hallOn act h then some (hallCanvas act h) else none
def winHome (act pend : View) (w : Nat) : Option Nat :=
  if winOn pend w then some (winCanvas pend w) else if winOn act w then some (winCanvas act w) else none
def laneHome (act pend : View) (n : Nat) : Option Nat :=
  match (winsOn pend).find? fun w => (winLanes pend w).contains n with
  | some w => some (winCanvas pend w)
  | none => ((winsOn act).find? fun w => (winLanes act w).contains n).map (winCanvas act)

/-- The canvas that an address belongs to, among those that a commit involves; none for the fields of no canvas (R33). -/
def homeOf (act pend : View) (a : Nat) : Option Nat :=
  let pg := a / 0x1000
  let c : Option Nat :=
    if 0x4000000 ≤ a then some ((a - 0x4000000) / 16)
    else if 0x400 ≤ a ∧ a < 0x600 then some ((a - 0x400) / 0x40)
    else if 0x9001D0 ≤ a ∧ a < 0x9001F0 then some ((a - 0x9001D0) / 4)
    else if 0x100 ≤ pg ∧ pg < 0x180 then hallHome act pend ((pg - 0x100) / 16)
    else if 0x200 ≤ pg ∧ pg < 0x440 then winHome act pend (pg - 0x200)
    else if 0x3000 ≤ pg ∧ pg < 0x3090 then laneHome act pend (pg - 0x3000)
    else none
  c.filter fun c => canvasOn act c || canvasOn pend c

/-! ## Taking values of the pending bank -/

/-- The RWS bits of an address; an epoch is RWS whole (R55). -/
def rwsMask (a : Nat) : Word := if 0x4000000 ≤ a then 0xFFFFFFFF else maskWhere a fun f => f.acc == .rws

/-- The active values with those of the pending bank at some addresses. -/
def Dev.takeRws (d : Dev) (p : Nat → Bool) : Tab Word :=
  (((d.regs.pend ++ d.regs.active).map (·.1)).eraseDups.filter p).foldl (fun t a =>
    Tab.set resetWord t a ((Tab.get resetWord t a &&& ~~~(rwsMask a)) ||| (d.pendv a &&& rwsMask a))) d.regs.active

/-- Whether a stretch of addresses reads differently in two states. -/
def Dev.differs (d e : Dev) (lo n : Nat) : Bool :=
  (d.regs.active ++ e.regs.active).any fun x => lo ≤ x.1 && x.1 < lo + n && d.actv x.1 != e.actv x.1

/-- Check units before new values: a disabled or changed unit gives up its region (R436, R445). -/
def Dev.cusLeave (d e : Dev) : Dev :=
  (List.range 56).foldl (fun d' u =>
    if d.cuActive u && (!e.cuActive u || d.differs e (0x700000 + u * 0x1000) 0x1000) then d'.cuAbandon u (!e.cuActive u)
    else d') d

/-- Check units under new values: a unit that comes into use is no longer frozen and keeps V, or a value written to it, for its
first region start (R443, R445), each in the low w bits of its register (R433); CU_STATUS says which units follow a stream and which
a verification names (R447). -/
def Dev.cusEnter (d old : Dev) : Dev :=
  (List.range 56).foldl (fun d u =>
    let on := d.cuActive u
    let d := d.cuCut u
    let d := if on && !old.cuActive u then
        (d.setCu u { d.cu u with heldPk := [], nextSeq := none, heldEnd := none }).put (F.CU_STATUS.frozen u) 0
      else d
    let d := if on != d.is (F.CU_STATUS.active u) then d.put (F.CU_STATUS.active u) (b2n on) else d
    let bal := (d.balOf u).isSome
    if bal != d.is (F.CU_STATUS.bal u) then d.put (F.CU_STATUS.bal u) (b2n bal) else d) d

/-- Whether a leg listens to the same group in two states. -/
def Dev.sameLeg (d e : Dev) (r l : Nat) : Bool :=
  legOn d.actv r l && legOn e.actv r l && legSub d.actv r l == legSub e.actv r l && d.legDst r l == e.legDst r l &&
    d.legSrc r l == e.legSrc r l

/-- Receivers before new values: a changed or disabled one abandons its frame (R310), and legs that end or listen elsewhere,
also by a new ADDR6 entry, leave their groups (R301). -/
def Dev.rxLeave (d e : Dev) : Dev :=
  (List.range 256).foldl (fun d' r =>
    let d' := [0, 1].foldl (fun d' l => if legOn d.actv r l && !d.sameLeg e r l then d'.legReport r l 4 else d') d'
    if rxOn d.actv r && d.differs e (rxBase r) 0x80 then d'.rxAbandon r else d') d

/-- Receivers under new values: a new one starts, and new legs join their groups. -/
def Dev.rxEnter (d old : Dev) : Dev :=
  (List.range 256).foldl (fun d r =>
    let d := if rxOn d.actv r && !rxOn old.actv r then d.setRecv r Recv.idle else d
    let d := if rxOn d.actv r != rxOn old.actv r then d.put (F.RX_STATUS.active r) (b2n (rxOn d.actv r)) else d
    [0, 1].foldl (fun d l => if legOn d.actv r l && !old.sameLeg d r l then d.legReport r l 3 else d) d) d

/-- Whether a bank runs the transmitter of a lane of its own: enabled, in a mode other than 0, and no spare (R228, R231). -/
def laneDrives (rd : View) (n : Nat) : Bool := laneOn rd n && laneMode rd n != 0 && !laneSpare rd n

/-- Lanes under new values: transmitters start, with what waits for them (R235), and stop, receivers lose what they had found, and a
gate list stops when the lane leaves modes 2 to 5 (R343). On a spare the fields of the lane that it carries are in force (R241).
Whole packets still queued on a lane that leaves the Ethernet modes stay in its queue until it has one again: the manual does not
say what becomes of them (DESIGN CHOICE, log 151). -/
def Dev.lanesEnter (d old : Dev) : Dev :=
  (List.range 144).foldl (fun d n =>
    let f := d.fieldsOf n
    let now := laneDrives d.actv f
    let d :=
      if now != laneDrives old.actv f then
        let on := now && (f != n || !d.is (F.LANE_STATUS.out_of_service n)) && !(d.lane n).txDead
        let d := d.put (F.LANE_STATUS.tx_on n) (b2n on)
        if on then d.laneDrain n else d
      else d
    let d := if laneSide old.actv f != laneSide d.actv f then
        (d.put (F.LANE_STATUS.rx_lock n) 0).put (F.LANE_STATUS.link_up n) 0
      else d
    if laneSide old.actv n == 2 && laneSide d.actv n != 2 && d.gateBit n 0 then d.gateStop n else d) d

/-- Host ports under new values: a port whose split or enable changes retrains (R299). -/
def Dev.hostsEnter (d old : Dev) : Dev :=
  let d := (List.range 2).foldl (fun d p =>
    if old.differs d (A.HP_PORT_CTL p) 4 then d.hpDown p else d) d
  d.bmca

/-- Landing ports that a commit disables go down (R248). -/
def Dev.portsEnter (d old : Dev) : Dev :=
  (List.range 8).foldl (fun d k =>
    if portOn old.actv k && !portOn d.actv k then
      let d := d.portFalls k
      d.setPort k { Port.idle with lost := (d.port k).lost }
    else d) d

/-- Values of the pending bank become active at some addresses, with what follows from them outside the canvases. -/
def Dev.applyWhere (d : Dev) (p : Nat → Bool) : Dev :=
  let e := { d with regs.active := d.takeRws p }
  let old := d
  let d := (d.creditSettle.cusLeave e).rxLeave e
  let d := { d with regs.active := e.regs.active }
  let d := ((d.cusEnter old).rxEnter old).lanesEnter old
  ((d.hostsEnter old).portsEnter old).lanesStranded.clkTune.engRes

/-! ## What a hall and a window report under the active generation -/

/-- The scaler blocks, pool and coverage of a hall that is off. -/
def Dev.hallUnused (d : Dev) (h : Nat) : Dev :=
  let d := (List.range 8).foldl (fun d n =>
    let d := ((d.put (F.POOL_OFS.ofs h n) 0).put (F.POOL_BYTES.bytes h n) 0).put (F.SRC_COLS.cols h n) 0
    let d := ((d.put (F.STEP_X_LO.step h n) 0).put (F.STEP_X_HI.step h n) 0).put (F.STEP_Y_LO.step h n) 0
    let d := ((d.put (F.STEP_Y_HI.step h n) 0).put (F.SCALE_STATUS.reduced h n) 0).put (F.SCALE_STATUS.halved h n) 0
    (d.put (F.SCALE_STATUS.h_taps_eff h n) 0).put (F.SCALE_STATUS.v_taps_eff h n) 0) d
  ((d.put (F.POOL_USED.bytes h) 0).put (F.COVER_TILES.entries h) 0).put (F.COVER_CYCLES.cycles h) 0

/-- A hall at an application tick: its stripe, its status with a kill ended (R61, R88), and what it takes. -/
def Dev.hallShow (d : Dev) (h : Nat) : Dev :=
  let rd := d.actv
  let c := hallCanvas rd h
  let on := hallOn rd h && canvasOn rd c
  let h0 := leadOf rd h
  let s := if on then stripeOf rd h else (0, 0)
  let d := d.setHall h { d.hall h with killedAt := none }
  let d := (d.put (F.HALL_STATUS.active h) (b2n (on && !(d.hall h).outOfService))).put (F.HALL_STATUS.killed h) 0
  let d := d.put (F.HALL_STATUS.lead h) (b2n (on && h0 == h))
  let d := ((d.put (F.HALL_STATUS.stripe h) (if on then h - h0 else 0)).put (F.STRIPE_X0.x0 h) s.1).put (F.STRIPE_W.w h) s.2
  if on then d.hallUse c h0 h else d.hallUnused h

/-- The Gallery at an application tick: enabled windows that are not shed take contiguous regions in ascending order
(R223). WIN_STATUS of a window that is off keeps late, on_spare and halted, of which R240 says nothing then (DESIGN CHOICE, log 127). -/
def Dev.galShow (d old : Dev) : Dev :=
  let on := winsOn d.actv
  let d := ((winsOn old.actv).filter fun w => !on.contains w).foldl (fun d w =>
    ((d.put (F.GAL_OFS.ofs w) 0).put (F.GAL_BYTES.bytes w) 0).put (F.WIN_STATUS.active w) 0) d
  (on.foldl (fun (r : Dev × Nat) w =>
    let n := if d.shed.contains w then 0 else galBytes d.actv w
    let d := ((r.1.put (F.GAL_OFS.ofs w) (if n = 0 then 0 else r.2)).put (F.GAL_BYTES.bytes w) n).put (F.WIN_STATUS.active w)
      (b2n (canvasOn d.actv (winCanvas d.actv w) && !d.shed.contains w))
    (d.winHalted w, r.2 + n)) (d, 0)).1.spareShow

/-! ## Descent steps in force (R183, R184) -/

/-- The steps of the layers of a hall come into force, beside those in force when a re-admission takes them (R185): their status
bits and counts, ADMIT_DESCENT when any is taken (R184, R192), and the event of a fewer-taps step that was not in force, which every
hall of the gang raises: the manual does not say which do (DESIGN CHOICE, log 124). -/
def Dev.takeSteps (d : Dev) (h0 : Nat) (taken : Tab Nat) (keep : Bool) : Dev :=
  let old (n : Nat) : Nat := (d.layer h0 n).steps
  let took (n : Nat) : Nat := Tab.get (fun _ => 0) taken (layerKey h0 n)
  let new (n : Nat) : Nat := if keep then took n ||| old n else took n
  let fewer := (List.range 8).any fun n => bitOf (new n) 0 == 1 && bitOf (old n) 0 == 0
  let d := (List.range 33).foldl (fun d n =>
    ((d.setLayer h0 n { d.layer h0 n with steps := new n }).put (F.LAYER_STATUS.frozen h0 n) (bitOf (new n) 2)).put
      (F.LAYER_STATUS.hidden h0 n) (bitOf (new n) 3)) d
  let d := if fewer then (gangOf d.actv h0).foldl (fun d h => d.raiseHall h 8) d else d
  let d := if (List.range 33).any fun n => took n != 0 then d.raise 69 else d
  d.put F.DESCENT_LAYERS.layers ((List.range 264).filter fun k => (d.layer (k / 33) (k % 33)).steps != 0).length

/-- The running configuration as admission sees it. -/
def Dev.runCfg (d : Dev) : AdmCfg := { rd := d.actv, base := d.actv, st := d.stv, steps := d.stepsNow, res := d.admRes d.noWins }

/-! ## The application of a commit -/

/-- The first application tick of a commit whose bank held a written CFG_REFCRC arms the comparison (R287). -/
def Dev.armCfg (d : Dev) : Dev :=
  match d.commit with
  | some m => if m.refWrit then d.put F.CFG_STATUS.armed 1 else d
  | none => d

/-- A commit has applied everywhere (R34, R54, R263). -/
def Dev.commitApplied (d : Dev) (m : Commit) : Dev :=
  let d := (d.setStored A.ACTIVE_GEN m.gen).bump F.APPLIED_COUNT.count
  let joins := d.casc.join.isSome
  let d := d.finish m 1
  let d := d.setShed (d.shed.filter fun w => d.ticking (winCanvas d.actv w))
  let d := if d.get F.THERM_STATUS.level < 3 then
      { d with readmit := d.readmit.map fun (x : Readmit) => if x.covers then x else { x with drop := [] } }.setDropped []
    else d
  let d := if joins then (d.put F.CASC_STATUS.joined 1).put F.CASC_STATUS.diverged 0 else d
  d.raise 65

/-- A commit has applied on a canvas, or its fields of no canvas: it ends with the last (R33). -/
def Dev.commitPart (d : Dev) (canvases : List Nat) (globals : Bool) : Dev :=
  match d.commit with
  | none => d
  | some m =>
    let m := { m with canvases := canvases, globals := globals }
    let d := { d with commit := some m }
    if canvases.isEmpty && !globals then d.commitApplied m else d

/-- The instant TICK_TIME_new(c, k0) of a stream that replaces another from its first tick at or after an instant on (R20). -/
def Stream.follows (new old : Stream) (t : Nat) : Nat := new.tick (new.firstFrom (old.tick (old.firstFrom t)))

/-- A canvas that a commit leaves disabled raises TIMING_RESTART at TICK_TIME_new(c, k0) (R21): now, or when that instant comes. -/
def Dev.owe (d : Dev) (c t : Nat) : Dev :=
  if t ≤ d.canvasNow c then d.raise (16 + c) else d.setCanvas c { d.canvas c with owed := (d.canvas c).owed ++ [t] }

/-- The restarts owed at an instant of TC or before, by canvas time (R466). -/
def Dev.owedDue (d : Dev) (t : Nat) : Dev :=
  (List.range 8).foldl (fun d c =>
    ((d.canvas c).owed.filter (· ≤ d.canvasAt c t)).foldl (fun d u =>
      ((d.at (d.tcOf c u)).setCanvas c { d.canvas c with owed := (d.canvas c).owed.erase u }).raise (16 + c)) d) d

/-- Whether the fields of no canvas are due at an instant of TC: the tick of the reference canvas falls by its canvas time (R33,
R466). -/
def Dev.globalsWait (d : Dev) (m : Commit) (t : Nat) : Bool :=
  d.get F.COMMIT_STATUS.state == 2 && m.globals && m.due ≤ d.canvasAt m.ref t

/-- The fields of no canvas apply at TICK_TIME(ref, T) (R33). The stream of a canvas that stays disabled is one of them, and a
change of it raises its event (R21). -/
def Dev.globalsDue (d : Dev) (t : Nat) : Dev :=
  match d.commit with
  | none => d
  | some m =>
    if d.globalsWait m t then
      let d := (d.owedDue (d.tcOf m.ref m.due)).at (d.tcOf m.ref m.due)
      let act := d.actv
      let pend := d.pendv
      let moved := (List.range 8).filter fun c => !canvasOn act c && !canvasOn pend c && streamOf act c != streamOf pend c
      let d := ((d.armCfg.applyWhere fun a => (homeOf act pend a).isNone).budgetShow).commitPart m.canvases false
      moved.foldl (fun d c => d.owe c ((streamOf pend c).follows (streamOf act c) m.due)) d
    else d

/-- The steps and windows that an answered re-admission of the former configuration found on a canvas end with the application
of a commit there (R185, R187). -/
def Readmit.supersede (x : Readmit) (act : View) (c : Nat) : Readmit :=
  if x.covers then x
  else { x with
    sheds := x.sheds.filter fun w => winCanvas act w != c,
    taken := x.taken.filter fun e => hallCanvas act (e.1 / 33) != c,
    shed := x.shed.filter fun w => winCanvas act w != c }

/-- A commit becomes active on a canvas: its halls, layers, windows and lanes at once (R34). -/
def Dev.applyCanvas (d : Dev) (c : Nat) (m : Commit) : Dev :=
  let act := d.actv
  let d := { d.armCfg with readmit := d.readmit.map fun x => x.supersede act c }
  let pend := d.pendv
  let hs := (List.range 8).filter fun h => hallHome act pend h == some c
  let gone := (hallsOf act c).filter fun h => leadOf act h == h && !leadsGang pend h
  let d := if (d.canvas c).turned then d else d.applyBufs pend c
  let d := gone.foldl (fun d h => (List.range 33).foldl (fun d n =>
    (d.put (F.LAYER_STATUS.no_buffer h n) 1).withdrawEntry h n) d) d
  let old := d
  let d := d.applyWhere fun a => homeOf act pend a == some c
  let d := d.setShed (d.shed.filter fun w => winHome act pend w != some c)
  let d := gone.foldl (fun d h => d.takeSteps h [] false) d
  let d := match leadOfCanvas d.actv c with
    | some h0 => d.takeSteps h0 m.taken false
    | none => d
  let d := hs.foldl Dev.hallShow d
  let d := (d.galShow old).budgetShow
  d.setSlack c (slackOf d.runCfg c)

/-! ## A re-admission applies (R186, R187) -/

/-- It has applied on its last canvas; windows are shed when it sheds one that was not (R187). -/
def Dev.readmitDone (d : Dev) (x : Readmit) : Dev :=
  let d := { d with readmit := d.readmit.erase x }
  let d := if d.get F.THERM_STATUS.level = 3 then d else d.setDropped x.drop
  let d := (d.bump F.READMIT_COUNT.count).budgetShow.raise 70
  if x.sheds.isEmpty then d else d.raise 71

/-- Whether a re-admission applies on a canvas at a tick of instant `t`: one that covers what a commit brings not before the
commit (R188). -/
def Dev.readmitDue (d : Dev) (c t : Nat) (x : Readmit) : Bool :=
  x.applyAt.any (· ≤ d.tcOf c t) && x.canvases.contains c && !(x.covers && d.commit.any fun m => m.canvases.contains c)

/-- A re-admission finds windows a region of the Gallery in place of one that left service before or at its loss. -/
def Dev.galleryBack (d : Dev) (x : Readmit) (mine : Nat → Bool) : Dev :=
  (d.wins.filter fun e => mine e.1 && e.2.gone.any (· ≤ x.loss)).foldl (fun d e =>
    d.setWin e.1 { d.win e.1 with gone := none }) d

/-- One applies on a canvas: its steps beside those in force, the windows it sheds, and what the halls then take. -/
def Dev.readmitApply (d : Dev) (c : Nat) (x : Readmit) : Dev :=
  let mine (w : Nat) : Bool := winCanvas d.actv w == c
  let d := d.galleryBack x mine
  let d := match leadOfCanvas d.actv c with
    | some h0 =>
      let d := (d.takeSteps h0 x.taken true).setShed ((d.shed.filter fun w => !mine w) ++ x.shed.filter mine)
      (hallsOf d.actv c).foldl (fun (d : Dev) h => d.hallUse c h0 h) d
    | none => d.setShed ((d.shed.filter fun w => !mine w) ++ x.shed.filter mine)
  let d := d.galShow d
  let d := d.setSlack c (slackOf d.runCfg c)
  let y := { x with canvases := x.canvases.filter (· != c) }
  let d := { d with readmit := d.readmit.map fun z => if z = x then y else z }
  if y.canvases.isEmpty then d.readmitDone y else d

/-- The re-admissions due on a canvas at a tick of instant `t`, in their order. -/
def Dev.readmitTick (d : Dev) (c t : Nat) : Dev := (d.readmit.filter (d.readmitDue c t)).foldl (fun d x => d.readmitApply c x) d

/-- Those with no running canvas left to apply on apply at once. -/
def Dev.readmitIdle (d : Dev) : Dev :=
  (d.readmit.filter fun x => x.applyAt.isSome && x.canvases.isEmpty).foldl (fun d x =>
    (((d.galleryBack x fun _ => true).setShed x.shed).galShow d).readmitDone x) d

/-! ## The tick -/

/-- The tick of a stream nearest to an instant; none before the epoch (R15). -/
def Stream.nearest (s : Stream) (t : Nat) : Option Nat :=
  let u := t + s.num / (2 * s.den)
  if u < s.epoch then none else some (s.lastAt u)

/-- The tick that a tick instant of a canvas generates: the first of a new stream, the next, or the one at hand when the
canvas does not run yet. A canvas that the commit applying now enables runs no stream before, so its application tick is counted on
the new one, with no gap, where R20 speaks of the old (DESIGN CHOICE, log 150). -/
def Dev.tickDue (d : Dev) (c : Nat) : Option Nat :=
  match (d.canvas c).gapTo with
  | some k => some k
  | none =>
    if d.is (F.TICK_STATUS.running c) then some ((d.canvas c).tick + 1)
    else (streamOf (if canvasOn d.actv c then d.actv else d.pendv) c).nearest (d.canvasNow c)

/-- The outstanding snapshot at its tick, late when the ticks have jumped past it (R283). -/
def Dev.snapDue (d : Dev) (c n : Nat) : Dev :=
  match d.snapTick with
  | some k => if d.snapCanvas = c ∧ k ≤ n then d.snapFire (decide (k < n)) else d
  | none => d

/-- What the layers and windows of a canvas report of the tick that ends. The layers of a hall that leads no longer, as a commit disabled it
or changed its gang, keep what its last tick reported: the manual names no last tick for them (R92; DESIGN CHOICE, log 179). -/
def Dev.tickReport (d : Dev) (c h0 : Nat) : Dev :=
  let mark (k : Nat) : Nat := b2n (d.first.contains (markOf c k))
  let d := (List.range 33).foldl (fun d n =>
    (d.put (F.LAYER_STATUS.shown h0 n) (mark (11000 + layerKey h0 n))).put (F.LAYER_STATUS.fault_tick h0 n)
      (mark (10000 + layerKey h0 n))) d
  ((winsOn d.actv).filter fun w => winCanvas d.actv w == c).foldl (fun d w =>
    d.setWin w { d.win w with ue := [] } |>.put (F.WIN_STATUS.late w) (mark (60000 + w))) d

/-- The tone policy at a tick boundary of a lead hall under the bank active from then on: its mode is taken over, report-only while a
shedding level is in force (R527), and after tick `n`, where one ended, a run is due for the histogram that the gang's halls measured in
it (R142, R143, R145). -/
def Dev.policyTick (d : Dev) (rd : View) (h0 : Nat) (n : Option Nat) : Dev :=
  let v := d.hall h0
  let hs := gangOf rd h0
  let mode := d.get (F.TONE_POLICY.mode h0)
  let mode := if mode = 2 ∧ d.get F.THERM_STATUS.level ≠ 0 then 1 else mode
  let cur := if mode = 2 ∧ v.policyMode ≠ 2 then d.curOfBank h0 else v.cur
  d.setHall h0 { v with
    policyMode := mode, cur := cur, ready := false, lutReady := false, lutWaits := false,
    policyBusy := mode != 0 && n.any fun n => hs.any fun h => (d.hall h).doneTick == some n,
    bins := (n.map (d.mergedBins hs)).getD [] }

/-- The tone policy of a hall that leads no longer has no run to make. -/
def Dev.policyEnd (d : Dev) (h0 : Nat) : Dev :=
  d.setHall h0 { d.hall h0 with ready := false, lutReady := false, lutWaits := false, policyBusy := false }

/-- A hall opens tick `n`: the coverage pass that worked for it hands over its dynamic covers (R159, R161), the earliest where a new
stream begins, and run-ahead that a full store stopped until then is free again (R165). -/
def Dev.hallOpen (d : Dev) (c n : Nat) (restart : Bool) (h : Nat) : Dev :=
  let v := d.hall h
  let mine := v.passes.filter fun p => p.canvas == c
  let now := mine.find? fun p => restart || p.tick == n
  d.setHall h { v with
    dynNow := (now.map (·.dyn)).getD [],
    stopped := v.stopped.filter fun x => if x.2.1 == c then !restart && n < x.2.2 else (d.homes h).contains x.2.1,
    passes := v.passes.filter fun p => if p.canvas == c then !restart && n < p.tick else (d.homes h).contains p.canvas }

/-- An exit with cause 4 ends with the tick when nothing read later depends on failed data, else with the first tick of which no line did;
the running configuration is admitted again (R45, R50; DEDUCED, log 176). -/
def Dev.sramExitEnds (d : Dev) (c : Nat) : Dev :=
  let v := d.canvas c
  let lasts := !d.unstruck || (hallsOf d.actv c).any fun h => !(d.hall h).lutUe.isEmpty
  if v.sramExit = 0 then d
  else if v.sramExit = 2 ∧ lasts then d.setCanvas c { v with sramExit := 1 }
  else (d.setCanvas c { v with sramExit := 0 }).loss

/-- A hall forgets the tick that ends. -/
def Dev.hallClose (d : Dev) (h : Nat) : Dev :=
  let d := { d with gal := d.gal.filter fun e => e.1 / 65536 != h }
  d.setHall h { d.hall h with
    hist := [], count := 0, sramUe := false, todo := [], pool := [], ueRows := [], faulted := [] }

/-- The module tick begins anew (R568): the sparing and lane-health policies take their modes over; they belong to no canvas, so its
boundary is the one meant (R539; DEDUCED, log 130). -/
def Dev.moduleTickStart (d : Dev) : Dev :=
  let d := { d.clearMarks 8 with
    msTick := d.now / 1000000, stw.spareMode := d.get F.SPARE_POLICY.mode, stw.laneMode := d.get F.LANE_POLICY.mode }
  (d.cus.map (·.1)).foldl (fun d u => d.setCu u { d.cu u with ended := 0 }) d

/-- The lead hall of an enabled canvas. -/
def leadOn (rd : View) (c : Nat) : Option Nat := if canvasOn rd c then leadOfCanvas rd c else none

/-- What ends with a tick of a canvas, or with the gap before a new stream, which was no tick (R21): bank exchanges take effect (R137) and the tone policy goes on under the bank `rd` that is active
from then on, and first-occurrence marks go. -/
def Dev.tickClose (d : Dev) (rd : View) (c : Nat) : Dev :=
  let old := leadOn d.actv c
  let new := leadOn rd c
  let ended := if d.is (F.TICK_STATUS.running c) && !d.is (F.TICK_STATUS.in_gap c) then some (d.canvas c).tick else none
  let d := match new with
    | some h1 => (d.toneSwap rd c h1).policyTick rd h1 ended
    | none => d
  let d := match old with
    | some h0 =>
      let d := if old = new then d else d.policyEnd h0
      let d := if ended.isSome then d.tickReport c h0 else d
      (gangOf d.actv h0).foldl Dev.hallClose (d.sramExitEnds c)
    | none => d
  let d := d.clearMarks c
  if d.running.all (c ≤ ·) then d.moduleTickStart else d

/-- A tree join completes at the instant of the tick it named (R263). -/
def Dev.joinDue (d : Dev) (t : Nat) : Dev :=
  match d.casc.joining with
  | some j =>
    if j.agreed ∧ j.due ≤ d.canvasAt 0 t then ({ d.at (d.tcOf 0 j.due) with casc.joining := none }.opEnd 9 j.landing 1).raise 88
    else d
  | none => d

/-- A ring wrap ends at a tick of canvas 0, and content leaves on every port again (R262). -/
def Dev.wrapTick (d : Dev) (c : Nat) : Dev :=
  if c = 0 ∧ d.casc.restore then
    let d := (List.range 8).foldl (fun d k => d.setPort k { d.port k with lost := false }) d
    ({ d with casc.restore := false }.put F.CASC_STATUS.wrapped 0).raise 83
  else d

/-- Tick `n` of a canvas is generated under the active generation. -/
def Dev.tickRun (d : Dev) (c n : Nat) (restart : Bool) (gen : Option Word) : Dev :=
  let d := d.setCanvas c { Canvas.idle with
    tick := n, inst := d.tickTime c n, edge := d.now, owed := (d.canvas c).owed, sramExit := (d.canvas c).sramExit }
  let d := ((d.put (F.TICK_STATUS.running c) 1).put (F.TICK_STATUS.in_gap c) 0).put (F.TICK_STATUS.phase c) 0
  let d := match gen with
    | some g => d.setStored (A.CANVAS_GEN c) g
    | none => d
  let d := if restart then d.raise (16 + c) else d
  let d := (hallsOf d.actv c).foldl (fun d h => (d.hallOpen c n restart h).balFallback h) d
  let t := d.tickTime c n
  let d := (((d.raise (8 + c)).readmitTick c t).promoteAhead c n restart).dmaTick c
  (((d.dueFailbacks c).dueSwitch c).wrapTick c).tickAlignSend c

/-- A canvas stops running: a snapshot that waits for one of its ticks is taken at once (R283). -/
def Dev.snapStop (d : Dev) (c : Nat) : Dev := if d.snapTick.isSome && d.snapCanvas == c then d.snapFire true else d

/-- A canvas stops: no tick follows. -/
def Dev.tickStop (d : Dev) (c : Nat) : Dev :=
  let d := d.setCanvas c { Canvas.idle with owed := (d.canvas c).owed }
  let d := ((d.put (F.TICK_STATUS.running c) 0).put (F.TICK_STATUS.in_gap c) 0).put (F.TICK_STATUS.phase c) 0
  let d := (d.snapStop c).tsynRest c
  { d with readmit := d.readmit.map fun (x : Readmit) => { x with canvases := x.canvases.filter (· != c) } }.readmitIdle

/-- The gap before the new stream of a canvas (R21): the last tick generated stays what it was (R55), and while the gap lasts
before a later epoch the canvas does not run (R53). The last phase stays in TICK_STATUS.phase (DESIGN CHOICE, log 103). -/
def Dev.gapOpen (d : Dev) (c k t : Nat) : Dev :=
  let v := d.canvas c
  let d := d.setCanvas c { Canvas.idle with
    tick := v.tick, inst := v.inst, gapTo := some k, restart := true, owed := v.owed, sramExit := v.sramExit }
  let d := d.put (F.TICK_STATUS.in_gap c) 1
  if t < (streamOf d.actv c).epoch then ((d.put (F.TICK_STATUS.running c) 0).snapStop c).tsynRest c else d.put (F.TICK_STATUS.running c) 1

/-- The application tick of a commit on a canvas: tick `n` of the stream before it, at instant `t` (R20, R21, R34). A restart that
a gap still owes at this tick is raised first. A changed stream raises TIMING_RESTART also where the canvas is left disabled, and so
does a change of TICK_CTL.enable, which is no change of phases alone (R22; DEDUCED, log 90). -/
def Dev.tickApply (d : Dev) (c n t : Nat) (m : Commit) : Dev :=
  let old := streamOf d.actv c
  let was := d.ticking c
  let wasOn := canvasOn d.actv c
  let d := if (d.canvas c).restart then (d.setCanvas c { d.canvas c with restart := false }).raise (16 + c) else d
  let d := d.applyCanvas c m
  let new := streamOf d.actv c
  let d :=
    if !canvasOn d.actv c then
      let d := (d.tickStop c).setStored (A.CANVAS_GEN c) m.gen
      if old = new && !wasOn then d else d.owe c (if old = new then t else new.follows old t)
    else if old = new then d.tickRun c n (!wasOn) (some m.gen)
    else if !was then
      match new.nearest (d.canvasNow c) with
      | some k => d.tickRun c k true (some m.gen)
      | none => d.setCanvas c { Canvas.idle with gapTo := some (new.firstFrom (d.canvasNow c)), restart := true, owed := (d.canvas c).owed }
    else
      let k := new.firstFrom t
      if new.tick k = t then d.tickRun c k true (some m.gen) else d.gapOpen c k t
  match d.commit with
  | some m => (d.commitPart (m.canvases.filter (· != c)) m.globals).readmitTick c t
  | none => d

/-- The generation of a canvas whose new stream begins: that of a commit that has applied on it and not yet everywhere, else
the active one. -/
def Dev.gapGen (d : Dev) (c : Nat) : Word :=
  match d.commit with
  | some m => if d.get F.COMMIT_STATUS.state = 2 ∧ !m.canvases.contains c ∧ !m.globals then m.gen else d.stored A.ACTIVE_GEN
  | none => d.stored A.ACTIVE_GEN

/-- The number under which an application tick is generated: that of the new stream when it begins there, none when the canvas
stops or a gap follows (R21). -/
def Dev.applyNumber (d : Dev) (c n t : Nat) : Option Nat :=
  let old := streamOf d.actv c
  let new := streamOf d.pendv c
  if !canvasOn d.pendv c then none
  else if old = new then some n
  else if new.tick (new.firstFrom t) = t then some (new.firstFrom t)
  else none

/-- A boundary of the ticks of a canvas that runs: the step of its synthesizer, which shortens the tick that ends, is taken under the
configuration of that tick (R51, R171, R468). -/
def Dev.boundary (d : Dev) (c : Nat) : Dev := if d.is (F.TICK_STATUS.running c) then d.tsynTick c else d

/-- CANVAS_TICK (R40): a tick of an enabled canvas, or of one that the commit applying now enables. -/
def Dev.canvasTick (d : Dev) (c : Nat) : Dev :=
  match d.tickDue c with
  | none => d
  | some n =>
    let on := canvasOn d.actv c
    let t := (streamOf (if on then d.actv else d.pendv) c).tick n
    match if d.appliesAt c t then d.commit else none with
    | some m =>
      if on || canvasOn d.pendv c then
        let d := match d.applyNumber c n t with
          | some k => d.snapDue c k
          | none => d
        ((((d.boundary c).tickClose d.pendv c).globalsDue (max d.now (d.tcOf c t))).tickApply c n t m).killsDue
      else d.killsDue
    | none =>
      if !on then d.killsDue
      else
        let d := (((d.snapDue c n).boundary c).tickClose d.actv c).globalsDue (max d.now (d.tcOf c t))
        let v := d.canvas c
        (d.tickRun c n v.restart (if v.restart then some (d.gapGen c) else none)).killsDue

/-! ## Turnaround, phases and the module tick -/

/-- TURNAROUND (R40): the buffers of a commit that applies at the next tick, the flip decision, the vestibule, and the tone
policy. The first tick of a canvas that a commit starts is decided too; an application that opens a gap or stops the canvas is
no tick to decide (R203, R21). -/
def Dev.turnaround (d : Dev) (c : Nat) : Dev :=
  if !d.ticking c && !d.appliesNext c then d
  else
    let rd := d.nextView c
    let applies := d.appliesNext c
    let runs := !applies || (d.applyNumber c (d.nextNumber c) (d.nextInstant c)).isSome
    let d := if runs && applies && !(d.canvas c).turned then
        (d.applyBufs rd c).setCanvas c { d.canvas c with turned := true }
      else d
    let d := if runs then d.bufDecide rd c else d
    let d := (hallsOf rd c ++ (hallsOf d.actv c).filter fun h => !(hallsOf rd c).contains h).foldl (fun d h => d.vestTurn c h) d
    match leadOn rd c with
    | some h0 => d.toneTurn c h0
    | none => d

/-- PHASE_START (R17): a phase of the tick begins, the one before it is composed whole, and its halls compose it as far as the
bands have space; in a power failure nothing is composed. -/
def Dev.phaseStart (d : Dev) (c p : Nat) : Dev :=
  if !d.is (F.TICK_STATUS.running c) || d.is (F.TICK_STATUS.in_gap c) || phasesOf d.actv c ≤ p then d
  else
    let d := if d.pwr.fail.isSome then d else (hallsOf d.actv c).foldl Dev.composeRest d
    let d := d.put (F.TICK_STATUS.phase c) p
    if d.pwr.fail.isSome then d else d.composePhase c p

/-- MODULE_TICK (R568): a whole millisecond of TC while no canvas runs. -/
def Dev.moduleTick (d : Dev) : Dev :=
  if !d.running.isEmpty then d else d.moduleTickStart.readmitIdle

end Sys2Proof.Machine
end

