-- ==== Sys2Proof/Machine/Run.lean ====
section
/-! DEFINITION. How a command meets the module: which part it acts on, whether that part has power, and what passes between the
module and the Alcove. -/

namespace Sys2Proof.Machine

abbrev Res := Host.Outcome State Fault Refusal

/-- The module works: it has power, and neither the stop of a power failure nor a low RESET_N holds it (R506, R508, R511, R524). -/
def Dev.live (d : Dev) : Bool := d.pwr.on && !d.pwr.stopped

/-- What comes due by itself in a module that works, before a command at PTP time `t`: the fields of no canvas of a pending commit
(R33), the restarts owed by canvases left disabled (R21), the end of a tree join (R263), what waits on lanes that are idle
(R235), the turn of the DMA engine (R401) and the mailbox items that wait (R235, R395, R443). Log 95. -/
def Dev.reach (d : Dev) (t : Nat) : Dev :=
  if d.live then
    let u := max d.now t
    ((((d.globalsDue u).owedDue u).joinDue u).at t).drainAll.engTurn.retryItems
  else d.at t

/-- A command reaches the module at PTP time `t` and acts while the module works. -/
def Dev.run (d : Dev) (t : Nat) (f : Dev → Dev) : Dev := if d.live then f (d.reach t) else d.reach t

/-- A write that waited for a stack is taken again; a packet whose receiver is off by then is not (R303, R456). -/
def Dev.ingestTake (d : Dev) : Ingest → Dev
  | .packet r l p => if rxOn d.actv r then d.rxQueue r l p else d
  | .content src asid va data => d.contentWrite src asid va data
  | .load asid va data => d.loadData asid va data

/-- The writes that waited are taken in their order, and the frames whose D_merge ended meanwhile end (R309, R456). -/
def Dev.ingestAgain (d : Dev) : Dev :=
  let d' := d.ingest.foldl Dev.ingestTake { d with ingest := [] }
  d.ingest.foldl (fun x i => match i with | .packet r _ _ => x.rxMergeTimeout r | _ => x) d'

/-- A PLL has locked: what waited for a stack goes on (R456), but in a power failure (R524). -/
def Dev.relocked (d : Dev) : Dev := if d.pwr.fail.isSome then d else d.ingestAgain.lutAgain.nextAgain

/-! ## Between the module and the Alcove -/

/-- What the Alcove shows the module: its units' streams and its events (R505), which reach a module that works. -/
def State.alcShow (s : State) : State :=
  let d := s.dev.alcUnits s.alc
  { s with dev := if d.live then s.alc.evs.foldl (fun d e => d.raise e) d else d, alc := { s.alc with evs := [] } }

/-- The end of a command whose accesses may have reached the Alcove: it has taken what they put there (R485), and the module has those
of its events that it has not had after an access. -/
def State.settle (s : State) : State :=
  if s.dev.alcq.isEmpty then s
  else
    let a := s.dev.alcNow s.alc
    State.alcShow { s with
      dev := { s.dev with alcq := [], alcSeen := 0 }
      alc := { a with evs := a.evs.drop s.dev.alcSeen } }

/-- The Alcove has its supply again: the commands that waited at its doors are taken by turns (R485). -/
def State.doorsOpen (s : State) : State :=
  if s.dev.live then State.settle { s with dev := s.dev.retryDoors s.alc } else s

/-! ## The ways a command acts -/

/-- On the module alone. -/
def State.act (s : State) (t : Nat) (f : Dev → Dev) : Res := .next { s with dev := s.dev.run t f }

/-- On the module through accesses that may reach the Alcove's doors. -/
def State.access (s : State) (t : Nat) (f : Alcove → Dev → Dev) : Res :=
  .next (State.settle { s with dev := s.dev.run t (f s.alc) })

/-- On the Alcove, which works through every reset and power state of the module (R483). -/
def State.alcove (s : State) (t : Nat) (f : Alcove → Alcove) : Res :=
  .next (State.alcShow { s with dev := s.dev.reach t, alc := f s.alc })

/-- On the power and reset of the module, whatever its state. -/
def State.power (s : State) (t : Nat) (f : Dev → Dev) : Res := .next { s with dev := f (s.dev.reach t) }

/-- On power and Alcove together. -/
def State.both (s : State) (t : Nat) (f : Dev → Dev) (g : Alcove → Alcove) : Res :=
  .next (State.alcShow { s with dev := f (s.dev.reach t), alc := g s.alc })

/-- The test access port as the module goes from `d` to `e`: one that gets its power again comes up reset (PRESUMED from IEEE 1149.1,
log 145). -/
def Tap.after (p : Tap) (d e : Dev) : Tap :=
  if e.pwr.on && !(1 ≤ e.pwr.kind && e.pwr.kind ≤ 3) && (!d.pwr.on || (d.pwr.fail.isSome && e.pwr.fail.isNone)) then .reset else p

/-- On power, Alcove and test access port together. -/
def State.start (s : State) (t : Nat) (f : Dev → Dev) (g : Alcove → Alcove) : Res :=
  .next (State.alcShow { s with dev := f (s.dev.reach t), alc := g s.alc, tap := s.tap.after (s.dev.reach t) (f (s.dev.reach t)) })

/-! ## Accesses by an accessor -/

/-- A write of 1 to a command bit. -/
def Dev.cmd (al : Alcove) (d : Dev) (acc : Nat) (r : FieldRef) : Dev := d.writeBits al acc r.addr (2 ^ r.lsb) (2 ^ r.lsb)

/-- A write of a whole register by an accessor. -/
def Dev.store (al : Alcove) (d : Dev) (acc a : Nat) (v : Word) : Dev := d.access al acc (.write a v 0xFFFFFFFF)

end Sys2Proof.Machine
end

