-- ==== Sys2Proof/Machine/RunAlcove.lean ====
section
/-! DEFINITION. The meanings of the commands of the Alcove metrology partition. -/

namespace Sys2Proof.Machine

/-! ## Commands at the two doors (R485, R486, R490, R495, R503) -/

/-- The first word of a command: opcode, slot and argument. -/
def alcWord (op : Nat) (slot : BitVec 8) (arg : BitVec 16) : Word := w32 (op + slot.toNat * 256 + arg.toNat * 65536)

/-- A command at a door: through the mailbox of the accessor, which its level must reach, to the Alcove at operating time
`ot`, with what it finds there. -/
def State.door (s : State) (t : Nat) (acc ot : Nat) (sealing : Bool) (w : List Word) (up : List CopyUpset) (img : Option Nat) : Res :=
  .next (State.settle { s with
    dev := s.dev.run t fun d =>
      { ({ d with alcFind := some { up := up, img := img, gap := 0 } } : Dev).itemSend (s.alc.at ot) acc
          (if sealing then .sealCmd else .alcCmd) w with alcFind := none }
    alc := s.alc.at ot })

def execDeclare (t : Nat) (acc : Accessor) (ot : Nat) (slot : BitVec 8) (arg : BitVec 16) (w1 w2 w3 : Word) (s : State) : Res :=
  s.door t acc ot false [alcWord 0x01 slot arg, w1, w2, w3] [] none
def execDeclTiming (t : Nat) (acc : Accessor) (ot : Nat) (slot : BitVec 8) (arg : BitVec 16) (w1 w2 w3 : Word) (s : State) : Res :=
  s.door t acc ot false [alcWord 0x02 slot arg, w1, w2, w3] [] none
def execLoadExp (t : Nat) (acc : Accessor) (ot : Nat) (slot : BitVec 8) (arg : BitVec 16) (w1 w2 w3 : Word) (s : State) : Res :=
  s.door t acc ot false [alcWord 0x03 slot arg, w1, w2, w3] [] none
def execArm (t : Nat) (acc : Accessor) (ot : Nat) (slot : BitVec 8) (arg : BitVec 16) (w1 w2 w3 : Word) (up : List CopyUpset)
    (s : State) : Res :=
  s.door t acc ot false [alcWord 0x04 slot arg, w1, w2, w3] up none
def execEndCmd (t : Nat) (acc : Accessor) (ot : Nat) (slot : BitVec 8) (arg : BitVec 16) (w1 w2 w3 : Word) (s : State) : Res :=
  s.door t acc ot false [alcWord 0x05 slot arg, w1, w2, w3] [] none
def execAck (t : Nat) (acc : Accessor) (ot : Nat) (slot : BitVec 8) (arg : BitVec 16) (w1 w2 w3 : Word) (s : State) : Res :=
  s.door t acc ot false [alcWord 0x06 slot arg, w1, w2, w3] [] none
def execIdentify (t : Nat) (acc : Accessor) (ot : Nat) (slot : BitVec 8) (arg : BitVec 16) (w1 w2 w3 : Word) (s : State) : Res :=
  s.door t acc ot false [alcWord 0x07 slot arg, w1, w2, w3] [] none
def execSetParam (t : Nat) (acc : Accessor) (ot : Nat) (slot : BitVec 8) (arg : BitVec 16) (w1 w2 w3 : Word) (s : State) : Res :=
  s.door t acc ot true [alcWord 0x20 slot arg, w1, w2, w3] [] none
def execFwActivate (t : Nat) (acc : Accessor) (ot : Nat) (slot : BitVec 8) (arg : BitVec 16) (w1 w2 w3 : Word)
    (img : Option (BitVec 16)) (s : State) : Res :=
  s.door t acc ot true [alcWord 0x21 slot arg, w1, w2, w3] [] (img.map BitVec.toNat)
def execAlcReply (t : Nat) (acc : Accessor) (s : State) : Res := s.act t fun d => d.itemFetch s.alc acc .alcReply
def execSealReply (t : Nat) (acc : Accessor) (s : State) : Res := s.act t fun d => d.itemFetch s.alc acc .sealReply

/-! ## What the Alcove does of itself (R481, R483, R488, R491, R494, R495) -/

def execExhibitProgress (t ot : Nat) (slot : Fin 8) (s : State) : Res := s.alcove t fun a => a.progressRecord ot slot
def execExpCopyCheck (t ot : Nat) (slot : Fin 8) (up : List CopyUpset) (s : State) : Res :=
  s.alcove t fun a => a.copyCheck ot slot up
def execSealChange (t ot : Nat) (opened : Bool) (s : State) : Res := s.alcove t fun a => a.sealChange ot opened
def execOtSave (t ot : Nat) (s : State) : Res := s.alcove t fun a => a.save ot 2
def execAlcClkCheck (t ot ppb : Nat) (s : State) : Res := s.alcove t fun a => a.clkCheck ot ppb
def execAlcovePowerUp (t : Nat) (opened : Bool) (s : State) : Res :=
  .next (State.alcShow { s with dev := s.dev.reach t, alc := s.alc.powerUp opened }).doorsOpen
def execAlcWatchdog (t ot : Nat) (s : State) : Res := s.alcove t fun a => a.watchdog ot

end Sys2Proof.Machine
end

