-- ==== Sys2Proof/Machine/RunCasc.lean ====
section
/-! DEFINITION. The meanings of the commands of landing links and module trees. -/

namespace Sys2Proof.Machine

/-! ## Ports (R246 to R249) -/

def execHelloSend (t : Nat) (k : Fin 8) (s : State) : Res := s.act t fun d => d.helloSend k
def execHelloRx (t : Nat) (k : Fin 8) (landing : Fin 16) (topology : BitVec 2) (lanes skewed : Bool) (s : State) : Res :=
  s.act t fun d => d.helloRx k landing topology.toNat lanes skewed
def execPortDown (t : Nat) (k : Fin 8) (s : State) : Res := s.act t fun d => d.portFalls k
def execLandingBlockError (t : Nat) (k : Fin 8) (s : State) : Res := s.act t fun d => d.bump (F.PORT_BLOCK_ERR.count k)

/-! ## Messages (R250, R256 to R268) -/

def execContentRx (t : Nat) (k : Fin 8) (m : MsgHead) (set : BitVec 16) (asid : Fin 16) (va : BitVec 48) (data : List Byte)
    (full : BitVec 8) (s : State) : Res :=
  s.act t fun d => { d with casc.full := full.toNat }.contentRx k m set.toNat asid va.toNat data
def execPrepareRx (t : Nat) (k : Fin 8) (m : MsgHead) (gen : Word) (target : BitVec 64) (ref : Fin 8) (dryRun : Bool)
    (set : BitVec 16) (s : State) : Res :=
  s.act t fun d => d.prepareRx k m gen target.toNat ref dryRun set.toNat
def execVoteRx (t : Nat) (k : Fin 8) (m : MsgHead) (v : Vote) (s : State) : Res := s.act t fun d => d.voteRx k m v
def execDecideDeadline (t : Nat) (s : State) : Res := s.act t Dev.decideDeadline
def execDecideResend (t : Nat) (k : Option (Fin 8)) (s : State) : Res :=
  s.act t fun d => d.decideResend (k.map fun k => k.val)
def execDecideRx (t : Nat) (k : Fin 8) (m : MsgHead) (gen : Word) (target : BitVec 64) (commit : Bool) (code : BitVec 8)
    (landing : Fin 16) (s : State) : Res :=
  s.act t fun d => d.decideRx k m gen target.toNat commit code.toNat landing
def execDecideMiss (t : Nat) (s : State) : Res := s.act t Dev.decideMiss
def execCascLost (t : Nat) (s : State) : Res := s.act t Dev.cascLost
def execTimeSyncSend (t : Nat) (k : Fin 8) (s : State) : Res := s.act t fun d => d.timeSyncSend k
def execTimeSyncRx (t : Nat) (k : Fin 8) (m : MsgHead) (_sent : Nat) (seq : BitVec 16) (s : State) : Res :=
  s.act t fun d => d.timeSyncRx k m seq.toNat
def execLandingTimeEchoRx (t : Nat) (k : Fin 8) (m : MsgHead) (seq : BitVec 16) (turn : Word) (s : State) : Res :=
  s.act t fun d => d.landEcho k m seq.toNat turn.toNat
def execTickAlignRx (t : Nat) (k : Fin 8) (m : MsgHead) (tree : BitVec 6) (tick : BitVec 64) (edge : Nat) (s : State) : Res :=
  s.act t fun d => d.tickAlign k m tree.toNat tick.toNat edge
def execEventMsgRx (t : Nat) (k : Fin 8) (m : MsgHead) (ev : BitVec 16) (src : Fin 16) (time : Nat) (s : State) : Res :=
  s.act t fun d => d.eventMsg k m ev.toNat src time
def execFenceMsgRx (t : Nat) (k : Fin 8) (m : MsgHead) (f : Fin 512) (v : Word) (s : State) : Res :=
  s.act t fun d => d.fenceMsg k m f v
def execGroupStateRx (t : Nat) (k : Fin 8) (m : MsgHead) (g : Fin 8) (tick : BitVec 64) (ready : Bool) (counted : BitVec 16)
    (s : State) : Res :=
  s.act t fun d => d.groupState k m (8 + g) tick.toNat ready counted.toNat
def execGroupGoDeadline (t : Nat) (g : Fin 8) (s : State) : Res := s.act t fun d => d.groupDeadline (8 + g)
def execGroupGoRx (t : Nat) (k : Fin 8) (m : MsgHead) (g : Fin 8) (tick : BitVec 64) (flip : Bool) (s : State) : Res :=
  s.act t fun d => d.groupGoRx k m (8 + g) tick.toNat flip
def execJoinRx (t : Nat) (k : Fin 8) (m : MsgHead) (gen : Word) (target : BitVec 64) (s : State) : Res :=
  s.act t fun d => d.joinRx k m gen target.toNat

/-- CASC_CMD with the landing and join (R263). -/
def execCascJoin (t : Nat) (acc : Accessor) (landing : Fin 16) (s : State) : Res :=
  s.act t fun d => d.store s.alc acc A.CASC_CMD (w32 (landing + 16))
def execPeerEvt (t : Nat) (acc : Accessor) (s : State) : Res := s.act t fun d => d.itemFetch s.alc acc .peerEvt

end Sys2Proof.Machine
end

