-- ==== Sys2Proof/Machine/RunClock.lean ====
section
/-! DEFINITION. The meanings of the commands of clocks, synthesizers and time. -/

namespace Sys2Proof.Machine

/-! ## Reference and PLLs (R450 to R460) -/

def execRefclkLoss (t : Nat) (s : State) : Res := s.act t Dev.refclkLoss
def execRefclkRevert (t : Nat) (s : State) : Res := s.act t Dev.refclkRevert

def execPllUnlock (t : Nat) (i : Fin 88) (edges : Nat) (s : State) : Res := s.act t fun d => d.pllUnlock i edges
def execPllLock (t : Nat) (i : Fin 88) (band temp : BitVec 8) (s : State) : Res :=
  s.act t fun d => (d.pllLock i band.toNat temp.toNat).relocked

/-- CLK_CTL.core_recal with the edges the guard swallows (R457, R458); an accessor below level 2 is refused as a write
is, and a command that is outstanding takes a second one in (R275). -/
def execCoreRecal (t : Nat) (acc : Accessor) (edges : Nat) (s : State) : Res :=
  s.act t fun d =>
    if d.levelOf acc < 2 ∨ d.is F.CLK_CTL.core_recal ∨ !d.present acc ∨ !d.grants acc (pageNo A.CLK_CTL) then d.cmd s.alc acc F.CLK_CTL.core_recal
    else d.coreRecal edges
def execCoreSwitchBack (t : Nat) (s : State) : Res := s.act t Dev.coreSwitchBack

/-! ## Time (R461 to R472) -/

def execTimeSourceUpdate (t : Nat) (src : Fin 4) (theta : Int) (s : State) : Res := s.act t fun d => d.timeUpdate src theta
def execTimeSourceLoss (t : Nat) (src : Fin 4) (s : State) : Res := s.act t fun d => d.timeLoss src
def execTimeSet (t : Nat) (acc : Accessor) (w0 w1 w2 w3 : Word) (s : State) : Res :=
  s.act t fun d => d.itemSend s.alc acc .timeSet [w0, w1, w2, w3]
def execTimeNow (t : Nat) (acc : Accessor) (s : State) : Res := s.act t fun d => d.itemFetch s.alc acc .timeNow
def execTsynRecal (t : Nat) (acc : Accessor) (c : Fin 8) (s : State) : Res :=
  s.act t fun d => d.cmd s.alc acc (F.TSYN_CMD.recal c)
def execPpsOutRise (t : Nat) (s : State) : Res := s.act t Dev.ppsRise
def execPpsOutFall (t : Nat) (s : State) : Res := s.act t fun d => d.ppsLevel false
def execPpsInEdge (t : Nat) (falling : Bool) (frac : Word) (s : State) : Res := s.act t fun d => d.ppsEdge falling frac
def execPpsInTs (t : Nat) (acc : Accessor) (s : State) : Res := s.act t fun d => d.itemFetch s.alc acc .ppsInTs

end Sys2Proof.Machine
end

