-- ==== Sys2Proof/Machine/RunFrame.lean ====
section
/-! DEFINITION. The meanings of the commands of the frame contract, halls, colour, admission and flips. -/

namespace Sys2Proof.Machine

/-! ## Ticks and commits (R12 to R41) -/

def execCanvasTick (t : Nat) (c : Fin 8) (s : State) : Res := s.act t fun d => (d.canvasTick c).retryItems
def execPhaseStart (t : Nat) (c p : Fin 8) (s : State) : Res := s.act t fun d => d.phaseStart c p
def execTurnaround (t : Nat) (c : Fin 8) (s : State) : Res := s.act t fun d => d.turnaround c

/-- The horizon latches a layer's readiness, and a tree group with it (R203, R268). -/
def execFenceHorizon (t : Nat) (h : Fin 8) (n : Fin 33) (s : State) : Res :=
  s.act t fun d => (d.fenceLatch h n).groupEval h n

def execCommitRequest (t : Nat) (acc : Accessor) (w0 w1 w2 w3 : Word) (s : State) : Res :=
  s.act t fun d => d.itemSend s.alc acc .commitRequest [w0, w1, w2, w3]
def execAdmissionAnswer (t : Nat) (s : State) : Res := s.act t fun d => d.admissionAnswer.bootAnswer
def execCommitCancel (t : Nat) (acc : Accessor) (s : State) : Res :=
  s.act t fun d => d.cmd s.alc acc F.COMMIT_CMD.cancel

/-! ## Halls (R57 to R93, R157 to R166) -/

/-- In a power failure halls stop fetching (R524). -/
def execCoveragePassStart (t : Nat) (h : Fin 8) (s : State) : Res :=
  s.act t fun d => if d.pwr.fail.isSome then d else d.coverageStart h
def execCoveragePassDone (t : Nat) (h : Fin 8) (s : State) : Res :=
  s.act t fun d => if d.pwr.fail.isSome then d else d.coverageDone h
def execHallTickDone (t : Nat) (h : Fin 8) (s : State) : Res := s.act t fun d => d.hallDone h
def execWbDone (t : Nat) (h : Fin 8) (s : State) : Res := s.act t fun d => d.wbDone h
def execHallKill (t : Nat) (acc : Accessor) (h : Fin 8) (s : State) : Res :=
  s.act t fun d => d.cmd s.alc acc (F.HALL_CMD.kill h)

/-- An SRAM of a hall failed: the manual does not say which rows depend on the data, so each row composed in the phase does or
does not by a free value, and each composed later in the tick likewise (R45, log 62). -/
def Dev.hallSramFails (d : Dev) (h : Nat) : Dev :=
  let rows := (d.gal.filter fun e => e.1 / 65536 == h).map fun e => e.1 % 65536
  let hit := (rows.zipIdx.filter fun x => Config.freeNat (d.seed + x.2) % 2 == 1).map (·.1)
  let d := { d with seed := d.seed + rows.length }
  let wb := hit.filter fun y => d.wbRows.any fun e => e.1 == galKey h y
  d.setHall h { d.hall h with sramUe := true, ueRows := hit ++ (d.hall h).ueRows, wbUe := wb ++ (d.hall h).wbUe }

/-- The data of a failed SRAM (R45, R117): a pixel in a window's band, what a hall composes in this tick, what depends on a cache,
which the manual does not say, or the bytes a channel holds, which are free from then on (log 62). -/
def Dev.sramFails (d : Dev) : SramUnit → Dev
  | .gallery w row col => d.setWin w { d.win w with ue := (col, row) :: (d.win w).ue }
  | .lineBuffer h => (d.hallSramFails h).raiseHall h 6
  | .vestibule h => (d.hallSramFails h).raiseHall h 6
  | .cache =>
    let hs := (List.range 8).filter fun h => bitOf d.free h == 1
    hs.foldl Dev.hallSramFails d.drawn
  | .staging c =>
    let n := (d.chan c).buf.length
    let d' := { d with seed := d.seed + n }
    d'.setChan c { d.chan c with
      buf := (List.range n).map fun i => BitVec.ofNat 8 (Config.freeNat (d.seed + i)), struck := List.replicate n 0xFF }
def execSramUe (t : Nat) (u : SramUnit) (s : State) : Res := s.act t fun d => d.sramFails u

/-- The windows whose region of the Gallery loses bytes: what it held and will hold is gone until they are admitted again. -/
def Dev.galleryGone (d : Dev) (ofs n : Nat) : Dev :=
  ((winsOn d.actv).filter fun w =>
    let a := d.get (F.GAL_OFS.ofs w)
    a < ofs + n && ofs < a + d.get (F.GAL_BYTES.bytes w)).foldl (fun d w => d.setWin w { d.win w with gone := some d.now }) d

/-- A hall or a region of the Gallery leaves service, and the running configuration is admitted again (R186). -/
def Dev.regionLost (d : Dev) : HwRegion → Dev
  | .hall h => (((d.hallHalt h).setHall h { (d.hallHalt h).hall h with outOfService := true }).put (F.HALL_STATUS.active h) 0).loss
  | .gallery ofs n => (Dev.galleryGone { d with galLost := d.galLost + n } ofs n).loss
def execHwRegionLoss (t : Nat) (r : HwRegion) (s : State) : Res := s.act t fun d => d.regionLost r
def execReadmission (t : Nat) (s : State) : Res := s.act t fun d => d.readmissionAll.readmitIdle

/-! ## Tone and statistics (R137 to R145) -/

def execToneSwapCmd (t : Nat) (acc : Accessor) (h : Fin 8) (s : State) : Res :=
  s.act t fun d => d.cmd s.alc acc (F.TONE_CMD.swap_tone h)
def execLut3dSwapCmd (t : Nat) (acc : Accessor) (h : Fin 8) (s : State) : Res :=
  s.act t fun d => d.cmd s.alc acc (F.TONE_CMD.swap_lut3d h)

/-- A run that the next has overtaken counts (R539); a canvas in mode 0 has no run (R142). -/
def Dev.policyRun (d : Dev) (c : Nat) (overrun : Bool) : Dev :=
  match leadOfCanvas d.actv c with
  | none => d
  | some h0 =>
    if (d.hall h0).policyMode = 0 then d
    else if overrun then (d.bump F.POLICY_OVERRUNS.count).raise 838
    else d.tonePolicy h0
def execTonePolicyRun (t : Nat) (c : Fin 8) (overrun : Bool) (s : State) : Res := s.act t fun d => d.policyRun c overrun
def execStatCtlWrite (t : Nat) (acc : Accessor) (h : Fin 8) (v : Word) (s : State) : Res :=
  s.act t fun d => d.store s.alc acc (A.STAT_CTL h) v

/-! ## Flips and fences (R193 to R201) -/

def execFlipRequest (t : Nat) (acc : Accessor) (h : Fin 8) (n : Fin 33) (s : State) : Res :=
  s.act t fun d => d.cmd s.alc acc (F.FLIP_CMD.request h n)
def execFlipWithdraw (t : Nat) (acc : Accessor) (h : Fin 8) (n : Fin 33) (s : State) : Res :=
  s.act t fun d => d.cmd s.alc acc (F.FLIP_CMD.withdraw h n)
def execFenceWrite (t : Nat) (acc : Accessor) (f : Fin 512) (v : Word) (s : State) : Res :=
  s.act t fun d => d.store s.alc acc (A.FENCE f) v

end Sys2Proof.Machine
end

