-- ==== Sys2Proof/Machine/RunHost.lean ====
section
/-! DEFINITION. The meanings of the commands of the host ports: links, PTP, the basic protocols, receivers and Aedwin, and of
traffic scheduling on the host side. -/

namespace Sys2Proof.Machine

/-! ## Links (R299, R315) -/

/-- A sub-port gains or loses its link or its FEC lock; its sessions close with the link. -/
def Dev.linkChange (d : Dev) (s : Nat) (up fec : Bool) : Dev :=
  if !subOn d.actv s then d
  else
    let set (v : Nat) (b : Bool) : Nat := if b then v ||| 2 ^ (s % 4) else v &&& (15 ^^^ 2 ^ (s % 4))
    let p := s / 4
    let was := d.subUp s
    let d := d.put (F.HP_PORT_STATUS.fec_lock p) (set (d.get (F.HP_PORT_STATUS.fec_lock p)) fec)
    let d := d.put (F.HP_PORT_STATUS.link_up p) (set (d.get (F.HP_PORT_STATUS.link_up p)) up)
    if was == up then d
    else
      let d := (d.raise (544 + p)).bmca
      if up then d else d.aedSubLost s
def execHostLinkChange (t : Nat) (s : Fin 8) (up fec : Bool) (s' : State) : Res := s'.act t fun d => d.linkChange s up fec
def execHostFrameDrop (t : Nat) (rx : RxHdr) (why : RxDrop) (s : State) : Res := s.act t fun d => d.hostDrop rx why

/-! ## PTP (R302) -/

def execPtpSyncRx (t : Nat) (rx : RxHdr) (sender : BitVec 80) (domain : BitVec 8) (seq : BitVec 16) (twoStep : Bool) (origin : Nat)
    (corr : Int) (s : State) : Res :=
  s.act t fun d => d.ptpSync rx sender domain.toNat seq.toNat twoStep origin corr
def execPtpFollowUpRx (t : Nat) (rx : RxHdr) (sender : BitVec 80) (domain : BitVec 8) (seq : BitVec 16) (origin : Nat) (corr : Int)
    (s : State) : Res :=
  s.act t fun d => d.ptpFollow rx sender domain.toNat seq.toNat origin corr
def execPtpDelayRespRx (t : Nat) (rx : RxHdr) (sender : PtpPair) (domain : BitVec 8) (seq : BitVec 16) (receipt : Nat) (corr : Int)
    (s : State) : Res :=
  s.act t fun d => d.ptpDelayResp rx sender domain.toNat seq.toNat receipt corr
def execPtpAnnounceRx (t : Nat) (rx : RxHdr) (a : Announce) (s : State) : Res := s.act t fun d => d.ptpAnnounce rx a

/-- A management message is received as any frame and then ignored. -/
def execPtpManagementRx (t : Nat) (rx : RxHdr) (s : State) : Res := s.act t fun d => (d.ptpRx rx 320 none).2
def execPtpAnnounceTimeout (t : Nat) (p : Fin 8) (s : State) : Res := s.act t fun d => d.ptpTimeout p
def execPtpDelayReqSend (t : Nat) (p : Fin 8) (s : State) : Res := s.act t fun d => d.ptpDelayReq p
def execPtpParent (t : Nat) (acc : Accessor) (_p : Fin 2) (s : State) : Res := s.act t fun d => d.itemFetch s.alc acc .ptpParent

/-! ## Basic protocols (R301): the destination address of an ARP request or a solicitation is its target -/

def execArpRx (t : Nat) (rx : RxHdr) (s : State) : Res := s.act t fun d => d.basicReply rx 0 0x0806 28 []
def execNdRx (t : Nat) (rx : RxHdr) (s : State) : Res := s.act t fun d => d.basicReply rx 1 0x86DD 72 []
def execIcmpEchoRx (t : Nat) (rx : RxHdr) (body : List Byte) (s : State) : Res :=
  s.act t fun d =>
    if rx.ipv6 then d.basicReply rx 2 0x86DD (48 + body.length) body else d.basicReply rx 2 0x0800 (28 + body.length) body
def execMembershipQueryRx (t : Nat) (rx : RxHdr) (s : State) : Res := s.act t fun d => d.membershipQuery rx

/-! ## Receivers (R303 to R311) -/

def execRxPacket (t : Nat) (rx : RxHdr) (p : RtpPacket) (s : State) : Res := s.act t fun d => d.rxPacket rx p
def execRxMergeTimeout (t : Nat) (r : Fin 256) (s : State) : Res := s.act t fun d => d.rxMergeTimeout r
def execRxLegLoss (t : Nat) (r : Fin 256) (legB : Bool) (s : State) : Res := s.act t fun d => d.rxLegLoss r legB

/-! ## Aedwin (R312 to R323) -/

def execAedOpen (t : Nat) (f : AedFrame) (s : State) : Res := s.act t fun d => d.aedOpen f
def execAedAuth (t : Nat) (f : AedFrame) (s : State) : Res := s.act t fun d => d.aedAuth f
def execAedClose (t : Nat) (f : AedFrame) (s : State) : Res := s.act t fun d => d.aedCloseRx f
def execAedKeepalive (t : Nat) (f : AedFrame) (s : State) : Res := s.access t fun al d => d.aedRequest al 0x07 f
def execAedRead (t : Nat) (f : AedFrame) (s : State) : Res := s.access t fun al d => d.aedRequest al 0x10 f
def execAedWrite (t : Nat) (f : AedFrame) (s : State) : Res := s.access t fun al d => d.aedRequest al 0x11 f
def execAedMaskedWrite (t : Nat) (f : AedFrame) (s : State) : Res := s.access t fun al d => d.aedRequest al 0x12 f
def execAedSequence (t : Nat) (f : AedFrame) (s : State) : Res := s.access t fun al d => d.aedRequest al 0x13 f
def execAedMailbox (t : Nat) (f : AedFrame) (s : State) : Res := s.access t fun al d => d.aedRequest al 0x14 f
def execAedSubscribe (t : Nat) (f : AedFrame) (s : State) : Res := s.access t fun al d => d.aedRequest al 0x15 f
def execAedBulkWrite (t : Nat) (f : AedFrame) (s : State) : Res := s.access t fun al d => d.aedRequest al 0x20 f
def execAedFence (t : Nat) (f : AedFrame) (s : State) : Res := s.access t fun al d => d.aedRequest al 0x30 f
def execAedCommitRequest (t : Nat) (f : AedFrame) (s : State) : Res := s.access t fun al d => d.aedRequest al 0x40 f

/-- The requests of a session that waited for its bulk writes go on (R319, R320). -/
def execAedBulkDone (t : Nat) (p : Fin 2) (s : State) : Res := s.access t fun al d => (d.bulkDone p).aedRunAll al
def execAedChallengeTimeout (t : Nat) (i : Fin 16) (s : State) : Res := s.act t fun d => d.aedChallengeTimeout i
def execAedIdleTimeout (t : Nat) (i : Fin 16) (s : State) : Res := s.act t fun d => d.aedIdle i
def execAedGapTimeout (t : Nat) (i : Fin 16) (s : State) : Res := s.act t fun d => d.aedGapTimeout i
def execAedEventSend (t : Nat) (i : Fin 16) (s : State) : Res := s.act t fun d => d.aedEventSend i
def execKeyLoad (t : Nat) (acc : Accessor) (w0 w1 w2 : Word) (s : State) : Res :=
  s.act t fun d => d.itemSend s.alc acc .keyLoad [w0, w1, w2]
def execKeyCommit (t : Nat) (acc : Accessor) (w0 : Word) (s : State) : Res :=
  s.act t fun d => d.itemSend s.alc acc .keyCommit [w0]

/-! ## Policers, shapers and samplers (R334 to R346) -/

def execPolicerReset (t : Nat) (acc : Accessor) (i : Fin 4096) (s : State) : Res :=
  s.act t fun d => d.store s.alc acc A.POL_CMD (w32 (i + 4096))
def execBucketReset (t : Nat) (acc : Accessor) (p : Fin 8) (mask : BitVec 8) (s : State) : Res :=
  s.act t fun d => d.store s.alc acc (A.SHP_RESET (p / 4) (p % 4)) (w32 mask.toNat)
def execShpCtlWrite (t : Nat) (acc : Accessor) (p : Fin 8) (tc : Fin 8) (v : Word) (s : State) : Res :=
  s.act t fun d => d.store s.alc acc (A.SHP_CTL (p / 4) (p % 4) tc) v
def execShpBurstWrite (t : Nat) (acc : Accessor) (p : Fin 8) (tc : Fin 8) (v : Word) (s : State) : Res :=
  s.act t fun d => d.store s.alc acc (A.SHP_BURST (p / 4) (p % 4) tc) v
def execSamplerPublish (t : Nat) (k : Fin 16) (s : State) : Res := s.act t fun d => d.samplerPublish k
def execSamplerCtlWrite (t : Nat) (acc : Accessor) (k : Fin 16) (sel : Bool) (v : Word) (s : State) : Res :=
  s.act t fun d => d.store s.alc acc (if sel then A.SMP_SEL k else A.SMP_CTL k) v

end Sys2Proof.Machine
end

