-- ==== Sys2Proof/Machine/RunLane.lean ====
section
/-! DEFINITION. The meanings of the commands of output windows, lanes and their Ethernet traffic. -/

namespace Sys2Proof.Machine

/-! ## Window lines (R225 to R233) -/

def execLineSlotStart (t : Nat) (w : Fin 576) (l : Nat) (s : State) : Res := s.act t fun d => d.lineSlot w l
def execWindowFrameStart (t : Nat) (w : Fin 576) (s : State) : Res := s.act t fun d => d.frameStart w
def execWindowFrameEnd (t : Nat) (w : Fin 576) (s : State) : Res := s.act t fun d => (d.frameEnd w).retryItems

/-! ## Lane commands (R230, R231) -/

def execLaneHalt (t : Nat) (acc : Accessor) (n : Fin 144) (s : State) : Res :=
  s.act t fun d => d.cmd s.alc acc (F.LANE_CMD.halt n)
def execLaneResume (t : Nat) (acc : Accessor) (n : Fin 144) (s : State) : Res :=
  s.act t fun d => d.cmd s.alc acc (F.LANE_CMD.resume n)
def execLaneFailover (t : Nat) (acc : Accessor) (n : Fin 144) (s : State) : Res :=
  s.act t fun d => d.cmd s.alc acc (F.LANE_CMD.failover n)
def execLaneFailback (t : Nat) (acc : Accessor) (n : Fin 144) (s : State) : Res :=
  s.act t fun d => d.cmd s.alc acc (F.LANE_CMD.failback n)

/-! ## Time, sideband and the receiver of a lane (R235, R236) -/

def execStairlineTimeSend (t : Nat) (n : Fin 144) (s : State) : Res := s.act t fun d => d.timeSend n
def execTimeEchoRx (t : Nat) (n : Fin 144) (seq : BitVec 16) (turn : Word) (s : State) : Res :=
  s.act t fun d => d.timeEcho n seq.toNat turn.toNat
def execEchoTimeout (t : Nat) (n : Fin 144) (s : State) : Res := s.act t fun d => d.echoTimeout n
def execSidebandRx (t : Nat) (n : Fin 144) (f : SbFrag) (s : State) : Res :=
  s.act t fun d => d.sbArrive n
    { channel := f.channel.toNat, first := f.first, last := f.last,
      data := (List.range 6).map fun i => BitVec.ofNat 8 (bitsOf f.data.toNat (40 - 8 * i) 8) }
def execLrxBlockError (t : Nat) (n : Fin 144) (s : State) : Res := s.act t fun d => (d.blockError n).noteBlockError n

/-- The lane at a position of a landing port takes its port down (R248); one whose position a spare has taken does not (R247). -/
def execLaneRxLoss (t : Nat) (n : Fin 144) (s : State) : Res :=
  s.act t fun d =>
    let d := (d.rxLoss n).noteLock n true
    match if d.carrier (d.fieldsOf n) = n then portOfLane d.actv (d.fieldsOf n) else none with
    | some k => d.portFalls k
    | none => d
def execLaneRxLock (t : Nat) (n : Fin 144) (s : State) : Res := s.act t fun d => (d.rxLock n).noteLock n false
def execLaneTxStop (t : Nat) (n : Fin 144) (s : State) : Res := s.act t fun d => d.txStop n
def execSbTx (t : Nat) (acc : Accessor) (n : Fin 144) (w0 w1 : Word) (s : State) : Res :=
  s.act t fun d => d.itemSend s.alc acc (.sbTx n) [w0, w1]
def execSbRx (t : Nat) (acc : Accessor) (n : Fin 144) (s : State) : Res := s.act t fun d => d.itemFetch s.alc acc (.sbRx n)
def execTimeLast (t : Nat) (acc : Accessor) (n : Fin 144) (s : State) : Res :=
  s.act t fun d => d.itemFetch s.alc acc (.timeLast n)

/-! ## 802.1AS (R347, R348) -/

def execAsSyncSend (t : Nat) (n : Fin 144) (s : State) : Res := s.act t fun d => d.asSync n
def execAsPdelayReqSend (t : Nat) (n : Fin 144) (s : State) : Res := s.act t fun d => d.asPdelayReq n
def execAsPdelayRx (t : Nat) (n : Fin 144) (m : PdelayMsg) (s : State) : Res := s.act t fun d => d.asPdelay n m
def execAsPdelayLost (t : Nat) (n : Fin 144) (s : State) : Res := s.act t fun d => d.asPdelayLost n
def execLaneFrameDrop (t : Nat) (n : Fin 144) (s : State) : Res := s.act t fun d => d.laneDrop n

/-! ## Gates and egress (R330, R339 to R344) -/

/-- Whether the LANE margin of a lane under a bank is at least 0 with the admin list in place of the oper list (R341). -/
def Dev.gateFits (d : Dev) (n : Nat) (rd : View) (steps : Tab Nat) (shed : List Nat) : Bool :=
  let r := d.admRes shed
  let res := { r with gates := r.gates.filter (fun g => g.1 != n) ++ [(n, d.adminList n (d.lane n).swapBase)] }
  let m : AdmCfg := { rd := rd, base := rd, st := d.stv, steps := steps, res := res }
  let ws := (winsOn rd).filter fun w => !shed.contains w && winLane rd w == n
  ws.isEmpty || decide (0 ≤ (m.laneInst n ws).margin)

/-- The answer of a swap that waits for one: its start is fixed from here, or it is refused for its LANE margin. -/
def Dev.gateAnswer (d : Dev) (n : Nat) : Dev :=
  if !d.gateBit n 1 || (d.lane n).swapAt.isSome then d
  else
    let next := match d.commit with
      | some m => !d.commitJudged || d.gateFits n d.pendv m.taken []
      | none => true
    if d.gateFits n d.actv d.stepsNow d.noWins && next then d.gateSchedule n else d.gateRefuse n 2

def execGateSwap (t : Nat) (acc : Accessor) (n : Fin 144) (w0 w1 w2 : Word) (s : State) : Res :=
  s.act t fun d => d.itemSend s.alc acc (.gateSwap n) [w0, w1, w2]
def execGateSwapAnswer (t : Nat) (n : Fin 144) (s : State) : Res := s.act t fun d => d.gateAnswer n
def execGateSwapStart (t : Nat) (n : Fin 144) (s : State) : Res := s.act t fun d => d.gateStart n
def execGateStop (t : Nat) (acc : Accessor) (n : Fin 144) (s : State) : Res :=
  s.act t fun d => d.itemSend s.alc acc (.gateStop n) []
def execGateCancel (t : Nat) (acc : Accessor) (n : Fin 144) (s : State) : Res :=
  s.act t fun d => d.itemSend s.alc acc (.gateCancel n) []
def execGateInfo (t : Nat) (acc : Accessor) (n : Fin 144) (s : State) : Res :=
  s.act t fun d => d.itemFetch s.alc acc (.gateInfo n)
def execGateEntry (t : Nat) (n : Fin 144) (s : State) : Res := s.act t fun d => d.gateEntry n

/-- A frame of the highest class that may start leaves (R330). -/
def Dev.egress (d : Dev) : TxPort → Dev
  | .host p => d.hostFrameStart p
  | .lane n => d.laneFrameStart n
def execEgressFrameStart (t : Nat) (port : TxPort) (s : State) : Res := s.act t fun d => d.egress port

end Sys2Proof.Machine
end

