-- ==== Sys2Proof/Machine/RunMem.lean ====
section
/-! DEFINITION. The meanings of the commands of the HBM controller, of address translation, of the DMA engine and of the check
units. -/

namespace Sys2Proof.Machine

/-! ## HBM (R356 to R382) -/

/-- A run-ahead read is for the tick that its hall runs ahead for (R163); the command does not say of which layer. -/
def execHbmRequest (t : Nat) (pa : BitVec 48) (len : Nat) (wr : Option (List (Option Byte))) (cls : HbmClass)
    (spec : Option (Fin 8)) (s : State) : Res :=
  s.act t fun d => d.hbmRequest pa.toNat len wr (clsNat cls) (spec.map fun h => d.aheadOf h (List.range 33))
def execNeighbourRefresh (t : Nat) (_pc : Fin 64) (_bank : Fin 48) (row : Nat) (s : State) : Res :=
  s.act t fun d => d.neighbourRefresh row

/-- What the master of a unit that faults does (R390): a composition tile is substituted, a write-back write dropped, the pixels of a
calibration read pass, a channel stops exactly, a packet or a message is dropped, a tone-policy blend is abandoned. The fault of
run-ahead is held and stops nothing. -/
def Dev.unitStop (d : Dev) (r : XReq) : Dev :=
  let m := r.master.toNat
  match r.kind.val with
  | 0 =>
    if unitAhead r then d
    else d.unitFails (unitHall m) (unitLayer m) fun u => u == r.va.toNat / 64 * 64
  | 1 => d.wbDrop (m % 8)
  | 2 => d.calFault m
  | 5 => d.rxError (m % 256)
  | 6 => d.contentDrop
  | 7 => d.toneAbandon (m % 8)
  | _ => (d.chFails (m % 64) false).engTurn

/-- The same for a unit that may have faulted. -/
def Dev.unitStops (d : Dev) (r : Option XReq) : Dev :=
  match r with
  | some x => d.unitStop x
  | none => d

/-- What an uncorrectable read of some class means to the master it returns to (R369): a substituted tile, held where it is
run-ahead's, which travels in class BE (R163, R165), with what its request entered for, a stopped channel, a faulting walk, identity for the pixels of a calibration
read, a tone-policy blend abandoned; other masters need nothing more. -/
def Dev.readFails (d : Dev) (pa cls : Nat) (ahead : Option Ahead) : HbmClient → Dev
  | .tile h n =>
    if cls = 2 then
      let a := ahead.getD (d.aheadOf h [n.val])
      d.deferFault h { tag := a.tag n, va := 0, kind := 0, master := h + n * 8, code := 0, level := 0 } (a.canvas, a.tick)
    else d.unitFails h n fun u =>
      match d.translate (d.act (F.SRC_BASE_HI.asid (leadOf d.actv h) n)) u false with
      | .ok a => a / 64 == pa / 64
      | .bad _ _ => false
  | .dma c => (d.chFails c true).engTurn
  | .walk => let r := d.walkUe pa; r.2.unitStops r.1
  | .calib w => d.calFault w
  | .tone h => d.toneAbandon h
  | .migration => d
  | .rmw => d
  | .other => d

/-- A burst read returns through the decoder, with the corrections that the on-die ECC of the device reports. -/
def Dev.readReturns (d : Dev) (pa : Nat) (ret : BurstRet) (cls : Nat) (cl : HbmClient) : Dev :=
  let ahead := (d.pcOfPa pa).bind fun pc => (d.queuedRead pc pa).bind fun x => x.1.spec
  let r := d.readDone pa ret cls (cl == .rmw) (cl == .migration)
  if r.1 then r.2.readFails pa cls ahead cl else r.2
def execHbmReadDone (t : Nat) (pa : BitVec 48) (ret : BurstRet) (cls : HbmClass) (cl : HbmClient) (s : State) : Res :=
  s.act t fun d => d.readReturns pa.toNat ret (clsNat cls) cl
def execAgePromotion (t : Nat) (pc : Fin 64) (k : Nat) (s : State) : Res := s.act t fun d => d.agePromote pc k
def execRefreshDue (t : Nat) (pc : Fin 64) (bank : Fin 48) (s : State) : Res := s.act t fun d => d.refreshDue pc bank
def execStackTempChange (t : Nat) (k : Fin 2) (temp : BitVec 8) (s : State) : Res := s.act t fun d => d.stackTemp k temp.toNat
def execScrubStep (t : Nat) (pc : Fin 64) (ret : BurstRet) (s : State) : Res := s.act t fun d => d.scrubStep pc ret

/-- PC_CMD with the PC and its command bit. -/
def execPcRetrain (t : Nat) (acc : Accessor) (pc : Fin 64) (s : State) : Res :=
  s.act t fun d => d.store s.alc acc A.PC_CMD (w32 (pc + 512))
def execPcRetire (t : Nat) (acc : Accessor) (pc : Fin 64) (s : State) : Res :=
  s.act t fun d => d.store s.alc acc A.PC_CMD (w32 (pc + 256))
def execRetrainSlice (t : Nat) (pc : Fin 64) (s : State) : Res := s.act t fun d => d.retrainSlice pc
def execRetrainSweepDone (t : Nat) (pc : Fin 64) (sweeps : List Sweep) (verify : List (Nat × List Byte)) (s : State) : Res :=
  s.act t fun d => d.retrainDone pc sweeps verify
def execSparePolicyRun (t : Nat) (overrun : Bool) (s : State) : Res := s.act t fun d => d.sparePolicy overrun
def execPcLinkLoss (t : Nat) (pc : Fin 64) (s : State) : Res := s.act t fun d => d.pcLinkLoss pc
def execMigrationStart (t : Nat) (k : Fin 2) (s : State) : Res := s.act t fun d => d.migrStart k
def execMigrationChunk (t : Nat) (k : Fin 2) (ue : List (Fin 64)) (s : State) : Res :=
  s.act t fun d => d.migrChunk k (ue.map fun i => i.val)
def execMigrationTargetFail (t : Nat) (k : Fin 2) (s : State) : Res := s.act t fun d => d.migrTargetFail k
def execEccLast (t : Nat) (acc : Accessor) (s : State) : Res := s.act t fun d => d.itemFetch s.alc acc .eccLast
def execJournal (t : Nat) (acc : Accessor) (k : Fin 2) (s : State) : Res := s.act t fun d => d.itemFetch s.alc acc (.journal k)
def execClassBytes (t : Nat) (acc : Accessor) (k : Fin 5) (s : State) : Res :=
  s.act t fun d => d.itemFetch s.alc acc (.classBytes k)

/-! ## Translation (R383 to R398) -/

/-- A unit is looked up; its fault is its master's to handle. -/
def execTranslate (t : Nat) (r : XReq) (s : State) : Res :=
  s.act t fun d => let x := d.lookup (unitEntered r); x.2.unitStops (x.1.map fun _ => unitEntered r)
def execWalkDone (t : Nat) (s : State) : Res := s.act t fun d => let x := d.walkDone; x.2.unitStops x.1
def execInvRequest (t : Nat) (acc : Accessor) (w0 w1 w2 : Word) (s : State) : Res :=
  s.act t fun d => d.itemSend s.alc acc .invRequest [w0, w1, w2]

/-- The drain ends, and an item that waited for it is taken. -/
def execInvDrainDone (t : Nat) (s : State) : Res := s.act t fun d => d.invDone.retryItems
def execSpaceCtlWrite (t : Nat) (acc : Accessor) (a : Fin 16) (v : Word) (s : State) : Res :=
  s.act t fun d => d.store s.alc acc (A.SPACE_CTL a) v
def execRootWrite (t : Nat) (acc : Accessor) (a : Fin 16) (hi : Bool) (v : Word) (s : State) : Res :=
  s.act t fun d => d.store s.alc acc (if hi then A.ROOT_HI a else A.ROOT_LO a) v
def execFaultRec (t : Nat) (acc : Accessor) (s : State) : Res := s.act t fun d => d.itemFetch s.alc acc .faultRec

/-! ## DMA (R399 to R431) -/

def execDmaEnable (t : Nat) (acc : Accessor) (c : Fin 64) (s : State) : Res :=
  s.act t fun d => d.writeBits s.alc acc (A.CH_CTL c) 1 1
def execDmaDisable (t : Nat) (acc : Accessor) (c : Fin 64) (s : State) : Res :=
  s.act t fun d => d.writeBits s.alc acc (A.CH_CTL c) 0 1
def execDmaPause (t : Nat) (acc : Accessor) (c : Fin 64) (s : State) : Res :=
  s.act t fun d => d.cmd s.alc acc (F.CH_CMD.pause c)
def execDmaResume (t : Nat) (acc : Accessor) (c : Fin 64) (s : State) : Res :=
  s.act t fun d => d.cmd s.alc acc (F.CH_CMD.resume c)
def execDmaKick (t : Nat) (acc : Accessor) (c : Fin 64) (s : State) : Res :=
  s.act t fun d => d.cmd s.alc acc (F.CH_CMD.kick c)
def execDmaSkip (t : Nat) (acc : Accessor) (c : Fin 64) (s : State) : Res :=
  s.act t fun d => d.cmd s.alc acc (F.CH_CMD.skip c)

/-- In a power failure channels issue nothing further (R524). -/
def Dev.issuing (d : Dev) (f : Dev → Dev) : Dev := if d.pwr.fail.isSome then d else f d
def execDmaPaused (t : Nat) (c : Fin 64) (s : State) : Res := s.act t fun d => d.issuing fun d => d.chPauseDone c
def execDescFetchDone (t : Nat) (c : Fin 64) (s : State) : Res := s.act t fun d => d.issuing fun d => d.descFetched c
def execDescComplete (t : Nat) (c : Fin 64) (s : State) : Res := s.act t fun d => d.issuing fun d => d.descComplete c
def execDmaPeripheralRequest (t : Nat) (c : Fin 64) (units : Nat) (s : State) : Res :=
  s.act t fun d => d.issuing fun d => d.chRequest c units
def execDmaRequestWithdraw (t : Nat) (c : Fin 64) (s : State) : Res := s.act t fun d => d.issuing fun d => d.chWithdraw c
def execCqHeadWrite (t : Nat) (acc : Accessor) (c : Fin 64) (v : Word) (s : State) : Res :=
  s.act t fun d => d.store s.alc acc (A.CQ_HEAD c) v
def execPosition (t : Nat) (acc : Accessor) (c : Fin 64) (s : State) : Res :=
  s.act t fun d => d.itemFetch s.alc acc (.position c)
def execLastAddr (t : Nat) (acc : Accessor) (c : Fin 64) (s : State) : Res :=
  s.act t fun d => d.itemFetch s.alc acc (.lastAddr c)
def execBytes (t : Nat) (acc : Accessor) (c : Fin 64) (s : State) : Res := s.act t fun d => d.itemFetch s.alc acc (.bytes c)
def execLastWhole (t : Nat) (acc : Accessor) (c : Fin 64) (s : State) : Res :=
  s.act t fun d => d.itemFetch s.alc acc (.lastWhole c)

/-! ## Check units (R432 to R447) -/

/-- Whether a unit verifies a balustrade in phase `p`: the phase is BAL_CTL.phase (R211), and the layer is enabled and shows an
image (DEDUCED, log 100). -/
def Dev.verifiesIn (d : Dev) (u p : Nat) : Bool :=
  match d.balOf u with
  | some h => d.act (F.BAL_CTL.phase h) == p && layerOn d.actv h 32 && !d.is (F.LAYER_STATUS.no_buffer h 32)
  | none => false

/-- Whether a unit has no region now: it follows no stream, its phases leave this one out, its verification is not of it, or no
descriptor is in progress whose tag it takes (R211, R434); an exhibit armed at this very instant begins at the next region (R481). -/
def Dev.noRegion (d : Dev) (u p : Nat) : Bool :=
  if 56 ≤ u then (d.cu u).alc.isSome && (d.cu u).alcAt == some d.now
  else
    match d.cuKind u with
    | 0 => true
    | 4 => false
    | 5 =>
      let c := d.cuIndex u
      (d.chan c).words.isEmpty || decide ((d.chDesc c).tag &&& d.act (F.CU_TAGM.mask u) ≠ d.act (F.CU_TAGM.tag u))
    | 6 => !d.verifiesIn u p
    | _ => bitOf (d.act (F.CU_TAP.phases u)) p == 0

/-- A region of a unit starts in phase `p` (R434). An armed exhibit of an Alcove unit becomes active, unless it was armed at this very
instant (R481). -/
def Dev.regionStart (d : Dev) (u p : Nat) : Dev :=
  if d.noRegion u p then d else d.cuStart u p (if d.cuKind u = 5 then (d.chDesc (d.cuIndex u)).tag else d.cuTick u)
def execCuRegionStart (t : Nat) (u : Fin 64) (p : Fin 8) (s : State) : Res :=
  .next (State.alcShow { s with
    dev := s.dev.run t fun d => d.regionStart u p
    alc := if 56 ≤ u.val ∧ s.dev.live ∧ !(s.dev.reach t).noRegion u p then s.alc.regionStart (u - 56) else s.alc })

/-- The tick instant and TC state that label an Alcove region (R493): those of the tick it started in, whatever exhibit the slot holds
by now. -/
def Dev.regionLabel (d : Dev) (u : Nat) : Label := { time := (d.cu u).time, state := d.get F.TIME_STATUS.state }

/-- A region of a unit ends: the module compares its own units', the Alcove classifies its units' (R438, R479). -/
def execCuRegionEnd (t : Nat) (u : Fin 64) (ot : Nat) (up : List CopyUpset) (s : State) : Res :=
  if u.val < 56 then s.act t fun d => ((d.composeFor u).cuEnd u).retryItems
  else
    let d := s.dev.reach t
    let x := d.cu u
    .next (State.alcShow { s with
      dev := if s.dev.live then d.setCu u { x with inAlc := false } else d
      alc := if s.dev.live && x.inAlc then
          s.alc.regionEnd ot (u - 56) ((cuPar d.actv u).result x.v) x.short (d.regionLabel u) x.tick up
        else s.alc })
def execRunningRead (t : Nat) (acc : Accessor) (u : Fin 56) (s : State) : Res :=
  s.act t fun d => d.itemFetch s.alc acc (.running u)
def execRunningWrite (t : Nat) (acc : Accessor) (u : Fin 56) (w0 w1 : Word) (s : State) : Res :=
  s.act t fun d => d.itemSend s.alc acc (.running u) [w0, w1]
def execResult (t : Nat) (acc : Accessor) (u : Fin 56) (s : State) : Res := s.act t fun d => d.itemFetch s.alc acc (.result u)

end Sys2Proof.Machine
end

