-- ==== Sys2Proof/Machine/RunPower.lean ====
section
/-! DEFINITION. The meanings of the commands of power, reset, boot and hold-up, and of the test access port. -/

namespace Sys2Proof.Machine

/-! ## Start and reset (R508 to R513) -/

/-- VIN passes the start threshold; the Alcove loses its state when its supply was lost (R483, R509). -/
def execPowerOn (t : Nat) (mv : BitVec 17) (alcLost : Bool) (s : State) : Res :=
  s.start t (fun d => d.powerOn mv.toNat) fun a => if alcLost ∧ !s.dev.pwr.on ∧ !s.dev.pwr.standby then a.powerDown else a
def execBootResetRelease (t : Nat) (straps : BitVec 8) (refclk : Bool) (s : State) : Res :=
  s.act t fun d => d.bootRelease straps.toNat refclk
def execFwImageChecked (t : Nat) (a b : Option (BitVec 16)) (s : State) : Res :=
  s.act t fun d => d.fwChecked (a.map BitVec.toNat) (b.map BitVec.toNat)
def execHbmTrainingDone (t : Nat) (dead : List (Fin 64)) (sweeps : List (Fin 64 × List Sweep)) (s : State) : Res :=
  s.act t fun d => d.trainingDone (deadSweeps dead ++ sweeps.map fun x => (x.1.val, x.2))
def execPinReset (t : Nat) (s : State) : Res :=
  .next { s with dev := (s.dev.reach t).pinReset, tap := s.tap.after (s.dev.reach t) (s.dev.reach t).pinReset }

/-- RESET_N rises; a test access port in EXTEST makes it a reset (R562). -/
def execResetRelease (t : Nat) (s : State) : Res := s.power t fun d => d.resetRelease s.tap
def execRstModule (t : Nat) (acc : Accessor) (s : State) : Res := s.act t fun d => d.cmd s.alc acc F.RST_CMD.module
def execSoftwareResetEffect (t : Nat) (s : State) : Res := s.act t Dev.softReset
def execRstStandby (t : Nat) (acc : Accessor) (s : State) : Res := s.act t fun d => d.cmd s.alc acc F.RST_CMD.standby
def execStewardWatchdog (t : Nat) (s : State) : Res := s.act t fun d => if d.pwr.fail.isSome then d else d.modReset 3

/-! ## The configuration image (R517 to R521): its records count while the boot applies it -/

def Dev.applies (d : Dev) (f : Dev → Dev) : Dev := if d.pwr.applying then f d else d

def execImageRecordWrite (t : Nat) (a : BitVec 26) (ws : List Word) (s : State) : Res :=
  s.access t fun al d => d.applies fun d => d.imageWrite al a.toNat ws
def execImageRecordMasked (t : Nat) (es : List MaskEntry) (s : State) : Res :=
  s.access t fun al d => d.applies fun d => d.imageMasked al es
def execImageRecordMailbox (t : Nat) (page : BitVec 26) (item : BitVec 8) (ws : Mbx4) (s : State) : Res :=
  s.access t fun al d => d.applies fun d => d.imageMailbox al page.toNat item.toNat ws
def execImageRecordIndirect (t : Nat) (page : BitVec 26) (first : Word) (ws : List Word) (s : State) : Res :=
  s.access t fun al d => d.applies fun d => d.imageIndirect al page.toNat first ws
def execImageRecordHbmLoad (t : Nat) (asid : Fin 16) (va : BitVec 48) (data : List Byte) (s : State) : Res :=
  s.act t fun d => d.applies fun d => d.imageLoad asid va.toNat data
def execImageRecordCommit (t : Nat) (ref : Fin 8) (leadMs waitMs : Nat) (s : State) : Res :=
  s.act t fun d => d.applies fun d => d.imageCommit ref leadMs waitMs
def execImageRecordEnd (t : Nat) (s : State) : Res := s.act t fun d => d.applies Dev.imageEnd
def execBootDone (t : Nat) (s : State) : Res := s.act t Dev.bootEnds
def execBootCommitRequest (t : Nat) (s : State) : Res := s.act t Dev.bootCommit

/-! ## Power failure and hold-up (R522 to R526) -/

/-- VIN leaves its range, `over` above it: the Alcove is warned (R491, R524). -/
def execPowerFail (t ot : Nat) (ov : Bool) (s : State) : Res :=
  s.both t (fun d => d.failStart (if ov then 2 else 1)) fun a =>
    if (s.dev.pwr.on ∨ s.dev.pwr.standby) ∧ s.dev.pwr.fail.isNone then a.warning ot else a
def execPowerFailStop (t : Nat) (s : State) : Res := s.power t Dev.failStop

/-- The save is complete: the module powers down with the Alcove, or enters standby after a trip (R524, R530). -/
def execSaveComplete (t : Nat) (whole : Bool) (s : State) : Res :=
  s.start t (fun d => d.saveComplete whole) fun a =>
    match (s.dev.reach t).pwr.fail, (s.dev.reach t).pwr.failing with
    | some _, some x => if x.cause = 3 then a else a.powerDown
    | _, _ => a

/-- The charger measures while it works, also while RESET_N holds the module (R508, R523). -/
def execHoldCapacityMeasured (t ns : Nat) (s : State) : Res :=
  s.power t fun d => if s.dev.chargerRuns then d.holdMeasured ns else d
def execHoldLevelChange (t : Nat) (mv : BitVec 17) (s : State) : Res :=
  s.power t fun d => if s.dev.chargerRuns then d.holdLevel mv.toNat else d
def execSaveInfo (t : Nat) (acc : Accessor) (s : State) : Res := s.act t fun d => d.itemFetch s.alc acc .saveInfo
def execSaveGen (t : Nat) (acc : Accessor) (wr : Option Word) (s : State) : Res :=
  s.act t fun d =>
    match wr with
    | some w => d.itemSend s.alc acc .saveGen [0, w]
    | none => d.itemFetch s.alc acc .saveGen

/-! ## Flash (R514, R515) -/

def execFlashErase (t : Nat) (acc : Accessor) (w0 : Word) (s : State) : Res :=
  s.act t fun d => d.itemSend s.alc acc .flashErase [w0]
def execFlashOpDone (t : Nat) (verified : Bool) (s : State) : Res :=
  s.access t fun al d => ((d.flashDone verified).loadDone).flashNext al

/-! ## Heat (R527 to R530) -/

/-- Tj is sampled; at 110 °C the module trips, and the Alcove is warned. -/
def execThermalSample (t ot : Nat) (tj : BitVec 8) (s : State) : Res :=
  let x := signedOf tj.toNat 8
  if x < 110 then s.act t fun d => d.thermSample x
  else s.both t (fun d => d.thermTrip x) fun a => if s.dev.pwr.on ∧ s.dev.pwr.fail.isNone then a.warning ot else a
def execThermalWindowDrop (t : Nat) (s : State) : Res := s.act t Dev.thermDrop

/-! ## The test access port (R561, R562) -/

/-- An instruction is shifted in; no register of the module changes. TRST_N low holds the port in reset, and one without power does
nothing. -/
def execTapInstruction (t : Nat) (x : TapScan) (s : State) : Res :=
  let d := s.dev.at t
  if !s.dev.pwr.on then .next { s with dev := d }
  else if !x.trstN then .next { s with dev := d, tap := { Tap.reset with cells := s.tap.cells } }
  else .next { s with dev := (tapShift s.tap d x).2, tap := (tapShift s.tap d x).1 }

end Sys2Proof.Machine
end

