-- ==== Sys2Proof/Machine/RunReg.lean ====
section
/-! DEFINITION. The meanings of the commands of the register model: accesses, snapshots, the scan, events and the items of the
GLOBAL page. -/

namespace Sys2Proof.Machine

/-! ## Accesses (R274 to R280) -/

def execRegisterWrite (t : Nat) (acc : Accessor) (a : BitVec 26) (v : Word) (s : State) : Res :=
  s.access t fun al d => d.store al acc a.toNat v
def execRcRead (t : Nat) (acc : Accessor) (a : BitVec 26) (s : State) : Res :=
  s.access t fun al d => d.readOnce al acc a.toNat

/-- A read or a write of IND_DATA of a page. -/
def execIndData (t : Nat) (acc : Accessor) (page : BitVec 14) (wr : Option Word) (s : State) : Res :=
  s.access t fun al d =>
    match wr with
    | some v => d.store al acc (A.IND_DATA page.toNat) v
    | none => d.readOnce al acc (A.IND_DATA page.toNat)

/-! ## Snapshots and the scan (R283 to R288) -/

def execSnapNow (t : Nat) (acc : Accessor) (s : State) : Res := s.act t fun d => d.cmd s.alc acc F.SNAP_CMD.now
def execSnapAtTick (t : Nat) (acc : Accessor) (c : Fin 8) (s : State) : Res :=
  s.act t fun d => d.store s.alc acc A.SNAP_CMD (w32 (2 + 4 * c))
def execSnapAt (t : Nat) (acc : Accessor) (w0 w1 : Word) (s : State) : Res :=
  s.act t fun d => d.itemSend s.alc acc .snapAt [w0, w1]
def execCfgScanDone (t : Nat) (us : BitVec 10) (s : State) : Res := s.act t fun d => d.scanDone us.toNat
def execCfgRefcrcWrite (t : Nat) (acc : Accessor) (v : Word) (s : State) : Res :=
  s.act t fun d => d.store s.alc acc A.CFG_REFCRC v

/-! ## Events (R292, R293) -/

/-- A pulse of 1 µs ends: the land is released. -/
def execEvtNPulseEnd (t : Nat) (i : Fin 4) (s : State) : Res :=
  s.act t fun d => Dev.evtN { d with pulseOn := Tab.set (fun _ => false) d.pulseOn i false }
def execDoorbell (t : Nat) (acc : Accessor) (hi : Bool) (v : Word) (s : State) : Res :=
  s.act t fun d => d.store s.alc acc (if hi then A.DOORBELL_HI else A.DOORBELL_LO) v

/-! ## Items of the GLOBAL page (R55, R294) -/

def execEpochWrite (t : Nat) (acc : Accessor) (c : Fin 8) (w0 w1 w2 : Word) (s : State) : Res :=
  s.act t fun d => d.itemSend s.alc acc (.epoch c) [w0, w1, w2]
def execEpochRead (t : Nat) (acc : Accessor) (c : Fin 8) (s : State) : Res :=
  s.act t fun d => d.itemFetch s.alc acc (.epoch c)
def execTickNow (t : Nat) (acc : Accessor) (c : Fin 8) (s : State) : Res :=
  s.act t fun d => d.itemFetch s.alc acc (.tickNow c)
def execCommitAnswerRead (t : Nat) (acc : Accessor) (s : State) : Res :=
  s.act t fun d => d.itemFetch s.alc acc .commitAnswer
def execSerial (t : Nat) (acc : Accessor) (s : State) : Res := s.act t fun d => d.itemFetch s.alc acc .serial

/-- MODULE_TICK (R568). -/
def execModuleTick (t : Nat) (s : State) : Res := s.act t Dev.moduleTick

end Sys2Proof.Machine
end

