-- ==== Sys2Proof/Machine/RunService.lean ====
section
/-! DEFINITION. The meanings of the commands of in-service operation, the stewards and the Ururi monitor. -/

namespace Sys2Proof.Machine

/-! ## Operations (R534 to R540) -/

/-- The words of OP_REQUEST (R546). -/
def opWords (kind target ref : Nat) (cancel : Bool) : List Word := [w32 (kind + target * 256 + b2n cancel * 65536), w32 ref]

def execOpFwSwitch (t : Nat) (acc : Accessor) (target : BitVec 8) (ref : Fin 8) (s : State) : Res :=
  s.act t fun d => d.itemSend s.alc acc .opRequest (opWords 1 target.toNat ref false)
def execOpReequalise (t : Nat) (acc : Accessor) (target : BitVec 8) (ref : Fin 8) (s : State) : Res :=
  s.act t fun d => d.itemSend s.alc acc .opRequest (opWords 5 target.toNat ref false)
def execOpImageSelect (t : Nat) (acc : Accessor) (target : BitVec 8) (ref : Fin 8) (s : State) : Res :=
  s.act t fun d => d.itemSend s.alc acc .opRequest (opWords 8 target.toNat ref false)
def execOpCancel (t : Nat) (acc : Accessor) (kind : BitVec 4) (target : BitVec 8) (s : State) : Res :=
  s.act t fun d => d.itemSend s.alc acc .opRequest (opWords kind.toNat target.toNat 0 true)
def execOpAnswer (t : Nat) (s : State) : Res := s.act t Dev.opAnswer
def execOpStart (t : Nat) (kind : BitVec 4) (target : BitVec 8) (s : State) : Res :=
  s.act t fun d => d.opStart kind.toNat target.toNat
def execFwCheckDone (t : Nat) (img : Option (BitVec 16)) (s : State) : Res :=
  s.act t fun d => d.fwCheckDone (img.map BitVec.toNat)
def execFwSwitchPrepare (t : Nat) (s : State) : Res := s.act t Dev.fwPrepare
def execReeqDone (t : Nat) (n : Fin 144) (ok : Bool) (s : State) : Res := s.act t fun d => d.reeqDone n ok
def execLanePolicyRun (t : Nat) (overrun : Bool) (s : State) : Res := s.act t fun d => d.lanePolicy overrun
def execOpRecord (t : Nat) (acc : Accessor) (s : State) : Res := s.act t fun d => d.itemFetch s.alc acc .opRecord

/-! ## The Ururi monitor (R541 to R545) -/

def execUruriHelp (t : Nat) (s : State) : Res := s.act t fun d => d.ururi fun d => d.say ururiNames 0
def execUruriId (t : Nat) (s : State) : Res := s.access t fun al d => d.ururi (Dev.ururiId al)
def execUruriLevel (t : Nat) (n : Option Nat) (s : State) : Res := s.act t fun d => d.ururi fun d => d.ururiLevel n
def execUruriBaud (t : Nat) (n : Nat) (s : State) : Res := s.act t fun d => d.ururi fun d => d.ururiBaud n
def execUruriRd (t : Nat) (a : BitVec 26) (count : Nat) (s : State) : Res :=
  s.access t fun al d => d.ururi fun d => d.ururiRd al a.toNat count
def execUruriWr (t : Nat) (a : BitVec 26) (v : Word) (s : State) : Res :=
  s.access t fun al d => d.ururi fun d => d.ururiWr al a.toNat v 0xFFFFFFFF
def execUruriWm (t : Nat) (a : BitVec 26) (m v : Word) (s : State) : Res :=
  s.access t fun al d => d.ururi fun d => d.ururiWr al a.toNat v m
def execUruriInd (t : Nat) (page : BitVec 26) (first : Word) (count : Nat) (s : State) : Res :=
  s.access t fun al d => d.ururi fun d => d.ururiInd al page.toNat first count
def execUruriIndw (t : Nat) (page : BitVec 26) (first : Word) (v : Word) (s : State) : Res :=
  s.access t fun al d => d.ururi fun d => d.ururiIndw al page.toNat first v
def execUruriMbx (t : Nat) (page : BitVec 26) (item : BitVec 8) (ws : Option Mbx4) (s : State) : Res :=
  s.access t fun al d => d.ururiFull fun d => d.ururiMbx al page.toNat item.toNat ws
def execUruriEvt (t : Nat) (raw : Bool) (s : State) : Res := s.access t fun al d => d.ururiFull fun d => d.ururiEvt al raw
def execUruriSnap (t : Nat) (s : State) : Res := s.act t fun d => d.ururiFull fun d => (d.snapshot false).say [] 0
def execUruriAdm (t : Nat) (readm : Bool) (s : State) : Res := s.act t fun d => d.ururiFull fun d => d.ururiAdm readm

/-! ## Self-tests (R544): by code and level -/

def execTestReg (t : Nat) (s : State) : Res := s.act t fun d => d.ururiFull fun d => d.ururiTest 1 0 0
def execTestClock (t : Nat) (s : State) : Res := s.act t fun d => d.ururiFull fun d => d.ururiTest 2 0 0
def execTestFlash (t : Nat) (s : State) : Res := s.act t fun d => d.ururiFull fun d => d.ururiTest 3 0 0
def execTestCrc (t : Nat) (s : State) : Res := s.act t fun d => d.ururiFull fun d => d.ururiTest 4 0 1
def execTestSram (t : Nat) (s : State) : Res := s.act t fun d => d.ururiFull fun d => d.ururiTest 5 0 2
def execTestLane (t : Nat) (n : Fin 144) (s : State) : Res := s.act t fun d => d.ururiFull fun d => d.ururiTest 6 n 2
def execTestHbm (t : Nat) (pc : Fin 64) (s : State) : Res := s.act t fun d => d.ururiFull fun d => d.ururiTest 7 pc 2
def execTestComplete (t : Nat) (errors : Nat) (s : State) : Res := s.act t fun d => d.testEnds errors

/-! ## Uploads (R545) and the end of a session (R541) -/

def execUruriLoad (t : Nat) (region : Fin 4) (s : State) : Res := s.act t fun d => d.ururi fun d => d.ururiLoad region
def execXmodemBlock (t : Nat) (b : Option XBlock) (sigOk : Bool) (s : State) : Res :=
  s.act t fun d => d.ururi fun d => d.xmodemBlock b sigOk
def execLoadTimeout (t : Nat) (s : State) : Res := s.act t Dev.loadTimeout
def execUruriIdleTimeout (t : Nat) (s : State) : Res := s.act t Dev.ururiIdle

end Sys2Proof.Machine
end

