-- ==== Sys2Proof/Machine/Dispatch.lean ====
section
/-! DEFINITION. The dispatch: one arm for each command of the operation table. -/

namespace Sys2Proof.Machine

/-- The effect of a command on everything but the queue. -/
def exec (i : Instr) (s : State) : Host.Outcome State Fault Refusal :=
  match i with
  | .canvasTick t c => Sys2Proof.Machine.execCanvasTick t c s
  | .phaseStart t c p => Sys2Proof.Machine.execPhaseStart t c p s
  | .turnaround t c => Sys2Proof.Machine.execTurnaround t c s
  | .fenceHorizon t h n => Sys2Proof.Machine.execFenceHorizon t h n s
  | .commitRequest t acc w0 w1 w2 w3 => Sys2Proof.Machine.execCommitRequest t acc w0 w1 w2 w3 s
  | .admissionAnswer t => Sys2Proof.Machine.execAdmissionAnswer t s
  | .commitCancel t acc => Sys2Proof.Machine.execCommitCancel t acc s
  | .coveragePassStart t h => Sys2Proof.Machine.execCoveragePassStart t h s
  | .coveragePassDone t h => Sys2Proof.Machine.execCoveragePassDone t h s
  | .lineSlotStart t w l => Sys2Proof.Machine.execLineSlotStart t w l s
  | .windowFrameStart t w => Sys2Proof.Machine.execWindowFrameStart t w s
  | .windowFrameEnd t w => Sys2Proof.Machine.execWindowFrameEnd t w s
  | .hallTickDone t h => Sys2Proof.Machine.execHallTickDone t h s
  | .wbDone t h => Sys2Proof.Machine.execWbDone t h s
  | .hallKill t acc h => Sys2Proof.Machine.execHallKill t acc h s
  | .sramUe t u => Sys2Proof.Machine.execSramUe t u s
  | .hwRegionLoss t r => Sys2Proof.Machine.execHwRegionLoss t r s
  | .readmission t => Sys2Proof.Machine.execReadmission t s
  | .toneSwapCmd t acc h => Sys2Proof.Machine.execToneSwapCmd t acc h s
  | .lut3dSwapCmd t acc h => Sys2Proof.Machine.execLut3dSwapCmd t acc h s
  | .tonePolicyRun t c overrun => Sys2Proof.Machine.execTonePolicyRun t c overrun s
  | .statCtlWrite t acc h v => Sys2Proof.Machine.execStatCtlWrite t acc h v s
  | .flipRequest t acc h n => Sys2Proof.Machine.execFlipRequest t acc h n s
  | .flipWithdraw t acc h n => Sys2Proof.Machine.execFlipWithdraw t acc h n s
  | .fenceWrite t acc f v => Sys2Proof.Machine.execFenceWrite t acc f v s
  | .laneHalt t acc n => Sys2Proof.Machine.execLaneHalt t acc n s
  | .laneResume t acc n => Sys2Proof.Machine.execLaneResume t acc n s
  | .laneFailover t acc n => Sys2Proof.Machine.execLaneFailover t acc n s
  | .laneFailback t acc n => Sys2Proof.Machine.execLaneFailback t acc n s
  | .stairlineTimeSend t n => Sys2Proof.Machine.execStairlineTimeSend t n s
  | .timeEchoRx t n seq turn => Sys2Proof.Machine.execTimeEchoRx t n seq turn s
  | .echoTimeout t n => Sys2Proof.Machine.execEchoTimeout t n s
  | .sidebandRx t n f => Sys2Proof.Machine.execSidebandRx t n f s
  | .lrxBlockError t n => Sys2Proof.Machine.execLrxBlockError t n s
  | .laneRxLoss t n => Sys2Proof.Machine.execLaneRxLoss t n s
  | .laneTxStop t n => Sys2Proof.Machine.execLaneTxStop t n s
  | .sbTx t acc n w0 w1 => Sys2Proof.Machine.execSbTx t acc n w0 w1 s
  | .sbRx t acc n => Sys2Proof.Machine.execSbRx t acc n s
  | .timeLast t acc n => Sys2Proof.Machine.execTimeLast t acc n s
  | .asSyncSend t n => Sys2Proof.Machine.execAsSyncSend t n s
  | .asPdelayReqSend t n => Sys2Proof.Machine.execAsPdelayReqSend t n s
  | .asPdelayRx t n m => Sys2Proof.Machine.execAsPdelayRx t n m s
  | .asPdelayLost t n => Sys2Proof.Machine.execAsPdelayLost t n s
  | .laneFrameDrop t n => Sys2Proof.Machine.execLaneFrameDrop t n s
  | .gateSwap t acc n w0 w1 w2 => Sys2Proof.Machine.execGateSwap t acc n w0 w1 w2 s
  | .gateSwapAnswer t n => Sys2Proof.Machine.execGateSwapAnswer t n s
  | .gateSwapStart t n => Sys2Proof.Machine.execGateSwapStart t n s
  | .gateStop t acc n => Sys2Proof.Machine.execGateStop t acc n s
  | .gateCancel t acc n => Sys2Proof.Machine.execGateCancel t acc n s
  | .gateInfo t acc n => Sys2Proof.Machine.execGateInfo t acc n s
  | .gateEntry t n => Sys2Proof.Machine.execGateEntry t n s
  | .egressFrameStart t port => Sys2Proof.Machine.execEgressFrameStart t port s
  | .helloSend t k => Sys2Proof.Machine.execHelloSend t k s
  | .helloRx t k landing topology lanes skewed => Sys2Proof.Machine.execHelloRx t k landing topology lanes skewed s
  | .portDown t k => Sys2Proof.Machine.execPortDown t k s
  | .landingBlockError t k => Sys2Proof.Machine.execLandingBlockError t k s
  | .contentRx t k m set asid va data full => Sys2Proof.Machine.execContentRx t k m set asid va data full s
  | .prepareRx t k m gen target ref dryRun set => Sys2Proof.Machine.execPrepareRx t k m gen target ref dryRun set s
  | .voteRx t k m v => Sys2Proof.Machine.execVoteRx t k m v s
  | .decideDeadline t => Sys2Proof.Machine.execDecideDeadline t s
  | .decideResend t k => Sys2Proof.Machine.execDecideResend t k s
  | .decideRx t k m gen target commit code landing => Sys2Proof.Machine.execDecideRx t k m gen target commit code landing s
  | .decideMiss t => Sys2Proof.Machine.execDecideMiss t s
  | .cascLost t => Sys2Proof.Machine.execCascLost t s
  | .timeSyncSend t k => Sys2Proof.Machine.execTimeSyncSend t k s
  | .timeSyncRx t k m sent seq => Sys2Proof.Machine.execTimeSyncRx t k m sent seq s
  | .landingTimeEchoRx t k m seq turn => Sys2Proof.Machine.execLandingTimeEchoRx t k m seq turn s
  | .tickAlignRx t k m tree tick edge => Sys2Proof.Machine.execTickAlignRx t k m tree tick edge s
  | .eventMsgRx t k m ev src time => Sys2Proof.Machine.execEventMsgRx t k m ev src time s
  | .fenceMsgRx t k m f v => Sys2Proof.Machine.execFenceMsgRx t k m f v s
  | .groupStateRx t k m g tick ready counted => Sys2Proof.Machine.execGroupStateRx t k m g tick ready counted s
  | .groupGoDeadline t g => Sys2Proof.Machine.execGroupGoDeadline t g s
  | .groupGoRx t k m g tick flip => Sys2Proof.Machine.execGroupGoRx t k m g tick flip s
  | .joinRx t k m gen target => Sys2Proof.Machine.execJoinRx t k m gen target s
  | .cascJoin t acc landing => Sys2Proof.Machine.execCascJoin t acc landing s
  | .peerEvt t acc => Sys2Proof.Machine.execPeerEvt t acc s
  | .registerWrite t acc a v => Sys2Proof.Machine.execRegisterWrite t acc a v s
  | .rcRead t acc a => Sys2Proof.Machine.execRcRead t acc a s
  | .indData t acc page wr => Sys2Proof.Machine.execIndData t acc page wr s
  | .snapNow t acc => Sys2Proof.Machine.execSnapNow t acc s
  | .snapAtTick t acc c => Sys2Proof.Machine.execSnapAtTick t acc c s
  | .snapAt t acc w0 w1 => Sys2Proof.Machine.execSnapAt t acc w0 w1 s
  | .cfgScanDone t us => Sys2Proof.Machine.execCfgScanDone t us s
  | .cfgRefcrcWrite t acc v => Sys2Proof.Machine.execCfgRefcrcWrite t acc v s
  | .evtNPulseEnd t pin => Sys2Proof.Machine.execEvtNPulseEnd t pin s
  | .doorbell t acc hi v => Sys2Proof.Machine.execDoorbell t acc hi v s
  | .epochWrite t acc c w0 w1 w2 => Sys2Proof.Machine.execEpochWrite t acc c w0 w1 w2 s
  | .epochRead t acc c => Sys2Proof.Machine.execEpochRead t acc c s
  | .tickNow t acc c => Sys2Proof.Machine.execTickNow t acc c s
  | .commitAnswerRead t acc => Sys2Proof.Machine.execCommitAnswerRead t acc s
  | .serial t acc => Sys2Proof.Machine.execSerial t acc s
  | .hostLinkChange t idx up fec => Sys2Proof.Machine.execHostLinkChange t idx up fec s
  | .ptpSyncRx t rx sender domain seq twoStep origin corr => Sys2Proof.Machine.execPtpSyncRx t rx sender domain seq twoStep origin corr s
  | .ptpFollowUpRx t rx sender domain seq origin corr => Sys2Proof.Machine.execPtpFollowUpRx t rx sender domain seq origin corr s
  | .ptpDelayRespRx t rx sender domain seq receipt corr => Sys2Proof.Machine.execPtpDelayRespRx t rx sender domain seq receipt corr s
  | .ptpAnnounceRx t rx a => Sys2Proof.Machine.execPtpAnnounceRx t rx a s
  | .ptpManagementRx t rx => Sys2Proof.Machine.execPtpManagementRx t rx s
  | .ptpAnnounceTimeout t idx => Sys2Proof.Machine.execPtpAnnounceTimeout t idx s
  | .ptpDelayReqSend t idx => Sys2Proof.Machine.execPtpDelayReqSend t idx s
  | .ptpParent t acc p => Sys2Proof.Machine.execPtpParent t acc p s
  | .arpRx t rx => Sys2Proof.Machine.execArpRx t rx s
  | .ndRx t rx => Sys2Proof.Machine.execNdRx t rx s
  | .icmpEchoRx t rx body => Sys2Proof.Machine.execIcmpEchoRx t rx body s
  | .membershipQueryRx t rx => Sys2Proof.Machine.execMembershipQueryRx t rx s
  | .rxPacket t rx p => Sys2Proof.Machine.execRxPacket t rx p s
  | .rxMergeTimeout t r => Sys2Proof.Machine.execRxMergeTimeout t r s
  | .rxLegLoss t r legB => Sys2Proof.Machine.execRxLegLoss t r legB s
  | .aedOpen t f => Sys2Proof.Machine.execAedOpen t f s
  | .aedAuth t f => Sys2Proof.Machine.execAedAuth t f s
  | .aedClose t f => Sys2Proof.Machine.execAedClose t f s
  | .aedKeepalive t f => Sys2Proof.Machine.execAedKeepalive t f s
  | .aedRead t f => Sys2Proof.Machine.execAedRead t f s
  | .aedWrite t f => Sys2Proof.Machine.execAedWrite t f s
  | .aedMaskedWrite t f => Sys2Proof.Machine.execAedMaskedWrite t f s
  | .aedSequence t f => Sys2Proof.Machine.execAedSequence t f s
  | .aedMailbox t f => Sys2Proof.Machine.execAedMailbox t f s
  | .aedSubscribe t f => Sys2Proof.Machine.execAedSubscribe t f s
  | .aedBulkWrite t f => Sys2Proof.Machine.execAedBulkWrite t f s
  | .aedBulkDone t p => Sys2Proof.Machine.execAedBulkDone t p s
  | .aedFence t f => Sys2Proof.Machine.execAedFence t f s
  | .aedCommitRequest t f => Sys2Proof.Machine.execAedCommitRequest t f s
  | .aedChallengeTimeout t pin => Sys2Proof.Machine.execAedChallengeTimeout t pin s
  | .aedIdleTimeout t pin => Sys2Proof.Machine.execAedIdleTimeout t pin s
  | .aedGapTimeout t pin => Sys2Proof.Machine.execAedGapTimeout t pin s
  | .aedEventSend t pin => Sys2Proof.Machine.execAedEventSend t pin s
  | .keyLoad t acc w0 w1 w2 => Sys2Proof.Machine.execKeyLoad t acc w0 w1 w2 s
  | .keyCommit t acc w0 => Sys2Proof.Machine.execKeyCommit t acc w0 s
  | .policerReset t acc pin => Sys2Proof.Machine.execPolicerReset t acc pin s
  | .bucketReset t acc idx mask => Sys2Proof.Machine.execBucketReset t acc idx mask s
  | .shpCtlWrite t acc idx tc v => Sys2Proof.Machine.execShpCtlWrite t acc idx tc v s
  | .shpBurstWrite t acc idx tc v => Sys2Proof.Machine.execShpBurstWrite t acc idx tc v s
  | .samplerPublish t k => Sys2Proof.Machine.execSamplerPublish t k s
  | .samplerCtlWrite t acc k sel v => Sys2Proof.Machine.execSamplerCtlWrite t acc k sel v s
  | .hbmRequest t pa len wr cls spec => Sys2Proof.Machine.execHbmRequest t pa len wr cls spec s
  | .neighbourRefresh t pc bank row => Sys2Proof.Machine.execNeighbourRefresh t pc bank row s
  | .hbmReadDone t pa ret cls cl => Sys2Proof.Machine.execHbmReadDone t pa ret cls cl s
  | .agePromotion t pc k => Sys2Proof.Machine.execAgePromotion t pc k s
  | .refreshDue t pc bank => Sys2Proof.Machine.execRefreshDue t pc bank s
  | .stackTempChange t idx temp => Sys2Proof.Machine.execStackTempChange t idx temp s
  | .scrubStep t pc ret => Sys2Proof.Machine.execScrubStep t pc ret s
  | .pcRetrain t acc pc => Sys2Proof.Machine.execPcRetrain t acc pc s
  | .retrainSlice t pc => Sys2Proof.Machine.execRetrainSlice t pc s
  | .retrainSweepDone t pc sweeps verify => Sys2Proof.Machine.execRetrainSweepDone t pc sweeps verify s
  | .pcRetire t acc pc => Sys2Proof.Machine.execPcRetire t acc pc s
  | .sparePolicyRun t overrun => Sys2Proof.Machine.execSparePolicyRun t overrun s
  | .pcLinkLoss t pc => Sys2Proof.Machine.execPcLinkLoss t pc s
  | .migrationStart t idx => Sys2Proof.Machine.execMigrationStart t idx s
  | .migrationChunk t idx ue => Sys2Proof.Machine.execMigrationChunk t idx ue s
  | .migrationTargetFail t idx => Sys2Proof.Machine.execMigrationTargetFail t idx s
  | .eccLast t acc => Sys2Proof.Machine.execEccLast t acc s
  | .journal t acc idx => Sys2Proof.Machine.execJournal t acc idx s
  | .classBytes t acc k => Sys2Proof.Machine.execClassBytes t acc k s
  | .translate t r => Sys2Proof.Machine.execTranslate t r s
  | .walkDone t => Sys2Proof.Machine.execWalkDone t s
  | .invRequest t acc w0 w1 w2 => Sys2Proof.Machine.execInvRequest t acc w0 w1 w2 s
  | .invDrainDone t => Sys2Proof.Machine.execInvDrainDone t s
  | .spaceCtlWrite t acc a v => Sys2Proof.Machine.execSpaceCtlWrite t acc a v s
  | .rootWrite t acc a hi v => Sys2Proof.Machine.execRootWrite t acc a hi v s
  | .faultRec t acc => Sys2Proof.Machine.execFaultRec t acc s
  | .dmaEnable t acc d => Sys2Proof.Machine.execDmaEnable t acc d s
  | .dmaDisable t acc d => Sys2Proof.Machine.execDmaDisable t acc d s
  | .dmaPause t acc d => Sys2Proof.Machine.execDmaPause t acc d s
  | .dmaResume t acc d => Sys2Proof.Machine.execDmaResume t acc d s
  | .dmaKick t acc d => Sys2Proof.Machine.execDmaKick t acc d s
  | .dmaSkip t acc d => Sys2Proof.Machine.execDmaSkip t acc d s
  | .dmaPaused t d => Sys2Proof.Machine.execDmaPaused t d s
  | .descFetchDone t d => Sys2Proof.Machine.execDescFetchDone t d s
  | .descComplete t d => Sys2Proof.Machine.execDescComplete t d s
  | .dmaPeripheralRequest t d units => Sys2Proof.Machine.execDmaPeripheralRequest t d units s
  | .dmaRequestWithdraw t d => Sys2Proof.Machine.execDmaRequestWithdraw t d s
  | .cqHeadWrite t acc d v => Sys2Proof.Machine.execCqHeadWrite t acc d v s
  | .position t acc d => Sys2Proof.Machine.execPosition t acc d s
  | .lastAddr t acc d => Sys2Proof.Machine.execLastAddr t acc d s
  | .bytes t acc d => Sys2Proof.Machine.execBytes t acc d s
  | .lastWhole t acc d => Sys2Proof.Machine.execLastWhole t acc d s
  | .cuRegionStart t u p => Sys2Proof.Machine.execCuRegionStart t u p s
  | .cuRegionEnd t u ot up => Sys2Proof.Machine.execCuRegionEnd t u ot up s
  | .runningRead t acc u => Sys2Proof.Machine.execRunningRead t acc u s
  | .runningWrite t acc u w0 w1 => Sys2Proof.Machine.execRunningWrite t acc u w0 w1 s
  | .result t acc u => Sys2Proof.Machine.execResult t acc u s
  | .refclkLoss t => Sys2Proof.Machine.execRefclkLoss t s
  | .refclkRevert t => Sys2Proof.Machine.execRefclkRevert t s
  | .pllUnlock t pin edges => Sys2Proof.Machine.execPllUnlock t pin edges s
  | .pllLock t pin band temp => Sys2Proof.Machine.execPllLock t pin band temp s
  | .coreRecal t acc edges => Sys2Proof.Machine.execCoreRecal t acc edges s
  | .coreSwitchBack t => Sys2Proof.Machine.execCoreSwitchBack t s
  | .timeSourceUpdate t src theta => Sys2Proof.Machine.execTimeSourceUpdate t src theta s
  | .timeSourceLoss t src => Sys2Proof.Machine.execTimeSourceLoss t src s
  | .timeSet t acc w0 w1 w2 w3 => Sys2Proof.Machine.execTimeSet t acc w0 w1 w2 w3 s
  | .timeNow t acc => Sys2Proof.Machine.execTimeNow t acc s
  | .tsynRecal t acc c => Sys2Proof.Machine.execTsynRecal t acc c s
  | .ppsOutRise t => Sys2Proof.Machine.execPpsOutRise t s
  | .ppsOutFall t => Sys2Proof.Machine.execPpsOutFall t s
  | .ppsInEdge t falling frac => Sys2Proof.Machine.execPpsInEdge t falling frac s
  | .ppsInTs t acc => Sys2Proof.Machine.execPpsInTs t acc s
  | .declare t acc ot slot arg w1 w2 w3 => Sys2Proof.Machine.execDeclare t acc ot slot arg w1 w2 w3 s
  | .declTiming t acc ot slot arg w1 w2 w3 => Sys2Proof.Machine.execDeclTiming t acc ot slot arg w1 w2 w3 s
  | .loadExp t acc ot slot arg w1 w2 w3 => Sys2Proof.Machine.execLoadExp t acc ot slot arg w1 w2 w3 s
  | .arm t acc ot slot arg w1 w2 w3 up => Sys2Proof.Machine.execArm t acc ot slot arg w1 w2 w3 up s
  | .endCmd t acc ot slot arg w1 w2 w3 => Sys2Proof.Machine.execEndCmd t acc ot slot arg w1 w2 w3 s
  | .ack t acc ot slot arg w1 w2 w3 => Sys2Proof.Machine.execAck t acc ot slot arg w1 w2 w3 s
  | .identify t acc ot slot arg w1 w2 w3 => Sys2Proof.Machine.execIdentify t acc ot slot arg w1 w2 w3 s
  | .setParam t acc ot slot arg w1 w2 w3 => Sys2Proof.Machine.execSetParam t acc ot slot arg w1 w2 w3 s
  | .fwActivate t acc ot slot arg w1 w2 w3 img => Sys2Proof.Machine.execFwActivate t acc ot slot arg w1 w2 w3 img s
  | .alcReply t acc => Sys2Proof.Machine.execAlcReply t acc s
  | .sealReply t acc => Sys2Proof.Machine.execSealReply t acc s
  | .exhibitProgress t ot slot => Sys2Proof.Machine.execExhibitProgress t ot slot s
  | .expCopyCheck t ot slot up => Sys2Proof.Machine.execExpCopyCheck t ot slot up s
  | .sealChange t ot opened => Sys2Proof.Machine.execSealChange t ot opened s
  | .otSave t ot => Sys2Proof.Machine.execOtSave t ot s
  | .alcClkCheck t ot ppb => Sys2Proof.Machine.execAlcClkCheck t ot ppb s
  | .alcovePowerUp t opened => Sys2Proof.Machine.execAlcovePowerUp t opened s
  | .alcWatchdog t ot => Sys2Proof.Machine.execAlcWatchdog t ot s
  | .powerOn t mv alcLost => Sys2Proof.Machine.execPowerOn t mv alcLost s
  | .bootResetRelease t straps refclk => Sys2Proof.Machine.execBootResetRelease t straps refclk s
  | .fwImageChecked t a b => Sys2Proof.Machine.execFwImageChecked t a b s
  | .hbmTrainingDone t dead sweeps => Sys2Proof.Machine.execHbmTrainingDone t dead sweeps s
  | .imageRecordWrite t a ws => Sys2Proof.Machine.execImageRecordWrite t a ws s
  | .imageRecordMasked t es => Sys2Proof.Machine.execImageRecordMasked t es s
  | .imageRecordMailbox t page item ws => Sys2Proof.Machine.execImageRecordMailbox t page item ws s
  | .imageRecordIndirect t page first ws => Sys2Proof.Machine.execImageRecordIndirect t page first ws s
  | .imageRecordHbmLoad t asid va data => Sys2Proof.Machine.execImageRecordHbmLoad t asid va data s
  | .imageRecordCommit t ref leadMs waitMs => Sys2Proof.Machine.execImageRecordCommit t ref leadMs waitMs s
  | .imageRecordEnd t => Sys2Proof.Machine.execImageRecordEnd t s
  | .bootDone t => Sys2Proof.Machine.execBootDone t s
  | .bootCommitRequest t => Sys2Proof.Machine.execBootCommitRequest t s
  | .pinReset t => Sys2Proof.Machine.execPinReset t s
  | .resetRelease t => Sys2Proof.Machine.execResetRelease t s
  | .rstModule t acc => Sys2Proof.Machine.execRstModule t acc s
  | .softwareResetEffect t => Sys2Proof.Machine.execSoftwareResetEffect t s
  | .rstStandby t acc => Sys2Proof.Machine.execRstStandby t acc s
  | .stewardWatchdog t => Sys2Proof.Machine.execStewardWatchdog t s
  | .powerFail t ot ov => Sys2Proof.Machine.execPowerFail t ot ov s
  | .powerFailStop t => Sys2Proof.Machine.execPowerFailStop t s
  | .saveComplete t whole => Sys2Proof.Machine.execSaveComplete t whole s
  | .holdCapacityMeasured t ns => Sys2Proof.Machine.execHoldCapacityMeasured t ns s
  | .holdLevelChange t mv => Sys2Proof.Machine.execHoldLevelChange t mv s
  | .flashErase t acc w0 => Sys2Proof.Machine.execFlashErase t acc w0 s
  | .flashOpDone t verified => Sys2Proof.Machine.execFlashOpDone t verified s
  | .thermalSample t ot tj => Sys2Proof.Machine.execThermalSample t ot tj s
  | .thermalWindowDrop t => Sys2Proof.Machine.execThermalWindowDrop t s
  | .saveInfo t acc => Sys2Proof.Machine.execSaveInfo t acc s
  | .saveGen t acc wr => Sys2Proof.Machine.execSaveGen t acc wr s
  | .opFwSwitch t acc target ref => Sys2Proof.Machine.execOpFwSwitch t acc target ref s
  | .opReequalise t acc target ref => Sys2Proof.Machine.execOpReequalise t acc target ref s
  | .opImageSelect t acc target ref => Sys2Proof.Machine.execOpImageSelect t acc target ref s
  | .opCancel t acc kind target => Sys2Proof.Machine.execOpCancel t acc kind target s
  | .opAnswer t => Sys2Proof.Machine.execOpAnswer t s
  | .opStart t kind target => Sys2Proof.Machine.execOpStart t kind target s
  | .fwCheckDone t img => Sys2Proof.Machine.execFwCheckDone t img s
  | .fwSwitchPrepare t => Sys2Proof.Machine.execFwSwitchPrepare t s
  | .reeqDone t n ok => Sys2Proof.Machine.execReeqDone t n ok s
  | .lanePolicyRun t overrun => Sys2Proof.Machine.execLanePolicyRun t overrun s
  | .opRecord t acc => Sys2Proof.Machine.execOpRecord t acc s
  | .ururiHelp t => Sys2Proof.Machine.execUruriHelp t s
  | .ururiId t => Sys2Proof.Machine.execUruriId t s
  | .ururiLevel t n => Sys2Proof.Machine.execUruriLevel t n s
  | .ururiBaud t n => Sys2Proof.Machine.execUruriBaud t n s
  | .ururiRd t a count => Sys2Proof.Machine.execUruriRd t a count s
  | .ururiWr t a v => Sys2Proof.Machine.execUruriWr t a v s
  | .ururiWm t a m v => Sys2Proof.Machine.execUruriWm t a m v s
  | .ururiInd t page first count => Sys2Proof.Machine.execUruriInd t page first count s
  | .ururiIndw t page first v => Sys2Proof.Machine.execUruriIndw t page first v s
  | .ururiMbx t page item ws => Sys2Proof.Machine.execUruriMbx t page item ws s
  | .ururiEvt t raw => Sys2Proof.Machine.execUruriEvt t raw s
  | .ururiSnap t => Sys2Proof.Machine.execUruriSnap t s
  | .ururiAdm t readm => Sys2Proof.Machine.execUruriAdm t readm s
  | .testReg t => Sys2Proof.Machine.execTestReg t s
  | .testClock t => Sys2Proof.Machine.execTestClock t s
  | .testFlash t => Sys2Proof.Machine.execTestFlash t s
  | .testCrc t => Sys2Proof.Machine.execTestCrc t s
  | .testSram t => Sys2Proof.Machine.execTestSram t s
  | .testLane t n => Sys2Proof.Machine.execTestLane t n s
  | .testHbm t pc => Sys2Proof.Machine.execTestHbm t pc s
  | .testComplete t errors => Sys2Proof.Machine.execTestComplete t errors s
  | .ururiLoad t region => Sys2Proof.Machine.execUruriLoad t region s
  | .xmodemBlock t b sigOk => Sys2Proof.Machine.execXmodemBlock t b sigOk s
  | .loadTimeout t => Sys2Proof.Machine.execLoadTimeout t s
  | .ururiIdleTimeout t => Sys2Proof.Machine.execUruriIdleTimeout t s
  | .laneRxLock t n => Sys2Proof.Machine.execLaneRxLock t n s
  | .hostFrameDrop t rx why => Sys2Proof.Machine.execHostFrameDrop t rx why s
  | .moduleTick t => Sys2Proof.Machine.execModuleTick t s
  | .tapInstruction t x => Sys2Proof.Machine.execTapInstruction t x s

end Sys2Proof.Machine
end

