-- ==== Sys2Proof/Machine/Ururi.lean ====
section
/-! DEFINITION. A line of the Ururi monitor as characters (R542, R543): the command of the table that it spells, by that
command's meaning, or the error it answers. The table has a row for each command and none for a line, so a line is run by the definition at
the end of this file. -/

namespace Sys2Proof.Machine

/-! ## Words and numbers (R542) -/

/-- A character of a command word in upper case. -/
def upperCase (c : Nat) : Nat := if 97 ≤ c ∧ c ≤ 122 then c - 32 else c

/-- The characters of a text. -/
def charsOf (s : String) : List Nat := s.toList.map Char.toNat

/-- The words of a line, which spaces set apart (DESIGN CHOICE, log 161). -/
def lineWords (line : List Nat) : List (List Nat) :=
  let r := line.foldr (fun c (r : List Nat × List (List Nat)) => if c = 32 then ([], r.1 :: r.2) else (c :: r.1, r.2)) ([], [])
  (r.1 :: r.2).filter fun w => !w.isEmpty

/-- The value of a digit. -/
def digitOf (c : Nat) : Option Nat :=
  if 48 ≤ c ∧ c ≤ 57 then some (c - 48)
  else if 65 ≤ upperCase c ∧ upperCase c ≤ 70 then some (upperCase c - 55)
  else none

/-- The number that digits of a base spell. -/
def digitsIn (base : Nat) (cs : List Nat) : Option Nat :=
  if cs.isEmpty then none
  else cs.foldl (fun a c =>
    match a, digitOf c with
    | some n, some k => if k < base then some (n * base + k) else none
    | _, _ => none) (some 0)

/-- A number: decimal, or hexadecimal with 0x, underscores ignored. -/
def lineNumber (w : List Nat) : Option Nat :=
  match w.filter (· != 95) with
  | a :: b :: cs => if a = 48 ∧ upperCase b = 88 then digitsIn 16 cs else digitsIn 10 (a :: b :: cs)
  | cs => digitsIn 10 cs

/-- A number below a bound; one that does not fit is a malformed argument. -/
def numberBelow (bound : Nat) (w : List Nat) : Option Nat := (lineNumber w).filter (· < bound)
def lineAddr (w : List Nat) : Option (BitVec 26) := (numberBelow (2 ^ 26) w).map (BitVec.ofNat 26)
def lineWord (w : List Nat) : Option Word := (numberBelow (2 ^ 32) w).map w32

/-! ## Commands (R543 to R545) -/

/-- The tests of R544 by name. -/
def lineTest (t : Nat) : List (List Nat) → Option (State → Res)
  | [n] =>
    if n = charsOf "REG" then some (execTestReg t)
    else if n = charsOf "CLOCK" then some (execTestClock t)
    else if n = charsOf "FLASH" then some (execTestFlash t)
    else if n = charsOf "CRC" then some (execTestCrc t)
    else if n = charsOf "SRAM" then some (execTestSram t)
    else none
  | [n, k] =>
    match lineNumber k with
    | none => none
    | some i =>
      if n = charsOf "LANE" then (if h : i < 144 then some (execTestLane t ⟨i, h⟩) else none)
      else if n = charsOf "HBM" then (if h : i < 64 then some (execTestHbm t ⟨i, h⟩) else none)
      else none
  | _ => none

/-- The region of LOAD. -/
def lineRegion (n : List Nat) : Option (Fin 4) :=
  if n = charsOf "FWA" then some 0
  else if n = charsOf "FWB" then some 1
  else if n = charsOf "CFGA" then some 2
  else if n = charsOf "CFGB" then some 3
  else none

/-- Commands that access registers (R543). -/
def lineAccess (t : Nat) (c : List Nat) (args : List (List Nat)) : Option (State → Res) :=
  match args with
  | [a] => if c = charsOf "RD" then (lineAddr a).map fun a => execUruriRd t a 1 else none
  | [a, b] =>
    if c = charsOf "RD" then do pure (execUruriRd t (← lineAddr a) (← lineNumber b))
    else if c = charsOf "WR" then do pure (execUruriWr t (← lineAddr a) (← lineWord b))
    else if c = charsOf "IND" then do pure (execUruriInd t (← lineAddr a) (← lineWord b) 1)
    else if c = charsOf "MBX" then do pure (execUruriMbx t (← lineAddr a) (BitVec.ofNat 8 (← numberBelow 256 b)) none)
    else none
  | [a, b, e] =>
    if c = charsOf "WM" then do pure (execUruriWm t (← lineAddr a) (← lineWord b) (← lineWord e))
    else if c = charsOf "IND" then do pure (execUruriInd t (← lineAddr a) (← lineWord b) (← lineNumber e))
    else if c = charsOf "INDW" then do pure (execUruriIndw t (← lineAddr a) (← lineWord b) (← lineWord e))
    else none
  | [a, b, w0, w1, w2, w3] =>
    if c = charsOf "MBX" then do
      pure (execUruriMbx t (← lineAddr a) (BitVec.ofNat 8 (← numberBelow 256 b))
        (some ⟨← lineWord w0, ← lineWord w1, ← lineWord w2, ← lineWord w3⟩))
    else none
  | _ => none

/-- The command that the words of a line spell: its word in either case, its arguments (R542, R543). -/
def lineCommand (t : Nat) (word : List Nat) (args : List (List Nat)) : Option (State → Res) :=
  let c := word.map upperCase
  if c = charsOf "TEST" then lineTest t args
  else
    match args with
    | [] =>
      if c = charsOf "HELP" then some (execUruriHelp t)
      else if c = charsOf "ID" then some (execUruriId t)
      else if c = charsOf "LEVEL" then some (execUruriLevel t none)
      else if c = charsOf "EVT" then some (execUruriEvt t false)
      else if c = charsOf "SNAP" then some (execUruriSnap t)
      else if c = charsOf "ADM" then some (execUruriAdm t false)
      else none
    | [a] =>
      if c = charsOf "LEVEL" then (lineNumber a).map fun n => execUruriLevel t (some n)
      else if c = charsOf "BAUD" then (lineNumber a).map fun n => execUruriBaud t n
      else if c = charsOf "EVT" then (if a = charsOf "RAW" then some (execUruriEvt t true) else none)
      else if c = charsOf "ADM" then (if a = charsOf "R" then some (execUruriAdm t true) else none)
      else if c = charsOf "LOAD" then (lineRegion a).map fun r => execUruriLoad t r
      else lineAccess t c args
    | _ => lineAccess t c args

/-- The command of a line of up to 256 characters, without the CR or LF that ends it; none for one that does not parse (R542). An empty
line is no command, and the monitor only hears it (DESIGN CHOICE, log 161). -/
def ururiLine (t : Nat) (line : List Byte) : Option (State → Res) :=
  if 256 < line.length then none
  else
    match lineWords (line.map BitVec.toNat) with
    | [] => some fun s => s.act t fun d => d.ururi id
    | c :: args => lineCommand t c args

/-- A line comes in on UART_RXD at PTP time `t`: its command runs, or the monitor answers ERR 01 (R542). -/
def execUruriLine (t : Nat) (line : List Byte) (s : State) : Res :=
  match ururiLine t line with
  | some f => f s
  | none => s.act t fun d => d.ururi fun d => d.say [] 1

end Sys2Proof.Machine
end

