-- ==== Sys2Proof/Safety.lean ====
section
/-! DEFINITION. What counts as a safe run: a step that answers a next state, and the Alcove's records kept as R489 and R497
ask. -/

namespace Sys2Proof.Machine

/-- The next step does not stop the block. -/
def State.Safe (s : State) : Prop := ∃ t, step s = .next t

/-- The record ring holds at most its capacity, and the seal count at most its bound (R489, R497). -/
structure Alcove.Ok (a : Alcove) : Prop where
  order : a.oldest ≤ a.nextSeq
  room  : a.nextSeq ≤ a.oldest + ringSize
  seals : a.sealCount ≤ 65535

/-- The record of a sequence number. -/
def Alcove.recordAt (a : Alcove) (q : Nat) : List Byte := Tab.get (fun _ => []) a.ring (q % ringSize)

/-- An Alcove that has gone on from another: the seal count has not fallen, records are only added at the end and only
acknowledged ones are given up. -/
structure Alcove.After (a b : Alcove) : Prop where
  seals : a.sealCount ≤ b.sealCount
  next  : a.nextSeq ≤ b.nextSeq
  old   : a.oldest ≤ b.oldest

/-! ## Which commands need a module that works -/

/-- Commands that act on the module alone, so that one without power takes no part in them: all but those of power and reset,
of the hold-up charger, of the Alcove and its check units, and of the test access port (R483, R506, R523, R562). -/
def actsOnModule : Instr → Bool
  | .powerOn .. | .pinReset .. | .resetRelease .. | .powerFail .. | .powerFailStop .. | .saveComplete .. => false
  | .holdLevelChange .. | .holdCapacityMeasured .. => false
  | .thermalSample .. | .tapInstruction .. | .cuRegionStart .. | .cuRegionEnd .. => false
  | .declare .. | .declTiming .. | .loadExp .. | .arm .. | .endCmd .. | .ack .. | .identify .. => false
  | .setParam .. | .fwActivate .. | .exhibitProgress .. | .expCopyCheck .. | .sealChange .. | .otSave .. => false
  | .alcClkCheck .. | .alcovePowerUp .. | .alcWatchdog .. => false
  | _ => true

/-! ## When an access is taken -/

/-- The accessor exists, has the level of a page and is granted its access: no request before it waits for the flash (R277, R278,
R515). -/
def Dev.mayAct (d : Dev) (acc page : Nat) : Prop :=
  d.present acc = true ∧ d.grants acc page = true ∧ d.get (F.PRIV_LEVEL.level page) ≤ d.levelOn acc page

/-- The accessor has the level of a page and of its PRV fields (R277). -/
def Dev.mayPriv (d : Dev) (acc page : Nat) : Prop := d.mayAct acc page ∧ 2 ≤ d.levelOn acc page

/-- The machine as a command at PTP time `t` finds it, with what has come due by then. -/
def State.reached (s : State) (t : Nat) : State := { s with dev := s.dev.reach t }

/-- Nothing waits at the doors of the Alcove (R485). -/
def State.doorsShut (s : State) : Prop := s.dev.alcq = []

/-- The mailbox of an accessor on a page shows some words as valid (R281). -/
def Dev.shows (d : Dev) (acc page : Nat) (ws : List Word) : Prop :=
  (∀ k < 4, d.mbxWord acc page k = ws.getD k 0) ∧ (d.loc acc (A.MBX_CTL page)).getLsbD 24 = true

/-- The module with a request for an item written, before it runs: the read direction. -/
def Dev.asked (d : Dev) (acc : Nat) (i : Item) : Dev :=
  d.setLoc acc (A.MBX_CTL i.place.1) ((d.loc acc (A.MBX_CTL i.place.1) &&& 0x01010000) ||| w32 (i.place.2 % 256))

/-- The words that a read of an item returns to an accessor. -/
def Dev.itemWords (al : Alcove) (d : Dev) (acc : Nat) (i : Item) : List Word :=
  ((d.asked acc i).itemRead al acc (d.loc acc (A.SNAP_CTL i.place.1) &&& 1 == 1) i).1

/-- The module with the words and the request of a write-direction item written, before it runs. -/
def Dev.posted (d : Dev) (acc : Nat) (i : Item) (ws : List Word) : Dev :=
  let d := (List.range 4).foldl (fun d k => d.setLoc acc (A.MBX_DATA i.place.1 k) (ws.getD k 0)) d
  d.setLoc acc (A.MBX_CTL i.place.1) ((d.loc acc (A.MBX_CTL i.place.1) &&& 0x01010000) ||| w32 (i.place.2 % 256 + 256))

/-- The module after an item has been taken: go and valid are clear. -/
def Dev.took (d : Dev) (acc page : Nat) : Dev := (d.setLoc acc (waitAddr page) 0).setMbx acc page false false

/-- A write-direction item of an accessor is taken and leaves the module as `e` (R281). -/
def Dev.takesItem (d : Dev) (acc : Nat) (i : Item) (ws : List Word) (e : Dev) : Prop :=
  d.mayAct acc i.place.1 ∧ d.itemWaits acc i.place.1 = false ∧
    (d.posted acc i ws).itemWrite acc i (ws.getD 0 0) (ws.getD 1 0) (ws.getD 2 0) (ws.getD 3 0) = .taken e

end Sys2Proof.Machine
end

