-- ==== Sys2Proof/Certificates/Slice0/Obligations.lean ====
section
/-! DEFINITION. The statements for the provers. -/

open Sys2Proof Sys2Proof.Machine

/-- A step runs the command at the front of the queue (The block: commands and their queue, INDEX.md). -/
def Obligations.StepTakesTheFrontCommand : Prop :=
  ∀ (c : Instr) (rest : List Instr) (s : State), step { s with pending := c :: rest } = exec c { s with pending := rest }

/-- With no command waiting the block idles (model choice, log 1) (98_reader.md). -/
def Obligations.EmptyQueueIdles : Prop :=
  ∀ s : State, (s.pending = [] → step s = .next s) ∧ ∀ nbits w : Nat, s.withFetchWord nbits w = s

/-- Every command answers a next state and leaves the queue; only TAP_INSTRUCTION touches the test access port, but for its reset where the
module gets its power again (95_what_each_step_holds.md; the reset by power-on is the model's own, log 145). -/
def Obligations.EveryCommandAnswers : Prop :=
  ∀ (c : Instr) (s : State), ∃ u, exec c s = .next u ∧ u.pending = s.pending ∧
    ((∀ t ir, c ≠ .tapInstruction t ir) → u.tap = s.tap ∨ (u.tap = .reset ∧ ∃ t, c = .pinReset t ∨ (∃ mv l, c = .powerOn t mv l) ∨
      ∃ w, c = .saveComplete t w))

/-- A module without power, stopped by a power failure or held in reset does nothing but keep time; the hold-up charger
runs on (R506, R508, R511, R523, R524). -/
def Obligations.StoppedModuleOnlyKeepsTime : Prop :=
  ∀ (c : Instr) (s : State), s.dev.live = false → s.doorsShut → actsOnModule c = true →
    ∃ t, exec c s = .next { s with dev := s.dev.at t }

/-- Every step keeps the record ring within its capacity, the seal count within its bound and never falling (R489, R497, R483). -/
def Obligations.AlcoveStaysInBounds : Prop :=
  ∀ s u : State, s.alc.Ok → step s = .next u → u.alc.Ok ∧ s.alc.After u.alc

/-- No record is overwritten before it is acknowledged, over every step but a power-up of the Alcove, which signs records in place (R497, R492). -/
def Obligations.UnacknowledgedRecordsStand : Prop :=
  ∀ s u : State, s.alc.Ok → step s = .next u → (∀ t o rest, s.pending ≠ .alcovePowerUp t o :: rest) →
    ∀ q, u.alc.oldest ≤ q → q < s.alc.nextSeq → u.alc.recordAt q = s.alc.recordAt q

/-- Resets, firmware switches and in-service operations of the module leave the Alcove as it is (R483). -/
def Obligations.ResetsAndOperationsLeaveTheAlcove : Prop :=
  ∀ (s : State) (t : Nat) (acc : Accessor) (k : BitVec 4) (x : BitVec 8) (ref : Fin 8) (n : Fin 144) (ok : Bool) (img a b : Option (BitVec 16))
    (dead : List (Fin 64)) (sweeps : List (Fin 64 × List Sweep)),
    ∀ c ∈ [Instr.pinReset t, .resetRelease t, .rstModule t acc, .softwareResetEffect t, .rstStandby t acc, .stewardWatchdog t,
        .bootResetRelease t x ok, .fwImageChecked t a b, .hbmTrainingDone t dead sweeps, .bootDone t, .opFwSwitch t acc x ref,
        .opReequalise t acc x ref, .opImageSelect t acc x ref, .opCancel t acc k x, .opAnswer t, .opStart t k x, .fwCheckDone t img,
        .fwSwitchPrepare t, .reeqDone t n ok],
      ∃ u, exec c s = .next u ∧ u.alc = s.alc

/-- A change of the seal: the count rises by one when it opens, and a signed SEAL record of the new state, the count after the change and the
operating time is written where the ring has room for it and for the ends of the open exhibits (R488, R489, R498, R500, R501). -/
def Obligations.SealChangeRule : Prop :=
  ∀ (s : State) (t ot : Nat) (opened : Bool), s.alc.on = true → s.alc.opened ≠ opened →
    s.alc.exhibits.length + 1 < s.alc.free →
    ∃ u, exec (.sealChange t ot opened) s = .next u ∧ u.alc.opened = opened ∧
      u.alc.sealCount = (if opened then min 65535 (s.alc.sealCount + 1) else s.alc.sealCount) ∧
      (let r := u.alc.recordAt s.alc.nextSeq;
        r.length = 192 ∧ r[3]? = some 0x05 ∧ (r.drop 4).take 4 = bytesLE 4 s.alc.nextSeq ∧
        (r.drop 48).take 12 = [if opened then 1 else 0, 0] ++ bytesLE 2 u.alc.sealCount ++ bytesLE 8 (max s.alc.ot ot) ∧
        r.drop 128 = ecdsaSign (r.take 128)) ∧
      u.alc.nextSeq = s.alc.nextSeq + 1 ∧ u.alc.oldest = s.alc.oldest ∧ u.alc.slots = s.alc.slots ∧
      u.alc.progressS = s.alc.progressS ∧ u.alc.truncK = s.alc.truncK ∧ u.pending = s.pending ∧ u.tap = s.tap

/-- A Seal command that reaches the Alcove while sealed answers SEALED and changes nothing else (R490, R487). -/
def Obligations.SealedAlcoveRefusesSealCommands : Prop :=
  ∀ (a : Alcove) (c : AlcCmd) (up : List CopyUpset) (img : Option Nat), a.on = true → a.opened = false → c.sealDoor = true →
    (bitsOf c.w0.toNat 0 8 = 0x20 ∨ bitsOf c.w0.toNat 0 8 = 0x21) →
    a.command c up img = a.reply 18 (bitsOf c.w0.toNat 0 8) 6 0 ∧
    Tab.get (fun _ => Reply.idle) (a.command c up img).replies 18 =
      { opcode := bitsOf c.w0.toNat 0 8, status := 6, done := true, seq := 0 }

/-- A command at a door of the Alcove is taken and run there (R485, R486, R487); one for an Alcove without supply waits (the model's reading,
log 61). -/
def Obligations.AlcoveCommandsReachTheAlcove : Prop :=
  (∀ (d : Dev) (acc : Nat) (i : Item) (w0 w1 w2 w3 : Word), d.alcOn = false → i.door = true →
    d.itemWrite acc i w0 w1 w2 w3 = .waits) ∧
  ∀ (s : State) (t : Nat) (acc : Accessor) (ot : Nat) (slot : BitVec 8) (arg : BitVec 16) (w1 w2 w3 : Word) (up : List CopyUpset)
    (img : Option (BitVec 16)), s.dev.live = true → (s.reached t).doorsShut → (s.dev.reach t).alcOn = true →
    ((s.dev.reach t).mayAct acc 0 → (s.dev.reach t).itemWaits acc 0 = false →
        ∃ u, exec (.declare t acc ot slot arg w1 w2 w3) s = .next u ∧ u.pending = s.pending ∧ u.tap = s.tap ∧
          u.alc = { (s.alc.at ot).command { acc := acc, sealDoor := false, w0 := alcWord 0x01 slot arg, w1 := w1, w2 := w2, w3 := w3 } [] none with
            evs := [] }) ∧
    ((s.dev.reach t).mayAct acc 0 → (s.dev.reach t).itemWaits acc 0 = false →
        ∃ u, exec (.declTiming t acc ot slot arg w1 w2 w3) s = .next u ∧ u.pending = s.pending ∧ u.tap = s.tap ∧
          u.alc = { (s.alc.at ot).command { acc := acc, sealDoor := false, w0 := alcWord 0x02 slot arg, w1 := w1, w2 := w2, w3 := w3 } [] none with
            evs := [] }) ∧
    ((s.dev.reach t).mayAct acc 0 → (s.dev.reach t).itemWaits acc 0 = false →
        ∃ u, exec (.loadExp t acc ot slot arg w1 w2 w3) s = .next u ∧ u.pending = s.pending ∧ u.tap = s.tap ∧
          u.alc = { (s.alc.at ot).command { acc := acc, sealDoor := false, w0 := alcWord 0x03 slot arg, w1 := w1, w2 := w2, w3 := w3 } [] none with
            evs := [] }) ∧
    ((s.dev.reach t).mayAct acc 0 → (s.dev.reach t).itemWaits acc 0 = false →
        ∃ u, exec (.arm t acc ot slot arg w1 w2 w3 up) s = .next u ∧ u.pending = s.pending ∧ u.tap = s.tap ∧
          u.alc = { (s.alc.at ot).command { acc := acc, sealDoor := false, w0 := alcWord 0x04 slot arg, w1 := w1, w2 := w2, w3 := w3 } up none with
            evs := [] }) ∧
    ((s.dev.reach t).mayAct acc 0 → (s.dev.reach t).itemWaits acc 0 = false →
        ∃ u, exec (.endCmd t acc ot slot arg w1 w2 w3) s = .next u ∧ u.pending = s.pending ∧ u.tap = s.tap ∧
          u.alc = { (s.alc.at ot).command { acc := acc, sealDoor := false, w0 := alcWord 0x05 slot arg, w1 := w1, w2 := w2, w3 := w3 } [] none with
            evs := [] }) ∧
    ((s.dev.reach t).mayAct acc 0 → (s.dev.reach t).itemWaits acc 0 = false →
        ∃ u, exec (.ack t acc ot slot arg w1 w2 w3) s = .next u ∧ u.pending = s.pending ∧ u.tap = s.tap ∧
          u.alc = { (s.alc.at ot).command { acc := acc, sealDoor := false, w0 := alcWord 0x06 slot arg, w1 := w1, w2 := w2, w3 := w3 } [] none with
            evs := [] }) ∧
    ((s.dev.reach t).mayAct acc 0 → (s.dev.reach t).itemWaits acc 0 = false →
        ∃ u, exec (.identify t acc ot slot arg w1 w2 w3) s = .next u ∧ u.pending = s.pending ∧ u.tap = s.tap ∧
          u.alc = { (s.alc.at ot).command { acc := acc, sealDoor := false, w0 := alcWord 0x07 slot arg, w1 := w1, w2 := w2, w3 := w3 } [] none with
            evs := [] }) ∧
    ((s.dev.reach t).mayAct acc 0xF00 → (s.dev.reach t).itemWaits acc 0xF00 = false →
        ∃ u, exec (.setParam t acc ot slot arg w1 w2 w3) s = .next u ∧ u.pending = s.pending ∧ u.tap = s.tap ∧
          u.alc = { (s.alc.at ot).command { acc := acc, sealDoor := true, w0 := alcWord 0x20 slot arg, w1 := w1, w2 := w2, w3 := w3 } [] none with
            evs := [] }) ∧
    ((s.dev.reach t).mayAct acc 0xF00 → (s.dev.reach t).itemWaits acc 0xF00 = false →
        ∃ u, exec (.fwActivate t acc ot slot arg w1 w2 w3 img) s = .next u ∧ u.pending = s.pending ∧ u.tap = s.tap ∧
          u.alc = { (s.alc.at ot).command { acc := acc, sealDoor := true, w0 := alcWord 0x21 slot arg, w1 := w1, w2 := w2, w3 := w3 } [] (img.map BitVec.toNat) with
            evs := [] })

/-- ACK frees every record up to and including the one it names (R497). -/
def Obligations.AcknowledgeFreesRecords : Prop :=
  ∀ (a : Alcove) (q : Nat), a.Ok → a.nextSeq < 2 ^ 32 → q < 2 ^ 32 →
    (a.oldest ≤ q → q < a.nextSeq → a.cmdAck q = (0, 0, { a with oldest := q + 1, full := false })) ∧
    (a.nextSeq ≤ q → a.cmdAck q = (3, 0, a)) ∧ (q < a.oldest → a.cmdAck q = (3, 0, a))

/-- TAP_INSTRUCTION changes the test access port and no register of the module; the instructions that drive lands act as BYPASS while
RESET_N is high or where they were loaded while it was; IDCODE shifts its word out (R561, R562; what a port without power or in reset does
beyond that, and the cells, rest on logs 145 and 163). -/
def Obligations.TapInstructionShiftsOnly : Prop :=
  (∀ (s : State) (t : Nat) (x : TapScan), s.dev.pwr.on = true → x.trstN = true →
    exec (.tapInstruction t x) s = .next { s with dev := (tapShift s.tap (s.dev.at t) x).2, tap := (tapShift s.tap (s.dev.at t) x).1 } ∧
    (tapShift s.tap (s.dev.at t) x).1.ir = x.ir ∧ (tapShift s.tap (s.dev.at t) x).1.high = s.dev.pwr.resetN ∧
    (tapShift s.tap (s.dev.at t) x).2 = { s.dev.at t with
      out := (tapShift s.tap (s.dev.at t) x).2.out, seed := (tapShift s.tap (s.dev.at t) x).2.seed } ∧
    (tapOp x.ir = .idcode → x.dr.length = 32 →
      (tapShift s.tap (s.dev.at t) x).2.out.head? = some (.tdo (s.dev.at t).now ((List.range 32).map (0x1014454B : Word).getLsbD)))) ∧
  (∀ (s : State) (t : Nat) (x : TapScan), s.dev.pwr.on = true → x.trstN = false →
    exec (.tapInstruction t x) s = .next { s with dev := s.dev.at t, tap := { Tap.reset with cells := s.tap.cells } }) ∧
  (∀ (p : Tap) (resetN : Bool), (resetN = true ∨ p.high = true) →
    (tapOp p.ir = .extest ∨ tapOp p.ir = .highz ∨ tapOp p.ir = .clamp ∨ tapOp p.ir = .extestPulse ∨ tapOp p.ir = .extestTrain →
      tapInForce p resetN = .bypass ∧ ∀ l, landDrive p resetN l = .module) ∧
    (tapOp p.ir = .idcode ∨ tapOp p.ir = .sample ∨ tapOp p.ir = .bypass → tapInForce p resetN = tapOp p.ir)) ∧
  (∀ p : Tap, p.high = false → tapInForce p false = tapOp p.ir)

/-- Commands of a hall page that are allowed take effect and change nothing else; flips of layers 0 to 31 need the level of their page alone,
those of the balustrade also level 2 and its select lock off (R87, R137, R193, R195, R209, R210, R277). -/
def Obligations.HallCommandsAct : Prop :=
  ∀ (s : State) (t : Nat) (acc : Accessor) (h : Fin 8) (n : Fin 33), s.dev.live = true →
    ((s.dev.reach t).mayPriv acc (pageNo (A.HALL_CMD h)) → exec (.hallKill t acc h) s = .next { s with dev := (s.dev.reach t).hallKill h }) ∧
    ((s.dev.reach t).mayPriv acc (pageNo (A.TONE_CMD h)) → (s.dev.reach t).toneOwned h = false →
      exec (.toneSwapCmd t acc h) s = .next { s with dev := (s.dev.reach t).put (F.TONE_CMD.swap_tone h) 1 } ∧
      exec (.lut3dSwapCmd t acc h) s = .next { s with dev := (s.dev.reach t).put (F.TONE_CMD.swap_lut3d h) 1 }) ∧
    ((s.dev.reach t).mayAct acc (pageNo (A.FLIP_CMD h n)) →
        (n.val = 32 → 2 ≤ (s.dev.reach t).levelOn acc (pageNo (A.FLIP_CMD h n)) ∧ (s.dev.reach t).is (F.BAL_LOCK.select_lock h) = false) →
      exec (.flipRequest t acc h n) s = .next { s with dev := (s.dev.reach t).flipRequest h n } ∧
      exec (.flipWithdraw t acc h n) s = .next { s with dev := (s.dev.reach t).flipWithdraw h n })

/-- Commands of a lane page and of a DMA channel that are allowed take effect and change nothing else (R230, R231, R405, R408, R424, R277). -/
def Obligations.LaneAndDmaCommandsAct : Prop :=
  (∀ (s : State) (t : Nat) (acc : Accessor) (n : Fin 144), s.dev.live = true → (s.dev.reach t).mayPriv acc (pageNo (A.LANE_CMD n)) →
    exec (.laneHalt t acc n) s = .next { s with dev := (s.dev.reach t).laneHalt n } ∧
    ((s.dev.reach t).cmdBits (A.LANE_CMD n) = 0 →
      exec (.laneResume t acc n) s = .next { s with dev := (s.dev.reach t).laneResume n } ∧
      exec (.laneFailover t acc n) s = .next { s with dev := (s.dev.reach t).laneMove n false } ∧
      exec (.laneFailback t acc n) s = .next { s with dev := (s.dev.reach t).laneMove n true })) ∧
  ∀ (s : State) (t : Nat) (acc : Accessor) (c : Fin 64), s.dev.live = true → (s.dev.reach t).mayAct acc (pageNo (A.CH_CMD c)) →
    (s.dev.reach t).chState c ≠ 4 →
    exec (.dmaPause t acc c) s = .next { s with dev := (s.dev.reach t).chCmd c 1 } ∧
    exec (.dmaResume t acc c) s = .next { s with dev := (s.dev.reach t).chCmd c 2 } ∧
    exec (.dmaKick t acc c) s = .next { s with dev := (s.dev.reach t).chCmd c 4 } ∧
    exec (.dmaSkip t acc c) s = .next { s with dev := (s.dev.reach t).chCmd c 8 }

/-- Commands of the module pages that are allowed take effect and change nothing else (R36, R283, R457, R468, R469, R511, R277). -/
def Obligations.SystemCommandsAct : Prop :=
  ∀ (s : State) (t : Nat) (acc : Accessor) (c : Fin 8) (edges : Nat), s.dev.live = true →
    ((s.dev.reach t).mayAct acc 0 → exec (.commitCancel t acc) s = .next { s with dev := (s.dev.reach t).cancelAny acc } ∧
      exec (.snapNow t acc) s = .next { s with dev := (s.dev.reach t).snapshot false }) ∧
    ((s.dev.reach t).present acc = true → (s.dev.reach t).grants acc (pageNo A.CLK_CTL) = true → 2 ≤ (s.dev.reach t).levelOf acc →
        (s.dev.reach t).is F.CLK_CTL.core_recal = false →
      exec (.coreRecal t acc edges) s = .next { s with dev := (s.dev.reach t).coreRecal edges }) ∧
    ((s.dev.reach t).mayPriv acc (pageNo (F.TSYN_CMD.recal c).addr) → (s.dev.reach t).cmdBits (F.TSYN_CMD.recal c).addr = 0 →
      exec (.tsynRecal t acc c) s = .next { s with dev := ((s.dev.reach t).tsynRest c).opRequest 6 c c 2 }) ∧
    ((s.dev.reach t).mayPriv acc (pageNo A.RST_CMD) → (s.dev.reach t).anyCanvas = false → (s.dev.reach t).pwr.rstAt = none →
      exec (.rstModule t acc) s =
        .next { s with dev := { s.dev.reach t with pwr := { (s.dev.reach t).pwr with rstAt := some ((s.dev.reach t).now + 1000000) } } } ∧
      exec (.rstStandby t acc) s =
        .next { s with dev := (let d := ((s.dev.reach t).pwrgood false).vioOut false
                               { d with pwr := { d.pwr with on := false, standby := true, kind := 5 } }) })

/-- A reset or standby command while a canvas is enabled is ignored as a locked write and sets refused (R511, R276). -/
def Obligations.ResetRefusedWhileACanvasIsEnabled : Prop :=
  ∀ (s : State) (t : Nat) (acc : Accessor), s.dev.live = true → (s.dev.reach t).mayPriv acc (pageNo A.RST_CMD) → (s.dev.reach t).anyCanvas = true →
    (s.dev.reach t).pwr.rstAt = none →
    exec (.rstModule t acc) s =
      .next { s with dev := ((s.dev.reach t).put F.RST_STATUS.refused 1).ignored (pageNo A.RST_CMD) acc false } ∧
    exec (.rstStandby t acc) s =
      .next { s with dev := ((s.dev.reach t).put F.RST_STATUS.refused 1).ignored (pageNo A.RST_CMD) acc false }

/-- A fence is ahead of every target up to 2^31 - 1 below it, and of no other (R199). -/
def Obligations.FenceReachedWithinHalfTheRange : Prop :=
  (∀ f v : Word, fenceReached f v = true ↔ (f.toNat + 2 ^ 32 - v.toNat) % 2 ^ 32 < 2 ^ 31) ∧
  ∀ (f : Word) (k : Nat), (k ≤ 2 ^ 31 - 1 → fenceReached f (f - BitVec.ofNat 32 k) = true) ∧
    (1 ≤ k → k ≤ 2 ^ 31 → fenceReached f (f + BitVec.ofNat 32 k) = false)

/-- A software write to a fence applies only when it moves the fence forward (R198, R200, R277). That every write to a fence of another
owner is one to a locked register, a write of its own value included, is the model's choice (log 126). -/
def Obligations.FenceWriteMovesForwardOnly : Prop :=
  ∀ (s : State) (t : Nat) (acc : Accessor) (f : Fin 512) (v : Word), s.dev.live = true → (s.dev.reach t).mayAct acc (pageNo (A.FENCE f)) →
    let k := (v.toNat + 2 ^ 32 - ((s.dev.reach t).fence f).toNat) % 2 ^ 32
    ((s.dev.reach t).get (F.FENCE_OWNER.owner f) = 0 →
      (k = 0 → exec (.fenceWrite t acc f v) s = .next { s with dev := s.dev.reach t }) ∧
      (1 ≤ k → k < 2 ^ 31 → exec (.fenceWrite t acc f v) s = .next { s with dev := (s.dev.reach t).fenceSet (s.dev.reach t).now f v }) ∧
      (2 ^ 31 ≤ k → exec (.fenceWrite t acc f v) s = .next { s with dev := (s.dev.reach t).bump F.FENCE_BACKWARD.count })) ∧
    ((s.dev.reach t).get (F.FENCE_OWNER.owner f) ≠ 0 →
      exec (.fenceWrite t acc f v) s = .next { s with dev := (s.dev.reach t).ignored 0xB01 acc false })

/-- A fence that advances reads its new value and raises the event of its group (R200, R201). -/
def Obligations.FenceAdvanceShowsAndRaises : Prop :=
  ∀ (d : Dev) (at' : Nat) (f : Fin 512) (v : Word), (d.fenceSet at' f v).fence f = v ∧
    (∀ g : Fin 512, g ≠ f → (d.fenceSet at' f v).fence g = d.fence g) ∧
    bitOf ((d.fenceSet at' f v).get (F.EVT_RAW_ALL.raw ((896 + f.val / 8) / 32))) ((896 + f.val / 8) % 32) = 1

/-- A doorbell write raises one event for each bit written 1 (R293). -/
def Obligations.DoorbellRaisesItsEvents : Prop :=
  ∀ (s : State) (t : Nat) (acc : Accessor) (v : Word), s.dev.live = true → (s.dev.reach t).mayAct acc (pageNo A.DOORBELL_LO) →
    exec (.doorbell t acc false v) s =
      .next { s with dev := ((List.range 32).filter fun k => v.getLsbD k).foldl (fun d k => d.raise (960 + k)) (s.dev.reach t) } ∧
    exec (.doorbell t acc true v) s =
      .next { s with dev := ((List.range 32).filter fun k => v.getLsbD k).foldl (fun d k => d.raise (992 + k)) (s.dev.reach t) }

/-- An occurrence sets the raw bit whatever the enable, and with the enable 0 nothing else (R290). -/
def Obligations.DisabledEventSetsItsRawBitOnly : Prop :=
  ∀ (d : Dev) (e : Fin 1024),
    (bitOf (d.get (F.EVT_ENABLE_ALL.enable (e.val / 32))) (e.val % 32) = 0 →
      d.raise e = d.orBits (F.EVT_RAW_ALL.raw (e.val / 32)) (2 ^ (e.val % 32))) ∧
    bitOf ((d.raise e).get (F.EVT_RAW_ALL.raw (e.val / 32))) (e.val % 32) = 1 ∧
    (bitOf (d.get (F.EVT_ENABLE_ALL.enable (e.val / 32))) (e.val % 32) = 1 →
      bitOf ((d.raise e).get (F.EVT_PENDING_ALL.pending (e.val / 32))) (e.val % 32) = 1)

/-- A register write below the level of its page is ignored and recorded as such, and the operations that its command bits ask for are
refused, which the registers of LANE_CMD, PC_CMD, TSYN_CMD and CASC_CMD alone do; one of an accessor that does not exist is none (R276, R277,
R278, R535; that the refusal comes beside the ignored write is DEDUCED, log 129). -/
def Obligations.WriteBelowTheLevelIsIgnored : Prop :=
  ∀ (s : State) (t : Nat) (acc : Accessor) (a : BitVec 26) (v : Word) (p : Page), s.dev.live = true → (s.reached t).doorsShut →
    pageAt (wordAddr a.toNat) = some p → 0x100 ≤ pageOfs (wordAddr a.toNat) →
    writeFlds (wordAddr a.toNat) (evtBits (wordAddr a.toNat)) ≠ [] →
    ((s.dev.reach t).present acc = false → exec (.registerWrite t acc a v) s = .next { s with dev := s.dev.reach t }) ∧
    ((s.dev.reach t).present acc = true → (s.dev.reach t).grants acc (pageNo (wordAddr a.toNat)) = true →
      (s.dev.reach t).levelOn acc (pageNo (wordAddr a.toNat)) < (s.dev.reach t).get (F.PRIV_LEVEL.level (pageNo (wordAddr a.toNat))) →
      (let w := wordAddr a.toNat
       let m := evtBits w
       exec (.registerWrite t acc a v) s =
         .next { s with dev := ((s.dev.reach t).deniedAsks acc w (writeFlds w m) v m).ignored (pageNo w) acc true } ∧
       ((∀ n, actingAt w ≠ .laneCmd n) → actingAt w ≠ .pcCmd → (∀ c, actingAt w ≠ .tsyn c) → actingAt w ≠ .cascCmd →
         (s.dev.reach t).deniedAsks acc w (writeFlds w m) v m = s.dev.reach t)))

/-- What an ignored write records (R276, R277, R294). -/
def Obligations.IgnoredWriteIsRecorded : Prop :=
  ∀ (d : Dev) (p : Fin 16384) (acc : Accessor) (priv : Bool), (pageOf p).isSome = true →
    bitOf (d.get (F.EVT_ENABLE_ALL.enable 0)) 1 = 0 →
    let e := d.ignored p acc priv
    e.get (F.LOCK_VIOLATION.count p) = (d.get (F.LOCK_VIOLATION.count p) + 1) % 2 ^ 32 ∧
    e.get F.LOCK_TOTAL.count = (d.get F.LOCK_TOTAL.count + 1) % 2 ^ 32 ∧
    e.get (if priv then F.PAGE_STATUS.priv_denied p else F.PAGE_STATUS.lock_violation p) = 1 ∧
    e.get F.LOCK_LAST.page = p ∧ e.get F.LOCK_LAST.accessor = acc ∧
    bitOf (e.get (F.EVT_RAW_ALL.raw 0)) 1 = 1 ∧ e.regs.active = d.regs.active ∧
    ∀ a, a ≠ A.LOCK_VIOLATION p → a ≠ A.PAGE_STATUS p → a ≠ A.LOCK_LAST → a ≠ A.LOCK_TOTAL → a ≠ A.EVT_RAW_ALL 0 →
      e.stored a = d.stored a

/-- A write to the period of a canvas changes its staged value only (R23, R275). -/
def Obligations.PeriodWriteStagesOnly : Prop :=
  ∀ (s : State) (t : Nat) (acc : Accessor) (c : Fin 8) (v : Word), s.dev.live = true → (s.reached t).doorsShut → (s.dev.reach t).mayAct acc 0 →
    exec (.registerWrite t acc (BitVec.ofNat 26 (A.PERIOD_NUM c)) v) s = .next { s with dev := (s.dev.reach t).setStored (A.PERIOD_NUM c) v } ∧
    exec (.registerWrite t acc (BitVec.ofNat 26 (A.PERIOD_DEN c)) v) s =
      .next { s with dev := (s.dev.reach t).setStored (A.PERIOD_DEN c) (((s.dev.reach t).stored (A.PERIOD_DEN c) &&& ~~~0x3FF) ||| (v &&& 0x3FF)) } ∧
    ∀ (a : Nat) (w : Word), ((s.dev.reach t).setStored a w).actv = (s.dev.reach t).actv ∧ ((s.dev.reach t).setStored a w).pendv = (s.dev.reach t).pendv

/-- A write to, or a read of, an address that lies in no page has no effect (R271). -/
def Obligations.AccessOutsideThePagesHasNoEffect : Prop :=
  ∀ (s : State) (t : Nat) (acc : Accessor) (a : BitVec 26) (v : Word), (s.reached t).doorsShut → pageAt (wordAddr a.toNat) = none →
    (s.dev.reach t).grants acc (pageNo (wordAddr a.toNat)) = true →
    exec (.registerWrite t acc a v) s = .next { s with dev := s.dev.reach t } ∧
    exec (.rcRead t acc a) s = .next { s with dev := s.dev.reach t } ∧
    ∀ (al : Alcove) (peek : Bool), ((s.dev.reach t).regRead al acc a.toNat peek).1 = 0

/-- An indirect access on a page without an indirect space advances IND_ADDR and sets ind_range (R280, R277). -/
def Obligations.UnassignedIndirectAccessAdvances : Prop :=
  ∀ (s : State) (t : Nat) (acc : Accessor) (pg : BitVec 14) (p : Page) (v : Word), s.dev.live = true → (s.reached t).doorsShut →
    pageOf pg.toNat = some p → p.hasInd = false →
    let a := A.IND_ADDR pg.toNat
    let e := ((s.dev.reach t).setLoc acc a ((s.dev.reach t).loc acc a + 1)).put (F.PAGE_STATUS.ind_range pg.toNat) 1
    ((s.dev.reach t).present acc = true → (s.dev.reach t).grants acc pg.toNat = true → exec (.indData t acc pg none) s = .next { s with dev := e }) ∧
    ((s.dev.reach t).mayAct acc pg.toNat → exec (.indData t acc pg (some v)) s = .next { s with dev := e })

/-- Every read-direction mailbox item completes on a module that works, and gives an accessor with no item waiting its words with valid set
(R281, R55, R294, R379, R444, R487). -/
def Obligations.ReadItemsCaptureTheirWords : Prop :=
  ∀ (s : State) (t : Nat) (acc : Accessor) (n : Fin 144) (c : Fin 8) (p : Fin 2) (k : Fin 2) (j : Fin 5) (x : Fin 64) (u : Fin 56),
    s.dev.live = true →
    let d := s.dev.reach t
    exec (.sbRx t acc n) s = .next { s with dev := d.itemFetch s.alc acc (.sbRx n) } ∧
    exec (.timeLast t acc n) s = .next { s with dev := d.itemFetch s.alc acc (.timeLast n) } ∧
    exec (.gateInfo t acc n) s = .next { s with dev := d.itemFetch s.alc acc (.gateInfo n) } ∧
    exec (.peerEvt t acc) s = .next { s with dev := d.itemFetch s.alc acc (.peerEvt) } ∧
    exec (.epochRead t acc c) s = .next { s with dev := d.itemFetch s.alc acc (.epoch c) } ∧
    exec (.tickNow t acc c) s = .next { s with dev := d.itemFetch s.alc acc (.tickNow c) } ∧
    exec (.commitAnswerRead t acc) s = .next { s with dev := d.itemFetch s.alc acc (.commitAnswer) } ∧
    exec (.serial t acc) s = .next { s with dev := d.itemFetch s.alc acc (.serial) } ∧
    exec (.ptpParent t acc p) s = .next { s with dev := d.itemFetch s.alc acc (.ptpParent) } ∧
    exec (.eccLast t acc) s = .next { s with dev := d.itemFetch s.alc acc (.eccLast) } ∧
    exec (.journal t acc k) s = .next { s with dev := d.itemFetch s.alc acc (.journal k) } ∧
    exec (.classBytes t acc j) s = .next { s with dev := d.itemFetch s.alc acc (.classBytes j) } ∧
    exec (.faultRec t acc) s = .next { s with dev := d.itemFetch s.alc acc (.faultRec) } ∧
    exec (.position t acc x) s = .next { s with dev := d.itemFetch s.alc acc (.position x) } ∧
    exec (.lastAddr t acc x) s = .next { s with dev := d.itemFetch s.alc acc (.lastAddr x) } ∧
    exec (.bytes t acc x) s = .next { s with dev := d.itemFetch s.alc acc (.bytes x) } ∧
    exec (.lastWhole t acc x) s = .next { s with dev := d.itemFetch s.alc acc (.lastWhole x) } ∧
    exec (.runningRead t acc u) s = .next { s with dev := d.itemFetch s.alc acc (.running u) } ∧
    exec (.result t acc u) s = .next { s with dev := d.itemFetch s.alc acc (.result u) } ∧
    exec (.timeNow t acc) s = .next { s with dev := d.itemFetch s.alc acc (.timeNow) } ∧
    exec (.ppsInTs t acc) s = .next { s with dev := d.itemFetch s.alc acc (.ppsInTs) } ∧
    exec (.alcReply t acc) s = .next { s with dev := d.itemFetch s.alc acc (.alcReply) } ∧
    exec (.sealReply t acc) s = .next { s with dev := d.itemFetch s.alc acc (.sealReply) } ∧
    exec (.saveInfo t acc) s = .next { s with dev := d.itemFetch s.alc acc (.saveInfo) } ∧
    exec (.opRecord t acc) s = .next { s with dev := d.itemFetch s.alc acc (.opRecord) } ∧
    exec (.saveGen t acc none) s = .next { s with dev := d.itemFetch s.alc acc .saveGen } ∧
    (d.present acc = true → ∀ m ∈ [Item.sbRx n, .timeLast n, .gateInfo n, .peerEvt, .epoch c, .tickNow c, .commitAnswer, .serial, .ptpParent, .eccLast, .journal k, .classBytes j, .faultRec, .position x, .lastAddr x, .bytes x, .lastWhole x, .running u, .result u, .timeNow, .ppsInTs, .alcReply, .sealReply, .saveInfo, .opRecord, .saveGen], d.grants acc m.place.1 = true →
      d.itemWaits acc m.place.1 = false → (d.itemFetch s.alc acc m).shows acc m.place.1 (d.itemWords s.alc acc m))

/-- The words that the plain read items return (R55, R294, R379, R444, R487). -/
def Obligations.ReadItemsReturnWhatTheStateHolds : Prop :=
  ∀ (d : Dev) (al : Alcove) (acc : Accessor) (c : Fin 8) (u : Fin 56),
    d.itemWords al acc (.epoch c) = [d.actv (epochAddr c 0), d.actv (epochAddr c 1), d.actv (epochAddr c 2), 0] ∧
    (d.is (F.TICK_STATUS.running c) = true → d.itemWords al acc (.tickNow c) =
      [w32 (d.canvas c).tick, w32 ((d.canvas c).tick / 2 ^ 32), w32 ((d.canvas c).inst % 1000000000), w32 ((d.canvas c).inst / 1000000000)]) ∧
    d.itemWords al acc .commitAnswer = [d.answer.gen, w32 (d.answer.code + d.answer.res * 2 ^ 8 + margin16 d.answer.margin * 2 ^ 16),
      w32 d.answer.target, w32 (d.answer.target / 2 ^ 32)] ∧
    d.itemWords al acc .serial = [w32 d.serial, w32 (d.serial / 2 ^ 32), w32 (d.serial / 2 ^ 64), w32 (d.serial / 2 ^ 96)] ∧
    d.itemWords al acc .eccLast = d.eccLast ∧ d.itemWords al acc (.result u) = (d.cu u).result ∧
    d.itemWords al acc .alcReply = (d.alcNow al).replyWords acc ∧ d.itemWords al acc .sealReply = (d.alcNow al).replyWords 18

/-- Every write-direction mailbox item that the module takes has the effect of the item, with go and valid clear (R281, R24, R55, R546). -/
def Obligations.WriteItemsAreTaken : Prop :=
  ∀ (s : State) (t : Nat) (acc : Accessor) (n : Fin 144) (c : Fin 8) (k : BitVec 4) (x : BitVec 8) (u : Fin 56) (w0 w1 w2 w3 : Word) (e : Dev),
    s.dev.live = true →
    let sends (i : Instr) (m : Item) (ws : List Word) : Prop := (s.dev.reach t).takesItem acc m ws e →
      exec i s = .next { s with dev := e.took acc m.place.1 }
    sends (.commitRequest t acc w0 w1 w2 w3) (.commitRequest) [w0, w1, w2, w3] ∧ sends (.sbTx t acc n w0 w1) (.sbTx n) [w0, w1] ∧ sends (.gateSwap t acc n w0 w1 w2) (.gateSwap n) [w0, w1, w2] ∧ sends (.gateStop t acc n) (.gateStop n) [] ∧ sends (.gateCancel t acc n) (.gateCancel n) [] ∧ sends (.snapAt t acc w0 w1) (.snapAt) [w0, w1] ∧ sends (.epochWrite t acc c w0 w1 w2) (.epoch c) [w0, w1, w2] ∧ sends (.keyLoad t acc w0 w1 w2) (.keyLoad) [w0, w1, w2] ∧ sends (.keyCommit t acc w0) (.keyCommit) [w0] ∧ sends (.invRequest t acc w0 w1 w2) (.invRequest) [w0, w1, w2] ∧ sends (.runningWrite t acc u w0 w1) (.running u) [w0, w1] ∧ sends (.timeSet t acc w0 w1 w2 w3) (.timeSet) [w0, w1, w2, w3] ∧ sends (.flashErase t acc w0) (.flashErase) [w0] ∧ sends (.saveGen t acc (some w0)) (.saveGen) [0, w0] ∧ sends (.opFwSwitch t acc x c) (.opRequest) (opWords 1 x.toNat c false) ∧ sends (.opReequalise t acc x c) (.opRequest) (opWords 5 x.toNat c false) ∧ sends (.opImageSelect t acc x c) (.opRequest) (opWords 8 x.toNat c false) ∧ sends (.opCancel t acc k x) (.opRequest) (opWords k.toNat x.toNat 0 true)

/-- EPOCH_WRITE stages the epoch of a canvas and leaves every active value (R55, R23, R281). -/
def Obligations.EpochWriteStagesTheEpoch : Prop :=
  ∀ (s : State) (t : Nat) (acc : Accessor) (c : Fin 8) (w0 w1 w2 : Word), s.dev.live = true → (s.dev.reach t).mayAct acc 0 →
    (s.dev.reach t).itemWaits acc 0 = false →
    ∃ d, exec (.epochWrite t acc c w0 w1 w2) s = .next { s with dev := d } ∧ d.stored (epochAddr c 0) = w0 &&& 0x3FFFFFFF ∧
      d.stored (epochAddr c 1) = w1 ∧ d.stored (epochAddr c 2) = w2 &&& 0xFFFF ∧ d.actv = (s.dev.reach t).actv ∧ d.pendv = (s.dev.reach t).pendv ∧
      d.hbm = (s.dev.reach t).hbm ∧ d.commit = (s.dev.reach t).commit ∧
      ∀ a, a ≠ epochAddr c 0 → a ≠ epochAddr c 1 → a ≠ epochAddr c 2 → d.stored a = (s.dev.reach t).stored a

/-- The instant of a tick (R13). -/
def Obligations.TickInstants : Prop :=
  ∀ (e num den n : Nat), ({ epoch := e, num := num, den := den } : Stream).tick n = e + n * num / den

/-- The first tick at or after an instant is the least tick that is not before it (R20, R33). -/
def Obligations.FirstTickAtOrAfter : Prop :=
  ∀ (s : Stream) (t : Nat), 0 < s.num → 0 < s.den →
    t ≤ s.tick (s.firstFrom t) ∧ ∀ k, k < s.firstFrom t → s.tick k < t

/-- A phase starts as the rule computes it, within its tick (R17). -/
def Obligations.PhasesLieWithinTheirTick : Prop :=
  ∀ (s : Stream) (n x y : Nat), 0 < s.den → x ≤ y → y ≤ 65536 →
    s.at n x = s.epoch + (n * 65536 + x) * s.num / (65536 * s.den) ∧ s.at n x ≤ s.at n y ∧ s.at n 0 = s.tick n ∧
    s.tick n ≤ s.at n x ∧ s.at n y ≤ s.tick (n + 1) ∧ s.at n 65536 = s.tick (n + 1)

/-- A store of bytes to HBM reads back, leaves every other byte, and keeps the canonical form (R359, R364, R378). -/
def Obligations.StoredBytesReadBack : Prop :=
  ∀ (d : Dev) (a : Nat) (bs : List (Option Byte)),
    (∀ k, Tab.get (fun _ => 0) (d.storeBytes a bs).hbm (a + k) = ((bs.getD k none).getD (Tab.get (fun _ => 0) d.hbm (a + k)))) ∧
    (∀ b, (b < a ∨ a + bs.length ≤ b) → Tab.get (fun _ => 0) (d.storeBytes a bs).hbm b = Tab.get (fun _ => 0) d.hbm b) ∧
    (Memory.wf d.hbm = true → Memory.wf (d.storeBytes a bs).hbm = true) ∧
    d.storeBytes a bs = { d with hbm := (d.storeBytes a bs).hbm }

/-- The map of a physical address keeps every address apart (R360). -/
def Obligations.AddressMapHasAnInverse : Prop :=
  ∀ (order s a : Nat), 0 < s →
    paOf order s (mapPa order s a).slot (mapPa order s a).ofs = a ∧ (mapPa order s a).slot < s ∧
    (mapPa order s a).bank < 48 ∧ (mapPa order s a).col < 32

/-- An address space that is off faults with ASID_OFF; an identity space permits every access (R383, R390, R392). -/
def Obligations.TranslationModes : Prop :=
  ∀ (s : State) (t : Nat) (r : XReq) (write : Bool), s.dev.live = true →
    ((s.dev.reach t).get (F.SPACE_CTL.mode r.asid.val) = 0 → (s.dev.reach t).translate r.asid r.va.toNat write = .bad 1 0) ∧
    ((s.dev.reach t).get (F.SPACE_CTL.mode r.asid.val) = 2 → (s.dev.reach t).translate r.asid r.va.toNat write = .ok r.va.toNat ∧
      exec (.translate t r) s = .next { s with dev := s.dev.reach t })

/-- A walk of four levels reaches a 64 KiB page (R384, R385, R386). -/
def Obligations.WalkReachesTheSmallPage : Prop :=
  ∀ (d : Dev) (asid va root l1 l2 l3 page : Nat) (write : Bool) (e0 e1 e2 e3 : Nat),
    d.get (F.SPACE_CTL.mode asid) = 1 → d.leafFor asid va = none →
    (d.wcache.find? fun e => e.1 == wcacheKey asid va) = none → d.rootOf asid = root → root + 4096 ≤ d.paEnd →
    d.entryAt root (bitsOf va 39 9) = some e0 → tableEntry d.paEnd e0 = .ok l1 →
    d.entryAt l1 (bitsOf va 30 9) = some e1 → tableEntry d.paEnd e1 = .ok l2 →
    d.entryAt l2 (bitsOf va 21 9) = some e2 → bitOf e2 0 = 1 → bitOf e2 1 = 0 → bitsOf e2 4 4 = 0 → bitsOf e2 48 8 = 0 →
    bitsOf e2 8 40 * 256 = l3 → l3 + 256 ≤ d.paEnd →
    d.entryAt l3 (bitsOf va 16 5) = some e3 → bitOf e3 0 = 1 → bitOf e3 1 = 1 → bitsOf e3 4 4 = 0 → bitsOf e3 8 8 = 0 →
    bitsOf e3 48 8 = 0 → bitsOf e3 8 40 * 256 = page → page + 65536 ≤ d.paEnd → bitOf e3 (if write then 3 else 2) = 1 →
    d.translate asid va write = .ok (page + va % 65536)

/-- A policer conforms a frame that its level covers and takes it from the level (R334). -/
def Obligations.PolicerTestsEachFrame : Prop :=
  (∀ (b : Bucket) (t rate cap : Nat), b.last ≤ t →
      (b.fill t rate cap).level = min (b.level + ((t - b.last : Nat) : Int) * rate) ((cap * 256000 : Nat) : Int) ∧
      (b.fill t rate cap).last = t ∧ (b.fill t rate cap).level ≤ ((cap * 256000 : Nat) : Int)) ∧
  ∀ (d : Dev) (rx : RxHdr) (i : Nat), (List.range 4096).find? (d.fltMatch rx) = some i →
    ((d.police rx).1 = true ↔ ((rx.len * 256000 : Nat) : Int) ≤ (d.policer i).level ∨ d.flt i 0 3 1 = 1) ∧
    (((rx.len * 256000 : Nat) : Int) ≤ (d.policer i).level →
      Tab.get (fun _ => Bucket.empty) (d.police rx).2.policers i =
        { d.policer i with level := (d.policer i).level - ((rx.len * 256000 : Nat) : Int) })

/-- POLICER_RESET fills the bucket of its policer and no other (R334, R335). -/
def Obligations.PolicerResetFillsTheBucket : Prop :=
  ∀ (s : State) (t : Nat) (acc : Accessor) (i : Fin 4096), s.dev.live = true → (s.dev.reach t).mayAct acc (pageNo A.POL_CMD) →
    ∃ d, exec (.policerReset t acc i) s = .next { s with dev := d } ∧
      Tab.get (fun _ => Bucket.empty) d.policers i =
        { level := (((s.dev.reach t).flt i 4 0 24 * 256000 : Nat) : Int), last := (s.dev.reach t).now } ∧
      (∀ k, k ≠ i.val → Tab.get (fun _ => Bucket.empty) d.policers k = Tab.get (fun _ => Bucket.empty) (s.dev.reach t).policers k) ∧
      d.actv = (s.dev.reach t).actv ∧ d.hbm = (s.dev.reach t).hbm

/-- The check values of the parameter sets in common use (R432, R433). -/
def Obligations.CheckValuesOfTheTable : Prop :=
  let m : List Byte := [0x31, 0x32, 0x33, 0x34, 0x35, 0x36, 0x37, 0x38, 0x39]
  let r (p : CuPar) (init : Nat) : Nat := p.result (p.absorb init m)
  r ⟨8, 0x07, 0, 0, false, false⟩ 0 = 0xF4 ∧ r ⟨16, 0x8005, 0, 0, true, true⟩ 0 = 0xBB3D ∧
  r ⟨16, 0x1021, 0xFFFF, 0, false, false⟩ 0xFFFF = 0x29B1 ∧ r ⟨24, 0x864CFB, 0xB704CE, 0, false, false⟩ 0xB704CE = 0x21CF02 ∧
  r ⟨32, 0x04C11DB7, 0xFFFFFFFF, 0xFFFFFFFF, true, true⟩ 0xFFFFFFFF = 0xCBF43926 ∧
  r ⟨32, 0x04C11DB7, 0xFFFFFFFF, 0, false, false⟩ 0xFFFFFFFF = 0x0376E6E7 ∧ r CuPar.crc32c 0xFFFFFFFF = 0xE3069283 ∧
  r ⟨64, 0x42F0E1EBA9EA3693, 0, 0, false, false⟩ 0 = 0x6C40DF5F0B497347 ∧
  r CuPar.crc64xz (2 ^ 64 - 1) = 0x995DC9BBDF1939FA

/-- The running value of a check unit stays within its width (R432, R433). -/
def Obligations.RunningValueKeepsItsWidth : Prop :=
  ∀ (p : CuPar) (v : Nat) (bs : List Byte), 8 ≤ p.w → p.poly < 2 ^ p.w → v < 2 ^ p.w → p.absorb v bs < 2 ^ p.w

/-- A sideband fragment is queued, or dropped and counted at a full queue (R235). -/
def Obligations.SidebandQueueOfALane : Prop :=
  ∀ (s : State) (t : Nat) (n : Fin 144) (f : SbFrag), s.dev.live = true → (s.dev.reach t).modeOf n = 1 →
    let q := ((s.dev.reach t).lane n).sbRx
    (64 ≤ q.length → exec (.sidebandRx t n f) s = .next { s with dev := (s.dev.reach t).bump (F.SB_RX_DROPPED.count n) }) ∧
    (q.length < 64 → ∃ d, exec (.sidebandRx t n f) s = .next { s with dev := d } ∧
      d.lane n = { (s.dev.reach t).lane n with sbRx := q ++ [{
        channel := f.channel.toNat, first := f.first, last := f.last,
        data := (List.range 6).map fun i => BitVec.ofNat 8 (bitsOf f.data.toNat (40 - 8 * i) 8) }] } ∧
      (∀ k, k ≠ n.val → d.lane k = (s.dev.reach t).lane k) ∧ d.hbm = (s.dev.reach t).hbm ∧ d.actv = (s.dev.reach t).actv ∧
      (q = [] → d.get (F.LANE_EVT.sb_rx n) = 1))

/-- The second copy of a ring message is dropped and counted, and so is a message with a bad CRC (R249, R251). -/
def Obligations.SecondRingCopyIsDropped : Prop :=
  ∀ (d : Dev) (k j : Fin 8) (m : MsgHead), d.actIs F.CASC_CTL.enable = true → d.ring = true → m.src.val ≠ d.get F.CASC_ID.landing →
    (m.crcOk = false → d.heard k m = (false, d.bump (F.MSG_CRC_ERR.count k))) ∧
    (m.crcOk = true → d.casc.seen.contains (m.src.val, m.seq.toNat) = true → d.heard k m = (false, d.bump F.DUP_DROPPED.count)) ∧
    (m.crcOk = true → d.casc.seen.contains (m.src.val, m.seq.toNat) = false →
      (d.heard k m).1 = true ∧ ((d.heard k m).2.heard j m).1 = false)

/-- A save goes to the area that does not hold the newest valid save (R525). -/
def Obligations.SaveSparesTheNewest : Prop :=
  ∀ (d : Dev) (x : Save), ((d.storeSave x).pwr.saveA = some x ∨ (d.storeSave x).pwr.saveB = some x) ∧
    (∀ n, d.newestSave = some n → (d.storeSave x).pwr.saveA = some n ∨ (d.storeSave x).pwr.saveB = some n) ∧
    d.storeSave x = { d with pwr := { d.pwr with saveA := (d.storeSave x).pwr.saveA, saveB := (d.storeSave x).pwr.saveB } }

/-- SAVE_COMPLETE powers the module down, or enters standby after a thermal trip; it starts again where VIN has come back, and leaves
standby at once where RESET_N is still low (R510, R524, R530). -/
def Obligations.SaveCompletePowersDown : Prop :=
  ∀ (s : State) (t : Nat) (whole : Bool) (p : Nat × Nat) (x : Save), (s.dev.reach t).pwr.fail = some p → (s.dev.reach t).pwr.failing = some x →
    let d := s.dev.reach t
    ∃ u, exec (.saveComplete t whole) s = .next u ∧ u.dev.pwr.fail = none ∧ u.dev.pwr.failing = none ∧
      u.dev.pwr.on = (if x.cause = 3 then !d.pwr.resetN else d.pwr.vinBack.isSome) ∧ u.dev.pwr.standby = (x.cause == 3 && d.pwr.resetN) ∧
      (x.cause = 3 → u.dev.pwr.kind = 4 ∧ u.alc.on = s.alc.on) ∧ (x.cause ≠ 3 → u.dev.pwr.kind = 0 ∧ u.alc.on = false) ∧
      (u.dev.pwr.on = false → u.dev.hbm = d.hbm) ∧ u.dev.pwr.flash = d.pwr.flash ∧ u.pending = s.pending

/-- What the reset state holds, and that its Alcove (fresh from the factory, model choice, log 6) is in bounds (R512, R53, R450, R383, R489, R497). -/
def Obligations.ResetStateInBounds : Prop :=
  let d := State.reset.dev
  State.reset.alc.Ok ∧ State.reset.alc.nextSeq = 0 ∧ State.reset.alc.oldest = 0 ∧ State.reset.alc.ring = [] ∧
  State.reset.pending = [] ∧ d.stored A.ACTIVE_GEN = 0 ∧ d.is F.CASC_CTL.enable = false ∧ d.get F.REF_CTL.sel = 0 ∧
  (∀ c : Fin 8, d.actIs (F.TICK_CTL.enable c) = false) ∧ (∀ n : Fin 144, d.act (F.LANE_CTL.mode n) = 0 ∧ d.act (F.LANE_CTL.spare n) = 0) ∧
  (∀ a : Fin 16, d.get (F.SPACE_CTL.mode a) = 0) ∧ (∀ c : Fin 64, d.is (F.CH_CTL.enable c) = false) ∧
  (∀ u : Fin 56, d.actIs (F.CU_CTL.enable u) = false) ∧ (∀ g : Fin 32, d.stored (A.EVT_ENABLE_ALL g) = 0)

/-- The example of the choice of D for a Stairline rate of 25,939,500 kbit/s (R452, R453). -/
def Obligations.SpurRuleChoosesD : Prop :=
  setBest 25939500 = { d := 2, n := 41, f := 8442295 } ∧ spurWarn (setBest 25939500) = false

/-- The level of Ururi rises only up to the strap ceiling; a line over 256 characters or one that spells no command answers ERR 01
(R541, R542, R543; how spaces set words apart is log 161). -/
def Obligations.UruriLevelUnderTheCeiling : Prop :=
  ∀ (s : State) (t n : Nat), s.dev.live = true →
    ((s.dev.reach t).get F.URURI_CTL.ceiling < n → exec (.ururiLevel t (some n)) s =
      .next { s with dev := ({ s.dev.reach t with stw := { (s.dev.reach t).stw with heard := (s.dev.reach t).now } }).say [] 2 }) ∧
    (n ≤ (s.dev.reach t).get F.URURI_CTL.ceiling →
      let d := (({ s.dev.reach t with stw := { (s.dev.reach t).stw with heard := (s.dev.reach t).now } }).put F.URURI_CTL.level n).say [] 0
      exec (.ururiLevel t (some n)) s = .next { s with dev := d } ∧ d.out.head? = some (.uart d.now [] 0) ∧
      d.get F.URURI_CTL.level = n ∧ d.get F.URURI_CTL.ceiling = (s.dev.reach t).get F.URURI_CTL.ceiling ∧ d.actv = (s.dev.reach t).actv ∧ d.hbm = (s.dev.reach t).hbm) ∧
    ∀ line : List Byte, (256 < line.length ∨ ururiLine t line = none) → execUruriLine t line s =
      .next { s with dev := ({ s.dev.reach t with stw := { (s.dev.reach t).stw with heard := (s.dev.reach t).now } }).say [] 1 }

/-- Programming a flash word clears the bits written 0 and an erase sets those of its sector; a program that finds the flash busy waits, and
every access of an accessor that is not granted waits as it is, behind those before it (R515, R278; that it waits so and in that order is the
model's choice, log 147). -/
def Obligations.FlashProgramClearsBits : Prop :=
  (∀ (d : Dev) (k : Nat) (w : Word) (sec : Nat), 4 * k < 0x18000000 →
    (d.flashApply (.program k w) true).flashWord k = d.flashWord k &&& w ∧
    (∀ j, j ≠ k → (d.flashApply (.program k w) true).flashWord j = d.flashWord j) ∧
    (k / 16384 = sec → (d.flashApply (.erase sec) true).flashWord k = 0xFFFFFFFF) ∧
    (k / 16384 ≠ sec → (d.flashApply (.erase sec) true).flashWord k = d.flashWord k)) ∧
  ∀ (d : Dev) (al : Alcove) (acc : Accessor) (x : Access) (v : Word), d.present acc = true →
    (d.grants acc x.page = false ∨ d.flashHolds acc x = true →
      d.access al acc x = { d with pwr := { d.pwr with flashWait := d.pwr.flashWait ++ [.new acc [x] .quiet] } }) ∧
    (let a := (d.loc acc (A.IND_ADDR flashPage)).toNat
     d.is F.FLASH_STATUS.busy = true → d.get (F.PRIV_LEVEL.level flashPage) ≤ d.levelOn acc flashPage → a < 0x08000000 →
       d.flashWritable (4 * a) = true → d.flashHolds acc (.write (A.IND_DATA flashPage) v 0xFFFFFFFF) = true)

/-- The commands of ticks, halls, layers and statistics complete with the effect of their rule on the module alone (R40, R17, R203, R30, R157, R163, R93, R85, R45, R186, R143, R141). -/
def Obligations.FrameRowsComplete : Prop :=
  ∀ s : State,
    (∀ (t : Nat) (c : Fin 8), s.dev.live = true → exec (.canvasTick t c) s = .next { s with dev := ((s.dev.reach t).canvasTick c).retryItems }) ∧
    (∀ (t : Nat) (c p : Fin 8), s.dev.live = true → exec (.phaseStart t c p) s = .next { s with dev := (s.dev.reach t).phaseStart c p }) ∧
    (∀ (t : Nat) (c : Fin 8), s.dev.live = true → exec (.turnaround t c) s = .next { s with dev := (s.dev.reach t).turnaround c }) ∧
    (∀ (t : Nat) (h : Fin 8) (n : Fin 33), s.dev.live = true → exec (.fenceHorizon t h n) s = .next { s with dev := ((s.dev.reach t).fenceLatch h n).groupEval h n }) ∧
    (∀ (t : Nat), s.dev.live = true → exec (.admissionAnswer t) s = .next { s with dev := (s.dev.reach t).admissionAnswer.bootAnswer }) ∧
    (∀ (t : Nat) (h : Fin 8), s.dev.live = true → exec (.coveragePassStart t h) s = .next { s with dev := if (s.dev.reach t).pwr.fail.isSome then (s.dev.reach t) else (s.dev.reach t).coverageStart h }) ∧
    (∀ (t : Nat) (h : Fin 8), s.dev.live = true → exec (.coveragePassDone t h) s = .next { s with dev := if (s.dev.reach t).pwr.fail.isSome then (s.dev.reach t) else (s.dev.reach t).coverageDone h }) ∧
    (∀ (t : Nat) (h : Fin 8), s.dev.live = true → exec (.hallTickDone t h) s = .next { s with dev := (s.dev.reach t).hallDone h }) ∧
    (∀ (t : Nat) (h : Fin 8), s.dev.live = true → exec (.wbDone t h) s = .next { s with dev := (s.dev.reach t).wbDone h }) ∧
    (∀ (t : Nat) (u : SramUnit), s.dev.live = true → exec (.sramUe t u) s = .next { s with dev := (s.dev.reach t).sramFails u }) ∧
    (∀ (t : Nat) (r : HwRegion), s.dev.live = true → exec (.hwRegionLoss t r) s = .next { s with dev := (s.dev.reach t).regionLost r }) ∧
    (∀ (t : Nat), s.dev.live = true → exec (.readmission t) s = .next { s with dev := (s.dev.reach t).readmissionAll.readmitIdle }) ∧
    (∀ (t : Nat) (c : Fin 8) (overrun : Bool), s.dev.live = true → exec (.tonePolicyRun t c overrun) s = .next { s with dev := (s.dev.reach t).policyRun c overrun }) ∧
    (∀ (t : Nat) (acc : Accessor) (h : Fin 8) (v : Word), s.dev.live = true → exec (.statCtlWrite t acc h v) s = .next { s with dev := (s.dev.reach t).store s.alc acc (A.STAT_CTL h) v })

/-- The commands of windows, lanes, time over lanes, gates and egress complete (R225, R233, R235, R236, R347, R348, R341, R339, R330, R540). -/
def Obligations.LaneRowsComplete : Prop :=
  ∀ s : State,
    (∀ (t : Nat) (w : Fin 576) (l : Nat), s.dev.live = true → exec (.lineSlotStart t w l) s = .next { s with dev := (s.dev.reach t).lineSlot w l }) ∧
    (∀ (t : Nat) (w : Fin 576), s.dev.live = true → exec (.windowFrameStart t w) s = .next { s with dev := (s.dev.reach t).frameStart w }) ∧
    (∀ (t : Nat) (w : Fin 576), s.dev.live = true → exec (.windowFrameEnd t w) s = .next { s with dev := ((s.dev.reach t).frameEnd w).retryItems }) ∧
    (∀ (t : Nat) (n : Fin 144), s.dev.live = true → exec (.stairlineTimeSend t n) s = .next { s with dev := (s.dev.reach t).timeSend n }) ∧
    (∀ (t : Nat) (n : Fin 144) (seq : BitVec 16) (turn : Word), s.dev.live = true → exec (.timeEchoRx t n seq turn) s = .next { s with dev := (s.dev.reach t).timeEcho n seq.toNat turn.toNat }) ∧
    (∀ (t : Nat) (n : Fin 144), s.dev.live = true → exec (.echoTimeout t n) s = .next { s with dev := (s.dev.reach t).echoTimeout n }) ∧
    (∀ (t : Nat) (n : Fin 144) (f : SbFrag), s.dev.live = true → exec (.sidebandRx t n f) s = .next { s with
      dev := (fun d => d.sbArrive n
    { channel := f.channel.toNat, first := f.first, last := f.last,
      data := (List.range 6).map fun i => BitVec.ofNat 8 (bitsOf f.data.toNat (40 - 8 * i) 8) }) (s.dev.reach t) }) ∧
    (∀ (t : Nat) (n : Fin 144), s.dev.live = true → exec (.lrxBlockError t n) s = .next { s with dev := ((s.dev.reach t).blockError n).noteBlockError n }) ∧
    (∀ (t : Nat) (n : Fin 144), s.dev.live = true → exec (.laneRxLoss t n) s = .next { s with
      dev := (fun d => let d := (d.rxLoss n).noteLock n true
    match if d.carrier (d.fieldsOf n) = n.val then portOfLane d.actv (d.fieldsOf n) else none with
    | some k => d.portFalls k
    | none => d) (s.dev.reach t) }) ∧
    (∀ (t : Nat) (n : Fin 144), s.dev.live = true → exec (.laneTxStop t n) s = .next { s with dev := (s.dev.reach t).txStop n }) ∧
    (∀ (t : Nat) (n : Fin 144), s.dev.live = true → exec (.asSyncSend t n) s = .next { s with dev := (s.dev.reach t).asSync n }) ∧
    (∀ (t : Nat) (n : Fin 144), s.dev.live = true → exec (.asPdelayReqSend t n) s = .next { s with dev := (s.dev.reach t).asPdelayReq n }) ∧
    (∀ (t : Nat) (n : Fin 144) (m : PdelayMsg), s.dev.live = true → exec (.asPdelayRx t n m) s = .next { s with dev := (s.dev.reach t).asPdelay n m }) ∧
    (∀ (t : Nat) (n : Fin 144), s.dev.live = true → exec (.asPdelayLost t n) s = .next { s with dev := (s.dev.reach t).asPdelayLost n }) ∧
    (∀ (t : Nat) (n : Fin 144), s.dev.live = true → exec (.laneFrameDrop t n) s = .next { s with dev := (s.dev.reach t).laneDrop n }) ∧
    (∀ (t : Nat) (n : Fin 144), s.dev.live = true → exec (.gateSwapAnswer t n) s = .next { s with dev := (s.dev.reach t).gateAnswer n }) ∧
    (∀ (t : Nat) (n : Fin 144), s.dev.live = true → exec (.gateSwapStart t n) s = .next { s with dev := (s.dev.reach t).gateStart n }) ∧
    (∀ (t : Nat) (n : Fin 144), s.dev.live = true → exec (.gateEntry t n) s = .next { s with dev := (s.dev.reach t).gateEntry n }) ∧
    (∀ (t : Nat) (port : TxPort), s.dev.live = true → exec (.egressFrameStart t port) s = .next { s with dev := (s.dev.reach t).egress port }) ∧
    (∀ (t : Nat) (n : Fin 144), s.dev.live = true → exec (.laneRxLock t n) s = .next { s with dev := ((s.dev.reach t).rxLock n).noteLock n false })

/-- The commands of landing links complete (R248, R249, R264, R256, R258, R260, R266, R267, R265, R268, R263). -/
def Obligations.CascadeRowsComplete : Prop :=
  ∀ s : State,
    (∀ (t : Nat) (k : Fin 8), s.dev.live = true → exec (.helloSend t k) s = .next { s with dev := (s.dev.reach t).helloSend k }) ∧
    (∀ (t : Nat) (k : Fin 8) (landing : Fin 16) (topology : BitVec 2) (lanes skewed : Bool), s.dev.live = true → exec (.helloRx t k landing topology lanes skewed) s = .next { s with dev := (s.dev.reach t).helloRx k landing topology.toNat lanes skewed }) ∧
    (∀ (t : Nat) (k : Fin 8), s.dev.live = true → exec (.portDown t k) s = .next { s with dev := (s.dev.reach t).portFalls k }) ∧
    (∀ (t : Nat) (k : Fin 8), s.dev.live = true → exec (.landingBlockError t k) s = .next { s with dev := (s.dev.reach t).bump (F.PORT_BLOCK_ERR.count k) }) ∧
    (∀ (t : Nat) (k : Fin 8) (m : MsgHead) (set : BitVec 16) (asid : Fin 16) (va : BitVec 48) (data : List Byte) (full : BitVec 8), s.dev.live = true → exec (.contentRx t k m set asid va data full) s = .next { s with dev := { (s.dev.reach t) with casc.full := full.toNat }.contentRx k m set.toNat asid va.toNat data }) ∧
    (∀ (t : Nat) (k : Fin 8) (m : MsgHead) (gen : Word) (target : BitVec 64) (ref : Fin 8) (dryRun : Bool) (set : BitVec 16), s.dev.live = true → exec (.prepareRx t k m gen target ref dryRun set) s = .next { s with dev := (s.dev.reach t).prepareRx k m gen target.toNat ref dryRun set.toNat }) ∧
    (∀ (t : Nat) (k : Fin 8) (m : MsgHead) (v : Vote), s.dev.live = true → exec (.voteRx t k m v) s = .next { s with dev := (s.dev.reach t).voteRx k m v }) ∧
    (∀ (t : Nat), s.dev.live = true → exec (.decideDeadline t) s = .next { s with dev := (s.dev.reach t).decideDeadline }) ∧
    (∀ (t : Nat) (k : Option (Fin 8)), s.dev.live = true → exec (.decideResend t k) s = .next { s with dev := (s.dev.reach t).decideResend (k.map fun k => k.val) }) ∧
    (∀ (t : Nat) (k : Fin 8) (m : MsgHead) (gen : Word) (target : BitVec 64) (commit : Bool) (code : BitVec 8) (landing : Fin 16), s.dev.live = true → exec (.decideRx t k m gen target commit code landing) s = .next { s with dev := (s.dev.reach t).decideRx k m gen target.toNat commit code.toNat landing }) ∧
    (∀ (t : Nat), s.dev.live = true → exec (.decideMiss t) s = .next { s with dev := (s.dev.reach t).decideMiss }) ∧
    (∀ (t : Nat), s.dev.live = true → exec (.cascLost t) s = .next { s with dev := (s.dev.reach t).cascLost }) ∧
    (∀ (t : Nat) (k : Fin 8), s.dev.live = true → exec (.timeSyncSend t k) s = .next { s with dev := (s.dev.reach t).timeSyncSend k }) ∧
    (∀ (t : Nat) (k : Fin 8) (m : MsgHead) (sent : Nat) (seq : BitVec 16), s.dev.live = true → exec (.timeSyncRx t k m sent seq) s = .next { s with dev := (s.dev.reach t).timeSyncRx k m seq.toNat }) ∧
    (∀ (t : Nat) (k : Fin 8) (m : MsgHead) (seq : BitVec 16) (turn : Word), s.dev.live = true → exec (.landingTimeEchoRx t k m seq turn) s = .next { s with dev := (s.dev.reach t).landEcho k m seq.toNat turn.toNat }) ∧
    (∀ (t : Nat) (k : Fin 8) (m : MsgHead) (tree : BitVec 6) (tick : BitVec 64) (edge : Nat), s.dev.live = true → exec (.tickAlignRx t k m tree tick edge) s = .next { s with dev := (s.dev.reach t).tickAlign k m tree.toNat tick.toNat edge }) ∧
    (∀ (t : Nat) (k : Fin 8) (m : MsgHead) (ev : BitVec 16) (src : Fin 16) (time : Nat), s.dev.live = true → exec (.eventMsgRx t k m ev src time) s = .next { s with dev := (s.dev.reach t).eventMsg k m ev.toNat src time }) ∧
    (∀ (t : Nat) (k : Fin 8) (m : MsgHead) (f : Fin 512) (v : Word), s.dev.live = true → exec (.fenceMsgRx t k m f v) s = .next { s with dev := (s.dev.reach t).fenceMsg k m f v }) ∧
    (∀ (t : Nat) (k : Fin 8) (m : MsgHead) (g : Fin 8) (tick : BitVec 64) (ready : Bool) (counted : BitVec 16), s.dev.live = true → exec (.groupStateRx t k m g tick ready counted) s = .next { s with dev := (s.dev.reach t).groupState k m (8 + g) tick.toNat ready counted.toNat }) ∧
    (∀ (t : Nat) (g : Fin 8), s.dev.live = true → exec (.groupGoDeadline t g) s = .next { s with dev := (s.dev.reach t).groupDeadline (8 + g) }) ∧
    (∀ (t : Nat) (k : Fin 8) (m : MsgHead) (g : Fin 8) (tick : BitVec 64) (flip : Bool), s.dev.live = true → exec (.groupGoRx t k m g tick flip) s = .next { s with dev := (s.dev.reach t).groupGoRx k m (8 + g) tick.toNat flip }) ∧
    (∀ (t : Nat) (k : Fin 8) (m : MsgHead) (gen : Word) (target : BitVec 64), s.dev.live = true → exec (.joinRx t k m gen target) s = .next { s with dev := (s.dev.reach t).joinRx k m gen target.toNat }) ∧
    (∀ (t : Nat) (acc : Accessor) (landing : Fin 16), s.dev.live = true → exec (.cascJoin t acc landing) s = .next { s with dev := (s.dev.reach t).store s.alc acc A.CASC_CMD (w32 (landing + 16)) })

/-- The commands of the register map, the scan and the events complete (R275, R280, R283, R287, R292, R568). -/
def Obligations.RegisterRowsComplete : Prop :=
  ∀ s : State,
    (∀ (t : Nat) (acc : Accessor) (a : BitVec 26) (v : Word), s.dev.live = true → exec (.registerWrite t acc a v) s = .next (State.settle { s with dev := (fun al d => d.store al acc a.toNat v) s.alc (s.dev.reach t) })) ∧
    (∀ (t : Nat) (acc : Accessor) (a : BitVec 26), s.dev.live = true → exec (.rcRead t acc a) s = .next (State.settle { s with dev := (fun al d => d.readOnce al acc a.toNat) s.alc (s.dev.reach t) })) ∧
    (∀ (t : Nat) (acc : Accessor) (page : BitVec 14) (wr : Option Word), s.dev.live = true → exec (.indData t acc page wr) s = .next (State.settle { s with
      dev := (fun al d => match wr with
    | some v => d.store al acc (A.IND_DATA page.toNat) v
    | none => d.readOnce al acc (A.IND_DATA page.toNat)) s.alc (s.dev.reach t) })) ∧
    (∀ (t : Nat) (acc : Accessor) (c : Fin 8), s.dev.live = true → exec (.snapAtTick t acc c) s = .next { s with dev := (s.dev.reach t).store s.alc acc A.SNAP_CMD (w32 (2 + 4 * c)) }) ∧
    (∀ (t : Nat) (us : BitVec 10), s.dev.live = true → exec (.cfgScanDone t us) s = .next { s with dev := (s.dev.reach t).scanDone us.toNat }) ∧
    (∀ (t : Nat) (acc : Accessor) (v : Word), s.dev.live = true → exec (.cfgRefcrcWrite t acc v) s = .next { s with dev := (s.dev.reach t).store s.alc acc A.CFG_REFCRC v }) ∧
    (∀ (t : Nat) (i : Fin 4), s.dev.live = true → exec (.evtNPulseEnd t i) s = .next { s with dev := Dev.evtN { (s.dev.reach t) with pulseOn := Tab.set (fun _ => false) (s.dev.reach t).pulseOn i false } }) ∧
    (∀ (t : Nat), s.dev.live = true → exec (.moduleTick t) s = .next { s with dev := (s.dev.reach t).moduleTick })

/-- The commands of host links, PTP, basic protocols and receivers complete (R299, R302, R301, R305, R309, R298; the lengths of the basic
replies, 28, 72, 48 and 28 bytes beside the body, are presumed: log 45). -/
def Obligations.HostRowsComplete : Prop :=
  ∀ s : State,
    (∀ (t : Nat) (k : Fin 8) (up fec : Bool), s.dev.live = true → exec (.hostLinkChange t k up fec) s = .next { s with dev := (s.dev.reach t).linkChange k up fec }) ∧
    (∀ (t : Nat) (rx : RxHdr) (sender : BitVec 80) (domain : BitVec 8) (seq : BitVec 16) (twoStep : Bool) (origin : Nat) (corr : Int), s.dev.live = true → exec (.ptpSyncRx t rx sender domain seq twoStep origin corr) s = .next { s with dev := (s.dev.reach t).ptpSync rx sender domain.toNat seq.toNat twoStep origin corr }) ∧
    (∀ (t : Nat) (rx : RxHdr) (sender : BitVec 80) (domain : BitVec 8) (seq : BitVec 16) (origin : Nat) (corr : Int), s.dev.live = true → exec (.ptpFollowUpRx t rx sender domain seq origin corr) s = .next { s with dev := (s.dev.reach t).ptpFollow rx sender domain.toNat seq.toNat origin corr }) ∧
    (∀ (t : Nat) (rx : RxHdr) (sender : PtpPair) (domain : BitVec 8) (seq : BitVec 16) (receipt : Nat) (corr : Int), s.dev.live = true → exec (.ptpDelayRespRx t rx sender domain seq receipt corr) s = .next { s with dev := (s.dev.reach t).ptpDelayResp rx sender domain.toNat seq.toNat receipt corr }) ∧
    (∀ (t : Nat) (rx : RxHdr) (a : Announce), s.dev.live = true → exec (.ptpAnnounceRx t rx a) s = .next { s with dev := (s.dev.reach t).ptpAnnounce rx a }) ∧
    (∀ (t : Nat) (rx : RxHdr), s.dev.live = true → exec (.ptpManagementRx t rx) s = .next { s with dev := ((s.dev.reach t).ptpRx rx 320 none).2 }) ∧
    (∀ (t : Nat) (p : Fin 8), s.dev.live = true → exec (.ptpAnnounceTimeout t p) s = .next { s with dev := (s.dev.reach t).ptpTimeout p }) ∧
    (∀ (t : Nat) (p : Fin 8), s.dev.live = true → exec (.ptpDelayReqSend t p) s = .next { s with dev := (s.dev.reach t).ptpDelayReq p }) ∧
    (∀ (t : Nat) (rx : RxHdr), s.dev.live = true → exec (.arpRx t rx) s = .next { s with dev := (s.dev.reach t).basicReply rx 0 0x0806 28 [] }) ∧
    (∀ (t : Nat) (rx : RxHdr), s.dev.live = true → exec (.ndRx t rx) s = .next { s with dev := (s.dev.reach t).basicReply rx 1 0x86DD 72 [] }) ∧
    (∀ (t : Nat) (rx : RxHdr) (body : List Byte), s.dev.live = true → exec (.icmpEchoRx t rx body) s = .next { s with dev := if rx.ipv6 then (s.dev.reach t).basicReply rx 2 0x86DD (48 + body.length) body else (s.dev.reach t).basicReply rx 2 0x0800 (28 + body.length) body }) ∧
    (∀ (t : Nat) (rx : RxHdr), s.dev.live = true → exec (.membershipQueryRx t rx) s = .next { s with dev := (s.dev.reach t).membershipQuery rx }) ∧
    (∀ (t : Nat) (rx : RxHdr) (p : RtpPacket), s.dev.live = true → exec (.rxPacket t rx p) s = .next { s with dev := (s.dev.reach t).rxPacket rx p }) ∧
    (∀ (t : Nat) (r : Fin 256), s.dev.live = true → exec (.rxMergeTimeout t r) s = .next { s with dev := (s.dev.reach t).rxMergeTimeout r }) ∧
    (∀ (t : Nat) (r : Fin 256) (legB : Bool), s.dev.live = true → exec (.rxLegLoss t r legB) s = .next { s with dev := (s.dev.reach t).rxLegLoss r legB }) ∧
    (∀ (t : Nat) (rx : RxHdr) (why : RxDrop), s.dev.live = true → exec (.hostFrameDrop t rx why) s = .next { s with dev := (s.dev.reach t).hostDrop rx why })

/-- The commands of Aedwin sessions, shapers and samplers complete (R314, R315, R316, R318, R320, R321, R322, R323, R337, R346). -/
def Obligations.AedwinRowsComplete : Prop :=
  ∀ s : State,
    (∀ (t : Nat) (f : AedFrame), s.dev.live = true → exec (.aedOpen t f) s = .next { s with dev := (s.dev.reach t).aedOpen f }) ∧
    (∀ (t : Nat) (f : AedFrame), s.dev.live = true → exec (.aedAuth t f) s = .next { s with dev := (s.dev.reach t).aedAuth f }) ∧
    (∀ (t : Nat) (f : AedFrame), s.dev.live = true → exec (.aedClose t f) s = .next { s with dev := (s.dev.reach t).aedCloseRx f }) ∧
    (∀ (t : Nat) (f : AedFrame), s.dev.live = true → exec (.aedKeepalive t f) s = .next (State.settle { s with dev := (fun al d => d.aedRequest al 0x07 f) s.alc (s.dev.reach t) })) ∧
    (∀ (t : Nat) (f : AedFrame), s.dev.live = true → exec (.aedRead t f) s = .next (State.settle { s with dev := (fun al d => d.aedRequest al 0x10 f) s.alc (s.dev.reach t) })) ∧
    (∀ (t : Nat) (f : AedFrame), s.dev.live = true → exec (.aedWrite t f) s = .next (State.settle { s with dev := (fun al d => d.aedRequest al 0x11 f) s.alc (s.dev.reach t) })) ∧
    (∀ (t : Nat) (f : AedFrame), s.dev.live = true → exec (.aedMaskedWrite t f) s = .next (State.settle { s with dev := (fun al d => d.aedRequest al 0x12 f) s.alc (s.dev.reach t) })) ∧
    (∀ (t : Nat) (f : AedFrame), s.dev.live = true → exec (.aedSequence t f) s = .next (State.settle { s with dev := (fun al d => d.aedRequest al 0x13 f) s.alc (s.dev.reach t) })) ∧
    (∀ (t : Nat) (f : AedFrame), s.dev.live = true → exec (.aedMailbox t f) s = .next (State.settle { s with dev := (fun al d => d.aedRequest al 0x14 f) s.alc (s.dev.reach t) })) ∧
    (∀ (t : Nat) (f : AedFrame), s.dev.live = true → exec (.aedSubscribe t f) s = .next (State.settle { s with dev := (fun al d => d.aedRequest al 0x15 f) s.alc (s.dev.reach t) })) ∧
    (∀ (t : Nat) (f : AedFrame), s.dev.live = true → exec (.aedBulkWrite t f) s = .next (State.settle { s with dev := (fun al d => d.aedRequest al 0x20 f) s.alc (s.dev.reach t) })) ∧
    (∀ (t : Nat) (p : Fin 2), s.dev.live = true → exec (.aedBulkDone t p) s = .next (State.settle { s with dev := (fun al d => (d.bulkDone p).aedRunAll al) s.alc (s.dev.reach t) })) ∧
    (∀ (t : Nat) (f : AedFrame), s.dev.live = true → exec (.aedFence t f) s = .next (State.settle { s with dev := (fun al d => d.aedRequest al 0x30 f) s.alc (s.dev.reach t) })) ∧
    (∀ (t : Nat) (f : AedFrame), s.dev.live = true → exec (.aedCommitRequest t f) s = .next (State.settle { s with dev := (fun al d => d.aedRequest al 0x40 f) s.alc (s.dev.reach t) })) ∧
    (∀ (t : Nat) (i : Fin 16), s.dev.live = true → exec (.aedChallengeTimeout t i) s = .next { s with dev := (s.dev.reach t).aedChallengeTimeout i }) ∧
    (∀ (t : Nat) (i : Fin 16), s.dev.live = true → exec (.aedIdleTimeout t i) s = .next { s with dev := (s.dev.reach t).aedIdle i }) ∧
    (∀ (t : Nat) (i : Fin 16), s.dev.live = true → exec (.aedGapTimeout t i) s = .next { s with dev := (s.dev.reach t).aedGapTimeout i }) ∧
    (∀ (t : Nat) (i : Fin 16), s.dev.live = true → exec (.aedEventSend t i) s = .next { s with dev := (s.dev.reach t).aedEventSend i }) ∧
    (∀ (t : Nat) (acc : Accessor) (p : Fin 8) (mask : BitVec 8), s.dev.live = true → exec (.bucketReset t acc p mask) s = .next { s with dev := (s.dev.reach t).store s.alc acc (A.SHP_RESET (p / 4) (p % 4)) (w32 mask.toNat) }) ∧
    (∀ (t : Nat) (acc : Accessor) (p tc : Fin 8) (v : Word), s.dev.live = true → exec (.shpCtlWrite t acc p tc v) s = .next { s with dev := (s.dev.reach t).store s.alc acc (A.SHP_CTL (p / 4) (p % 4) tc) v }) ∧
    (∀ (t : Nat) (acc : Accessor) (p tc : Fin 8) (v : Word), s.dev.live = true → exec (.shpBurstWrite t acc p tc v) s = .next { s with dev := (s.dev.reach t).store s.alc acc (A.SHP_BURST (p / 4) (p % 4) tc) v }) ∧
    (∀ (t : Nat) (k : Fin 16), s.dev.live = true → exec (.samplerPublish t k) s = .next { s with dev := (s.dev.reach t).samplerPublish k }) ∧
    (∀ (t : Nat) (acc : Accessor) (k : Fin 16) (sel : Bool) (v : Word), s.dev.live = true → exec (.samplerCtlWrite t acc k sel v) s = .next { s with dev := (s.dev.reach t).store s.alc acc (if sel then A.SMP_SEL k else A.SMP_CTL k) v })

/-- The commands of HBM and of translation complete (R363, R366, R369, R362, R365, R370, R372, R373, R374, R375, R384, R394). -/
def Obligations.MemoryRowsComplete : Prop :=
  ∀ s : State,
    (∀ (t : Nat) (pa : BitVec 48) (len : Nat) (wr : Option (List (Option Byte))) (cls : HbmClass) (spec : Option (Fin 8)), s.dev.live = true → exec (.hbmRequest t pa len wr cls spec) s = .next { s with dev := (s.dev.reach t).hbmRequest pa.toNat len wr (clsNat cls) (spec.map fun h => (s.dev.reach t).aheadOf h (List.range 33)) }) ∧
    (∀ (t : Nat) (pc : Fin 64) (bank : Fin 48) (row : Nat), s.dev.live = true → exec (.neighbourRefresh t pc bank row) s = .next { s with dev := (s.dev.reach t).neighbourRefresh row }) ∧
    (∀ (t : Nat) (pa : BitVec 48) (ret : BurstRet) (cls : HbmClass) (cl : HbmClient), s.dev.live = true → exec (.hbmReadDone t pa ret cls cl) s = .next { s with dev := (s.dev.reach t).readReturns pa.toNat ret (clsNat cls) cl }) ∧
    (∀ (t : Nat) (pc : Fin 64) (k : Nat), s.dev.live = true → exec (.agePromotion t pc k) s = .next { s with dev := (s.dev.reach t).agePromote pc k }) ∧
    (∀ (t : Nat) (pc : Fin 64) (bank : Fin 48), s.dev.live = true → exec (.refreshDue t pc bank) s = .next { s with dev := (s.dev.reach t).refreshDue pc bank }) ∧
    (∀ (t : Nat) (k : Fin 2) (temp : BitVec 8), s.dev.live = true → exec (.stackTempChange t k temp) s = .next { s with dev := (s.dev.reach t).stackTemp k temp.toNat }) ∧
    (∀ (t : Nat) (pc : Fin 64) (ret : BurstRet), s.dev.live = true → exec (.scrubStep t pc ret) s = .next { s with dev := (s.dev.reach t).scrubStep pc ret }) ∧
    (∀ (t : Nat) (acc : Accessor) (pc : Fin 64), s.dev.live = true → exec (.pcRetrain t acc pc) s = .next { s with dev := (s.dev.reach t).store s.alc acc A.PC_CMD (w32 (pc + 512)) }) ∧
    (∀ (t : Nat) (pc : Fin 64), s.dev.live = true → exec (.retrainSlice t pc) s = .next { s with dev := (s.dev.reach t).retrainSlice pc }) ∧
    (∀ (t : Nat) (pc : Fin 64) (sweeps : List Sweep) (verify : List (Nat × List Byte)), s.dev.live = true → exec (.retrainSweepDone t pc sweeps verify) s = .next { s with dev := (s.dev.reach t).retrainDone pc sweeps verify }) ∧
    (∀ (t : Nat) (acc : Accessor) (pc : Fin 64), s.dev.live = true → exec (.pcRetire t acc pc) s = .next { s with dev := (s.dev.reach t).store s.alc acc A.PC_CMD (w32 (pc + 256)) }) ∧
    (∀ (t : Nat) (overrun : Bool), s.dev.live = true → exec (.sparePolicyRun t overrun) s = .next { s with dev := (s.dev.reach t).sparePolicy overrun }) ∧
    (∀ (t : Nat) (pc : Fin 64), s.dev.live = true → exec (.pcLinkLoss t pc) s = .next { s with dev := (s.dev.reach t).pcLinkLoss pc }) ∧
    (∀ (t : Nat) (k : Fin 2), s.dev.live = true → exec (.migrationStart t k) s = .next { s with dev := (s.dev.reach t).migrStart k }) ∧
    (∀ (t : Nat) (k : Fin 2) (ue : List (Fin 64)), s.dev.live = true → exec (.migrationChunk t k ue) s = .next { s with dev := (s.dev.reach t).migrChunk k (ue.map fun i => i.val) }) ∧
    (∀ (t : Nat) (k : Fin 2), s.dev.live = true → exec (.migrationTargetFail t k) s = .next { s with dev := (s.dev.reach t).migrTargetFail k }) ∧
    (∀ (t : Nat) (r : XReq), s.dev.live = true → exec (.translate t r) s = .next { s with dev := let x := (s.dev.reach t).lookup (unitEntered r); x.2.unitStops (x.1.map fun _ => unitEntered r) }) ∧
    (∀ (t : Nat), s.dev.live = true → exec (.walkDone t) s = .next { s with dev := let x := (s.dev.reach t).walkDone; x.2.unitStops x.1 }) ∧
    (∀ (t : Nat), s.dev.live = true → exec (.invDrainDone t) s = .next { s with dev := (s.dev.reach t).invDone.retryItems }) ∧
    (∀ (t : Nat) (acc : Accessor) (a : Fin 16) (v : Word), s.dev.live = true → exec (.spaceCtlWrite t acc a v) s = .next { s with dev := (s.dev.reach t).store s.alc acc (A.SPACE_CTL a) v }) ∧
    (∀ (t : Nat) (acc : Accessor) (a : Fin 16) (hi : Bool) (v : Word), s.dev.live = true → exec (.rootWrite t acc a hi v) s = .next { s with dev := (s.dev.reach t).store s.alc acc (if hi then A.ROOT_HI a else A.ROOT_LO a) v })

/-- The commands of the DMA engine and of the check units complete (R405, R426, R424, R408, R420, R416, R422, R433, R438, R479, R481). -/
def Obligations.DmaAndCheckRowsComplete : Prop :=
  ∀ s : State,
    (∀ (t : Nat) (acc : Accessor) (c : Fin 64), s.dev.live = true → exec (.dmaEnable t acc c) s = .next { s with dev := (s.dev.reach t).writeBits s.alc acc (A.CH_CTL c) 1 1 }) ∧
    (∀ (t : Nat) (acc : Accessor) (c : Fin 64), s.dev.live = true → exec (.dmaDisable t acc c) s = .next { s with dev := (s.dev.reach t).writeBits s.alc acc (A.CH_CTL c) 0 1 }) ∧
    (∀ (t : Nat) (c : Fin 64), s.dev.live = true → exec (.dmaPaused t c) s = .next { s with dev := (fun d => d.issuing fun d => d.chPauseDone c) (s.dev.reach t) }) ∧
    (∀ (t : Nat) (c : Fin 64), s.dev.live = true → exec (.descFetchDone t c) s = .next { s with dev := (fun d => d.issuing fun d => d.descFetched c) (s.dev.reach t) }) ∧
    (∀ (t : Nat) (c : Fin 64), s.dev.live = true → exec (.descComplete t c) s = .next { s with dev := (fun d => d.issuing fun d => d.descComplete c) (s.dev.reach t) }) ∧
    (∀ (t : Nat) (c : Fin 64) (units : Nat), s.dev.live = true → exec (.dmaPeripheralRequest t c units) s = .next { s with dev := (fun d => d.issuing fun d => d.chRequest c units) (s.dev.reach t) }) ∧
    (∀ (t : Nat) (c : Fin 64), s.dev.live = true → exec (.dmaRequestWithdraw t c) s = .next { s with dev := (fun d => d.issuing fun d => d.chWithdraw c) (s.dev.reach t) }) ∧
    (∀ (t : Nat) (acc : Accessor) (c : Fin 64) (v : Word), s.dev.live = true → exec (.cqHeadWrite t acc c v) s = .next { s with dev := (s.dev.reach t).store s.alc acc (A.CQ_HEAD c) v }) ∧
    (∀ (t : Nat) (u : Fin 64) (p : Fin 8), s.dev.live = true → exec (.cuRegionStart t u p) s = .next (State.alcShow { s with
      dev := (s.dev.reach t).regionStart u p, alc := if 56 ≤ u.val ∧ !(s.dev.reach t).noRegion u p then s.alc.regionStart (u.val - 56) else s.alc })) ∧
    (∀ (t : Nat) (u : Fin 64) (ot : Nat) (up : List CopyUpset), s.dev.live = true →
      (u.val < 56 → exec (.cuRegionEnd t u ot up) s = .next { s with dev := (((s.dev.reach t).composeFor u).cuEnd u).retryItems }) ∧
      (56 ≤ u.val → ((s.dev.reach t).cu u).inAlc = true → exec (.cuRegionEnd t u ot up) s = .next (State.alcShow { s with
        dev := (s.dev.reach t).setCu u { (s.dev.reach t).cu u with inAlc := false },
        alc := s.alc.regionEnd ot (u.val - 56) ((cuPar (s.dev.reach t).actv u).result ((s.dev.reach t).cu u).v) ((s.dev.reach t).cu u).short ((s.dev.reach t).regionLabel u)
          ((s.dev.reach t).cu u).tick up })))

/-- The commands of clocks and time complete (R451, R456, R457, R463, R464, R471, R472). -/
def Obligations.ClockRowsComplete : Prop :=
  ∀ s : State,
    (∀ (t : Nat), s.dev.live = true → exec (.refclkLoss t) s = .next { s with dev := (s.dev.reach t).refclkLoss }) ∧
    (∀ (t : Nat), s.dev.live = true → exec (.refclkRevert t) s = .next { s with dev := (s.dev.reach t).refclkRevert }) ∧
    (∀ (t : Nat) (i : Fin 88) (edges : Nat), s.dev.live = true → exec (.pllUnlock t i edges) s = .next { s with dev := (s.dev.reach t).pllUnlock i edges }) ∧
    (∀ (t : Nat) (i : Fin 88) (band temp : BitVec 8), s.dev.live = true → exec (.pllLock t i band temp) s = .next { s with dev := ((s.dev.reach t).pllLock i band.toNat temp.toNat).relocked }) ∧
    (∀ (t : Nat), s.dev.live = true → exec (.coreSwitchBack t) s = .next { s with dev := (s.dev.reach t).coreSwitchBack }) ∧
    (∀ (t : Nat) (src : Fin 4) (theta : Int), s.dev.live = true → exec (.timeSourceUpdate t src theta) s = .next { s with dev := (s.dev.reach t).timeUpdate src theta }) ∧
    (∀ (t : Nat) (src : Fin 4), s.dev.live = true → exec (.timeSourceLoss t src) s = .next { s with dev := (s.dev.reach t).timeLoss src }) ∧
    (∀ (t : Nat), s.dev.live = true → exec (.ppsOutRise t) s = .next { s with dev := (s.dev.reach t).ppsRise }) ∧
    (∀ (t : Nat), s.dev.live = true → exec (.ppsOutFall t) s = .next { s with dev := (s.dev.reach t).ppsLevel false }) ∧
    (∀ (t : Nat) (falling : Bool) (frac : Word), s.dev.live = true → exec (.ppsInEdge t falling frac) s = .next { s with dev := (s.dev.reach t).ppsEdge falling frac })

/-- The commands of the Alcove's own events, of power, reset, boot, hold-up, flash and heat complete (R483, R491, R494, R495, R508, R509, R516, R519, R521, R523, R524,
R527). That a power-up of the Alcove takes the commands that waited at its doors is the model's reading (`State.doorsOpen`, log 61). What a power-up makes of the test access port is the model's own (`Tap.after`, log 145), and so is the warning that the Alcove gets
of a power failure in standby (log 144). -/
def Obligations.AlcovePowerAndBootRowsComplete : Prop :=
  ∀ s : State,
    (∀ (t ot : Nat) (slot : Fin 8), exec (.exhibitProgress t ot slot) s = .next (State.alcShow { s with dev := s.dev.reach t, alc := s.alc.progressRecord ot slot })) ∧
    (∀ (t ot : Nat) (slot : Fin 8) (up : List CopyUpset), exec (.expCopyCheck t ot slot up) s = .next (State.alcShow { s with dev := s.dev.reach t, alc := s.alc.copyCheck ot slot up })) ∧
    (∀ (t ot : Nat), exec (.otSave t ot) s = .next (State.alcShow { s with dev := s.dev.reach t, alc := s.alc.save ot 2 })) ∧
    (∀ (t ot ppb : Nat), exec (.alcClkCheck t ot ppb) s = .next (State.alcShow { s with dev := s.dev.reach t, alc := s.alc.clkCheck ot ppb })) ∧
    (∀ (t : Nat) (opened : Bool), exec (.alcovePowerUp t opened) s = .next (State.alcShow { s with dev := s.dev.reach t, alc := s.alc.powerUp opened }).doorsOpen) ∧
    (∀ (t ot : Nat), exec (.alcWatchdog t ot) s = .next (State.alcShow { s with dev := s.dev.reach t, alc := s.alc.watchdog ot })) ∧
    (∀ (t : Nat) (straps : BitVec 8) (refclk : Bool), s.dev.live = true → exec (.bootResetRelease t straps refclk) s = .next { s with dev := (s.dev.reach t).bootRelease straps.toNat refclk }) ∧
    (∀ (t : Nat) (a b : Option (BitVec 16)), s.dev.live = true → exec (.fwImageChecked t a b) s = .next { s with dev := (s.dev.reach t).fwChecked (a.map BitVec.toNat) (b.map BitVec.toNat) }) ∧
    (∀ (t : Nat) (dead : List (Fin 64)) (sweeps : List (Fin 64 × List Sweep)), s.dev.live = true → exec (.hbmTrainingDone t dead sweeps) s = .next { s with dev := (s.dev.reach t).trainingDone (deadSweeps dead ++ sweeps.map fun x => (x.1.val, x.2)) }) ∧
    (∀ (t : Nat) (a : BitVec 26) (ws : List Word), s.dev.live = true → exec (.imageRecordWrite t a ws) s = .next (State.settle { s with dev := (fun al d => d.applies fun d => d.imageWrite al a.toNat ws) s.alc (s.dev.reach t) })) ∧
    (∀ (t : Nat) (es : List MaskEntry), s.dev.live = true → exec (.imageRecordMasked t es) s = .next (State.settle { s with dev := (fun al d => d.applies fun d => d.imageMasked al es) s.alc (s.dev.reach t) })) ∧
    (∀ (t : Nat) (page : BitVec 26) (item : BitVec 8) (ws : Mbx4), s.dev.live = true → exec (.imageRecordMailbox t page item ws) s = .next (State.settle { s with dev := (fun al d => d.applies fun d => d.imageMailbox al page.toNat item.toNat ws) s.alc (s.dev.reach t) })) ∧
    (∀ (t : Nat) (page : BitVec 26) (first : Word) (ws : List Word), s.dev.live = true → exec (.imageRecordIndirect t page first ws) s = .next (State.settle { s with dev := (fun al d => d.applies fun d => d.imageIndirect al page.toNat first ws) s.alc (s.dev.reach t) })) ∧
    (∀ (t : Nat) (asid : Fin 16) (va : BitVec 48) (data : List Byte), s.dev.live = true → exec (.imageRecordHbmLoad t asid va data) s = .next { s with dev := (fun d => d.applies fun d => d.imageLoad asid va.toNat data) (s.dev.reach t) }) ∧
    (∀ (t : Nat) (ref : Fin 8) (leadMs waitMs : Nat), s.dev.live = true → exec (.imageRecordCommit t ref leadMs waitMs) s = .next { s with
      dev := (fun d => d.applies fun d => d.imageCommit ref leadMs waitMs) (s.dev.reach t) }) ∧
    (∀ (t : Nat), s.dev.live = true → exec (.imageRecordEnd t) s = .next { s with dev := (s.dev.reach t).applies Dev.imageEnd }) ∧
    (∀ (t : Nat), s.dev.live = true → exec (.bootDone t) s = .next { s with dev := (s.dev.reach t).bootEnds }) ∧
    (∀ (t : Nat), s.dev.live = true → exec (.bootCommitRequest t) s = .next { s with dev := (s.dev.reach t).bootCommit }) ∧
    (∀ (t : Nat), exec (.pinReset t) s = .next { s with
      dev := (s.dev.reach t).pinReset, tap := s.tap.after (s.dev.reach t) (s.dev.reach t).pinReset }) ∧
    (∀ (t : Nat), exec (.resetRelease t) s = .next { s with dev := (s.dev.reach t).resetRelease s.tap }) ∧
    (∀ (t : Nat), s.dev.live = true → exec (.softwareResetEffect t) s = .next { s with dev := (s.dev.reach t).softReset }) ∧
    (∀ (t : Nat), s.dev.live = true → exec (.stewardWatchdog t) s = .next { s with dev := if (s.dev.reach t).pwr.fail.isSome then (s.dev.reach t) else (s.dev.reach t).modReset 3 }) ∧
    (∀ (t : Nat), exec (.powerFailStop t) s = .next { s with dev := (s.dev.reach t).failStop }) ∧
    (∀ (t ns : Nat), s.dev.chargerRuns = true → exec (.holdCapacityMeasured t ns) s = .next { s with dev := (s.dev.reach t).holdMeasured ns }) ∧
    (∀ (t : Nat) (mv : BitVec 17), s.dev.chargerRuns = true → exec (.holdLevelChange t mv) s = .next { s with dev := (s.dev.reach t).holdLevel mv.toNat }) ∧
    (∀ (t : Nat) (verified : Bool), s.dev.live = true → exec (.flashOpDone t verified) s =
      .next (State.settle { s with dev := (((s.dev.reach t).flashDone verified).loadDone).flashNext s.alc })) ∧
    (∀ (t : Nat), s.dev.live = true → exec (.thermalWindowDrop t) s = .next { s with dev := (s.dev.reach t).thermDrop }) ∧
    (∀ (t : Nat) (mv : BitVec 17) (alcLost : Bool), exec (.powerOn t mv alcLost) s = .next (State.alcShow { s with
      dev := (s.dev.reach t).powerOn mv.toNat,
      alc := if alcLost ∧ !s.dev.pwr.on ∧ !s.dev.pwr.standby then s.alc.powerDown else s.alc,
      tap := s.tap.after (s.dev.reach t) ((s.dev.reach t).powerOn mv.toNat) })) ∧
    (∀ (t ot : Nat) (ov : Bool), exec (.powerFail t ot ov) s = .next (State.alcShow { s with
      dev := (s.dev.reach t).failStart (if ov then 2 else 1),
      alc := if (s.dev.pwr.on ∨ s.dev.pwr.standby) ∧ s.dev.pwr.fail.isNone then s.alc.warning ot else s.alc })) ∧
    (∀ (t ot : Nat) (tj : BitVec 8), s.dev.live = true →
      (signedOf tj.toNat 8 < 110 → exec (.thermalSample t ot tj) s = .next { s with dev := (s.dev.reach t).thermSample (signedOf tj.toNat 8) }) ∧
      (110 ≤ signedOf tj.toNat 8 → exec (.thermalSample t ot tj) s = .next (State.alcShow { s with
        dev := (s.dev.reach t).thermTrip (signedOf tj.toNat 8),
        alc := if s.dev.pwr.on ∧ s.dev.pwr.fail.isNone then s.alc.warning ot else s.alc })))

/-- The commands of in-service operations, the monitor, self-tests and uploads complete (R535, R536, R537, R540, R541, R543, R544, R545). -/
def Obligations.ServiceRowsComplete : Prop :=
  ∀ s : State,
    (∀ (t : Nat), s.dev.live = true → exec (.opAnswer t) s = .next { s with dev := (s.dev.reach t).opAnswer }) ∧
    (∀ (t : Nat) (kind : BitVec 4) (target : BitVec 8), s.dev.live = true → exec (.opStart t kind target) s = .next { s with dev := (s.dev.reach t).opStart kind.toNat target.toNat }) ∧
    (∀ (t : Nat) (img : Option (BitVec 16)), s.dev.live = true → exec (.fwCheckDone t img) s = .next { s with dev := (s.dev.reach t).fwCheckDone (img.map BitVec.toNat) }) ∧
    (∀ (t : Nat), s.dev.live = true → exec (.fwSwitchPrepare t) s = .next { s with dev := (s.dev.reach t).fwPrepare }) ∧
    (∀ (t : Nat) (n : Fin 144) (ok : Bool), s.dev.live = true → exec (.reeqDone t n ok) s = .next { s with dev := (s.dev.reach t).reeqDone n ok }) ∧
    (∀ (t : Nat) (overrun : Bool), s.dev.live = true → exec (.lanePolicyRun t overrun) s = .next { s with dev := (s.dev.reach t).lanePolicy overrun }) ∧
    (∀ (t : Nat), s.dev.live = true → exec (.ururiHelp t) s = .next { s with dev := (fun d => d.ururi fun d => d.say ururiNames 0) (s.dev.reach t) }) ∧
    (∀ (t : Nat), s.dev.live = true → exec (.ururiId t) s = .next (State.settle { s with dev := (fun al d => d.ururi (Dev.ururiId al)) s.alc (s.dev.reach t) })) ∧
    (∀ (t : Nat) (n : Option Nat), s.dev.live = true → exec (.ururiLevel t n) s = .next { s with dev := (fun d => d.ururi fun d => d.ururiLevel n) (s.dev.reach t) }) ∧
    (∀ (t n : Nat), s.dev.live = true → exec (.ururiBaud t n) s = .next { s with dev := (fun d => d.ururi fun d => d.ururiBaud n) (s.dev.reach t) }) ∧
    (∀ (t : Nat) (a : BitVec 26) (count : Nat), s.dev.live = true → exec (.ururiRd t a count) s = .next (State.settle { s with dev := (fun al d => d.ururi fun d => d.ururiRd al a.toNat count) s.alc (s.dev.reach t) })) ∧
    (∀ (t : Nat) (a : BitVec 26) (v : Word), s.dev.live = true → exec (.ururiWr t a v) s = .next (State.settle { s with dev := (fun al d => d.ururi fun d => d.ururiWr al a.toNat v 0xFFFFFFFF) s.alc (s.dev.reach t) })) ∧
    (∀ (t : Nat) (a : BitVec 26) (m v : Word), s.dev.live = true → exec (.ururiWm t a m v) s = .next (State.settle { s with dev := (fun al d => d.ururi fun d => d.ururiWr al a.toNat v m) s.alc (s.dev.reach t) })) ∧
    (∀ (t : Nat) (page : BitVec 26) (first : Word) (count : Nat), s.dev.live = true → exec (.ururiInd t page first count) s = .next (State.settle { s with dev := (fun al d => d.ururi fun d => d.ururiInd al page.toNat first count) s.alc (s.dev.reach t) })) ∧
    (∀ (t : Nat) (page : BitVec 26) (first v : Word), s.dev.live = true → exec (.ururiIndw t page first v) s = .next (State.settle { s with dev := (fun al d => d.ururi fun d => d.ururiIndw al page.toNat first v) s.alc (s.dev.reach t) })) ∧
    (∀ (t : Nat) (page : BitVec 26) (item : BitVec 8) (ws : Option Mbx4), s.dev.live = true → exec (.ururiMbx t page item ws) s = .next (State.settle { s with dev := (fun al d => d.ururiFull fun d => d.ururiMbx al page.toNat item.toNat ws) s.alc (s.dev.reach t) })) ∧
    (∀ (t : Nat) (raw : Bool), s.dev.live = true → exec (.ururiEvt t raw) s = .next (State.settle { s with dev := (fun al d => d.ururiFull fun d => d.ururiEvt al raw) s.alc (s.dev.reach t) })) ∧
    (∀ (t : Nat), s.dev.live = true → exec (.ururiSnap t) s = .next { s with dev := (fun d => d.ururiFull fun d => (d.snapshot false).say [] 0) (s.dev.reach t) }) ∧
    (∀ (t : Nat) (readm : Bool), s.dev.live = true → exec (.ururiAdm t readm) s = .next { s with dev := (fun d => d.ururiFull fun d => d.ururiAdm readm) (s.dev.reach t) }) ∧
    (∀ (t : Nat), s.dev.live = true → exec (.testReg t) s = .next { s with dev := (fun d => d.ururiFull fun d => d.ururiTest 1 0 0) (s.dev.reach t) }) ∧
    (∀ (t : Nat), s.dev.live = true → exec (.testClock t) s = .next { s with dev := (fun d => d.ururiFull fun d => d.ururiTest 2 0 0) (s.dev.reach t) }) ∧
    (∀ (t : Nat), s.dev.live = true → exec (.testFlash t) s = .next { s with dev := (fun d => d.ururiFull fun d => d.ururiTest 3 0 0) (s.dev.reach t) }) ∧
    (∀ (t : Nat), s.dev.live = true → exec (.testCrc t) s = .next { s with dev := (fun d => d.ururiFull fun d => d.ururiTest 4 0 1) (s.dev.reach t) }) ∧
    (∀ (t : Nat), s.dev.live = true → exec (.testSram t) s = .next { s with dev := (fun d => d.ururiFull fun d => d.ururiTest 5 0 2) (s.dev.reach t) }) ∧
    (∀ (t : Nat) (n : Fin 144), s.dev.live = true → exec (.testLane t n) s = .next { s with dev := (fun d => d.ururiFull fun d => d.ururiTest 6 n 2) (s.dev.reach t) }) ∧
    (∀ (t : Nat) (pc : Fin 64), s.dev.live = true → exec (.testHbm t pc) s = .next { s with dev := (fun d => d.ururiFull fun d => d.ururiTest 7 pc 2) (s.dev.reach t) }) ∧
    (∀ (t errors : Nat), s.dev.live = true → exec (.testComplete t errors) s = .next { s with dev := (s.dev.reach t).testEnds errors }) ∧
    (∀ (t : Nat) (region : Fin 4), s.dev.live = true → exec (.ururiLoad t region) s = .next { s with dev := (fun d => d.ururi fun d => d.ururiLoad region) (s.dev.reach t) }) ∧
    (∀ (t : Nat) (b : Option XBlock) (sigOk : Bool), s.dev.live = true → exec (.xmodemBlock t b sigOk) s = .next { s with dev := (fun d => d.ururi fun d => d.xmodemBlock b sigOk) (s.dev.reach t) }) ∧
    (∀ (t : Nat), s.dev.live = true → exec (.loadTimeout t) s = .next { s with dev := (s.dev.reach t).loadTimeout }) ∧
    (∀ (t : Nat), s.dev.live = true → exec (.ururiIdleTimeout t) s = .next { s with dev := (s.dev.reach t).ururiIdle })
end

