-- ==== Sys2Proof/Laws/Table.lean ====
section
/-! SUPPORT. Laws of the sparse table: reading after writing, and the canonical form. -/

namespace Sys2Proof.Machine

variable {α : Type}

theorem Tab.get_insert_same (d : Nat → α) (m : Tab α) (k : Nat) (v : α) (h : ∀ e ∈ m, e.1 ≠ k) :
    Tab.get d (Tab.insert k v m) k = v := by
  induction m with
  | nil => simp [Tab.insert, Tab.get]
  | cons e m ih =>
    have h1 : e.1 ≠ k := h e (by simp)
    have h2 := ih fun x hx => h x (by simp [hx])
    unfold Tab.insert
    split <;> simp_all [Tab.get]

theorem Tab.get_insert_other (d : Nat → α) (m : Tab α) (k j : Nat) (v : α) (h : j ≠ k) :
    Tab.get d (Tab.insert k v m) j = Tab.get d m j := by
  induction m with
  | nil => simp [Tab.insert, Tab.get, Ne.symm h]
  | cons e m ih =>
    unfold Tab.insert
    split <;> simp [Tab.get, ih, Ne.symm h]

theorem Tab.get_erase_same (d : Nat → α) (m : Tab α) (k : Nat) : Tab.get d (Tab.erase k m) k = d k := by
  induction m with
  | nil => rfl
  | cons e m ih =>
    by_cases h : e.1 = k <;> simp_all [Tab.erase, Tab.get]

theorem Tab.get_erase_other (d : Nat → α) (m : Tab α) (k j : Nat) (h : j ≠ k) :
    Tab.get d (Tab.erase k m) j = Tab.get d m j := by
  induction m with
  | nil => rfl
  | cons e m ih =>
    by_cases h1 : e.1 = k
    · have : e.1 ≠ j := by omega
      simp_all [Tab.erase, Tab.get]
    · simp_all [Tab.erase, Tab.get]

theorem Tab.mem_erase (m : Tab α) (k : Nat) (e : Nat × α) : e ∈ Tab.erase k m ↔ e ∈ m ∧ e.1 ≠ k := by
  simp [Tab.erase]

/-- A read of the index just written. -/
@[simp] theorem Tab.get_set_same [DecidableEq α] (d : Nat → α) (m : Tab α) (k : Nat) (v : α) :
    Tab.get d (Tab.set d m k v) k = v := by
  unfold Tab.set
  split
  · rename_i h; rw [Tab.get_erase_same, h]
  · exact Tab.get_insert_same d _ k v fun e he => ((Tab.mem_erase m k e).1 he).2

/-- A write leaves every other index as it was. -/
theorem Tab.get_set_other [DecidableEq α] (d : Nat → α) (m : Tab α) (k j : Nat) (v : α) (h : j ≠ k) :
    Tab.get d (Tab.set d m k v) j = Tab.get d m j := by
  unfold Tab.set
  split
  · exact Tab.get_erase_other d m k j h
  · rw [Tab.get_insert_other d _ k j v h, Tab.get_erase_other d m k j h]

/-- What a read gives after a write. -/
theorem Tab.get_set [DecidableEq α] (d : Nat → α) (m : Tab α) (k j : Nat) (v : α) :
    Tab.get d (Tab.set d m k v) j = if j = k then v else Tab.get d m j := by
  split
  · rename_i h; subst h; simp
  · rename_i h; exact Tab.get_set_other d m k j v h

/-! ## The canonical form -/

theorem Tab.mem_insert (m : Tab α) (k : Nat) (v : α) (e : Nat × α) : e ∈ Tab.insert k v m ↔ e = (k, v) ∨ e ∈ m := by
  induction m with
  | nil => simp [Tab.insert]
  | cons x m ih =>
    unfold Tab.insert
    split
    · simp
    · simp [ih]; tauto

theorem Tab.sorted_insert (m : Tab α) (k : Nat) (v : α) (h : Tab.sorted m = true) (hk : ∀ e ∈ m, e.1 ≠ k) :
    Tab.sorted (Tab.insert k v m) = true := by
  induction m with
  | nil => simp [Tab.insert, Tab.sorted]
  | cons x m ih =>
    simp only [Tab.sorted, Bool.and_eq_true, List.all_eq_true, decide_eq_true_eq] at h
    have h1 : x.1 ≠ k := hk x (by simp)
    unfold Tab.insert
    split
    · rename_i hlt
      simp only [Tab.sorted, Bool.and_eq_true, List.all_eq_true, decide_eq_true_eq]
      refine ⟨fun f hf => ?_, h⟩
      rcases List.mem_cons.1 hf with rfl | hf
      · exact hlt
      · exact lt_trans hlt (h.1 f hf)
    · simp only [Tab.sorted, Bool.and_eq_true, List.all_eq_true, decide_eq_true_eq]
      refine ⟨fun f hf => ?_, ih h.2 fun e he => hk e (by simp [he])⟩
      rcases (Tab.mem_insert m k v f).1 hf with rfl | hf
      · simp; omega
      · exact h.1 f hf

theorem Tab.sorted_erase (m : Tab α) (k : Nat) (h : Tab.sorted m = true) : Tab.sorted (Tab.erase k m) = true := by
  induction m with
  | nil => rfl
  | cons x m ih =>
    simp only [Tab.sorted, Bool.and_eq_true, List.all_eq_true, decide_eq_true_eq] at h
    by_cases hx : x.1 = k
    · have : Tab.erase k (x :: m) = Tab.erase k m := by simp [Tab.erase, hx]
      rw [this]; exact ih h.2
    · have : Tab.erase k (x :: m) = x :: Tab.erase k m := by simp [Tab.erase, hx]
      rw [this]
      simp only [Tab.sorted, Bool.and_eq_true, List.all_eq_true, decide_eq_true_eq]
      exact ⟨fun f hf => h.1 f ((Tab.mem_erase m k f).1 hf).1, ih h.2⟩

/-- A write keeps the canonical form. -/
theorem Tab.wf_set [DecidableEq α] (d : Nat → α) (m : Tab α) (k : Nat) (v : α) (h : Tab.wf d m = true) :
    Tab.wf d (Tab.set d m k v) = true := by
  simp only [Tab.wf, Bool.and_eq_true, List.all_eq_true, decide_eq_true_eq] at h ⊢
  obtain ⟨hs, hd⟩ := h
  have hse := Tab.sorted_erase m k hs
  unfold Tab.set
  split
  · exact ⟨hse, fun e he => hd e ((Tab.mem_erase m k e).1 he).1⟩
  · rename_i hv
    refine ⟨Tab.sorted_insert _ k v hse fun e he => ((Tab.mem_erase m k e).1 he).2, fun e he => ?_⟩
    rcases (Tab.mem_insert _ k v e).1 he with rfl | he
    · exact hv
    · exact hd e ((Tab.mem_erase m k e).1 he).1

end Sys2Proof.Machine
end

