-- ==== Sys2Proof/Laws/Alcove.lean ====
section
/-! SUPPORT. What each operation of the Alcove keeps: the ring within its capacity, the seal count never falling and every
record that is not acknowledged. -/

namespace Sys2Proof.Machine

/-- An Alcove that has gone on from another with nothing lost. -/
structure Alcove.Keeps (a b : Alcove) : Prop where
  ok    : b.Ok
  after : a.After b
  recs  : ∀ q, b.oldest ≤ q → q < a.nextSeq → b.recordAt q = a.recordAt q

theorem Alcove.After.refl (a : Alcove) : a.After a := ⟨le_refl _, le_refl _, le_refl _⟩

theorem Alcove.Keeps.refl {a : Alcove} (h : a.Ok) : a.Keeps a := ⟨h, .refl a, fun _ _ _ => rfl⟩

theorem Alcove.Keeps.trans {a b c : Alcove} (h : a.Keeps b) (k : b.Keeps c) : a.Keeps c := by
  obtain ⟨_, ⟨s1, n1, o1⟩, r1⟩ := h
  obtain ⟨ok, ⟨s2, n2, o2⟩, r2⟩ := k
  refine ⟨ok, ⟨le_trans s1 s2, le_trans n1 n2, le_trans o1 o2⟩, fun q hq hl => ?_⟩
  rw [r2 q hq (by omega), r1 q (by omega) hl]

/-- An operation that touches neither the ring nor the count. -/
theorem Alcove.Keeps.same {a b : Alcove} (h : a.Ok) (h1 : b.ring = a.ring) (h2 : b.nextSeq = a.nextSeq)
    (h3 : b.oldest = a.oldest) (h4 : b.sealCount = a.sealCount) : a.Keeps b := by
  obtain ⟨o, r, c⟩ := h
  refine ⟨⟨by omega, by omega, by omega⟩, ⟨by omega, by omega, by omega⟩, fun q _ _ => ?_⟩
  simp [Alcove.recordAt, h1]

/-- A chain over a list. -/
theorem Alcove.Keeps.foldl {α : Type} (f : Alcove → α → Alcove) (hf : ∀ (a : Alcove) (x : α), a.Ok → a.Keeps (f a x)) (l : List α) (a : Alcove)
    (h : a.Ok) : a.Keeps (l.foldl f a) := by
  induction l generalizing a with
  | nil => exact .refl h
  | cons x l ih => exact (hf a x h).trans (ih _ (hf a x h).ok)

theorem Alcove.keeps_raise (a : Alcove) (e : Nat) (h : a.Ok) : a.Keeps (a.raise e) := .same h rfl rfl rfl rfl
theorem Alcove.keeps_setSlot (a : Alcove) (s : Nat) (v : Slot) (h : a.Ok) : a.Keeps (a.setSlot s v) := .same h rfl rfl rfl rfl
theorem Alcove.keeps_at (a : Alcove) (ot : Nat) (h : a.Ok) : a.Keeps (a.at ot) := .same h rfl rfl rfl rfl

/-- A record enters a ring that has room, and leaves every record still held as it was (R497). -/
theorem Alcove.keeps_push (a : Alcove) (type : Nat) (body : List Byte) (labels signed : Bool) (h : a.Ok) :
    a.Keeps (a.push type body labels signed) := by
  unfold Alcove.push
  split
  · exact .refl h
  · rename_i hf
    have hroom : a.nextSeq - a.oldest < ringSize := by unfold Alcove.free at hf; omega
    have key : ∀ (r : List Byte) (u : List Nat),
        a.Keeps { a with ring := Tab.set (fun _ => []) a.ring (a.nextSeq % ringSize) r, nextSeq := a.nextSeq + 1, unsigned := u } := by
      intro r u
      obtain ⟨o, k, c⟩ := h
      refine ⟨⟨?_, ?_, c⟩, ⟨le_refl _, Nat.le_succ _, le_refl _⟩, fun q hq hl => ?_⟩
      · show a.oldest ≤ a.nextSeq + 1; omega
      · show a.nextSeq + 1 ≤ a.oldest + ringSize; omega
      · have hq : a.oldest ≤ q := hq
        unfold Alcove.recordAt
        refine Tab.get_set_other _ _ _ _ _ ?_
        unfold ringSize at hroom ⊢
        omega
    have last : ∀ b : Alcove, b.Ok → b.Keeps (if (b.raise 768).free = 256 then (b.raise 768).raise 772 else b.raise 768) := by
      intro b hb
      have k2 := Alcove.keeps_raise b 768 hb
      split
      · exact k2.trans (Alcove.keeps_raise _ 772 k2.ok)
      · exact k2
    have k1 := key
      (a.header type false labels ++ recordBody body ++
        (if signed then ecdsaSign (a.header type false labels ++ recordBody body) else List.replicate 64 0))
      (if signed then a.unsigned else a.unsigned ++ [a.nextSeq])
    exact k1.trans (last _ k1.ok)

/-- What a signed record does to a ring with room: it stands at the next sequence number, and only the ring, the number and the events
change (R497, R498, R501). -/
theorem Alcove.push_eq (a : Alcove) (type : Nat) (body : List Byte) (labels : Bool) (h : a.free ≠ 0) :
    ∃ es, a.push type body labels true = { a with
      ring := Tab.set (fun _ => []) a.ring (a.nextSeq % ringSize)
        (a.header type false labels ++ recordBody body ++ ecdsaSign (a.header type false labels ++ recordBody body))
      nextSeq := a.nextSeq + 1
      evs := es } := by
  unfold Alcove.push
  simp only [if_neg h, if_true]
  split
  · exact ⟨_, rfl⟩
  · exact ⟨_, rfl⟩

/-- A record that leaves more free entries than exhibits closes none of them (R497). -/
theorem Alcove.reserve_eq (a : Alcove) (h : a.exhibits.length < a.free) : a.reserve = a := by
  unfold Alcove.reserve
  rw [if_pos (.inr h)]

@[simp] theorem bytesLE_length (n v : Nat) : (bytesLE n v).length = n := by simp [bytesLE]

@[simp] theorem ecdsaSign_length (bs : List Byte) : (ecdsaSign bs).length = 64 := by
  simp only [ecdsaSign, bytesBE, List.length_append, List.length_reverse, bytesLE_length]

/-- The header takes the first 48 bytes of a record (R498). -/
@[simp] theorem Alcove.header_length (a : Alcove) (type : Nat) (restart labels : Bool) :
    (a.header type restart labels).length = 48 := by
  simp [Alcove.header]

theorem Alcove.keeps_close (a : Alcove) (s : Nat) (k : ExEnd) (signed : Bool) (h : a.Ok) : a.Keeps (a.close s k signed) := by
  unfold Alcove.close
  have k1 := Alcove.keeps_push a 0x01 ((a.slot s).body s k) true signed h
  exact k1.trans (Alcove.keeps_setSlot _ _ _ k1.ok)

theorem Alcove.keeps_reserve (a : Alcove) (h : a.Ok) : a.Keeps a.reserve := by
  unfold Alcove.reserve
  split
  · exact .refl h
  · have k1 := Alcove.Keeps.foldl (fun a s => a.close s ⟨true, false, false, true⟩ true)
      (fun a x h => Alcove.keeps_close a x _ _ h) a.exhibits a h
    exact k1.trans (.same k1.ok rfl rfl rfl rfl)

theorem Alcove.keeps_record (a : Alcove) (type : Nat) (body : List Byte) (labels : Bool) (h : a.Ok) :
    a.Keeps (a.record type body labels) := by
  have k1 := Alcove.keeps_push a type body labels true h
  exact k1.trans (Alcove.keeps_reserve _ k1.ok)

theorem Alcove.keeps_recordLow (a : Alcove) (type : Nat) (body : List Byte) (labels : Bool) (h : a.Ok) :
    a.Keeps (a.recordLow type body labels) := by
  unfold Alcove.recordLow
  split
  · exact .refl h
  · exact Alcove.keeps_record a type body labels h

theorem Alcove.keeps_refFault (a : Alcove) (s kind tick : Nat) (h : a.Ok) : a.Keeps (a.refFault s kind tick) := by
  unfold Alcove.refFault
  have k1 := Alcove.keeps_record a 0x06 (bytesLE 8 (a.slot s).ident ++ [BitVec.ofNat 8 s, BitVec.ofNat 8 kind] ++ bytesLE 2 0 ++
    bytesLE 8 a.ot ++ bytesLE 4 tick) false h
  simp only
  split
  · exact k1
  · exact k1.trans (Alcove.keeps_raise _ _ k1.ok)

theorem Alcove.keeps_repair (a : Alcove) (s tick : Nat) (h : a.Ok) : a.Keeps (a.repair s tick) := by
  unfold Alcove.repair
  have k (v : Slot) (n : Nat) : a.Keeps ((a.setSlot s v).refFault s n tick) :=
    (Alcove.keeps_setSlot a s v h).trans (Alcove.keeps_refFault _ _ _ _ (Alcove.keeps_setSlot a s v h).ok)
  simp only
  split
  · exact .refl h
  · exact k _ _
  · exact k _ _
  · exact k _ _

theorem Alcove.keeps_copyCheck (a : Alcove) (ot s : Nat) (up : List CopyUpset) (h : a.Ok) : a.Keeps (a.copyCheck ot s up) := by
  unfold Alcove.copyCheck
  have k1 := Alcove.keeps_at a ot h
  split
  · exact k1
  · have k2 := k1.trans (Alcove.keeps_setSlot (a.at ot) s (((a.at ot).slot s).upset up) k1.ok)
    exact k2.trans (Alcove.keeps_repair _ _ _ k2.ok)

theorem Alcove.keeps_regionStart (a : Alcove) (s : Nat) (h : a.Ok) : a.Keeps (a.regionStart s) := by
  unfold Alcove.regionStart
  split
  · exact Alcove.keeps_setSlot _ _ _ h
  · exact .refl h

theorem Alcove.keeps_classify (a : Alcove) (s r tick : Nat) (h : a.Ok) : a.Keeps (a.classify s r tick) := by
  unfold Alcove.classify
  simp only
  have k0 : ∀ c : Prop, ∀ [Decidable c], a.Keeps (if c then a else a.repair s tick) := by
    intro c _; split
    · exact .refl h
    · exact Alcove.keeps_repair a s tick h
  have k1 := k0 ((a.slot s).lost = true ∨
    ((a.slot s).allowed.all fun k => (a.slot s).copyA[k]? == (a.slot s).copyB[k]?) = true)
  generalize (if (a.slot s).lost = true ∨
    ((a.slot s).allowed.all fun k => (a.slot s).copyA[k]? == (a.slot s).copyB[k]?) = true then a else a.repair s tick) = b at k1 ⊢
  refine k1.trans ?_
  have ks (v : Slot) := Alcove.keeps_setSlot b s v k1.ok
  split
  · exact .refl k1.ok
  · split
    · exact ks _
    · split
      · split
        · exact ks _
        · exact (ks _).trans (Alcove.keeps_refFault _ _ _ _ (ks _).ok)
      · split
        · exact ks _
        · exact ks _

theorem Alcove.keeps_regionEnd (a : Alcove) (ot s r : Nat) (short : Bool) (lb : Label) (tick : Nat) (up : List CopyUpset)
    (h : a.Ok) : a.Keeps (a.regionEnd ot s r short lb tick up) := by
  unfold Alcove.regionEnd
  have k1 : a.Keeps { a.at ot with label := lb, progNow := a.progressS } := .same h rfl rfl rfl rfl
  simp only
  generalize { a.at ot with label := lb, progNow := a.progressS } = b at k1 ⊢
  refine k1.trans ?_
  have ks (v : Slot) := Alcove.keeps_setSlot b s v k1.ok
  split
  · exact .refl k1.ok
  · split
    · exact ks _
    · exact (ks _).trans (Alcove.keeps_classify _ _ _ _ (ks _).ok)

theorem Alcove.keeps_progress (a : Alcove) (ot s : Nat) (h : a.Ok) : a.Keeps (a.progressRecord ot s) := by
  unfold Alcove.progressRecord
  have k1 := Alcove.keeps_at a ot h
  simp only
  generalize a.at ot = b at k1 ⊢
  refine k1.trans ?_
  have ks (v : Slot) := Alcove.keeps_setSlot b s v k1.ok
  split
  · exact .refl k1.ok
  · exact (ks _).trans (Alcove.keeps_recordLow _ _ _ _ (ks _).ok)

/-! ## Commands -/

theorem Alcove.keeps_reply (a : Alcove) (key op status seq : Nat) (h : a.Ok) : a.Keeps (a.reply key op status seq) :=
  .same h rfl rfl rfl rfl

/-- ACK gives up only the records it names, which are written (R497). -/
theorem Alcove.keeps_ack (a : Alcove) (q : Nat) (h : a.Ok) : a.Keeps (a.cmdAck q).2.2 := by
  unfold Alcove.cmdAck
  simp only
  split
  · exact .refl h
  · rename_i hk
    obtain ⟨o, r, c⟩ := h
    refine ⟨⟨?_, ?_, c⟩, ⟨le_refl _, le_refl _, ?_⟩, fun _ _ _ => rfl⟩
    · simp only; omega
    · simp only; omega
    · simp only; omega

theorem Alcove.keeps_fw (a : Alcove) (img : Option Nat) (h : a.Ok) : a.Keeps (a.cmdFw img).2.2 := by
  unfold Alcove.cmdFw
  split
  · exact .refl h
  · split
    · exact .refl h
    · split
      · exact .refl h
      · have k1 := Alcove.Keeps.foldl (fun a s => a.close s ⟨true, false, true, false⟩ true)
          (fun a x h => Alcove.keeps_close a x _ _ h) a.exhibits a h
        simp only
        generalize a.exhibits.foldl (fun a s => a.close s ⟨true, false, true, false⟩ true) a = b at k1 ⊢
        refine k1.trans ?_
        generalize hr : b.record 0x07 _ false = c
        have k2 : b.Keeps c := hr ▸ Alcove.keeps_record b _ _ _ k1.ok
        exact k2.trans (.same k2.ok rfl rfl rfl rfl)

theorem Alcove.keeps_param (a : Alcove) (i v : Nat) (h : a.Ok) : a.Keeps (a.cmdParam i v).2.2 := by
  unfold Alcove.cmdParam
  simp only
  split
  · exact .refl h
  · split
    · exact .refl h
    · unfold Alcove.cmdRecord
      simp only
      split
      · have k1 : a.Keeps { a with progressS := v } := .same h rfl rfl rfl rfl
        exact k1.trans (Alcove.keeps_record _ _ _ _ k1.ok)
      · have k1 : a.Keeps { a with truncK := v } := .same h rfl rfl rfl rfl
        exact k1.trans (Alcove.keeps_record _ _ _ _ k1.ok)

theorem Alcove.keeps_dispatch (a : Alcove) (c : AlcCmd) (up : List CopyUpset) (img : Option Nat) (h : a.Ok) :
    a.Keeps (a.dispatch c up img).2.2 := by
  have kr := Alcove.Keeps.refl h
  have ks (s : Nat) (v : Slot) := Alcove.keeps_setSlot a s v h
  unfold Alcove.dispatch
  simp only
  split
  · split
    · exact kr
    · split
      · exact kr
      · split
        · exact Alcove.keeps_param a _ _ h
        · exact Alcove.keeps_fw a _ h
  · split
    · unfold Alcove.cmdDeclare; simp only; repeat' split
      all_goals first | exact kr | exact ks _ _
    · unfold Alcove.cmdTiming; simp only; repeat' split
      all_goals first | exact kr | exact ks _ _
    · unfold Alcove.cmdLoad; simp only; repeat' split
      all_goals first | exact kr | exact ks _ _
    · unfold Alcove.cmdArm Alcove.cmdRecord; simp only; repeat' split
      all_goals first | exact kr | exact (ks _ _).trans (Alcove.keeps_record _ _ _ _ (ks _ _).ok)
    · unfold Alcove.cmdEnd Alcove.cmdRecord; repeat' split
      all_goals first
        | exact kr
        | exact (Alcove.keeps_close a _ _ _ h).trans (Alcove.keeps_reserve _ (Alcove.keeps_close a _ _ _ h).ok)
    · exact Alcove.keeps_ack a _ h
    · unfold Alcove.cmdIdentify Alcove.cmdRecord; repeat' split
      all_goals first | exact kr | exact Alcove.keeps_record _ _ _ _ h
    · exact kr

theorem Alcove.keeps_command (a : Alcove) (c : AlcCmd) (up : List CopyUpset) (img : Option Nat) (h : a.Ok) :
    a.Keeps (a.command c up img) := by
  unfold Alcove.command
  split
  · exact .refl h
  · exact (Alcove.keeps_dispatch a c up img h).trans (Alcove.keeps_reply _ _ _ _ _ (Alcove.keeps_dispatch a c up img h).ok)

theorem Alcove.keeps_stage (a : Alcove) (k : Nat) (w : Word) (h : a.Ok) : a.Keeps (a.stage k w) := by
  unfold Alcove.stage
  split
  · exact .same h rfl rfl rfl rfl
  · exact .refl h

/-! ## The seal, power and supervision -/

theorem Alcove.keeps_sealRecord (a : Alcove) (h : a.Ok) : a.Keeps a.sealRecord := by
  unfold Alcove.sealRecord
  exact (Alcove.keeps_record _ _ _ _ h).trans (Alcove.keeps_raise _ _ (Alcove.keeps_record _ _ _ _ h).ok)

/-- A count that does not fall and stays in its bound is stored (R489). -/
theorem Alcove.keeps_count (a : Alcove) (o so : Bool) (n : Nat) (h : a.Ok) (h1 : a.sealCount ≤ n) (h2 : n ≤ 65535) :
    a.Keeps { a.sealStore n with opened := o, savedOpen := so } :=
  ⟨⟨h.order, h.room, h2⟩, ⟨h1, le_refl _, le_refl _⟩, fun _ _ _ => rfl⟩

theorem Alcove.keeps_sealChange (a : Alcove) (ot : Nat) (opened : Bool) (h : a.Ok) : a.Keeps (a.sealChange ot opened) := by
  unfold Alcove.sealChange
  have k1 := Alcove.keeps_at a ot h
  simp only
  generalize a.at ot = b at k1 ⊢
  refine k1.trans ?_
  split
  · exact .refl k1.ok
  · have hb := k1.ok.seals
    have k2 := Alcove.keeps_count b opened opened (if opened then min 65535 (b.sealCount + 1) else b.sealCount) k1.ok
      (by split <;> omega) (by split <;> omega)
    exact k2.trans (Alcove.keeps_sealRecord _ k2.ok)

/-- What the copies hold never falls below the count, and keeps its bound (R489). -/
theorem Alcove.sealRead_le (a : Alcove) (h : a.Ok) : a.sealCount ≤ a.sealRead ∧ a.sealRead ≤ 65535 := by
  have := h.seals
  unfold Alcove.sealRead
  simp only
  omega

theorem Alcove.keeps_save (a : Alcove) (ot kind : Nat) (h : a.Ok) : a.Keeps (a.save ot kind) := by
  unfold Alcove.save
  have k1 := Alcove.keeps_at a ot h
  simp only
  split
  · exact .same h rfl rfl rfl rfl
  · exact k1

theorem Alcove.keeps_warning (a : Alcove) (ot : Nat) (h : a.Ok) : a.Keeps (a.warning ot) := by
  unfold Alcove.warning
  split
  · exact .refl h
  · have k1 := Alcove.keeps_save a ot 1 h
    exact k1.trans (Alcove.Keeps.foldl (fun a s => a.close s ⟨true, true, false, false⟩ false)
      (fun a x h => Alcove.keeps_close a x _ _ h) _ _ k1.ok)

theorem Alcove.keeps_powerDown (a : Alcove) (h : a.Ok) : a.Keeps a.powerDown := .same h rfl rfl rfl rfl
theorem Alcove.keeps_clkCheck (a : Alcove) (ot ppb : Nat) (h : a.Ok) : a.Keeps (a.clkCheck ot ppb) := by
  unfold Alcove.clkCheck
  simp only
  repeat' split
  all_goals exact .same h rfl rfl rfl rfl
theorem Alcove.keeps_watchdog (a : Alcove) (ot : Nat) (h : a.Ok) : a.Keeps (a.watchdog ot) := Alcove.keeps_at a ot h

/-- Signing changes neither the sequence numbers nor the count. -/
theorem Alcove.signPending_same (a : Alcove) :
    a.signPending.nextSeq = a.nextSeq ∧ a.signPending.oldest = a.oldest ∧ a.signPending.sealCount = a.sealCount := by
  unfold Alcove.signPending
  have h : ∀ (l : List Nat) (b : Alcove), b.nextSeq = a.nextSeq ∧ b.oldest = a.oldest ∧ b.sealCount = a.sealCount →
      let c := l.foldl (fun a q =>
        let r := Tab.get (fun _ => []) a.ring (q % ringSize)
        let b := (r.take 128).mapIdx fun i x => if i = 22 then x ||| 8 else x
        { a with ring := Tab.set (fun _ => []) a.ring (q % ringSize) (b ++ ecdsaSign b) }) b
      c.nextSeq = a.nextSeq ∧ c.oldest = a.oldest ∧ c.sealCount = a.sealCount := by
    intro l
    induction l with
    | nil => intro b hb; exact hb
    | cons q l ih => intro b hb; exact ih _ hb
  exact h a.unsigned { a with unsigned := [] } ⟨rfl, rfl, rfl⟩

/-- At power-up records are signed in place; the ring and the count go on as anywhere else (R489, R492). -/
theorem Alcove.powerUp_after (a : Alcove) (opened : Bool) (h : a.Ok) : (a.powerUp opened).Ok ∧ a.After (a.powerUp opened) := by
  unfold Alcove.powerUp
  split
  · exact ⟨h, .refl a⟩
  · have hs := Alcove.signPending_same { a with
      on := true, ot := a.savedOt, powerUps := a.powerUps + 1, slots := [], suspect := false, progNow := a.progressS, fwOt := none }
    simp only
    generalize Alcove.signPending { a with
      on := true, ot := a.savedOt, powerUps := a.powerUps + 1, slots := [], suspect := false, progNow := a.progressS, fwOt := none } = b
      at hs ⊢
    obtain ⟨h1, h2, h3⟩ := hs
    simp only at h1 h2 h3
    obtain ⟨x, y, z⟩ := h
    have hb : b.Ok := ⟨by omega, by omega, by omega⟩
    obtain ⟨r1, r2⟩ := Alcove.sealRead_le b hb
    generalize hn : (if opened = true ∧ (!b.savedOpen) = true then min 65535 (b.sealRead + 1) else b.sealRead) = n
    have n1 : b.sealCount ≤ n := by subst hn; split <;> omega
    have n2 : n ≤ 65535 := by subst hn; split <;> omega
    have k1 := Alcove.keeps_count b opened opened n hb n1 n2
    have fin : ∀ c : Alcove, b.Keeps c → c.Ok ∧ a.After c := fun c k =>
      ⟨k.ok, ⟨by have := k.after.seals; omega, by have := k.after.next; omega, by have := k.after.old; omega⟩⟩
    generalize { b.sealStore n with opened := opened, savedOpen := opened } = e at k1 ⊢
    have k2 (body : List Byte) : b.Keeps (if e.free = 0 then e.record 0x04 body true else (e.record 0x04 body true).raise 775) := by
      have kr := k1.trans (Alcove.keeps_record e 0x04 body true k1.ok)
      split
      · exact kr
      · exact kr.trans (Alcove.keeps_raise _ 775 kr.ok)
    split
    · exact fin _ ((k2 _).trans (Alcove.keeps_sealRecord _ (k2 _).ok))
    · exact fin _ (k2 _)

end Sys2Proof.Machine
end

