-- ==== Sys2Proof/Laws/State.lean ====
section
/-! SUPPORT. What each update of the module leaves as it was: one lemma for each field and update. -/

namespace Sys2Proof.Machine

variable (d : Dev)

/-! ## `at` -/

@[simp] theorem Dev.at_seed (t : Nat) : (d.at t).seed = d.seed := rfl
@[simp] theorem Dev.at_h48 (t : Nat) : (d.at t).h48 = d.h48 := rfl
@[simp] theorem Dev.at_serial (t : Nat) : (d.at t).serial = d.serial := rfl
@[simp] theorem Dev.at_baseMac (t : Nat) : (d.at t).baseMac = d.baseMac := rfl
@[simp] theorem Dev.at_factoryOk (t : Nat) : (d.at t).factoryOk = d.factoryOk := rfl
@[simp] theorem Dev.at_fenceLog (t : Nat) : (d.at t).fenceLog = d.fenceLog := rfl
@[simp] theorem Dev.at_struck (t : Nat) : (d.at t).struck = d.struck := rfl
@[simp] theorem Dev.at_regs (t : Nat) : (d.at t).regs = d.regs := rfl
@[simp] theorem Dev.at_out (t : Nat) : (d.at t).out = d.out := rfl
@[simp] theorem Dev.at_first (t : Nat) : (d.at t).first = d.first := rfl
@[simp] theorem Dev.at_msTick (t : Nat) : (d.at t).msTick = d.msTick := rfl
@[simp] theorem Dev.at_commit (t : Nat) : (d.at t).commit = d.commit := rfl
@[simp] theorem Dev.at_dry (t : Nat) : (d.at t).dry = d.dry := rfl
@[simp] theorem Dev.at_answer (t : Nat) : (d.at t).answer = d.answer := rfl
@[simp] theorem Dev.at_answerIn (t : Nat) : (d.at t).answerIn = d.answerIn := rfl
@[simp] theorem Dev.at_report (t : Nat) : (d.at t).report = d.report := rfl
@[simp] theorem Dev.at_reReport (t : Nat) : (d.at t).reReport = d.reReport := rfl
@[simp] theorem Dev.at_readmit (t : Nat) : (d.at t).readmit = d.readmit := rfl
@[simp] theorem Dev.at_shed (t : Nat) : (d.at t).shed = d.shed := rfl
@[simp] theorem Dev.at_galLost (t : Nat) : (d.at t).galLost = d.galLost := rfl
@[simp] theorem Dev.at_canvases (t : Nat) : (d.at t).canvases = d.canvases := rfl
@[simp] theorem Dev.at_layers (t : Nat) : (d.at t).layers = d.layers := rfl
@[simp] theorem Dev.at_halls (t : Nat) : (d.at t).halls = d.halls := rfl
@[simp] theorem Dev.at_gal (t : Nat) : (d.at t).gal = d.gal := rfl
@[simp] theorem Dev.at_wbRows (t : Nat) : (d.at t).wbRows = d.wbRows := rfl
@[simp] theorem Dev.at_wins (t : Nat) : (d.at t).wins = d.wins := rfl
@[simp] theorem Dev.at_lanes (t : Nat) : (d.at t).lanes = d.lanes := rfl
@[simp] theorem Dev.at_laneQ (t : Nat) : (d.at t).laneQ = d.laneQ := rfl
@[simp] theorem Dev.at_hostQ (t : Nat) : (d.at t).hostQ = d.hostQ := rfl
@[simp] theorem Dev.at_policers (t : Nat) : (d.at t).policers = d.policers := rfl
@[simp] theorem Dev.at_shapers (t : Nat) : (d.at t).shapers = d.shapers := rfl
@[simp] theorem Dev.at_samplers (t : Nat) : (d.at t).samplers = d.samplers := rfl
@[simp] theorem Dev.at_polMs (t : Nat) : (d.at t).polMs = d.polMs := rfl
@[simp] theorem Dev.at_ptp (t : Nat) : (d.at t).ptp = d.ptp := rfl
@[simp] theorem Dev.at_slave (t : Nat) : (d.at t).slave = d.slave := rfl
@[simp] theorem Dev.at_recvs (t : Nat) : (d.at t).recvs = d.recvs := rfl
@[simp] theorem Dev.at_sessions (t : Nat) : (d.at t).sessions = d.sessions := rfl
@[simp] theorem Dev.at_challenges (t : Nat) : (d.at t).challenges = d.challenges := rfl
@[simp] theorem Dev.at_keys (t : Nat) : (d.at t).keys = d.keys := rfl
@[simp] theorem Dev.at_keyStage (t : Nat) : (d.at t).keyStage = d.keyStage := rfl
@[simp] theorem Dev.at_bulk (t : Nat) : (d.at t).bulk = d.bulk := rfl
@[simp] theorem Dev.at_pulse (t : Nat) : (d.at t).pulse = d.pulse := rfl
@[simp] theorem Dev.at_pulseOn (t : Nat) : (d.at t).pulseOn = d.pulseOn := rfl
@[simp] theorem Dev.at_snapTick (t : Nat) : (d.at t).snapTick = d.snapTick := rfl
@[simp] theorem Dev.at_snapCanvas (t : Nat) : (d.at t).snapCanvas = d.snapCanvas := rfl
@[simp] theorem Dev.at_snapFrom (t : Nat) : (d.at t).snapFrom = d.snapFrom := rfl
@[simp] theorem Dev.at_hbm (t : Nat) : (d.at t).hbm = d.hbm := rfl
@[simp] theorem Dev.at_bad (t : Nat) : (d.at t).bad = d.bad := rfl
@[simp] theorem Dev.at_pcq (t : Nat) : (d.at t).pcq = d.pcq := rfl
@[simp] theorem Dev.at_migr (t : Nat) : (d.at t).migr = d.migr := rfl
@[simp] theorem Dev.at_journal (t : Nat) : (d.at t).journal = d.journal := rfl
@[simp] theorem Dev.at_eccLast (t : Nat) : (d.at t).eccLast = d.eccLast := rfl
@[simp] theorem Dev.at_classB (t : Nat) : (d.at t).classB = d.classB := rfl
@[simp] theorem Dev.at_heldB (t : Nat) : (d.at t).heldB = d.heldB := rfl
@[simp] theorem Dev.at_owed (t : Nat) : (d.at t).owed = d.owed := rfl
@[simp] theorem Dev.at_scrub (t : Nat) : (d.at t).scrub = d.scrub := rfl
@[simp] theorem Dev.at_ceTimes (t : Nat) : (d.at t).ceTimes = d.ceTimes := rfl
@[simp] theorem Dev.at_meets (t : Nat) : (d.at t).meets = d.meets := rfl
@[simp] theorem Dev.at_policyMet (t : Nat) : (d.at t).policyMet = d.policyMet := rfl
@[simp] theorem Dev.at_ueSeen (t : Nat) : (d.at t).ueSeen = d.ueSeen := rfl
@[simp] theorem Dev.at_leaves (t : Nat) : (d.at t).leaves = d.leaves := rfl
@[simp] theorem Dev.at_wcache (t : Nat) : (d.at t).wcache = d.wcache := rfl
@[simp] theorem Dev.at_walks (t : Nat) : (d.at t).walks = d.walks := rfl
@[simp] theorem Dev.at_ingest (t : Nat) : (d.at t).ingest = d.ingest := rfl
@[simp] theorem Dev.at_faults (t : Nat) : (d.at t).faults = d.faults := rfl
@[simp] theorem Dev.at_lostOpen (t : Nat) : (d.at t).lostOpen = d.lostOpen := rfl
@[simp] theorem Dev.at_invAt (t : Nat) : (d.at t).invAt = d.invAt := rfl
@[simp] theorem Dev.at_casc (t : Nat) : (d.at t).casc = d.casc := rfl
@[simp] theorem Dev.at_chans (t : Nat) : (d.at t).chans = d.chans := rfl
@[simp] theorem Dev.at_starts (t : Nat) : (d.at t).starts = d.starts := rfl
@[simp] theorem Dev.at_serving (t : Nat) : (d.at t).serving = d.serving := rfl
@[simp] theorem Dev.at_cus (t : Nat) : (d.at t).cus = d.cus := rfl
@[simp] theorem Dev.at_clk (t : Nat) : (d.at t).clk = d.clk := rfl
@[simp] theorem Dev.at_pwr (t : Nat) : (d.at t).pwr = d.pwr := rfl
@[simp] theorem Dev.at_stw (t : Nat) : (d.at t).stw = d.stw := rfl
@[simp] theorem Dev.at_alcq (t : Nat) : (d.at t).alcq = d.alcq := rfl
@[simp] theorem Dev.at_alcSeen (t : Nat) : (d.at t).alcSeen = d.alcSeen := rfl
@[simp] theorem Dev.at_alcFind (t : Nat) : (d.at t).alcFind = d.alcFind := rfl
@[simp] theorem Dev.at_alcOn (t : Nat) : (d.at t).alcOn = d.alcOn := rfl
@[simp] theorem Dev.at_otSeen (t : Nat) : (d.at t).otSeen = d.otSeen := rfl
@[simp] theorem Dev.at_sealOpen (t : Nat) : (d.at t).sealOpen = d.sealOpen := rfl

/-! ## `drawn` -/

@[simp] theorem Dev.drawn_now : d.drawn.now = d.now := rfl
@[simp] theorem Dev.drawn_h48 : d.drawn.h48 = d.h48 := rfl
@[simp] theorem Dev.drawn_serial : d.drawn.serial = d.serial := rfl
@[simp] theorem Dev.drawn_baseMac : d.drawn.baseMac = d.baseMac := rfl
@[simp] theorem Dev.drawn_factoryOk : d.drawn.factoryOk = d.factoryOk := rfl
@[simp] theorem Dev.drawn_fenceLog : d.drawn.fenceLog = d.fenceLog := rfl
@[simp] theorem Dev.drawn_struck : d.drawn.struck = d.struck := rfl
@[simp] theorem Dev.drawn_regs : d.drawn.regs = d.regs := rfl
@[simp] theorem Dev.drawn_out : d.drawn.out = d.out := rfl
@[simp] theorem Dev.drawn_first : d.drawn.first = d.first := rfl
@[simp] theorem Dev.drawn_msTick : d.drawn.msTick = d.msTick := rfl
@[simp] theorem Dev.drawn_commit : d.drawn.commit = d.commit := rfl
@[simp] theorem Dev.drawn_dry : d.drawn.dry = d.dry := rfl
@[simp] theorem Dev.drawn_answer : d.drawn.answer = d.answer := rfl
@[simp] theorem Dev.drawn_answerIn : d.drawn.answerIn = d.answerIn := rfl
@[simp] theorem Dev.drawn_report : d.drawn.report = d.report := rfl
@[simp] theorem Dev.drawn_reReport : d.drawn.reReport = d.reReport := rfl
@[simp] theorem Dev.drawn_readmit : d.drawn.readmit = d.readmit := rfl
@[simp] theorem Dev.drawn_shed : d.drawn.shed = d.shed := rfl
@[simp] theorem Dev.drawn_galLost : d.drawn.galLost = d.galLost := rfl
@[simp] theorem Dev.drawn_canvases : d.drawn.canvases = d.canvases := rfl
@[simp] theorem Dev.drawn_layers : d.drawn.layers = d.layers := rfl
@[simp] theorem Dev.drawn_halls : d.drawn.halls = d.halls := rfl
@[simp] theorem Dev.drawn_gal : d.drawn.gal = d.gal := rfl
@[simp] theorem Dev.drawn_wbRows : d.drawn.wbRows = d.wbRows := rfl
@[simp] theorem Dev.drawn_wins : d.drawn.wins = d.wins := rfl
@[simp] theorem Dev.drawn_lanes : d.drawn.lanes = d.lanes := rfl
@[simp] theorem Dev.drawn_laneQ : d.drawn.laneQ = d.laneQ := rfl
@[simp] theorem Dev.drawn_hostQ : d.drawn.hostQ = d.hostQ := rfl
@[simp] theorem Dev.drawn_policers : d.drawn.policers = d.policers := rfl
@[simp] theorem Dev.drawn_shapers : d.drawn.shapers = d.shapers := rfl
@[simp] theorem Dev.drawn_samplers : d.drawn.samplers = d.samplers := rfl
@[simp] theorem Dev.drawn_polMs : d.drawn.polMs = d.polMs := rfl
@[simp] theorem Dev.drawn_ptp : d.drawn.ptp = d.ptp := rfl
@[simp] theorem Dev.drawn_slave : d.drawn.slave = d.slave := rfl
@[simp] theorem Dev.drawn_recvs : d.drawn.recvs = d.recvs := rfl
@[simp] theorem Dev.drawn_sessions : d.drawn.sessions = d.sessions := rfl
@[simp] theorem Dev.drawn_challenges : d.drawn.challenges = d.challenges := rfl
@[simp] theorem Dev.drawn_keys : d.drawn.keys = d.keys := rfl
@[simp] theorem Dev.drawn_keyStage : d.drawn.keyStage = d.keyStage := rfl
@[simp] theorem Dev.drawn_bulk : d.drawn.bulk = d.bulk := rfl
@[simp] theorem Dev.drawn_pulse : d.drawn.pulse = d.pulse := rfl
@[simp] theorem Dev.drawn_pulseOn : d.drawn.pulseOn = d.pulseOn := rfl
@[simp] theorem Dev.drawn_snapTick : d.drawn.snapTick = d.snapTick := rfl
@[simp] theorem Dev.drawn_snapCanvas : d.drawn.snapCanvas = d.snapCanvas := rfl
@[simp] theorem Dev.drawn_snapFrom : d.drawn.snapFrom = d.snapFrom := rfl
@[simp] theorem Dev.drawn_hbm : d.drawn.hbm = d.hbm := rfl
@[simp] theorem Dev.drawn_bad : d.drawn.bad = d.bad := rfl
@[simp] theorem Dev.drawn_pcq : d.drawn.pcq = d.pcq := rfl
@[simp] theorem Dev.drawn_migr : d.drawn.migr = d.migr := rfl
@[simp] theorem Dev.drawn_journal : d.drawn.journal = d.journal := rfl
@[simp] theorem Dev.drawn_eccLast : d.drawn.eccLast = d.eccLast := rfl
@[simp] theorem Dev.drawn_classB : d.drawn.classB = d.classB := rfl
@[simp] theorem Dev.drawn_heldB : d.drawn.heldB = d.heldB := rfl
@[simp] theorem Dev.drawn_owed : d.drawn.owed = d.owed := rfl
@[simp] theorem Dev.drawn_scrub : d.drawn.scrub = d.scrub := rfl
@[simp] theorem Dev.drawn_ceTimes : d.drawn.ceTimes = d.ceTimes := rfl
@[simp] theorem Dev.drawn_meets : d.drawn.meets = d.meets := rfl
@[simp] theorem Dev.drawn_policyMet : d.drawn.policyMet = d.policyMet := rfl
@[simp] theorem Dev.drawn_ueSeen : d.drawn.ueSeen = d.ueSeen := rfl
@[simp] theorem Dev.drawn_leaves : d.drawn.leaves = d.leaves := rfl
@[simp] theorem Dev.drawn_wcache : d.drawn.wcache = d.wcache := rfl
@[simp] theorem Dev.drawn_walks : d.drawn.walks = d.walks := rfl
@[simp] theorem Dev.drawn_ingest : d.drawn.ingest = d.ingest := rfl
@[simp] theorem Dev.drawn_faults : d.drawn.faults = d.faults := rfl
@[simp] theorem Dev.drawn_lostOpen : d.drawn.lostOpen = d.lostOpen := rfl
@[simp] theorem Dev.drawn_invAt : d.drawn.invAt = d.invAt := rfl
@[simp] theorem Dev.drawn_casc : d.drawn.casc = d.casc := rfl
@[simp] theorem Dev.drawn_chans : d.drawn.chans = d.chans := rfl
@[simp] theorem Dev.drawn_starts : d.drawn.starts = d.starts := rfl
@[simp] theorem Dev.drawn_serving : d.drawn.serving = d.serving := rfl
@[simp] theorem Dev.drawn_cus : d.drawn.cus = d.cus := rfl
@[simp] theorem Dev.drawn_clk : d.drawn.clk = d.clk := rfl
@[simp] theorem Dev.drawn_pwr : d.drawn.pwr = d.pwr := rfl
@[simp] theorem Dev.drawn_stw : d.drawn.stw = d.stw := rfl
@[simp] theorem Dev.drawn_alcq : d.drawn.alcq = d.alcq := rfl
@[simp] theorem Dev.drawn_alcSeen : d.drawn.alcSeen = d.alcSeen := rfl
@[simp] theorem Dev.drawn_alcFind : d.drawn.alcFind = d.alcFind := rfl
@[simp] theorem Dev.drawn_alcOn : d.drawn.alcOn = d.alcOn := rfl
@[simp] theorem Dev.drawn_otSeen : d.drawn.otSeen = d.otSeen := rfl
@[simp] theorem Dev.drawn_sealOpen : d.drawn.sealOpen = d.sealOpen := rfl

/-! ## `emit` -/

@[simp] theorem Dev.emit_now (e : Emit) : (d.emit e).now = d.now := rfl
@[simp] theorem Dev.emit_seed (e : Emit) : (d.emit e).seed = d.seed := rfl
@[simp] theorem Dev.emit_h48 (e : Emit) : (d.emit e).h48 = d.h48 := rfl
@[simp] theorem Dev.emit_serial (e : Emit) : (d.emit e).serial = d.serial := rfl
@[simp] theorem Dev.emit_baseMac (e : Emit) : (d.emit e).baseMac = d.baseMac := rfl
@[simp] theorem Dev.emit_factoryOk (e : Emit) : (d.emit e).factoryOk = d.factoryOk := rfl
@[simp] theorem Dev.emit_fenceLog (e : Emit) : (d.emit e).fenceLog = d.fenceLog := rfl
@[simp] theorem Dev.emit_struck (e : Emit) : (d.emit e).struck = d.struck := rfl
@[simp] theorem Dev.emit_regs (e : Emit) : (d.emit e).regs = d.regs := rfl
@[simp] theorem Dev.emit_first (e : Emit) : (d.emit e).first = d.first := rfl
@[simp] theorem Dev.emit_msTick (e : Emit) : (d.emit e).msTick = d.msTick := rfl
@[simp] theorem Dev.emit_commit (e : Emit) : (d.emit e).commit = d.commit := rfl
@[simp] theorem Dev.emit_dry (e : Emit) : (d.emit e).dry = d.dry := rfl
@[simp] theorem Dev.emit_answer (e : Emit) : (d.emit e).answer = d.answer := rfl
@[simp] theorem Dev.emit_answerIn (e : Emit) : (d.emit e).answerIn = d.answerIn := rfl
@[simp] theorem Dev.emit_report (e : Emit) : (d.emit e).report = d.report := rfl
@[simp] theorem Dev.emit_reReport (e : Emit) : (d.emit e).reReport = d.reReport := rfl
@[simp] theorem Dev.emit_readmit (e : Emit) : (d.emit e).readmit = d.readmit := rfl
@[simp] theorem Dev.emit_shed (e : Emit) : (d.emit e).shed = d.shed := rfl
@[simp] theorem Dev.emit_galLost (e : Emit) : (d.emit e).galLost = d.galLost := rfl
@[simp] theorem Dev.emit_canvases (e : Emit) : (d.emit e).canvases = d.canvases := rfl
@[simp] theorem Dev.emit_layers (e : Emit) : (d.emit e).layers = d.layers := rfl
@[simp] theorem Dev.emit_halls (e : Emit) : (d.emit e).halls = d.halls := rfl
@[simp] theorem Dev.emit_gal (e : Emit) : (d.emit e).gal = d.gal := rfl
@[simp] theorem Dev.emit_wbRows (e : Emit) : (d.emit e).wbRows = d.wbRows := rfl
@[simp] theorem Dev.emit_wins (e : Emit) : (d.emit e).wins = d.wins := rfl
@[simp] theorem Dev.emit_lanes (e : Emit) : (d.emit e).lanes = d.lanes := rfl
@[simp] theorem Dev.emit_laneQ (e : Emit) : (d.emit e).laneQ = d.laneQ := rfl
@[simp] theorem Dev.emit_hostQ (e : Emit) : (d.emit e).hostQ = d.hostQ := rfl
@[simp] theorem Dev.emit_policers (e : Emit) : (d.emit e).policers = d.policers := rfl
@[simp] theorem Dev.emit_shapers (e : Emit) : (d.emit e).shapers = d.shapers := rfl
@[simp] theorem Dev.emit_samplers (e : Emit) : (d.emit e).samplers = d.samplers := rfl
@[simp] theorem Dev.emit_polMs (e : Emit) : (d.emit e).polMs = d.polMs := rfl
@[simp] theorem Dev.emit_ptp (e : Emit) : (d.emit e).ptp = d.ptp := rfl
@[simp] theorem Dev.emit_slave (e : Emit) : (d.emit e).slave = d.slave := rfl
@[simp] theorem Dev.emit_recvs (e : Emit) : (d.emit e).recvs = d.recvs := rfl
@[simp] theorem Dev.emit_sessions (e : Emit) : (d.emit e).sessions = d.sessions := rfl
@[simp] theorem Dev.emit_challenges (e : Emit) : (d.emit e).challenges = d.challenges := rfl
@[simp] theorem Dev.emit_keys (e : Emit) : (d.emit e).keys = d.keys := rfl
@[simp] theorem Dev.emit_keyStage (e : Emit) : (d.emit e).keyStage = d.keyStage := rfl
@[simp] theorem Dev.emit_bulk (e : Emit) : (d.emit e).bulk = d.bulk := rfl
@[simp] theorem Dev.emit_pulse (e : Emit) : (d.emit e).pulse = d.pulse := rfl
@[simp] theorem Dev.emit_pulseOn (e : Emit) : (d.emit e).pulseOn = d.pulseOn := rfl
@[simp] theorem Dev.emit_snapTick (e : Emit) : (d.emit e).snapTick = d.snapTick := rfl
@[simp] theorem Dev.emit_snapCanvas (e : Emit) : (d.emit e).snapCanvas = d.snapCanvas := rfl
@[simp] theorem Dev.emit_snapFrom (e : Emit) : (d.emit e).snapFrom = d.snapFrom := rfl
@[simp] theorem Dev.emit_hbm (e : Emit) : (d.emit e).hbm = d.hbm := rfl
@[simp] theorem Dev.emit_bad (e : Emit) : (d.emit e).bad = d.bad := rfl
@[simp] theorem Dev.emit_pcq (e : Emit) : (d.emit e).pcq = d.pcq := rfl
@[simp] theorem Dev.emit_migr (e : Emit) : (d.emit e).migr = d.migr := rfl
@[simp] theorem Dev.emit_journal (e : Emit) : (d.emit e).journal = d.journal := rfl
@[simp] theorem Dev.emit_eccLast (e : Emit) : (d.emit e).eccLast = d.eccLast := rfl
@[simp] theorem Dev.emit_classB (e : Emit) : (d.emit e).classB = d.classB := rfl
@[simp] theorem Dev.emit_heldB (e : Emit) : (d.emit e).heldB = d.heldB := rfl
@[simp] theorem Dev.emit_owed (e : Emit) : (d.emit e).owed = d.owed := rfl
@[simp] theorem Dev.emit_scrub (e : Emit) : (d.emit e).scrub = d.scrub := rfl
@[simp] theorem Dev.emit_ceTimes (e : Emit) : (d.emit e).ceTimes = d.ceTimes := rfl
@[simp] theorem Dev.emit_meets (e : Emit) : (d.emit e).meets = d.meets := rfl
@[simp] theorem Dev.emit_policyMet (e : Emit) : (d.emit e).policyMet = d.policyMet := rfl
@[simp] theorem Dev.emit_ueSeen (e : Emit) : (d.emit e).ueSeen = d.ueSeen := rfl
@[simp] theorem Dev.emit_leaves (e : Emit) : (d.emit e).leaves = d.leaves := rfl
@[simp] theorem Dev.emit_wcache (e : Emit) : (d.emit e).wcache = d.wcache := rfl
@[simp] theorem Dev.emit_walks (e : Emit) : (d.emit e).walks = d.walks := rfl
@[simp] theorem Dev.emit_ingest (e : Emit) : (d.emit e).ingest = d.ingest := rfl
@[simp] theorem Dev.emit_faults (e : Emit) : (d.emit e).faults = d.faults := rfl
@[simp] theorem Dev.emit_lostOpen (e : Emit) : (d.emit e).lostOpen = d.lostOpen := rfl
@[simp] theorem Dev.emit_invAt (e : Emit) : (d.emit e).invAt = d.invAt := rfl
@[simp] theorem Dev.emit_casc (e : Emit) : (d.emit e).casc = d.casc := rfl
@[simp] theorem Dev.emit_chans (e : Emit) : (d.emit e).chans = d.chans := rfl
@[simp] theorem Dev.emit_starts (e : Emit) : (d.emit e).starts = d.starts := rfl
@[simp] theorem Dev.emit_serving (e : Emit) : (d.emit e).serving = d.serving := rfl
@[simp] theorem Dev.emit_cus (e : Emit) : (d.emit e).cus = d.cus := rfl
@[simp] theorem Dev.emit_clk (e : Emit) : (d.emit e).clk = d.clk := rfl
@[simp] theorem Dev.emit_pwr (e : Emit) : (d.emit e).pwr = d.pwr := rfl
@[simp] theorem Dev.emit_stw (e : Emit) : (d.emit e).stw = d.stw := rfl
@[simp] theorem Dev.emit_alcq (e : Emit) : (d.emit e).alcq = d.alcq := rfl
@[simp] theorem Dev.emit_alcSeen (e : Emit) : (d.emit e).alcSeen = d.alcSeen := rfl
@[simp] theorem Dev.emit_alcFind (e : Emit) : (d.emit e).alcFind = d.alcFind := rfl
@[simp] theorem Dev.emit_alcOn (e : Emit) : (d.emit e).alcOn = d.alcOn := rfl
@[simp] theorem Dev.emit_otSeen (e : Emit) : (d.emit e).otSeen = d.otSeen := rfl
@[simp] theorem Dev.emit_sealOpen (e : Emit) : (d.emit e).sealOpen = d.sealOpen := rfl

/-! ## `clearMarks` -/

@[simp] theorem Dev.clearMarks_now (c : Nat) : (d.clearMarks c).now = d.now := rfl
@[simp] theorem Dev.clearMarks_seed (c : Nat) : (d.clearMarks c).seed = d.seed := rfl
@[simp] theorem Dev.clearMarks_h48 (c : Nat) : (d.clearMarks c).h48 = d.h48 := rfl
@[simp] theorem Dev.clearMarks_serial (c : Nat) : (d.clearMarks c).serial = d.serial := rfl
@[simp] theorem Dev.clearMarks_baseMac (c : Nat) : (d.clearMarks c).baseMac = d.baseMac := rfl
@[simp] theorem Dev.clearMarks_factoryOk (c : Nat) : (d.clearMarks c).factoryOk = d.factoryOk := rfl
@[simp] theorem Dev.clearMarks_fenceLog (c : Nat) : (d.clearMarks c).fenceLog = d.fenceLog := rfl
@[simp] theorem Dev.clearMarks_struck (c : Nat) : (d.clearMarks c).struck = d.struck := rfl
@[simp] theorem Dev.clearMarks_regs (c : Nat) : (d.clearMarks c).regs = d.regs := rfl
@[simp] theorem Dev.clearMarks_out (c : Nat) : (d.clearMarks c).out = d.out := rfl
@[simp] theorem Dev.clearMarks_msTick (c : Nat) : (d.clearMarks c).msTick = d.msTick := rfl
@[simp] theorem Dev.clearMarks_commit (c : Nat) : (d.clearMarks c).commit = d.commit := rfl
@[simp] theorem Dev.clearMarks_dry (c : Nat) : (d.clearMarks c).dry = d.dry := rfl
@[simp] theorem Dev.clearMarks_answer (c : Nat) : (d.clearMarks c).answer = d.answer := rfl
@[simp] theorem Dev.clearMarks_answerIn (c : Nat) : (d.clearMarks c).answerIn = d.answerIn := rfl
@[simp] theorem Dev.clearMarks_report (c : Nat) : (d.clearMarks c).report = d.report := rfl
@[simp] theorem Dev.clearMarks_reReport (c : Nat) : (d.clearMarks c).reReport = d.reReport := rfl
@[simp] theorem Dev.clearMarks_readmit (c : Nat) : (d.clearMarks c).readmit = d.readmit := rfl
@[simp] theorem Dev.clearMarks_shed (c : Nat) : (d.clearMarks c).shed = d.shed := rfl
@[simp] theorem Dev.clearMarks_galLost (c : Nat) : (d.clearMarks c).galLost = d.galLost := rfl
@[simp] theorem Dev.clearMarks_canvases (c : Nat) : (d.clearMarks c).canvases = d.canvases := rfl
@[simp] theorem Dev.clearMarks_layers (c : Nat) : (d.clearMarks c).layers = d.layers := rfl
@[simp] theorem Dev.clearMarks_halls (c : Nat) : (d.clearMarks c).halls = d.halls := rfl
@[simp] theorem Dev.clearMarks_gal (c : Nat) : (d.clearMarks c).gal = d.gal := rfl
@[simp] theorem Dev.clearMarks_wbRows (c : Nat) : (d.clearMarks c).wbRows = d.wbRows := rfl
@[simp] theorem Dev.clearMarks_wins (c : Nat) : (d.clearMarks c).wins = d.wins := rfl
@[simp] theorem Dev.clearMarks_lanes (c : Nat) : (d.clearMarks c).lanes = d.lanes := rfl
@[simp] theorem Dev.clearMarks_laneQ (c : Nat) : (d.clearMarks c).laneQ = d.laneQ := rfl
@[simp] theorem Dev.clearMarks_hostQ (c : Nat) : (d.clearMarks c).hostQ = d.hostQ := rfl
@[simp] theorem Dev.clearMarks_policers (c : Nat) : (d.clearMarks c).policers = d.policers := rfl
@[simp] theorem Dev.clearMarks_shapers (c : Nat) : (d.clearMarks c).shapers = d.shapers := rfl
@[simp] theorem Dev.clearMarks_samplers (c : Nat) : (d.clearMarks c).samplers = d.samplers := rfl
@[simp] theorem Dev.clearMarks_polMs (c : Nat) : (d.clearMarks c).polMs = d.polMs := rfl
@[simp] theorem Dev.clearMarks_ptp (c : Nat) : (d.clearMarks c).ptp = d.ptp := rfl
@[simp] theorem Dev.clearMarks_slave (c : Nat) : (d.clearMarks c).slave = d.slave := rfl
@[simp] theorem Dev.clearMarks_recvs (c : Nat) : (d.clearMarks c).recvs = d.recvs := rfl
@[simp] theorem Dev.clearMarks_sessions (c : Nat) : (d.clearMarks c).sessions = d.sessions := rfl
@[simp] theorem Dev.clearMarks_challenges (c : Nat) : (d.clearMarks c).challenges = d.challenges := rfl
@[simp] theorem Dev.clearMarks_keys (c : Nat) : (d.clearMarks c).keys = d.keys := rfl
@[simp] theorem Dev.clearMarks_keyStage (c : Nat) : (d.clearMarks c).keyStage = d.keyStage := rfl
@[simp] theorem Dev.clearMarks_bulk (c : Nat) : (d.clearMarks c).bulk = d.bulk := rfl
@[simp] theorem Dev.clearMarks_pulse (c : Nat) : (d.clearMarks c).pulse = d.pulse := rfl
@[simp] theorem Dev.clearMarks_pulseOn (c : Nat) : (d.clearMarks c).pulseOn = d.pulseOn := rfl
@[simp] theorem Dev.clearMarks_snapTick (c : Nat) : (d.clearMarks c).snapTick = d.snapTick := rfl
@[simp] theorem Dev.clearMarks_snapCanvas (c : Nat) : (d.clearMarks c).snapCanvas = d.snapCanvas := rfl
@[simp] theorem Dev.clearMarks_snapFrom (c : Nat) : (d.clearMarks c).snapFrom = d.snapFrom := rfl
@[simp] theorem Dev.clearMarks_hbm (c : Nat) : (d.clearMarks c).hbm = d.hbm := rfl
@[simp] theorem Dev.clearMarks_bad (c : Nat) : (d.clearMarks c).bad = d.bad := rfl
@[simp] theorem Dev.clearMarks_pcq (c : Nat) : (d.clearMarks c).pcq = d.pcq := rfl
@[simp] theorem Dev.clearMarks_migr (c : Nat) : (d.clearMarks c).migr = d.migr := rfl
@[simp] theorem Dev.clearMarks_journal (c : Nat) : (d.clearMarks c).journal = d.journal := rfl
@[simp] theorem Dev.clearMarks_eccLast (c : Nat) : (d.clearMarks c).eccLast = d.eccLast := rfl
@[simp] theorem Dev.clearMarks_classB (c : Nat) : (d.clearMarks c).classB = d.classB := rfl
@[simp] theorem Dev.clearMarks_heldB (c : Nat) : (d.clearMarks c).heldB = d.heldB := rfl
@[simp] theorem Dev.clearMarks_owed (c : Nat) : (d.clearMarks c).owed = d.owed := rfl
@[simp] theorem Dev.clearMarks_scrub (c : Nat) : (d.clearMarks c).scrub = d.scrub := rfl
@[simp] theorem Dev.clearMarks_ceTimes (c : Nat) : (d.clearMarks c).ceTimes = d.ceTimes := rfl
@[simp] theorem Dev.clearMarks_meets (c : Nat) : (d.clearMarks c).meets = d.meets := rfl
@[simp] theorem Dev.clearMarks_policyMet (c : Nat) : (d.clearMarks c).policyMet = d.policyMet := rfl
@[simp] theorem Dev.clearMarks_ueSeen (c : Nat) : (d.clearMarks c).ueSeen = d.ueSeen := rfl
@[simp] theorem Dev.clearMarks_leaves (c : Nat) : (d.clearMarks c).leaves = d.leaves := rfl
@[simp] theorem Dev.clearMarks_wcache (c : Nat) : (d.clearMarks c).wcache = d.wcache := rfl
@[simp] theorem Dev.clearMarks_walks (c : Nat) : (d.clearMarks c).walks = d.walks := rfl
@[simp] theorem Dev.clearMarks_ingest (c : Nat) : (d.clearMarks c).ingest = d.ingest := rfl
@[simp] theorem Dev.clearMarks_faults (c : Nat) : (d.clearMarks c).faults = d.faults := rfl
@[simp] theorem Dev.clearMarks_lostOpen (c : Nat) : (d.clearMarks c).lostOpen = d.lostOpen := rfl
@[simp] theorem Dev.clearMarks_invAt (c : Nat) : (d.clearMarks c).invAt = d.invAt := rfl
@[simp] theorem Dev.clearMarks_casc (c : Nat) : (d.clearMarks c).casc = d.casc := rfl
@[simp] theorem Dev.clearMarks_chans (c : Nat) : (d.clearMarks c).chans = d.chans := rfl
@[simp] theorem Dev.clearMarks_starts (c : Nat) : (d.clearMarks c).starts = d.starts := rfl
@[simp] theorem Dev.clearMarks_serving (c : Nat) : (d.clearMarks c).serving = d.serving := rfl
@[simp] theorem Dev.clearMarks_cus (c : Nat) : (d.clearMarks c).cus = d.cus := rfl
@[simp] theorem Dev.clearMarks_clk (c : Nat) : (d.clearMarks c).clk = d.clk := rfl
@[simp] theorem Dev.clearMarks_pwr (c : Nat) : (d.clearMarks c).pwr = d.pwr := rfl
@[simp] theorem Dev.clearMarks_stw (c : Nat) : (d.clearMarks c).stw = d.stw := rfl
@[simp] theorem Dev.clearMarks_alcq (c : Nat) : (d.clearMarks c).alcq = d.alcq := rfl
@[simp] theorem Dev.clearMarks_alcSeen (c : Nat) : (d.clearMarks c).alcSeen = d.alcSeen := rfl
@[simp] theorem Dev.clearMarks_alcFind (c : Nat) : (d.clearMarks c).alcFind = d.alcFind := rfl
@[simp] theorem Dev.clearMarks_alcOn (c : Nat) : (d.clearMarks c).alcOn = d.alcOn := rfl
@[simp] theorem Dev.clearMarks_otSeen (c : Nat) : (d.clearMarks c).otSeen = d.otSeen := rfl
@[simp] theorem Dev.clearMarks_sealOpen (c : Nat) : (d.clearMarks c).sealOpen = d.sealOpen := rfl

/-! ## `setStored` -/

@[simp] theorem Dev.setStored_now (a : Nat) (w : Word) : (d.setStored a w).now = d.now := rfl
@[simp] theorem Dev.setStored_seed (a : Nat) (w : Word) : (d.setStored a w).seed = d.seed := rfl
@[simp] theorem Dev.setStored_h48 (a : Nat) (w : Word) : (d.setStored a w).h48 = d.h48 := rfl
@[simp] theorem Dev.setStored_serial (a : Nat) (w : Word) : (d.setStored a w).serial = d.serial := rfl
@[simp] theorem Dev.setStored_baseMac (a : Nat) (w : Word) : (d.setStored a w).baseMac = d.baseMac := rfl
@[simp] theorem Dev.setStored_factoryOk (a : Nat) (w : Word) : (d.setStored a w).factoryOk = d.factoryOk := rfl
@[simp] theorem Dev.setStored_fenceLog (a : Nat) (w : Word) : (d.setStored a w).fenceLog = d.fenceLog := rfl
@[simp] theorem Dev.setStored_struck (a : Nat) (w : Word) : (d.setStored a w).struck = d.struck := rfl
@[simp] theorem Dev.setStored_out (a : Nat) (w : Word) : (d.setStored a w).out = d.out := rfl
@[simp] theorem Dev.setStored_first (a : Nat) (w : Word) : (d.setStored a w).first = d.first := rfl
@[simp] theorem Dev.setStored_msTick (a : Nat) (w : Word) : (d.setStored a w).msTick = d.msTick := rfl
@[simp] theorem Dev.setStored_commit (a : Nat) (w : Word) : (d.setStored a w).commit = d.commit := rfl
@[simp] theorem Dev.setStored_dry (a : Nat) (w : Word) : (d.setStored a w).dry = d.dry := rfl
@[simp] theorem Dev.setStored_answer (a : Nat) (w : Word) : (d.setStored a w).answer = d.answer := rfl
@[simp] theorem Dev.setStored_answerIn (a : Nat) (w : Word) : (d.setStored a w).answerIn = d.answerIn := rfl
@[simp] theorem Dev.setStored_report (a : Nat) (w : Word) : (d.setStored a w).report = d.report := rfl
@[simp] theorem Dev.setStored_reReport (a : Nat) (w : Word) : (d.setStored a w).reReport = d.reReport := rfl
@[simp] theorem Dev.setStored_readmit (a : Nat) (w : Word) : (d.setStored a w).readmit = d.readmit := rfl
@[simp] theorem Dev.setStored_shed (a : Nat) (w : Word) : (d.setStored a w).shed = d.shed := rfl
@[simp] theorem Dev.setStored_galLost (a : Nat) (w : Word) : (d.setStored a w).galLost = d.galLost := rfl
@[simp] theorem Dev.setStored_canvases (a : Nat) (w : Word) : (d.setStored a w).canvases = d.canvases := rfl
@[simp] theorem Dev.setStored_layers (a : Nat) (w : Word) : (d.setStored a w).layers = d.layers := rfl
@[simp] theorem Dev.setStored_halls (a : Nat) (w : Word) : (d.setStored a w).halls = d.halls := rfl
@[simp] theorem Dev.setStored_gal (a : Nat) (w : Word) : (d.setStored a w).gal = d.gal := rfl
@[simp] theorem Dev.setStored_wbRows (a : Nat) (w : Word) : (d.setStored a w).wbRows = d.wbRows := rfl
@[simp] theorem Dev.setStored_wins (a : Nat) (w : Word) : (d.setStored a w).wins = d.wins := rfl
@[simp] theorem Dev.setStored_lanes (a : Nat) (w : Word) : (d.setStored a w).lanes = d.lanes := rfl
@[simp] theorem Dev.setStored_laneQ (a : Nat) (w : Word) : (d.setStored a w).laneQ = d.laneQ := rfl
@[simp] theorem Dev.setStored_hostQ (a : Nat) (w : Word) : (d.setStored a w).hostQ = d.hostQ := rfl
@[simp] theorem Dev.setStored_policers (a : Nat) (w : Word) : (d.setStored a w).policers = d.policers := rfl
@[simp] theorem Dev.setStored_shapers (a : Nat) (w : Word) : (d.setStored a w).shapers = d.shapers := rfl
@[simp] theorem Dev.setStored_samplers (a : Nat) (w : Word) : (d.setStored a w).samplers = d.samplers := rfl
@[simp] theorem Dev.setStored_polMs (a : Nat) (w : Word) : (d.setStored a w).polMs = d.polMs := rfl
@[simp] theorem Dev.setStored_ptp (a : Nat) (w : Word) : (d.setStored a w).ptp = d.ptp := rfl
@[simp] theorem Dev.setStored_slave (a : Nat) (w : Word) : (d.setStored a w).slave = d.slave := rfl
@[simp] theorem Dev.setStored_recvs (a : Nat) (w : Word) : (d.setStored a w).recvs = d.recvs := rfl
@[simp] theorem Dev.setStored_sessions (a : Nat) (w : Word) : (d.setStored a w).sessions = d.sessions := rfl
@[simp] theorem Dev.setStored_challenges (a : Nat) (w : Word) : (d.setStored a w).challenges = d.challenges := rfl
@[simp] theorem Dev.setStored_keys (a : Nat) (w : Word) : (d.setStored a w).keys = d.keys := rfl
@[simp] theorem Dev.setStored_keyStage (a : Nat) (w : Word) : (d.setStored a w).keyStage = d.keyStage := rfl
@[simp] theorem Dev.setStored_bulk (a : Nat) (w : Word) : (d.setStored a w).bulk = d.bulk := rfl
@[simp] theorem Dev.setStored_pulse (a : Nat) (w : Word) : (d.setStored a w).pulse = d.pulse := rfl
@[simp] theorem Dev.setStored_pulseOn (a : Nat) (w : Word) : (d.setStored a w).pulseOn = d.pulseOn := rfl
@[simp] theorem Dev.setStored_snapTick (a : Nat) (w : Word) : (d.setStored a w).snapTick = d.snapTick := rfl
@[simp] theorem Dev.setStored_snapCanvas (a : Nat) (w : Word) : (d.setStored a w).snapCanvas = d.snapCanvas := rfl
@[simp] theorem Dev.setStored_snapFrom (a : Nat) (w : Word) : (d.setStored a w).snapFrom = d.snapFrom := rfl
@[simp] theorem Dev.setStored_hbm (a : Nat) (w : Word) : (d.setStored a w).hbm = d.hbm := rfl
@[simp] theorem Dev.setStored_bad (a : Nat) (w : Word) : (d.setStored a w).bad = d.bad := rfl
@[simp] theorem Dev.setStored_pcq (a : Nat) (w : Word) : (d.setStored a w).pcq = d.pcq := rfl
@[simp] theorem Dev.setStored_migr (a : Nat) (w : Word) : (d.setStored a w).migr = d.migr := rfl
@[simp] theorem Dev.setStored_journal (a : Nat) (w : Word) : (d.setStored a w).journal = d.journal := rfl
@[simp] theorem Dev.setStored_eccLast (a : Nat) (w : Word) : (d.setStored a w).eccLast = d.eccLast := rfl
@[simp] theorem Dev.setStored_classB (a : Nat) (w : Word) : (d.setStored a w).classB = d.classB := rfl
@[simp] theorem Dev.setStored_heldB (a : Nat) (w : Word) : (d.setStored a w).heldB = d.heldB := rfl
@[simp] theorem Dev.setStored_owed (a : Nat) (w : Word) : (d.setStored a w).owed = d.owed := rfl
@[simp] theorem Dev.setStored_scrub (a : Nat) (w : Word) : (d.setStored a w).scrub = d.scrub := rfl
@[simp] theorem Dev.setStored_ceTimes (a : Nat) (w : Word) : (d.setStored a w).ceTimes = d.ceTimes := rfl
@[simp] theorem Dev.setStored_meets (a : Nat) (w : Word) : (d.setStored a w).meets = d.meets := rfl
@[simp] theorem Dev.setStored_policyMet (a : Nat) (w : Word) : (d.setStored a w).policyMet = d.policyMet := rfl
@[simp] theorem Dev.setStored_ueSeen (a : Nat) (w : Word) : (d.setStored a w).ueSeen = d.ueSeen := rfl
@[simp] theorem Dev.setStored_leaves (a : Nat) (w : Word) : (d.setStored a w).leaves = d.leaves := rfl
@[simp] theorem Dev.setStored_wcache (a : Nat) (w : Word) : (d.setStored a w).wcache = d.wcache := rfl
@[simp] theorem Dev.setStored_walks (a : Nat) (w : Word) : (d.setStored a w).walks = d.walks := rfl
@[simp] theorem Dev.setStored_ingest (a : Nat) (w : Word) : (d.setStored a w).ingest = d.ingest := rfl
@[simp] theorem Dev.setStored_faults (a : Nat) (w : Word) : (d.setStored a w).faults = d.faults := rfl
@[simp] theorem Dev.setStored_lostOpen (a : Nat) (w : Word) : (d.setStored a w).lostOpen = d.lostOpen := rfl
@[simp] theorem Dev.setStored_invAt (a : Nat) (w : Word) : (d.setStored a w).invAt = d.invAt := rfl
@[simp] theorem Dev.setStored_casc (a : Nat) (w : Word) : (d.setStored a w).casc = d.casc := rfl
@[simp] theorem Dev.setStored_chans (a : Nat) (w : Word) : (d.setStored a w).chans = d.chans := rfl
@[simp] theorem Dev.setStored_starts (a : Nat) (w : Word) : (d.setStored a w).starts = d.starts := rfl
@[simp] theorem Dev.setStored_serving (a : Nat) (w : Word) : (d.setStored a w).serving = d.serving := rfl
@[simp] theorem Dev.setStored_cus (a : Nat) (w : Word) : (d.setStored a w).cus = d.cus := rfl
@[simp] theorem Dev.setStored_clk (a : Nat) (w : Word) : (d.setStored a w).clk = d.clk := rfl
@[simp] theorem Dev.setStored_pwr (a : Nat) (w : Word) : (d.setStored a w).pwr = d.pwr := rfl
@[simp] theorem Dev.setStored_stw (a : Nat) (w : Word) : (d.setStored a w).stw = d.stw := rfl
@[simp] theorem Dev.setStored_alcq (a : Nat) (w : Word) : (d.setStored a w).alcq = d.alcq := rfl
@[simp] theorem Dev.setStored_alcSeen (a : Nat) (w : Word) : (d.setStored a w).alcSeen = d.alcSeen := rfl
@[simp] theorem Dev.setStored_alcFind (a : Nat) (w : Word) : (d.setStored a w).alcFind = d.alcFind := rfl
@[simp] theorem Dev.setStored_alcOn (a : Nat) (w : Word) : (d.setStored a w).alcOn = d.alcOn := rfl
@[simp] theorem Dev.setStored_otSeen (a : Nat) (w : Word) : (d.setStored a w).otSeen = d.otSeen := rfl
@[simp] theorem Dev.setStored_sealOpen (a : Nat) (w : Word) : (d.setStored a w).sealOpen = d.sealOpen := rfl
@[simp] theorem Dev.setStored_regs_active (a : Nat) (w : Word) : (d.setStored a w).regs.active = d.regs.active := rfl
@[simp] theorem Dev.setStored_regs_pend (a : Nat) (w : Word) : (d.setStored a w).regs.pend = d.regs.pend := rfl
@[simp] theorem Dev.setStored_regs_dry (a : Nat) (w : Word) : (d.setStored a w).regs.dry = d.regs.dry := rfl
@[simp] theorem Dev.setStored_regs_held (a : Nat) (w : Word) : (d.setStored a w).regs.held = d.regs.held := rfl
@[simp] theorem Dev.setStored_regs_loc (a : Nat) (w : Word) : (d.setStored a w).regs.loc = d.regs.loc := rfl
@[simp] theorem Dev.setStored_regs_ind (a : Nat) (w : Word) : (d.setStored a w).regs.ind = d.regs.ind := rfl
@[simp] theorem Dev.setStored_regs_heldInd (a : Nat) (w : Word) : (d.setStored a w).regs.heldInd = d.regs.heldInd := rfl

/-! ## `put` -/

@[simp] theorem Dev.put_now (r : FieldRef) (v : Nat) : (d.put r v).now = d.now := rfl
@[simp] theorem Dev.put_seed (r : FieldRef) (v : Nat) : (d.put r v).seed = d.seed := rfl
@[simp] theorem Dev.put_h48 (r : FieldRef) (v : Nat) : (d.put r v).h48 = d.h48 := rfl
@[simp] theorem Dev.put_serial (r : FieldRef) (v : Nat) : (d.put r v).serial = d.serial := rfl
@[simp] theorem Dev.put_baseMac (r : FieldRef) (v : Nat) : (d.put r v).baseMac = d.baseMac := rfl
@[simp] theorem Dev.put_factoryOk (r : FieldRef) (v : Nat) : (d.put r v).factoryOk = d.factoryOk := rfl
@[simp] theorem Dev.put_fenceLog (r : FieldRef) (v : Nat) : (d.put r v).fenceLog = d.fenceLog := rfl
@[simp] theorem Dev.put_struck (r : FieldRef) (v : Nat) : (d.put r v).struck = d.struck := rfl
@[simp] theorem Dev.put_out (r : FieldRef) (v : Nat) : (d.put r v).out = d.out := rfl
@[simp] theorem Dev.put_first (r : FieldRef) (v : Nat) : (d.put r v).first = d.first := rfl
@[simp] theorem Dev.put_msTick (r : FieldRef) (v : Nat) : (d.put r v).msTick = d.msTick := rfl
@[simp] theorem Dev.put_commit (r : FieldRef) (v : Nat) : (d.put r v).commit = d.commit := rfl
@[simp] theorem Dev.put_dry (r : FieldRef) (v : Nat) : (d.put r v).dry = d.dry := rfl
@[simp] theorem Dev.put_answer (r : FieldRef) (v : Nat) : (d.put r v).answer = d.answer := rfl
@[simp] theorem Dev.put_answerIn (r : FieldRef) (v : Nat) : (d.put r v).answerIn = d.answerIn := rfl
@[simp] theorem Dev.put_report (r : FieldRef) (v : Nat) : (d.put r v).report = d.report := rfl
@[simp] theorem Dev.put_reReport (r : FieldRef) (v : Nat) : (d.put r v).reReport = d.reReport := rfl
@[simp] theorem Dev.put_readmit (r : FieldRef) (v : Nat) : (d.put r v).readmit = d.readmit := rfl
@[simp] theorem Dev.put_shed (r : FieldRef) (v : Nat) : (d.put r v).shed = d.shed := rfl
@[simp] theorem Dev.put_galLost (r : FieldRef) (v : Nat) : (d.put r v).galLost = d.galLost := rfl
@[simp] theorem Dev.put_canvases (r : FieldRef) (v : Nat) : (d.put r v).canvases = d.canvases := rfl
@[simp] theorem Dev.put_layers (r : FieldRef) (v : Nat) : (d.put r v).layers = d.layers := rfl
@[simp] theorem Dev.put_halls (r : FieldRef) (v : Nat) : (d.put r v).halls = d.halls := rfl
@[simp] theorem Dev.put_gal (r : FieldRef) (v : Nat) : (d.put r v).gal = d.gal := rfl
@[simp] theorem Dev.put_wbRows (r : FieldRef) (v : Nat) : (d.put r v).wbRows = d.wbRows := rfl
@[simp] theorem Dev.put_wins (r : FieldRef) (v : Nat) : (d.put r v).wins = d.wins := rfl
@[simp] theorem Dev.put_lanes (r : FieldRef) (v : Nat) : (d.put r v).lanes = d.lanes := rfl
@[simp] theorem Dev.put_laneQ (r : FieldRef) (v : Nat) : (d.put r v).laneQ = d.laneQ := rfl
@[simp] theorem Dev.put_hostQ (r : FieldRef) (v : Nat) : (d.put r v).hostQ = d.hostQ := rfl
@[simp] theorem Dev.put_policers (r : FieldRef) (v : Nat) : (d.put r v).policers = d.policers := rfl
@[simp] theorem Dev.put_shapers (r : FieldRef) (v : Nat) : (d.put r v).shapers = d.shapers := rfl
@[simp] theorem Dev.put_samplers (r : FieldRef) (v : Nat) : (d.put r v).samplers = d.samplers := rfl
@[simp] theorem Dev.put_polMs (r : FieldRef) (v : Nat) : (d.put r v).polMs = d.polMs := rfl
@[simp] theorem Dev.put_ptp (r : FieldRef) (v : Nat) : (d.put r v).ptp = d.ptp := rfl
@[simp] theorem Dev.put_slave (r : FieldRef) (v : Nat) : (d.put r v).slave = d.slave := rfl
@[simp] theorem Dev.put_recvs (r : FieldRef) (v : Nat) : (d.put r v).recvs = d.recvs := rfl
@[simp] theorem Dev.put_sessions (r : FieldRef) (v : Nat) : (d.put r v).sessions = d.sessions := rfl
@[simp] theorem Dev.put_challenges (r : FieldRef) (v : Nat) : (d.put r v).challenges = d.challenges := rfl
@[simp] theorem Dev.put_keys (r : FieldRef) (v : Nat) : (d.put r v).keys = d.keys := rfl
@[simp] theorem Dev.put_keyStage (r : FieldRef) (v : Nat) : (d.put r v).keyStage = d.keyStage := rfl
@[simp] theorem Dev.put_bulk (r : FieldRef) (v : Nat) : (d.put r v).bulk = d.bulk := rfl
@[simp] theorem Dev.put_pulse (r : FieldRef) (v : Nat) : (d.put r v).pulse = d.pulse := rfl
@[simp] theorem Dev.put_pulseOn (r : FieldRef) (v : Nat) : (d.put r v).pulseOn = d.pulseOn := rfl
@[simp] theorem Dev.put_snapTick (r : FieldRef) (v : Nat) : (d.put r v).snapTick = d.snapTick := rfl
@[simp] theorem Dev.put_snapCanvas (r : FieldRef) (v : Nat) : (d.put r v).snapCanvas = d.snapCanvas := rfl
@[simp] theorem Dev.put_snapFrom (r : FieldRef) (v : Nat) : (d.put r v).snapFrom = d.snapFrom := rfl
@[simp] theorem Dev.put_hbm (r : FieldRef) (v : Nat) : (d.put r v).hbm = d.hbm := rfl
@[simp] theorem Dev.put_bad (r : FieldRef) (v : Nat) : (d.put r v).bad = d.bad := rfl
@[simp] theorem Dev.put_pcq (r : FieldRef) (v : Nat) : (d.put r v).pcq = d.pcq := rfl
@[simp] theorem Dev.put_migr (r : FieldRef) (v : Nat) : (d.put r v).migr = d.migr := rfl
@[simp] theorem Dev.put_journal (r : FieldRef) (v : Nat) : (d.put r v).journal = d.journal := rfl
@[simp] theorem Dev.put_eccLast (r : FieldRef) (v : Nat) : (d.put r v).eccLast = d.eccLast := rfl
@[simp] theorem Dev.put_classB (r : FieldRef) (v : Nat) : (d.put r v).classB = d.classB := rfl
@[simp] theorem Dev.put_heldB (r : FieldRef) (v : Nat) : (d.put r v).heldB = d.heldB := rfl
@[simp] theorem Dev.put_owed (r : FieldRef) (v : Nat) : (d.put r v).owed = d.owed := rfl
@[simp] theorem Dev.put_scrub (r : FieldRef) (v : Nat) : (d.put r v).scrub = d.scrub := rfl
@[simp] theorem Dev.put_ceTimes (r : FieldRef) (v : Nat) : (d.put r v).ceTimes = d.ceTimes := rfl
@[simp] theorem Dev.put_meets (r : FieldRef) (v : Nat) : (d.put r v).meets = d.meets := rfl
@[simp] theorem Dev.put_policyMet (r : FieldRef) (v : Nat) : (d.put r v).policyMet = d.policyMet := rfl
@[simp] theorem Dev.put_ueSeen (r : FieldRef) (v : Nat) : (d.put r v).ueSeen = d.ueSeen := rfl
@[simp] theorem Dev.put_leaves (r : FieldRef) (v : Nat) : (d.put r v).leaves = d.leaves := rfl
@[simp] theorem Dev.put_wcache (r : FieldRef) (v : Nat) : (d.put r v).wcache = d.wcache := rfl
@[simp] theorem Dev.put_walks (r : FieldRef) (v : Nat) : (d.put r v).walks = d.walks := rfl
@[simp] theorem Dev.put_ingest (r : FieldRef) (v : Nat) : (d.put r v).ingest = d.ingest := rfl
@[simp] theorem Dev.put_faults (r : FieldRef) (v : Nat) : (d.put r v).faults = d.faults := rfl
@[simp] theorem Dev.put_lostOpen (r : FieldRef) (v : Nat) : (d.put r v).lostOpen = d.lostOpen := rfl
@[simp] theorem Dev.put_invAt (r : FieldRef) (v : Nat) : (d.put r v).invAt = d.invAt := rfl
@[simp] theorem Dev.put_casc (r : FieldRef) (v : Nat) : (d.put r v).casc = d.casc := rfl
@[simp] theorem Dev.put_chans (r : FieldRef) (v : Nat) : (d.put r v).chans = d.chans := rfl
@[simp] theorem Dev.put_starts (r : FieldRef) (v : Nat) : (d.put r v).starts = d.starts := rfl
@[simp] theorem Dev.put_serving (r : FieldRef) (v : Nat) : (d.put r v).serving = d.serving := rfl
@[simp] theorem Dev.put_cus (r : FieldRef) (v : Nat) : (d.put r v).cus = d.cus := rfl
@[simp] theorem Dev.put_clk (r : FieldRef) (v : Nat) : (d.put r v).clk = d.clk := rfl
@[simp] theorem Dev.put_pwr (r : FieldRef) (v : Nat) : (d.put r v).pwr = d.pwr := rfl
@[simp] theorem Dev.put_stw (r : FieldRef) (v : Nat) : (d.put r v).stw = d.stw := rfl
@[simp] theorem Dev.put_alcq (r : FieldRef) (v : Nat) : (d.put r v).alcq = d.alcq := rfl
@[simp] theorem Dev.put_alcSeen (r : FieldRef) (v : Nat) : (d.put r v).alcSeen = d.alcSeen := rfl
@[simp] theorem Dev.put_alcFind (r : FieldRef) (v : Nat) : (d.put r v).alcFind = d.alcFind := rfl
@[simp] theorem Dev.put_alcOn (r : FieldRef) (v : Nat) : (d.put r v).alcOn = d.alcOn := rfl
@[simp] theorem Dev.put_otSeen (r : FieldRef) (v : Nat) : (d.put r v).otSeen = d.otSeen := rfl
@[simp] theorem Dev.put_sealOpen (r : FieldRef) (v : Nat) : (d.put r v).sealOpen = d.sealOpen := rfl
@[simp] theorem Dev.put_regs_active (r : FieldRef) (v : Nat) : (d.put r v).regs.active = d.regs.active := rfl
@[simp] theorem Dev.put_regs_pend (r : FieldRef) (v : Nat) : (d.put r v).regs.pend = d.regs.pend := rfl
@[simp] theorem Dev.put_regs_dry (r : FieldRef) (v : Nat) : (d.put r v).regs.dry = d.regs.dry := rfl
@[simp] theorem Dev.put_regs_held (r : FieldRef) (v : Nat) : (d.put r v).regs.held = d.regs.held := rfl
@[simp] theorem Dev.put_regs_loc (r : FieldRef) (v : Nat) : (d.put r v).regs.loc = d.regs.loc := rfl
@[simp] theorem Dev.put_regs_ind (r : FieldRef) (v : Nat) : (d.put r v).regs.ind = d.regs.ind := rfl
@[simp] theorem Dev.put_regs_heldInd (r : FieldRef) (v : Nat) : (d.put r v).regs.heldInd = d.regs.heldInd := rfl

/-! ## `bumpBy` -/

@[simp] theorem Dev.bumpBy_now (r : FieldRef) (n : Nat) : (d.bumpBy r n).now = d.now := rfl
@[simp] theorem Dev.bumpBy_seed (r : FieldRef) (n : Nat) : (d.bumpBy r n).seed = d.seed := rfl
@[simp] theorem Dev.bumpBy_h48 (r : FieldRef) (n : Nat) : (d.bumpBy r n).h48 = d.h48 := rfl
@[simp] theorem Dev.bumpBy_serial (r : FieldRef) (n : Nat) : (d.bumpBy r n).serial = d.serial := rfl
@[simp] theorem Dev.bumpBy_baseMac (r : FieldRef) (n : Nat) : (d.bumpBy r n).baseMac = d.baseMac := rfl
@[simp] theorem Dev.bumpBy_factoryOk (r : FieldRef) (n : Nat) : (d.bumpBy r n).factoryOk = d.factoryOk := rfl
@[simp] theorem Dev.bumpBy_fenceLog (r : FieldRef) (n : Nat) : (d.bumpBy r n).fenceLog = d.fenceLog := rfl
@[simp] theorem Dev.bumpBy_struck (r : FieldRef) (n : Nat) : (d.bumpBy r n).struck = d.struck := rfl
@[simp] theorem Dev.bumpBy_out (r : FieldRef) (n : Nat) : (d.bumpBy r n).out = d.out := rfl
@[simp] theorem Dev.bumpBy_first (r : FieldRef) (n : Nat) : (d.bumpBy r n).first = d.first := rfl
@[simp] theorem Dev.bumpBy_msTick (r : FieldRef) (n : Nat) : (d.bumpBy r n).msTick = d.msTick := rfl
@[simp] theorem Dev.bumpBy_commit (r : FieldRef) (n : Nat) : (d.bumpBy r n).commit = d.commit := rfl
@[simp] theorem Dev.bumpBy_dry (r : FieldRef) (n : Nat) : (d.bumpBy r n).dry = d.dry := rfl
@[simp] theorem Dev.bumpBy_answer (r : FieldRef) (n : Nat) : (d.bumpBy r n).answer = d.answer := rfl
@[simp] theorem Dev.bumpBy_answerIn (r : FieldRef) (n : Nat) : (d.bumpBy r n).answerIn = d.answerIn := rfl
@[simp] theorem Dev.bumpBy_report (r : FieldRef) (n : Nat) : (d.bumpBy r n).report = d.report := rfl
@[simp] theorem Dev.bumpBy_reReport (r : FieldRef) (n : Nat) : (d.bumpBy r n).reReport = d.reReport := rfl
@[simp] theorem Dev.bumpBy_readmit (r : FieldRef) (n : Nat) : (d.bumpBy r n).readmit = d.readmit := rfl
@[simp] theorem Dev.bumpBy_shed (r : FieldRef) (n : Nat) : (d.bumpBy r n).shed = d.shed := rfl
@[simp] theorem Dev.bumpBy_galLost (r : FieldRef) (n : Nat) : (d.bumpBy r n).galLost = d.galLost := rfl
@[simp] theorem Dev.bumpBy_canvases (r : FieldRef) (n : Nat) : (d.bumpBy r n).canvases = d.canvases := rfl
@[simp] theorem Dev.bumpBy_layers (r : FieldRef) (n : Nat) : (d.bumpBy r n).layers = d.layers := rfl
@[simp] theorem Dev.bumpBy_halls (r : FieldRef) (n : Nat) : (d.bumpBy r n).halls = d.halls := rfl
@[simp] theorem Dev.bumpBy_gal (r : FieldRef) (n : Nat) : (d.bumpBy r n).gal = d.gal := rfl
@[simp] theorem Dev.bumpBy_wbRows (r : FieldRef) (n : Nat) : (d.bumpBy r n).wbRows = d.wbRows := rfl
@[simp] theorem Dev.bumpBy_wins (r : FieldRef) (n : Nat) : (d.bumpBy r n).wins = d.wins := rfl
@[simp] theorem Dev.bumpBy_lanes (r : FieldRef) (n : Nat) : (d.bumpBy r n).lanes = d.lanes := rfl
@[simp] theorem Dev.bumpBy_laneQ (r : FieldRef) (n : Nat) : (d.bumpBy r n).laneQ = d.laneQ := rfl
@[simp] theorem Dev.bumpBy_hostQ (r : FieldRef) (n : Nat) : (d.bumpBy r n).hostQ = d.hostQ := rfl
@[simp] theorem Dev.bumpBy_policers (r : FieldRef) (n : Nat) : (d.bumpBy r n).policers = d.policers := rfl
@[simp] theorem Dev.bumpBy_shapers (r : FieldRef) (n : Nat) : (d.bumpBy r n).shapers = d.shapers := rfl
@[simp] theorem Dev.bumpBy_samplers (r : FieldRef) (n : Nat) : (d.bumpBy r n).samplers = d.samplers := rfl
@[simp] theorem Dev.bumpBy_polMs (r : FieldRef) (n : Nat) : (d.bumpBy r n).polMs = d.polMs := rfl
@[simp] theorem Dev.bumpBy_ptp (r : FieldRef) (n : Nat) : (d.bumpBy r n).ptp = d.ptp := rfl
@[simp] theorem Dev.bumpBy_slave (r : FieldRef) (n : Nat) : (d.bumpBy r n).slave = d.slave := rfl
@[simp] theorem Dev.bumpBy_recvs (r : FieldRef) (n : Nat) : (d.bumpBy r n).recvs = d.recvs := rfl
@[simp] theorem Dev.bumpBy_sessions (r : FieldRef) (n : Nat) : (d.bumpBy r n).sessions = d.sessions := rfl
@[simp] theorem Dev.bumpBy_challenges (r : FieldRef) (n : Nat) : (d.bumpBy r n).challenges = d.challenges := rfl
@[simp] theorem Dev.bumpBy_keys (r : FieldRef) (n : Nat) : (d.bumpBy r n).keys = d.keys := rfl
@[simp] theorem Dev.bumpBy_keyStage (r : FieldRef) (n : Nat) : (d.bumpBy r n).keyStage = d.keyStage := rfl
@[simp] theorem Dev.bumpBy_bulk (r : FieldRef) (n : Nat) : (d.bumpBy r n).bulk = d.bulk := rfl
@[simp] theorem Dev.bumpBy_pulse (r : FieldRef) (n : Nat) : (d.bumpBy r n).pulse = d.pulse := rfl
@[simp] theorem Dev.bumpBy_pulseOn (r : FieldRef) (n : Nat) : (d.bumpBy r n).pulseOn = d.pulseOn := rfl
@[simp] theorem Dev.bumpBy_snapTick (r : FieldRef) (n : Nat) : (d.bumpBy r n).snapTick = d.snapTick := rfl
@[simp] theorem Dev.bumpBy_snapCanvas (r : FieldRef) (n : Nat) : (d.bumpBy r n).snapCanvas = d.snapCanvas := rfl
@[simp] theorem Dev.bumpBy_snapFrom (r : FieldRef) (n : Nat) : (d.bumpBy r n).snapFrom = d.snapFrom := rfl
@[simp] theorem Dev.bumpBy_hbm (r : FieldRef) (n : Nat) : (d.bumpBy r n).hbm = d.hbm := rfl
@[simp] theorem Dev.bumpBy_bad (r : FieldRef) (n : Nat) : (d.bumpBy r n).bad = d.bad := rfl
@[simp] theorem Dev.bumpBy_pcq (r : FieldRef) (n : Nat) : (d.bumpBy r n).pcq = d.pcq := rfl
@[simp] theorem Dev.bumpBy_migr (r : FieldRef) (n : Nat) : (d.bumpBy r n).migr = d.migr := rfl
@[simp] theorem Dev.bumpBy_journal (r : FieldRef) (n : Nat) : (d.bumpBy r n).journal = d.journal := rfl
@[simp] theorem Dev.bumpBy_eccLast (r : FieldRef) (n : Nat) : (d.bumpBy r n).eccLast = d.eccLast := rfl
@[simp] theorem Dev.bumpBy_classB (r : FieldRef) (n : Nat) : (d.bumpBy r n).classB = d.classB := rfl
@[simp] theorem Dev.bumpBy_heldB (r : FieldRef) (n : Nat) : (d.bumpBy r n).heldB = d.heldB := rfl
@[simp] theorem Dev.bumpBy_owed (r : FieldRef) (n : Nat) : (d.bumpBy r n).owed = d.owed := rfl
@[simp] theorem Dev.bumpBy_scrub (r : FieldRef) (n : Nat) : (d.bumpBy r n).scrub = d.scrub := rfl
@[simp] theorem Dev.bumpBy_ceTimes (r : FieldRef) (n : Nat) : (d.bumpBy r n).ceTimes = d.ceTimes := rfl
@[simp] theorem Dev.bumpBy_meets (r : FieldRef) (n : Nat) : (d.bumpBy r n).meets = d.meets := rfl
@[simp] theorem Dev.bumpBy_policyMet (r : FieldRef) (n : Nat) : (d.bumpBy r n).policyMet = d.policyMet := rfl
@[simp] theorem Dev.bumpBy_ueSeen (r : FieldRef) (n : Nat) : (d.bumpBy r n).ueSeen = d.ueSeen := rfl
@[simp] theorem Dev.bumpBy_leaves (r : FieldRef) (n : Nat) : (d.bumpBy r n).leaves = d.leaves := rfl
@[simp] theorem Dev.bumpBy_wcache (r : FieldRef) (n : Nat) : (d.bumpBy r n).wcache = d.wcache := rfl
@[simp] theorem Dev.bumpBy_walks (r : FieldRef) (n : Nat) : (d.bumpBy r n).walks = d.walks := rfl
@[simp] theorem Dev.bumpBy_ingest (r : FieldRef) (n : Nat) : (d.bumpBy r n).ingest = d.ingest := rfl
@[simp] theorem Dev.bumpBy_faults (r : FieldRef) (n : Nat) : (d.bumpBy r n).faults = d.faults := rfl
@[simp] theorem Dev.bumpBy_lostOpen (r : FieldRef) (n : Nat) : (d.bumpBy r n).lostOpen = d.lostOpen := rfl
@[simp] theorem Dev.bumpBy_invAt (r : FieldRef) (n : Nat) : (d.bumpBy r n).invAt = d.invAt := rfl
@[simp] theorem Dev.bumpBy_casc (r : FieldRef) (n : Nat) : (d.bumpBy r n).casc = d.casc := rfl
@[simp] theorem Dev.bumpBy_chans (r : FieldRef) (n : Nat) : (d.bumpBy r n).chans = d.chans := rfl
@[simp] theorem Dev.bumpBy_starts (r : FieldRef) (n : Nat) : (d.bumpBy r n).starts = d.starts := rfl
@[simp] theorem Dev.bumpBy_serving (r : FieldRef) (n : Nat) : (d.bumpBy r n).serving = d.serving := rfl
@[simp] theorem Dev.bumpBy_cus (r : FieldRef) (n : Nat) : (d.bumpBy r n).cus = d.cus := rfl
@[simp] theorem Dev.bumpBy_clk (r : FieldRef) (n : Nat) : (d.bumpBy r n).clk = d.clk := rfl
@[simp] theorem Dev.bumpBy_pwr (r : FieldRef) (n : Nat) : (d.bumpBy r n).pwr = d.pwr := rfl
@[simp] theorem Dev.bumpBy_stw (r : FieldRef) (n : Nat) : (d.bumpBy r n).stw = d.stw := rfl
@[simp] theorem Dev.bumpBy_alcq (r : FieldRef) (n : Nat) : (d.bumpBy r n).alcq = d.alcq := rfl
@[simp] theorem Dev.bumpBy_alcSeen (r : FieldRef) (n : Nat) : (d.bumpBy r n).alcSeen = d.alcSeen := rfl
@[simp] theorem Dev.bumpBy_alcFind (r : FieldRef) (n : Nat) : (d.bumpBy r n).alcFind = d.alcFind := rfl
@[simp] theorem Dev.bumpBy_alcOn (r : FieldRef) (n : Nat) : (d.bumpBy r n).alcOn = d.alcOn := rfl
@[simp] theorem Dev.bumpBy_otSeen (r : FieldRef) (n : Nat) : (d.bumpBy r n).otSeen = d.otSeen := rfl
@[simp] theorem Dev.bumpBy_sealOpen (r : FieldRef) (n : Nat) : (d.bumpBy r n).sealOpen = d.sealOpen := rfl
@[simp] theorem Dev.bumpBy_regs_active (r : FieldRef) (n : Nat) : (d.bumpBy r n).regs.active = d.regs.active := rfl
@[simp] theorem Dev.bumpBy_regs_pend (r : FieldRef) (n : Nat) : (d.bumpBy r n).regs.pend = d.regs.pend := rfl
@[simp] theorem Dev.bumpBy_regs_dry (r : FieldRef) (n : Nat) : (d.bumpBy r n).regs.dry = d.regs.dry := rfl
@[simp] theorem Dev.bumpBy_regs_held (r : FieldRef) (n : Nat) : (d.bumpBy r n).regs.held = d.regs.held := rfl
@[simp] theorem Dev.bumpBy_regs_loc (r : FieldRef) (n : Nat) : (d.bumpBy r n).regs.loc = d.regs.loc := rfl
@[simp] theorem Dev.bumpBy_regs_ind (r : FieldRef) (n : Nat) : (d.bumpBy r n).regs.ind = d.regs.ind := rfl
@[simp] theorem Dev.bumpBy_regs_heldInd (r : FieldRef) (n : Nat) : (d.bumpBy r n).regs.heldInd = d.regs.heldInd := rfl

/-! ## `bump` -/

@[simp] theorem Dev.bump_now (r : FieldRef) : (d.bump r).now = d.now := rfl
@[simp] theorem Dev.bump_seed (r : FieldRef) : (d.bump r).seed = d.seed := rfl
@[simp] theorem Dev.bump_h48 (r : FieldRef) : (d.bump r).h48 = d.h48 := rfl
@[simp] theorem Dev.bump_serial (r : FieldRef) : (d.bump r).serial = d.serial := rfl
@[simp] theorem Dev.bump_baseMac (r : FieldRef) : (d.bump r).baseMac = d.baseMac := rfl
@[simp] theorem Dev.bump_factoryOk (r : FieldRef) : (d.bump r).factoryOk = d.factoryOk := rfl
@[simp] theorem Dev.bump_fenceLog (r : FieldRef) : (d.bump r).fenceLog = d.fenceLog := rfl
@[simp] theorem Dev.bump_struck (r : FieldRef) : (d.bump r).struck = d.struck := rfl
@[simp] theorem Dev.bump_out (r : FieldRef) : (d.bump r).out = d.out := rfl
@[simp] theorem Dev.bump_first (r : FieldRef) : (d.bump r).first = d.first := rfl
@[simp] theorem Dev.bump_msTick (r : FieldRef) : (d.bump r).msTick = d.msTick := rfl
@[simp] theorem Dev.bump_commit (r : FieldRef) : (d.bump r).commit = d.commit := rfl
@[simp] theorem Dev.bump_dry (r : FieldRef) : (d.bump r).dry = d.dry := rfl
@[simp] theorem Dev.bump_answer (r : FieldRef) : (d.bump r).answer = d.answer := rfl
@[simp] theorem Dev.bump_answerIn (r : FieldRef) : (d.bump r).answerIn = d.answerIn := rfl
@[simp] theorem Dev.bump_report (r : FieldRef) : (d.bump r).report = d.report := rfl
@[simp] theorem Dev.bump_reReport (r : FieldRef) : (d.bump r).reReport = d.reReport := rfl
@[simp] theorem Dev.bump_readmit (r : FieldRef) : (d.bump r).readmit = d.readmit := rfl
@[simp] theorem Dev.bump_shed (r : FieldRef) : (d.bump r).shed = d.shed := rfl
@[simp] theorem Dev.bump_galLost (r : FieldRef) : (d.bump r).galLost = d.galLost := rfl
@[simp] theorem Dev.bump_canvases (r : FieldRef) : (d.bump r).canvases = d.canvases := rfl
@[simp] theorem Dev.bump_layers (r : FieldRef) : (d.bump r).layers = d.layers := rfl
@[simp] theorem Dev.bump_halls (r : FieldRef) : (d.bump r).halls = d.halls := rfl
@[simp] theorem Dev.bump_gal (r : FieldRef) : (d.bump r).gal = d.gal := rfl
@[simp] theorem Dev.bump_wbRows (r : FieldRef) : (d.bump r).wbRows = d.wbRows := rfl
@[simp] theorem Dev.bump_wins (r : FieldRef) : (d.bump r).wins = d.wins := rfl
@[simp] theorem Dev.bump_lanes (r : FieldRef) : (d.bump r).lanes = d.lanes := rfl
@[simp] theorem Dev.bump_laneQ (r : FieldRef) : (d.bump r).laneQ = d.laneQ := rfl
@[simp] theorem Dev.bump_hostQ (r : FieldRef) : (d.bump r).hostQ = d.hostQ := rfl
@[simp] theorem Dev.bump_policers (r : FieldRef) : (d.bump r).policers = d.policers := rfl
@[simp] theorem Dev.bump_shapers (r : FieldRef) : (d.bump r).shapers = d.shapers := rfl
@[simp] theorem Dev.bump_samplers (r : FieldRef) : (d.bump r).samplers = d.samplers := rfl
@[simp] theorem Dev.bump_polMs (r : FieldRef) : (d.bump r).polMs = d.polMs := rfl
@[simp] theorem Dev.bump_ptp (r : FieldRef) : (d.bump r).ptp = d.ptp := rfl
@[simp] theorem Dev.bump_slave (r : FieldRef) : (d.bump r).slave = d.slave := rfl
@[simp] theorem Dev.bump_recvs (r : FieldRef) : (d.bump r).recvs = d.recvs := rfl
@[simp] theorem Dev.bump_sessions (r : FieldRef) : (d.bump r).sessions = d.sessions := rfl
@[simp] theorem Dev.bump_challenges (r : FieldRef) : (d.bump r).challenges = d.challenges := rfl
@[simp] theorem Dev.bump_keys (r : FieldRef) : (d.bump r).keys = d.keys := rfl
@[simp] theorem Dev.bump_keyStage (r : FieldRef) : (d.bump r).keyStage = d.keyStage := rfl
@[simp] theorem Dev.bump_bulk (r : FieldRef) : (d.bump r).bulk = d.bulk := rfl
@[simp] theorem Dev.bump_pulse (r : FieldRef) : (d.bump r).pulse = d.pulse := rfl
@[simp] theorem Dev.bump_pulseOn (r : FieldRef) : (d.bump r).pulseOn = d.pulseOn := rfl
@[simp] theorem Dev.bump_snapTick (r : FieldRef) : (d.bump r).snapTick = d.snapTick := rfl
@[simp] theorem Dev.bump_snapCanvas (r : FieldRef) : (d.bump r).snapCanvas = d.snapCanvas := rfl
@[simp] theorem Dev.bump_snapFrom (r : FieldRef) : (d.bump r).snapFrom = d.snapFrom := rfl
@[simp] theorem Dev.bump_hbm (r : FieldRef) : (d.bump r).hbm = d.hbm := rfl
@[simp] theorem Dev.bump_bad (r : FieldRef) : (d.bump r).bad = d.bad := rfl
@[simp] theorem Dev.bump_pcq (r : FieldRef) : (d.bump r).pcq = d.pcq := rfl
@[simp] theorem Dev.bump_migr (r : FieldRef) : (d.bump r).migr = d.migr := rfl
@[simp] theorem Dev.bump_journal (r : FieldRef) : (d.bump r).journal = d.journal := rfl
@[simp] theorem Dev.bump_eccLast (r : FieldRef) : (d.bump r).eccLast = d.eccLast := rfl
@[simp] theorem Dev.bump_classB (r : FieldRef) : (d.bump r).classB = d.classB := rfl
@[simp] theorem Dev.bump_heldB (r : FieldRef) : (d.bump r).heldB = d.heldB := rfl
@[simp] theorem Dev.bump_owed (r : FieldRef) : (d.bump r).owed = d.owed := rfl
@[simp] theorem Dev.bump_scrub (r : FieldRef) : (d.bump r).scrub = d.scrub := rfl
@[simp] theorem Dev.bump_ceTimes (r : FieldRef) : (d.bump r).ceTimes = d.ceTimes := rfl
@[simp] theorem Dev.bump_meets (r : FieldRef) : (d.bump r).meets = d.meets := rfl
@[simp] theorem Dev.bump_policyMet (r : FieldRef) : (d.bump r).policyMet = d.policyMet := rfl
@[simp] theorem Dev.bump_ueSeen (r : FieldRef) : (d.bump r).ueSeen = d.ueSeen := rfl
@[simp] theorem Dev.bump_leaves (r : FieldRef) : (d.bump r).leaves = d.leaves := rfl
@[simp] theorem Dev.bump_wcache (r : FieldRef) : (d.bump r).wcache = d.wcache := rfl
@[simp] theorem Dev.bump_walks (r : FieldRef) : (d.bump r).walks = d.walks := rfl
@[simp] theorem Dev.bump_ingest (r : FieldRef) : (d.bump r).ingest = d.ingest := rfl
@[simp] theorem Dev.bump_faults (r : FieldRef) : (d.bump r).faults = d.faults := rfl
@[simp] theorem Dev.bump_lostOpen (r : FieldRef) : (d.bump r).lostOpen = d.lostOpen := rfl
@[simp] theorem Dev.bump_invAt (r : FieldRef) : (d.bump r).invAt = d.invAt := rfl
@[simp] theorem Dev.bump_casc (r : FieldRef) : (d.bump r).casc = d.casc := rfl
@[simp] theorem Dev.bump_chans (r : FieldRef) : (d.bump r).chans = d.chans := rfl
@[simp] theorem Dev.bump_starts (r : FieldRef) : (d.bump r).starts = d.starts := rfl
@[simp] theorem Dev.bump_serving (r : FieldRef) : (d.bump r).serving = d.serving := rfl
@[simp] theorem Dev.bump_cus (r : FieldRef) : (d.bump r).cus = d.cus := rfl
@[simp] theorem Dev.bump_clk (r : FieldRef) : (d.bump r).clk = d.clk := rfl
@[simp] theorem Dev.bump_pwr (r : FieldRef) : (d.bump r).pwr = d.pwr := rfl
@[simp] theorem Dev.bump_stw (r : FieldRef) : (d.bump r).stw = d.stw := rfl
@[simp] theorem Dev.bump_alcq (r : FieldRef) : (d.bump r).alcq = d.alcq := rfl
@[simp] theorem Dev.bump_alcSeen (r : FieldRef) : (d.bump r).alcSeen = d.alcSeen := rfl
@[simp] theorem Dev.bump_alcFind (r : FieldRef) : (d.bump r).alcFind = d.alcFind := rfl
@[simp] theorem Dev.bump_alcOn (r : FieldRef) : (d.bump r).alcOn = d.alcOn := rfl
@[simp] theorem Dev.bump_otSeen (r : FieldRef) : (d.bump r).otSeen = d.otSeen := rfl
@[simp] theorem Dev.bump_sealOpen (r : FieldRef) : (d.bump r).sealOpen = d.sealOpen := rfl
@[simp] theorem Dev.bump_regs_active (r : FieldRef) : (d.bump r).regs.active = d.regs.active := rfl
@[simp] theorem Dev.bump_regs_pend (r : FieldRef) : (d.bump r).regs.pend = d.regs.pend := rfl
@[simp] theorem Dev.bump_regs_dry (r : FieldRef) : (d.bump r).regs.dry = d.regs.dry := rfl
@[simp] theorem Dev.bump_regs_held (r : FieldRef) : (d.bump r).regs.held = d.regs.held := rfl
@[simp] theorem Dev.bump_regs_loc (r : FieldRef) : (d.bump r).regs.loc = d.regs.loc := rfl
@[simp] theorem Dev.bump_regs_ind (r : FieldRef) : (d.bump r).regs.ind = d.regs.ind := rfl
@[simp] theorem Dev.bump_regs_heldInd (r : FieldRef) : (d.bump r).regs.heldInd = d.regs.heldInd := rfl

/-! ## `orBits` -/

@[simp] theorem Dev.orBits_now (r : FieldRef) (v : Nat) : (d.orBits r v).now = d.now := rfl
@[simp] theorem Dev.orBits_seed (r : FieldRef) (v : Nat) : (d.orBits r v).seed = d.seed := rfl
@[simp] theorem Dev.orBits_h48 (r : FieldRef) (v : Nat) : (d.orBits r v).h48 = d.h48 := rfl
@[simp] theorem Dev.orBits_serial (r : FieldRef) (v : Nat) : (d.orBits r v).serial = d.serial := rfl
@[simp] theorem Dev.orBits_baseMac (r : FieldRef) (v : Nat) : (d.orBits r v).baseMac = d.baseMac := rfl
@[simp] theorem Dev.orBits_factoryOk (r : FieldRef) (v : Nat) : (d.orBits r v).factoryOk = d.factoryOk := rfl
@[simp] theorem Dev.orBits_fenceLog (r : FieldRef) (v : Nat) : (d.orBits r v).fenceLog = d.fenceLog := rfl
@[simp] theorem Dev.orBits_struck (r : FieldRef) (v : Nat) : (d.orBits r v).struck = d.struck := rfl
@[simp] theorem Dev.orBits_out (r : FieldRef) (v : Nat) : (d.orBits r v).out = d.out := rfl
@[simp] theorem Dev.orBits_first (r : FieldRef) (v : Nat) : (d.orBits r v).first = d.first := rfl
@[simp] theorem Dev.orBits_msTick (r : FieldRef) (v : Nat) : (d.orBits r v).msTick = d.msTick := rfl
@[simp] theorem Dev.orBits_commit (r : FieldRef) (v : Nat) : (d.orBits r v).commit = d.commit := rfl
@[simp] theorem Dev.orBits_dry (r : FieldRef) (v : Nat) : (d.orBits r v).dry = d.dry := rfl
@[simp] theorem Dev.orBits_answer (r : FieldRef) (v : Nat) : (d.orBits r v).answer = d.answer := rfl
@[simp] theorem Dev.orBits_answerIn (r : FieldRef) (v : Nat) : (d.orBits r v).answerIn = d.answerIn := rfl
@[simp] theorem Dev.orBits_report (r : FieldRef) (v : Nat) : (d.orBits r v).report = d.report := rfl
@[simp] theorem Dev.orBits_reReport (r : FieldRef) (v : Nat) : (d.orBits r v).reReport = d.reReport := rfl
@[simp] theorem Dev.orBits_readmit (r : FieldRef) (v : Nat) : (d.orBits r v).readmit = d.readmit := rfl
@[simp] theorem Dev.orBits_shed (r : FieldRef) (v : Nat) : (d.orBits r v).shed = d.shed := rfl
@[simp] theorem Dev.orBits_galLost (r : FieldRef) (v : Nat) : (d.orBits r v).galLost = d.galLost := rfl
@[simp] theorem Dev.orBits_canvases (r : FieldRef) (v : Nat) : (d.orBits r v).canvases = d.canvases := rfl
@[simp] theorem Dev.orBits_layers (r : FieldRef) (v : Nat) : (d.orBits r v).layers = d.layers := rfl
@[simp] theorem Dev.orBits_halls (r : FieldRef) (v : Nat) : (d.orBits r v).halls = d.halls := rfl
@[simp] theorem Dev.orBits_gal (r : FieldRef) (v : Nat) : (d.orBits r v).gal = d.gal := rfl
@[simp] theorem Dev.orBits_wbRows (r : FieldRef) (v : Nat) : (d.orBits r v).wbRows = d.wbRows := rfl
@[simp] theorem Dev.orBits_wins (r : FieldRef) (v : Nat) : (d.orBits r v).wins = d.wins := rfl
@[simp] theorem Dev.orBits_lanes (r : FieldRef) (v : Nat) : (d.orBits r v).lanes = d.lanes := rfl
@[simp] theorem Dev.orBits_laneQ (r : FieldRef) (v : Nat) : (d.orBits r v).laneQ = d.laneQ := rfl
@[simp] theorem Dev.orBits_hostQ (r : FieldRef) (v : Nat) : (d.orBits r v).hostQ = d.hostQ := rfl
@[simp] theorem Dev.orBits_policers (r : FieldRef) (v : Nat) : (d.orBits r v).policers = d.policers := rfl
@[simp] theorem Dev.orBits_shapers (r : FieldRef) (v : Nat) : (d.orBits r v).shapers = d.shapers := rfl
@[simp] theorem Dev.orBits_samplers (r : FieldRef) (v : Nat) : (d.orBits r v).samplers = d.samplers := rfl
@[simp] theorem Dev.orBits_polMs (r : FieldRef) (v : Nat) : (d.orBits r v).polMs = d.polMs := rfl
@[simp] theorem Dev.orBits_ptp (r : FieldRef) (v : Nat) : (d.orBits r v).ptp = d.ptp := rfl
@[simp] theorem Dev.orBits_slave (r : FieldRef) (v : Nat) : (d.orBits r v).slave = d.slave := rfl
@[simp] theorem Dev.orBits_recvs (r : FieldRef) (v : Nat) : (d.orBits r v).recvs = d.recvs := rfl
@[simp] theorem Dev.orBits_sessions (r : FieldRef) (v : Nat) : (d.orBits r v).sessions = d.sessions := rfl
@[simp] theorem Dev.orBits_challenges (r : FieldRef) (v : Nat) : (d.orBits r v).challenges = d.challenges := rfl
@[simp] theorem Dev.orBits_keys (r : FieldRef) (v : Nat) : (d.orBits r v).keys = d.keys := rfl
@[simp] theorem Dev.orBits_keyStage (r : FieldRef) (v : Nat) : (d.orBits r v).keyStage = d.keyStage := rfl
@[simp] theorem Dev.orBits_bulk (r : FieldRef) (v : Nat) : (d.orBits r v).bulk = d.bulk := rfl
@[simp] theorem Dev.orBits_pulse (r : FieldRef) (v : Nat) : (d.orBits r v).pulse = d.pulse := rfl
@[simp] theorem Dev.orBits_pulseOn (r : FieldRef) (v : Nat) : (d.orBits r v).pulseOn = d.pulseOn := rfl
@[simp] theorem Dev.orBits_snapTick (r : FieldRef) (v : Nat) : (d.orBits r v).snapTick = d.snapTick := rfl
@[simp] theorem Dev.orBits_snapCanvas (r : FieldRef) (v : Nat) : (d.orBits r v).snapCanvas = d.snapCanvas := rfl
@[simp] theorem Dev.orBits_snapFrom (r : FieldRef) (v : Nat) : (d.orBits r v).snapFrom = d.snapFrom := rfl
@[simp] theorem Dev.orBits_hbm (r : FieldRef) (v : Nat) : (d.orBits r v).hbm = d.hbm := rfl
@[simp] theorem Dev.orBits_bad (r : FieldRef) (v : Nat) : (d.orBits r v).bad = d.bad := rfl
@[simp] theorem Dev.orBits_pcq (r : FieldRef) (v : Nat) : (d.orBits r v).pcq = d.pcq := rfl
@[simp] theorem Dev.orBits_migr (r : FieldRef) (v : Nat) : (d.orBits r v).migr = d.migr := rfl
@[simp] theorem Dev.orBits_journal (r : FieldRef) (v : Nat) : (d.orBits r v).journal = d.journal := rfl
@[simp] theorem Dev.orBits_eccLast (r : FieldRef) (v : Nat) : (d.orBits r v).eccLast = d.eccLast := rfl
@[simp] theorem Dev.orBits_classB (r : FieldRef) (v : Nat) : (d.orBits r v).classB = d.classB := rfl
@[simp] theorem Dev.orBits_heldB (r : FieldRef) (v : Nat) : (d.orBits r v).heldB = d.heldB := rfl
@[simp] theorem Dev.orBits_owed (r : FieldRef) (v : Nat) : (d.orBits r v).owed = d.owed := rfl
@[simp] theorem Dev.orBits_scrub (r : FieldRef) (v : Nat) : (d.orBits r v).scrub = d.scrub := rfl
@[simp] theorem Dev.orBits_ceTimes (r : FieldRef) (v : Nat) : (d.orBits r v).ceTimes = d.ceTimes := rfl
@[simp] theorem Dev.orBits_meets (r : FieldRef) (v : Nat) : (d.orBits r v).meets = d.meets := rfl
@[simp] theorem Dev.orBits_policyMet (r : FieldRef) (v : Nat) : (d.orBits r v).policyMet = d.policyMet := rfl
@[simp] theorem Dev.orBits_ueSeen (r : FieldRef) (v : Nat) : (d.orBits r v).ueSeen = d.ueSeen := rfl
@[simp] theorem Dev.orBits_leaves (r : FieldRef) (v : Nat) : (d.orBits r v).leaves = d.leaves := rfl
@[simp] theorem Dev.orBits_wcache (r : FieldRef) (v : Nat) : (d.orBits r v).wcache = d.wcache := rfl
@[simp] theorem Dev.orBits_walks (r : FieldRef) (v : Nat) : (d.orBits r v).walks = d.walks := rfl
@[simp] theorem Dev.orBits_ingest (r : FieldRef) (v : Nat) : (d.orBits r v).ingest = d.ingest := rfl
@[simp] theorem Dev.orBits_faults (r : FieldRef) (v : Nat) : (d.orBits r v).faults = d.faults := rfl
@[simp] theorem Dev.orBits_lostOpen (r : FieldRef) (v : Nat) : (d.orBits r v).lostOpen = d.lostOpen := rfl
@[simp] theorem Dev.orBits_invAt (r : FieldRef) (v : Nat) : (d.orBits r v).invAt = d.invAt := rfl
@[simp] theorem Dev.orBits_casc (r : FieldRef) (v : Nat) : (d.orBits r v).casc = d.casc := rfl
@[simp] theorem Dev.orBits_chans (r : FieldRef) (v : Nat) : (d.orBits r v).chans = d.chans := rfl
@[simp] theorem Dev.orBits_starts (r : FieldRef) (v : Nat) : (d.orBits r v).starts = d.starts := rfl
@[simp] theorem Dev.orBits_serving (r : FieldRef) (v : Nat) : (d.orBits r v).serving = d.serving := rfl
@[simp] theorem Dev.orBits_cus (r : FieldRef) (v : Nat) : (d.orBits r v).cus = d.cus := rfl
@[simp] theorem Dev.orBits_clk (r : FieldRef) (v : Nat) : (d.orBits r v).clk = d.clk := rfl
@[simp] theorem Dev.orBits_pwr (r : FieldRef) (v : Nat) : (d.orBits r v).pwr = d.pwr := rfl
@[simp] theorem Dev.orBits_stw (r : FieldRef) (v : Nat) : (d.orBits r v).stw = d.stw := rfl
@[simp] theorem Dev.orBits_alcq (r : FieldRef) (v : Nat) : (d.orBits r v).alcq = d.alcq := rfl
@[simp] theorem Dev.orBits_alcSeen (r : FieldRef) (v : Nat) : (d.orBits r v).alcSeen = d.alcSeen := rfl
@[simp] theorem Dev.orBits_alcFind (r : FieldRef) (v : Nat) : (d.orBits r v).alcFind = d.alcFind := rfl
@[simp] theorem Dev.orBits_alcOn (r : FieldRef) (v : Nat) : (d.orBits r v).alcOn = d.alcOn := rfl
@[simp] theorem Dev.orBits_otSeen (r : FieldRef) (v : Nat) : (d.orBits r v).otSeen = d.otSeen := rfl
@[simp] theorem Dev.orBits_sealOpen (r : FieldRef) (v : Nat) : (d.orBits r v).sealOpen = d.sealOpen := rfl
@[simp] theorem Dev.orBits_regs_active (r : FieldRef) (v : Nat) : (d.orBits r v).regs.active = d.regs.active := rfl
@[simp] theorem Dev.orBits_regs_pend (r : FieldRef) (v : Nat) : (d.orBits r v).regs.pend = d.regs.pend := rfl
@[simp] theorem Dev.orBits_regs_dry (r : FieldRef) (v : Nat) : (d.orBits r v).regs.dry = d.regs.dry := rfl
@[simp] theorem Dev.orBits_regs_held (r : FieldRef) (v : Nat) : (d.orBits r v).regs.held = d.regs.held := rfl
@[simp] theorem Dev.orBits_regs_loc (r : FieldRef) (v : Nat) : (d.orBits r v).regs.loc = d.regs.loc := rfl
@[simp] theorem Dev.orBits_regs_ind (r : FieldRef) (v : Nat) : (d.orBits r v).regs.ind = d.regs.ind := rfl
@[simp] theorem Dev.orBits_regs_heldInd (r : FieldRef) (v : Nat) : (d.orBits r v).regs.heldInd = d.regs.heldInd := rfl

/-! ## `setLoc` -/

@[simp] theorem Dev.setLoc_now (acc a : Nat) (w : Word) : (d.setLoc acc a w).now = d.now := rfl
@[simp] theorem Dev.setLoc_seed (acc a : Nat) (w : Word) : (d.setLoc acc a w).seed = d.seed := rfl
@[simp] theorem Dev.setLoc_h48 (acc a : Nat) (w : Word) : (d.setLoc acc a w).h48 = d.h48 := rfl
@[simp] theorem Dev.setLoc_serial (acc a : Nat) (w : Word) : (d.setLoc acc a w).serial = d.serial := rfl
@[simp] theorem Dev.setLoc_baseMac (acc a : Nat) (w : Word) : (d.setLoc acc a w).baseMac = d.baseMac := rfl
@[simp] theorem Dev.setLoc_factoryOk (acc a : Nat) (w : Word) : (d.setLoc acc a w).factoryOk = d.factoryOk := rfl
@[simp] theorem Dev.setLoc_fenceLog (acc a : Nat) (w : Word) : (d.setLoc acc a w).fenceLog = d.fenceLog := rfl
@[simp] theorem Dev.setLoc_struck (acc a : Nat) (w : Word) : (d.setLoc acc a w).struck = d.struck := rfl
@[simp] theorem Dev.setLoc_out (acc a : Nat) (w : Word) : (d.setLoc acc a w).out = d.out := rfl
@[simp] theorem Dev.setLoc_first (acc a : Nat) (w : Word) : (d.setLoc acc a w).first = d.first := rfl
@[simp] theorem Dev.setLoc_msTick (acc a : Nat) (w : Word) : (d.setLoc acc a w).msTick = d.msTick := rfl
@[simp] theorem Dev.setLoc_commit (acc a : Nat) (w : Word) : (d.setLoc acc a w).commit = d.commit := rfl
@[simp] theorem Dev.setLoc_dry (acc a : Nat) (w : Word) : (d.setLoc acc a w).dry = d.dry := rfl
@[simp] theorem Dev.setLoc_answer (acc a : Nat) (w : Word) : (d.setLoc acc a w).answer = d.answer := rfl
@[simp] theorem Dev.setLoc_answerIn (acc a : Nat) (w : Word) : (d.setLoc acc a w).answerIn = d.answerIn := rfl
@[simp] theorem Dev.setLoc_report (acc a : Nat) (w : Word) : (d.setLoc acc a w).report = d.report := rfl
@[simp] theorem Dev.setLoc_reReport (acc a : Nat) (w : Word) : (d.setLoc acc a w).reReport = d.reReport := rfl
@[simp] theorem Dev.setLoc_readmit (acc a : Nat) (w : Word) : (d.setLoc acc a w).readmit = d.readmit := rfl
@[simp] theorem Dev.setLoc_shed (acc a : Nat) (w : Word) : (d.setLoc acc a w).shed = d.shed := rfl
@[simp] theorem Dev.setLoc_galLost (acc a : Nat) (w : Word) : (d.setLoc acc a w).galLost = d.galLost := rfl
@[simp] theorem Dev.setLoc_canvases (acc a : Nat) (w : Word) : (d.setLoc acc a w).canvases = d.canvases := rfl
@[simp] theorem Dev.setLoc_layers (acc a : Nat) (w : Word) : (d.setLoc acc a w).layers = d.layers := rfl
@[simp] theorem Dev.setLoc_halls (acc a : Nat) (w : Word) : (d.setLoc acc a w).halls = d.halls := rfl
@[simp] theorem Dev.setLoc_gal (acc a : Nat) (w : Word) : (d.setLoc acc a w).gal = d.gal := rfl
@[simp] theorem Dev.setLoc_wbRows (acc a : Nat) (w : Word) : (d.setLoc acc a w).wbRows = d.wbRows := rfl
@[simp] theorem Dev.setLoc_wins (acc a : Nat) (w : Word) : (d.setLoc acc a w).wins = d.wins := rfl
@[simp] theorem Dev.setLoc_lanes (acc a : Nat) (w : Word) : (d.setLoc acc a w).lanes = d.lanes := rfl
@[simp] theorem Dev.setLoc_laneQ (acc a : Nat) (w : Word) : (d.setLoc acc a w).laneQ = d.laneQ := rfl
@[simp] theorem Dev.setLoc_hostQ (acc a : Nat) (w : Word) : (d.setLoc acc a w).hostQ = d.hostQ := rfl
@[simp] theorem Dev.setLoc_policers (acc a : Nat) (w : Word) : (d.setLoc acc a w).policers = d.policers := rfl
@[simp] theorem Dev.setLoc_shapers (acc a : Nat) (w : Word) : (d.setLoc acc a w).shapers = d.shapers := rfl
@[simp] theorem Dev.setLoc_samplers (acc a : Nat) (w : Word) : (d.setLoc acc a w).samplers = d.samplers := rfl
@[simp] theorem Dev.setLoc_polMs (acc a : Nat) (w : Word) : (d.setLoc acc a w).polMs = d.polMs := rfl
@[simp] theorem Dev.setLoc_ptp (acc a : Nat) (w : Word) : (d.setLoc acc a w).ptp = d.ptp := rfl
@[simp] theorem Dev.setLoc_slave (acc a : Nat) (w : Word) : (d.setLoc acc a w).slave = d.slave := rfl
@[simp] theorem Dev.setLoc_recvs (acc a : Nat) (w : Word) : (d.setLoc acc a w).recvs = d.recvs := rfl
@[simp] theorem Dev.setLoc_sessions (acc a : Nat) (w : Word) : (d.setLoc acc a w).sessions = d.sessions := rfl
@[simp] theorem Dev.setLoc_challenges (acc a : Nat) (w : Word) : (d.setLoc acc a w).challenges = d.challenges := rfl
@[simp] theorem Dev.setLoc_keys (acc a : Nat) (w : Word) : (d.setLoc acc a w).keys = d.keys := rfl
@[simp] theorem Dev.setLoc_keyStage (acc a : Nat) (w : Word) : (d.setLoc acc a w).keyStage = d.keyStage := rfl
@[simp] theorem Dev.setLoc_bulk (acc a : Nat) (w : Word) : (d.setLoc acc a w).bulk = d.bulk := rfl
@[simp] theorem Dev.setLoc_pulse (acc a : Nat) (w : Word) : (d.setLoc acc a w).pulse = d.pulse := rfl
@[simp] theorem Dev.setLoc_pulseOn (acc a : Nat) (w : Word) : (d.setLoc acc a w).pulseOn = d.pulseOn := rfl
@[simp] theorem Dev.setLoc_snapTick (acc a : Nat) (w : Word) : (d.setLoc acc a w).snapTick = d.snapTick := rfl
@[simp] theorem Dev.setLoc_snapCanvas (acc a : Nat) (w : Word) : (d.setLoc acc a w).snapCanvas = d.snapCanvas := rfl
@[simp] theorem Dev.setLoc_snapFrom (acc a : Nat) (w : Word) : (d.setLoc acc a w).snapFrom = d.snapFrom := rfl
@[simp] theorem Dev.setLoc_hbm (acc a : Nat) (w : Word) : (d.setLoc acc a w).hbm = d.hbm := rfl
@[simp] theorem Dev.setLoc_bad (acc a : Nat) (w : Word) : (d.setLoc acc a w).bad = d.bad := rfl
@[simp] theorem Dev.setLoc_pcq (acc a : Nat) (w : Word) : (d.setLoc acc a w).pcq = d.pcq := rfl
@[simp] theorem Dev.setLoc_migr (acc a : Nat) (w : Word) : (d.setLoc acc a w).migr = d.migr := rfl
@[simp] theorem Dev.setLoc_journal (acc a : Nat) (w : Word) : (d.setLoc acc a w).journal = d.journal := rfl
@[simp] theorem Dev.setLoc_eccLast (acc a : Nat) (w : Word) : (d.setLoc acc a w).eccLast = d.eccLast := rfl
@[simp] theorem Dev.setLoc_classB (acc a : Nat) (w : Word) : (d.setLoc acc a w).classB = d.classB := rfl
@[simp] theorem Dev.setLoc_heldB (acc a : Nat) (w : Word) : (d.setLoc acc a w).heldB = d.heldB := rfl
@[simp] theorem Dev.setLoc_owed (acc a : Nat) (w : Word) : (d.setLoc acc a w).owed = d.owed := rfl
@[simp] theorem Dev.setLoc_scrub (acc a : Nat) (w : Word) : (d.setLoc acc a w).scrub = d.scrub := rfl
@[simp] theorem Dev.setLoc_ceTimes (acc a : Nat) (w : Word) : (d.setLoc acc a w).ceTimes = d.ceTimes := rfl
@[simp] theorem Dev.setLoc_meets (acc a : Nat) (w : Word) : (d.setLoc acc a w).meets = d.meets := rfl
@[simp] theorem Dev.setLoc_policyMet (acc a : Nat) (w : Word) : (d.setLoc acc a w).policyMet = d.policyMet := rfl
@[simp] theorem Dev.setLoc_ueSeen (acc a : Nat) (w : Word) : (d.setLoc acc a w).ueSeen = d.ueSeen := rfl
@[simp] theorem Dev.setLoc_leaves (acc a : Nat) (w : Word) : (d.setLoc acc a w).leaves = d.leaves := rfl
@[simp] theorem Dev.setLoc_wcache (acc a : Nat) (w : Word) : (d.setLoc acc a w).wcache = d.wcache := rfl
@[simp] theorem Dev.setLoc_walks (acc a : Nat) (w : Word) : (d.setLoc acc a w).walks = d.walks := rfl
@[simp] theorem Dev.setLoc_ingest (acc a : Nat) (w : Word) : (d.setLoc acc a w).ingest = d.ingest := rfl
@[simp] theorem Dev.setLoc_faults (acc a : Nat) (w : Word) : (d.setLoc acc a w).faults = d.faults := rfl
@[simp] theorem Dev.setLoc_lostOpen (acc a : Nat) (w : Word) : (d.setLoc acc a w).lostOpen = d.lostOpen := rfl
@[simp] theorem Dev.setLoc_invAt (acc a : Nat) (w : Word) : (d.setLoc acc a w).invAt = d.invAt := rfl
@[simp] theorem Dev.setLoc_casc (acc a : Nat) (w : Word) : (d.setLoc acc a w).casc = d.casc := rfl
@[simp] theorem Dev.setLoc_chans (acc a : Nat) (w : Word) : (d.setLoc acc a w).chans = d.chans := rfl
@[simp] theorem Dev.setLoc_starts (acc a : Nat) (w : Word) : (d.setLoc acc a w).starts = d.starts := rfl
@[simp] theorem Dev.setLoc_serving (acc a : Nat) (w : Word) : (d.setLoc acc a w).serving = d.serving := rfl
@[simp] theorem Dev.setLoc_cus (acc a : Nat) (w : Word) : (d.setLoc acc a w).cus = d.cus := rfl
@[simp] theorem Dev.setLoc_clk (acc a : Nat) (w : Word) : (d.setLoc acc a w).clk = d.clk := rfl
@[simp] theorem Dev.setLoc_pwr (acc a : Nat) (w : Word) : (d.setLoc acc a w).pwr = d.pwr := rfl
@[simp] theorem Dev.setLoc_stw (acc a : Nat) (w : Word) : (d.setLoc acc a w).stw = d.stw := rfl
@[simp] theorem Dev.setLoc_alcq (acc a : Nat) (w : Word) : (d.setLoc acc a w).alcq = d.alcq := rfl
@[simp] theorem Dev.setLoc_alcSeen (acc a : Nat) (w : Word) : (d.setLoc acc a w).alcSeen = d.alcSeen := rfl
@[simp] theorem Dev.setLoc_alcFind (acc a : Nat) (w : Word) : (d.setLoc acc a w).alcFind = d.alcFind := rfl
@[simp] theorem Dev.setLoc_alcOn (acc a : Nat) (w : Word) : (d.setLoc acc a w).alcOn = d.alcOn := rfl
@[simp] theorem Dev.setLoc_otSeen (acc a : Nat) (w : Word) : (d.setLoc acc a w).otSeen = d.otSeen := rfl
@[simp] theorem Dev.setLoc_sealOpen (acc a : Nat) (w : Word) : (d.setLoc acc a w).sealOpen = d.sealOpen := rfl
@[simp] theorem Dev.setLoc_regs_stored (acc a : Nat) (w : Word) : (d.setLoc acc a w).regs.stored = d.regs.stored := rfl
@[simp] theorem Dev.setLoc_regs_active (acc a : Nat) (w : Word) : (d.setLoc acc a w).regs.active = d.regs.active := rfl
@[simp] theorem Dev.setLoc_regs_pend (acc a : Nat) (w : Word) : (d.setLoc acc a w).regs.pend = d.regs.pend := rfl
@[simp] theorem Dev.setLoc_regs_dry (acc a : Nat) (w : Word) : (d.setLoc acc a w).regs.dry = d.regs.dry := rfl
@[simp] theorem Dev.setLoc_regs_held (acc a : Nat) (w : Word) : (d.setLoc acc a w).regs.held = d.regs.held := rfl
@[simp] theorem Dev.setLoc_regs_ind (acc a : Nat) (w : Word) : (d.setLoc acc a w).regs.ind = d.regs.ind := rfl
@[simp] theorem Dev.setLoc_regs_heldInd (acc a : Nat) (w : Word) : (d.setLoc acc a w).regs.heldInd = d.regs.heldInd := rfl

/-! ## `setInd` -/

theorem Dev.withInd_stored (m : Tab Word) : ({ d with regs.ind := m } : Dev).regs.stored = d.regs.stored := rfl
theorem Dev.withInd_active (m : Tab Word) : ({ d with regs.ind := m } : Dev).regs.active = d.regs.active := rfl
theorem Dev.withInd_pend (m : Tab Word) : ({ d with regs.ind := m } : Dev).regs.pend = d.regs.pend := rfl
theorem Dev.withInd_dry (m : Tab Word) : ({ d with regs.ind := m } : Dev).regs.dry = d.regs.dry := rfl
theorem Dev.withInd_held (m : Tab Word) : ({ d with regs.ind := m } : Dev).regs.held = d.regs.held := rfl
theorem Dev.withInd_loc (m : Tab Word) : ({ d with regs.ind := m } : Dev).regs.loc = d.regs.loc := rfl
theorem Dev.withInd_heldInd (m : Tab Word) : ({ d with regs.ind := m } : Dev).regs.heldInd = d.regs.heldInd := rfl
@[simp] theorem Dev.setInd_now (p a : Nat) (w : Word) : (d.setInd p a w).now = d.now := by unfold Dev.setInd; rfl
@[simp] theorem Dev.setInd_seed (p a : Nat) (w : Word) : (d.setInd p a w).seed = d.seed := by unfold Dev.setInd; rfl
@[simp] theorem Dev.setInd_h48 (p a : Nat) (w : Word) : (d.setInd p a w).h48 = d.h48 := by unfold Dev.setInd; rfl
@[simp] theorem Dev.setInd_serial (p a : Nat) (w : Word) : (d.setInd p a w).serial = d.serial := by unfold Dev.setInd; rfl
@[simp] theorem Dev.setInd_baseMac (p a : Nat) (w : Word) : (d.setInd p a w).baseMac = d.baseMac := by unfold Dev.setInd; rfl
@[simp] theorem Dev.setInd_factoryOk (p a : Nat) (w : Word) : (d.setInd p a w).factoryOk = d.factoryOk := by unfold Dev.setInd; rfl
@[simp] theorem Dev.setInd_fenceLog (p a : Nat) (w : Word) : (d.setInd p a w).fenceLog = d.fenceLog := by unfold Dev.setInd; rfl
@[simp] theorem Dev.setInd_struck (p a : Nat) (w : Word) : (d.setInd p a w).struck = d.struck := by unfold Dev.setInd; rfl
@[simp] theorem Dev.setInd_out (p a : Nat) (w : Word) : (d.setInd p a w).out = d.out := by unfold Dev.setInd; rfl
@[simp] theorem Dev.setInd_first (p a : Nat) (w : Word) : (d.setInd p a w).first = d.first := by unfold Dev.setInd; rfl
@[simp] theorem Dev.setInd_msTick (p a : Nat) (w : Word) : (d.setInd p a w).msTick = d.msTick := by unfold Dev.setInd; rfl
@[simp] theorem Dev.setInd_commit (p a : Nat) (w : Word) : (d.setInd p a w).commit = d.commit := by unfold Dev.setInd; rfl
@[simp] theorem Dev.setInd_dry (p a : Nat) (w : Word) : (d.setInd p a w).dry = d.dry := by unfold Dev.setInd; rfl
@[simp] theorem Dev.setInd_answer (p a : Nat) (w : Word) : (d.setInd p a w).answer = d.answer := by unfold Dev.setInd; rfl
@[simp] theorem Dev.setInd_answerIn (p a : Nat) (w : Word) : (d.setInd p a w).answerIn = d.answerIn := by unfold Dev.setInd; rfl
@[simp] theorem Dev.setInd_report (p a : Nat) (w : Word) : (d.setInd p a w).report = d.report := by unfold Dev.setInd; rfl
@[simp] theorem Dev.setInd_reReport (p a : Nat) (w : Word) : (d.setInd p a w).reReport = d.reReport := by unfold Dev.setInd; rfl
@[simp] theorem Dev.setInd_readmit (p a : Nat) (w : Word) : (d.setInd p a w).readmit = d.readmit := by unfold Dev.setInd; rfl
@[simp] theorem Dev.setInd_shed (p a : Nat) (w : Word) : (d.setInd p a w).shed = d.shed := by unfold Dev.setInd; rfl
@[simp] theorem Dev.setInd_galLost (p a : Nat) (w : Word) : (d.setInd p a w).galLost = d.galLost := by unfold Dev.setInd; rfl
@[simp] theorem Dev.setInd_canvases (p a : Nat) (w : Word) : (d.setInd p a w).canvases = d.canvases := by unfold Dev.setInd; rfl
@[simp] theorem Dev.setInd_layers (p a : Nat) (w : Word) : (d.setInd p a w).layers = d.layers := by unfold Dev.setInd; rfl
@[simp] theorem Dev.setInd_halls (p a : Nat) (w : Word) : (d.setInd p a w).halls = d.halls := by unfold Dev.setInd; rfl
@[simp] theorem Dev.setInd_gal (p a : Nat) (w : Word) : (d.setInd p a w).gal = d.gal := by unfold Dev.setInd; rfl
@[simp] theorem Dev.setInd_wbRows (p a : Nat) (w : Word) : (d.setInd p a w).wbRows = d.wbRows := by unfold Dev.setInd; rfl
@[simp] theorem Dev.setInd_wins (p a : Nat) (w : Word) : (d.setInd p a w).wins = d.wins := by unfold Dev.setInd; rfl
@[simp] theorem Dev.setInd_lanes (p a : Nat) (w : Word) : (d.setInd p a w).lanes = d.lanes := by unfold Dev.setInd; rfl
@[simp] theorem Dev.setInd_laneQ (p a : Nat) (w : Word) : (d.setInd p a w).laneQ = d.laneQ := by unfold Dev.setInd; rfl
@[simp] theorem Dev.setInd_hostQ (p a : Nat) (w : Word) : (d.setInd p a w).hostQ = d.hostQ := by unfold Dev.setInd; rfl
@[simp] theorem Dev.setInd_policers (p a : Nat) (w : Word) : (d.setInd p a w).policers = d.policers := by unfold Dev.setInd; rfl
@[simp] theorem Dev.setInd_shapers (p a : Nat) (w : Word) : (d.setInd p a w).shapers = d.shapers := by unfold Dev.setInd; rfl
@[simp] theorem Dev.setInd_samplers (p a : Nat) (w : Word) : (d.setInd p a w).samplers = d.samplers := by unfold Dev.setInd; rfl
@[simp] theorem Dev.setInd_polMs (p a : Nat) (w : Word) : (d.setInd p a w).polMs = d.polMs := by unfold Dev.setInd; rfl
@[simp] theorem Dev.setInd_ptp (p a : Nat) (w : Word) : (d.setInd p a w).ptp = d.ptp := by unfold Dev.setInd; rfl
@[simp] theorem Dev.setInd_slave (p a : Nat) (w : Word) : (d.setInd p a w).slave = d.slave := by unfold Dev.setInd; rfl
@[simp] theorem Dev.setInd_recvs (p a : Nat) (w : Word) : (d.setInd p a w).recvs = d.recvs := by unfold Dev.setInd; rfl
@[simp] theorem Dev.setInd_sessions (p a : Nat) (w : Word) : (d.setInd p a w).sessions = d.sessions := by unfold Dev.setInd; rfl
@[simp] theorem Dev.setInd_challenges (p a : Nat) (w : Word) : (d.setInd p a w).challenges = d.challenges := by unfold Dev.setInd; rfl
@[simp] theorem Dev.setInd_keys (p a : Nat) (w : Word) : (d.setInd p a w).keys = d.keys := by unfold Dev.setInd; rfl
@[simp] theorem Dev.setInd_keyStage (p a : Nat) (w : Word) : (d.setInd p a w).keyStage = d.keyStage := by unfold Dev.setInd; rfl
@[simp] theorem Dev.setInd_bulk (p a : Nat) (w : Word) : (d.setInd p a w).bulk = d.bulk := by unfold Dev.setInd; rfl
@[simp] theorem Dev.setInd_pulse (p a : Nat) (w : Word) : (d.setInd p a w).pulse = d.pulse := by unfold Dev.setInd; rfl
@[simp] theorem Dev.setInd_pulseOn (p a : Nat) (w : Word) : (d.setInd p a w).pulseOn = d.pulseOn := by unfold Dev.setInd; rfl
@[simp] theorem Dev.setInd_snapTick (p a : Nat) (w : Word) : (d.setInd p a w).snapTick = d.snapTick := by unfold Dev.setInd; rfl
@[simp] theorem Dev.setInd_snapCanvas (p a : Nat) (w : Word) : (d.setInd p a w).snapCanvas = d.snapCanvas := by unfold Dev.setInd; rfl
@[simp] theorem Dev.setInd_snapFrom (p a : Nat) (w : Word) : (d.setInd p a w).snapFrom = d.snapFrom := by unfold Dev.setInd; rfl
@[simp] theorem Dev.setInd_hbm (p a : Nat) (w : Word) : (d.setInd p a w).hbm = d.hbm := by unfold Dev.setInd; rfl
@[simp] theorem Dev.setInd_bad (p a : Nat) (w : Word) : (d.setInd p a w).bad = d.bad := by unfold Dev.setInd; rfl
@[simp] theorem Dev.setInd_pcq (p a : Nat) (w : Word) : (d.setInd p a w).pcq = d.pcq := by unfold Dev.setInd; rfl
@[simp] theorem Dev.setInd_migr (p a : Nat) (w : Word) : (d.setInd p a w).migr = d.migr := by unfold Dev.setInd; rfl
@[simp] theorem Dev.setInd_journal (p a : Nat) (w : Word) : (d.setInd p a w).journal = d.journal := by unfold Dev.setInd; rfl
@[simp] theorem Dev.setInd_eccLast (p a : Nat) (w : Word) : (d.setInd p a w).eccLast = d.eccLast := by unfold Dev.setInd; rfl
@[simp] theorem Dev.setInd_classB (p a : Nat) (w : Word) : (d.setInd p a w).classB = d.classB := by unfold Dev.setInd; rfl
@[simp] theorem Dev.setInd_heldB (p a : Nat) (w : Word) : (d.setInd p a w).heldB = d.heldB := by unfold Dev.setInd; rfl
@[simp] theorem Dev.setInd_owed (p a : Nat) (w : Word) : (d.setInd p a w).owed = d.owed := by unfold Dev.setInd; rfl
@[simp] theorem Dev.setInd_scrub (p a : Nat) (w : Word) : (d.setInd p a w).scrub = d.scrub := by unfold Dev.setInd; rfl
@[simp] theorem Dev.setInd_ceTimes (p a : Nat) (w : Word) : (d.setInd p a w).ceTimes = d.ceTimes := by unfold Dev.setInd; rfl
@[simp] theorem Dev.setInd_meets (p a : Nat) (w : Word) : (d.setInd p a w).meets = d.meets := by unfold Dev.setInd; rfl
@[simp] theorem Dev.setInd_policyMet (p a : Nat) (w : Word) : (d.setInd p a w).policyMet = d.policyMet := by unfold Dev.setInd; rfl
@[simp] theorem Dev.setInd_ueSeen (p a : Nat) (w : Word) : (d.setInd p a w).ueSeen = d.ueSeen := by unfold Dev.setInd; rfl
@[simp] theorem Dev.setInd_leaves (p a : Nat) (w : Word) : (d.setInd p a w).leaves = d.leaves := by unfold Dev.setInd; rfl
@[simp] theorem Dev.setInd_wcache (p a : Nat) (w : Word) : (d.setInd p a w).wcache = d.wcache := by unfold Dev.setInd; rfl
@[simp] theorem Dev.setInd_walks (p a : Nat) (w : Word) : (d.setInd p a w).walks = d.walks := by unfold Dev.setInd; rfl
@[simp] theorem Dev.setInd_ingest (p a : Nat) (w : Word) : (d.setInd p a w).ingest = d.ingest := by unfold Dev.setInd; rfl
@[simp] theorem Dev.setInd_faults (p a : Nat) (w : Word) : (d.setInd p a w).faults = d.faults := by unfold Dev.setInd; rfl
@[simp] theorem Dev.setInd_lostOpen (p a : Nat) (w : Word) : (d.setInd p a w).lostOpen = d.lostOpen := by unfold Dev.setInd; rfl
@[simp] theorem Dev.setInd_invAt (p a : Nat) (w : Word) : (d.setInd p a w).invAt = d.invAt := by unfold Dev.setInd; rfl
@[simp] theorem Dev.setInd_casc (p a : Nat) (w : Word) : (d.setInd p a w).casc = d.casc := by unfold Dev.setInd; rfl
@[simp] theorem Dev.setInd_chans (p a : Nat) (w : Word) : (d.setInd p a w).chans = d.chans := by unfold Dev.setInd; rfl
@[simp] theorem Dev.setInd_starts (p a : Nat) (w : Word) : (d.setInd p a w).starts = d.starts := by unfold Dev.setInd; rfl
@[simp] theorem Dev.setInd_serving (p a : Nat) (w : Word) : (d.setInd p a w).serving = d.serving := by unfold Dev.setInd; rfl
@[simp] theorem Dev.setInd_cus (p a : Nat) (w : Word) : (d.setInd p a w).cus = d.cus := by unfold Dev.setInd; rfl
@[simp] theorem Dev.setInd_clk (p a : Nat) (w : Word) : (d.setInd p a w).clk = d.clk := by unfold Dev.setInd; rfl
@[simp] theorem Dev.setInd_pwr (p a : Nat) (w : Word) : (d.setInd p a w).pwr = d.pwr := by unfold Dev.setInd; rfl
@[simp] theorem Dev.setInd_stw (p a : Nat) (w : Word) : (d.setInd p a w).stw = d.stw := by unfold Dev.setInd; rfl
@[simp] theorem Dev.setInd_alcq (p a : Nat) (w : Word) : (d.setInd p a w).alcq = d.alcq := by unfold Dev.setInd; rfl
@[simp] theorem Dev.setInd_alcSeen (p a : Nat) (w : Word) : (d.setInd p a w).alcSeen = d.alcSeen := by unfold Dev.setInd; rfl
@[simp] theorem Dev.setInd_alcFind (p a : Nat) (w : Word) : (d.setInd p a w).alcFind = d.alcFind := by unfold Dev.setInd; rfl
@[simp] theorem Dev.setInd_alcOn (p a : Nat) (w : Word) : (d.setInd p a w).alcOn = d.alcOn := by unfold Dev.setInd; rfl
@[simp] theorem Dev.setInd_otSeen (p a : Nat) (w : Word) : (d.setInd p a w).otSeen = d.otSeen := by unfold Dev.setInd; rfl
@[simp] theorem Dev.setInd_sealOpen (p a : Nat) (w : Word) : (d.setInd p a w).sealOpen = d.sealOpen := by unfold Dev.setInd; rfl
@[simp] theorem Dev.setInd_regs_stored (p a : Nat) (w : Word) : (d.setInd p a w).regs.stored = d.regs.stored := Dev.withInd_stored d _
@[simp] theorem Dev.setInd_regs_active (p a : Nat) (w : Word) : (d.setInd p a w).regs.active = d.regs.active := Dev.withInd_active d _
@[simp] theorem Dev.setInd_regs_pend (p a : Nat) (w : Word) : (d.setInd p a w).regs.pend = d.regs.pend := Dev.withInd_pend d _
@[simp] theorem Dev.setInd_regs_dry (p a : Nat) (w : Word) : (d.setInd p a w).regs.dry = d.regs.dry := Dev.withInd_dry d _
@[simp] theorem Dev.setInd_regs_held (p a : Nat) (w : Word) : (d.setInd p a w).regs.held = d.regs.held := Dev.withInd_held d _
@[simp] theorem Dev.setInd_regs_loc (p a : Nat) (w : Word) : (d.setInd p a w).regs.loc = d.regs.loc := Dev.withInd_loc d _
@[simp] theorem Dev.setInd_regs_heldInd (p a : Nat) (w : Word) : (d.setInd p a w).regs.heldInd = d.regs.heldInd := Dev.withInd_heldInd d _

/-! ## `setCanvas` -/

@[simp] theorem Dev.setCanvas_now (c : Nat) (v : Canvas) : (d.setCanvas c v).now = d.now := rfl
@[simp] theorem Dev.setCanvas_seed (c : Nat) (v : Canvas) : (d.setCanvas c v).seed = d.seed := rfl
@[simp] theorem Dev.setCanvas_h48 (c : Nat) (v : Canvas) : (d.setCanvas c v).h48 = d.h48 := rfl
@[simp] theorem Dev.setCanvas_serial (c : Nat) (v : Canvas) : (d.setCanvas c v).serial = d.serial := rfl
@[simp] theorem Dev.setCanvas_baseMac (c : Nat) (v : Canvas) : (d.setCanvas c v).baseMac = d.baseMac := rfl
@[simp] theorem Dev.setCanvas_factoryOk (c : Nat) (v : Canvas) : (d.setCanvas c v).factoryOk = d.factoryOk := rfl
@[simp] theorem Dev.setCanvas_fenceLog (c : Nat) (v : Canvas) : (d.setCanvas c v).fenceLog = d.fenceLog := rfl
@[simp] theorem Dev.setCanvas_struck (c : Nat) (v : Canvas) : (d.setCanvas c v).struck = d.struck := rfl
@[simp] theorem Dev.setCanvas_regs (c : Nat) (v : Canvas) : (d.setCanvas c v).regs = d.regs := rfl
@[simp] theorem Dev.setCanvas_out (c : Nat) (v : Canvas) : (d.setCanvas c v).out = d.out := rfl
@[simp] theorem Dev.setCanvas_first (c : Nat) (v : Canvas) : (d.setCanvas c v).first = d.first := rfl
@[simp] theorem Dev.setCanvas_msTick (c : Nat) (v : Canvas) : (d.setCanvas c v).msTick = d.msTick := rfl
@[simp] theorem Dev.setCanvas_commit (c : Nat) (v : Canvas) : (d.setCanvas c v).commit = d.commit := rfl
@[simp] theorem Dev.setCanvas_dry (c : Nat) (v : Canvas) : (d.setCanvas c v).dry = d.dry := rfl
@[simp] theorem Dev.setCanvas_answer (c : Nat) (v : Canvas) : (d.setCanvas c v).answer = d.answer := rfl
@[simp] theorem Dev.setCanvas_answerIn (c : Nat) (v : Canvas) : (d.setCanvas c v).answerIn = d.answerIn := rfl
@[simp] theorem Dev.setCanvas_report (c : Nat) (v : Canvas) : (d.setCanvas c v).report = d.report := rfl
@[simp] theorem Dev.setCanvas_reReport (c : Nat) (v : Canvas) : (d.setCanvas c v).reReport = d.reReport := rfl
@[simp] theorem Dev.setCanvas_readmit (c : Nat) (v : Canvas) : (d.setCanvas c v).readmit = d.readmit := rfl
@[simp] theorem Dev.setCanvas_shed (c : Nat) (v : Canvas) : (d.setCanvas c v).shed = d.shed := rfl
@[simp] theorem Dev.setCanvas_galLost (c : Nat) (v : Canvas) : (d.setCanvas c v).galLost = d.galLost := rfl
@[simp] theorem Dev.setCanvas_layers (c : Nat) (v : Canvas) : (d.setCanvas c v).layers = d.layers := rfl
@[simp] theorem Dev.setCanvas_halls (c : Nat) (v : Canvas) : (d.setCanvas c v).halls = d.halls := rfl
@[simp] theorem Dev.setCanvas_gal (c : Nat) (v : Canvas) : (d.setCanvas c v).gal = d.gal := rfl
@[simp] theorem Dev.setCanvas_wbRows (c : Nat) (v : Canvas) : (d.setCanvas c v).wbRows = d.wbRows := rfl
@[simp] theorem Dev.setCanvas_wins (c : Nat) (v : Canvas) : (d.setCanvas c v).wins = d.wins := rfl
@[simp] theorem Dev.setCanvas_lanes (c : Nat) (v : Canvas) : (d.setCanvas c v).lanes = d.lanes := rfl
@[simp] theorem Dev.setCanvas_laneQ (c : Nat) (v : Canvas) : (d.setCanvas c v).laneQ = d.laneQ := rfl
@[simp] theorem Dev.setCanvas_hostQ (c : Nat) (v : Canvas) : (d.setCanvas c v).hostQ = d.hostQ := rfl
@[simp] theorem Dev.setCanvas_policers (c : Nat) (v : Canvas) : (d.setCanvas c v).policers = d.policers := rfl
@[simp] theorem Dev.setCanvas_shapers (c : Nat) (v : Canvas) : (d.setCanvas c v).shapers = d.shapers := rfl
@[simp] theorem Dev.setCanvas_samplers (c : Nat) (v : Canvas) : (d.setCanvas c v).samplers = d.samplers := rfl
@[simp] theorem Dev.setCanvas_polMs (c : Nat) (v : Canvas) : (d.setCanvas c v).polMs = d.polMs := rfl
@[simp] theorem Dev.setCanvas_ptp (c : Nat) (v : Canvas) : (d.setCanvas c v).ptp = d.ptp := rfl
@[simp] theorem Dev.setCanvas_slave (c : Nat) (v : Canvas) : (d.setCanvas c v).slave = d.slave := rfl
@[simp] theorem Dev.setCanvas_recvs (c : Nat) (v : Canvas) : (d.setCanvas c v).recvs = d.recvs := rfl
@[simp] theorem Dev.setCanvas_sessions (c : Nat) (v : Canvas) : (d.setCanvas c v).sessions = d.sessions := rfl
@[simp] theorem Dev.setCanvas_challenges (c : Nat) (v : Canvas) : (d.setCanvas c v).challenges = d.challenges := rfl
@[simp] theorem Dev.setCanvas_keys (c : Nat) (v : Canvas) : (d.setCanvas c v).keys = d.keys := rfl
@[simp] theorem Dev.setCanvas_keyStage (c : Nat) (v : Canvas) : (d.setCanvas c v).keyStage = d.keyStage := rfl
@[simp] theorem Dev.setCanvas_bulk (c : Nat) (v : Canvas) : (d.setCanvas c v).bulk = d.bulk := rfl
@[simp] theorem Dev.setCanvas_pulse (c : Nat) (v : Canvas) : (d.setCanvas c v).pulse = d.pulse := rfl
@[simp] theorem Dev.setCanvas_pulseOn (c : Nat) (v : Canvas) : (d.setCanvas c v).pulseOn = d.pulseOn := rfl
@[simp] theorem Dev.setCanvas_snapTick (c : Nat) (v : Canvas) : (d.setCanvas c v).snapTick = d.snapTick := rfl
@[simp] theorem Dev.setCanvas_snapCanvas (c : Nat) (v : Canvas) : (d.setCanvas c v).snapCanvas = d.snapCanvas := rfl
@[simp] theorem Dev.setCanvas_snapFrom (c : Nat) (v : Canvas) : (d.setCanvas c v).snapFrom = d.snapFrom := rfl
@[simp] theorem Dev.setCanvas_hbm (c : Nat) (v : Canvas) : (d.setCanvas c v).hbm = d.hbm := rfl
@[simp] theorem Dev.setCanvas_bad (c : Nat) (v : Canvas) : (d.setCanvas c v).bad = d.bad := rfl
@[simp] theorem Dev.setCanvas_pcq (c : Nat) (v : Canvas) : (d.setCanvas c v).pcq = d.pcq := rfl
@[simp] theorem Dev.setCanvas_migr (c : Nat) (v : Canvas) : (d.setCanvas c v).migr = d.migr := rfl
@[simp] theorem Dev.setCanvas_journal (c : Nat) (v : Canvas) : (d.setCanvas c v).journal = d.journal := rfl
@[simp] theorem Dev.setCanvas_eccLast (c : Nat) (v : Canvas) : (d.setCanvas c v).eccLast = d.eccLast := rfl
@[simp] theorem Dev.setCanvas_classB (c : Nat) (v : Canvas) : (d.setCanvas c v).classB = d.classB := rfl
@[simp] theorem Dev.setCanvas_heldB (c : Nat) (v : Canvas) : (d.setCanvas c v).heldB = d.heldB := rfl
@[simp] theorem Dev.setCanvas_owed (c : Nat) (v : Canvas) : (d.setCanvas c v).owed = d.owed := rfl
@[simp] theorem Dev.setCanvas_scrub (c : Nat) (v : Canvas) : (d.setCanvas c v).scrub = d.scrub := rfl
@[simp] theorem Dev.setCanvas_ceTimes (c : Nat) (v : Canvas) : (d.setCanvas c v).ceTimes = d.ceTimes := rfl
@[simp] theorem Dev.setCanvas_meets (c : Nat) (v : Canvas) : (d.setCanvas c v).meets = d.meets := rfl
@[simp] theorem Dev.setCanvas_policyMet (c : Nat) (v : Canvas) : (d.setCanvas c v).policyMet = d.policyMet := rfl
@[simp] theorem Dev.setCanvas_ueSeen (c : Nat) (v : Canvas) : (d.setCanvas c v).ueSeen = d.ueSeen := rfl
@[simp] theorem Dev.setCanvas_leaves (c : Nat) (v : Canvas) : (d.setCanvas c v).leaves = d.leaves := rfl
@[simp] theorem Dev.setCanvas_wcache (c : Nat) (v : Canvas) : (d.setCanvas c v).wcache = d.wcache := rfl
@[simp] theorem Dev.setCanvas_walks (c : Nat) (v : Canvas) : (d.setCanvas c v).walks = d.walks := rfl
@[simp] theorem Dev.setCanvas_ingest (c : Nat) (v : Canvas) : (d.setCanvas c v).ingest = d.ingest := rfl
@[simp] theorem Dev.setCanvas_faults (c : Nat) (v : Canvas) : (d.setCanvas c v).faults = d.faults := rfl
@[simp] theorem Dev.setCanvas_lostOpen (c : Nat) (v : Canvas) : (d.setCanvas c v).lostOpen = d.lostOpen := rfl
@[simp] theorem Dev.setCanvas_invAt (c : Nat) (v : Canvas) : (d.setCanvas c v).invAt = d.invAt := rfl
@[simp] theorem Dev.setCanvas_casc (c : Nat) (v : Canvas) : (d.setCanvas c v).casc = d.casc := rfl
@[simp] theorem Dev.setCanvas_chans (c : Nat) (v : Canvas) : (d.setCanvas c v).chans = d.chans := rfl
@[simp] theorem Dev.setCanvas_starts (c : Nat) (v : Canvas) : (d.setCanvas c v).starts = d.starts := rfl
@[simp] theorem Dev.setCanvas_serving (c : Nat) (v : Canvas) : (d.setCanvas c v).serving = d.serving := rfl
@[simp] theorem Dev.setCanvas_cus (c : Nat) (v : Canvas) : (d.setCanvas c v).cus = d.cus := rfl
@[simp] theorem Dev.setCanvas_clk (c : Nat) (v : Canvas) : (d.setCanvas c v).clk = d.clk := rfl
@[simp] theorem Dev.setCanvas_pwr (c : Nat) (v : Canvas) : (d.setCanvas c v).pwr = d.pwr := rfl
@[simp] theorem Dev.setCanvas_stw (c : Nat) (v : Canvas) : (d.setCanvas c v).stw = d.stw := rfl
@[simp] theorem Dev.setCanvas_alcq (c : Nat) (v : Canvas) : (d.setCanvas c v).alcq = d.alcq := rfl
@[simp] theorem Dev.setCanvas_alcSeen (c : Nat) (v : Canvas) : (d.setCanvas c v).alcSeen = d.alcSeen := rfl
@[simp] theorem Dev.setCanvas_alcFind (c : Nat) (v : Canvas) : (d.setCanvas c v).alcFind = d.alcFind := rfl
@[simp] theorem Dev.setCanvas_alcOn (c : Nat) (v : Canvas) : (d.setCanvas c v).alcOn = d.alcOn := rfl
@[simp] theorem Dev.setCanvas_otSeen (c : Nat) (v : Canvas) : (d.setCanvas c v).otSeen = d.otSeen := rfl
@[simp] theorem Dev.setCanvas_sealOpen (c : Nat) (v : Canvas) : (d.setCanvas c v).sealOpen = d.sealOpen := rfl

/-! ## `setLayer` -/

@[simp] theorem Dev.setLayer_now (h n : Nat) (v : Layer) : (d.setLayer h n v).now = d.now := rfl
@[simp] theorem Dev.setLayer_seed (h n : Nat) (v : Layer) : (d.setLayer h n v).seed = d.seed := rfl
@[simp] theorem Dev.setLayer_h48 (h n : Nat) (v : Layer) : (d.setLayer h n v).h48 = d.h48 := rfl
@[simp] theorem Dev.setLayer_serial (h n : Nat) (v : Layer) : (d.setLayer h n v).serial = d.serial := rfl
@[simp] theorem Dev.setLayer_baseMac (h n : Nat) (v : Layer) : (d.setLayer h n v).baseMac = d.baseMac := rfl
@[simp] theorem Dev.setLayer_factoryOk (h n : Nat) (v : Layer) : (d.setLayer h n v).factoryOk = d.factoryOk := rfl
@[simp] theorem Dev.setLayer_fenceLog (h n : Nat) (v : Layer) : (d.setLayer h n v).fenceLog = d.fenceLog := rfl
@[simp] theorem Dev.setLayer_struck (h n : Nat) (v : Layer) : (d.setLayer h n v).struck = d.struck := rfl
@[simp] theorem Dev.setLayer_regs (h n : Nat) (v : Layer) : (d.setLayer h n v).regs = d.regs := rfl
@[simp] theorem Dev.setLayer_out (h n : Nat) (v : Layer) : (d.setLayer h n v).out = d.out := rfl
@[simp] theorem Dev.setLayer_first (h n : Nat) (v : Layer) : (d.setLayer h n v).first = d.first := rfl
@[simp] theorem Dev.setLayer_msTick (h n : Nat) (v : Layer) : (d.setLayer h n v).msTick = d.msTick := rfl
@[simp] theorem Dev.setLayer_commit (h n : Nat) (v : Layer) : (d.setLayer h n v).commit = d.commit := rfl
@[simp] theorem Dev.setLayer_dry (h n : Nat) (v : Layer) : (d.setLayer h n v).dry = d.dry := rfl
@[simp] theorem Dev.setLayer_answer (h n : Nat) (v : Layer) : (d.setLayer h n v).answer = d.answer := rfl
@[simp] theorem Dev.setLayer_answerIn (h n : Nat) (v : Layer) : (d.setLayer h n v).answerIn = d.answerIn := rfl
@[simp] theorem Dev.setLayer_report (h n : Nat) (v : Layer) : (d.setLayer h n v).report = d.report := rfl
@[simp] theorem Dev.setLayer_reReport (h n : Nat) (v : Layer) : (d.setLayer h n v).reReport = d.reReport := rfl
@[simp] theorem Dev.setLayer_readmit (h n : Nat) (v : Layer) : (d.setLayer h n v).readmit = d.readmit := rfl
@[simp] theorem Dev.setLayer_shed (h n : Nat) (v : Layer) : (d.setLayer h n v).shed = d.shed := rfl
@[simp] theorem Dev.setLayer_galLost (h n : Nat) (v : Layer) : (d.setLayer h n v).galLost = d.galLost := rfl
@[simp] theorem Dev.setLayer_canvases (h n : Nat) (v : Layer) : (d.setLayer h n v).canvases = d.canvases := rfl
@[simp] theorem Dev.setLayer_halls (h n : Nat) (v : Layer) : (d.setLayer h n v).halls = d.halls := rfl
@[simp] theorem Dev.setLayer_gal (h n : Nat) (v : Layer) : (d.setLayer h n v).gal = d.gal := rfl
@[simp] theorem Dev.setLayer_wbRows (h n : Nat) (v : Layer) : (d.setLayer h n v).wbRows = d.wbRows := rfl
@[simp] theorem Dev.setLayer_wins (h n : Nat) (v : Layer) : (d.setLayer h n v).wins = d.wins := rfl
@[simp] theorem Dev.setLayer_lanes (h n : Nat) (v : Layer) : (d.setLayer h n v).lanes = d.lanes := rfl
@[simp] theorem Dev.setLayer_laneQ (h n : Nat) (v : Layer) : (d.setLayer h n v).laneQ = d.laneQ := rfl
@[simp] theorem Dev.setLayer_hostQ (h n : Nat) (v : Layer) : (d.setLayer h n v).hostQ = d.hostQ := rfl
@[simp] theorem Dev.setLayer_policers (h n : Nat) (v : Layer) : (d.setLayer h n v).policers = d.policers := rfl
@[simp] theorem Dev.setLayer_shapers (h n : Nat) (v : Layer) : (d.setLayer h n v).shapers = d.shapers := rfl
@[simp] theorem Dev.setLayer_samplers (h n : Nat) (v : Layer) : (d.setLayer h n v).samplers = d.samplers := rfl
@[simp] theorem Dev.setLayer_polMs (h n : Nat) (v : Layer) : (d.setLayer h n v).polMs = d.polMs := rfl
@[simp] theorem Dev.setLayer_ptp (h n : Nat) (v : Layer) : (d.setLayer h n v).ptp = d.ptp := rfl
@[simp] theorem Dev.setLayer_slave (h n : Nat) (v : Layer) : (d.setLayer h n v).slave = d.slave := rfl
@[simp] theorem Dev.setLayer_recvs (h n : Nat) (v : Layer) : (d.setLayer h n v).recvs = d.recvs := rfl
@[simp] theorem Dev.setLayer_sessions (h n : Nat) (v : Layer) : (d.setLayer h n v).sessions = d.sessions := rfl
@[simp] theorem Dev.setLayer_challenges (h n : Nat) (v : Layer) : (d.setLayer h n v).challenges = d.challenges := rfl
@[simp] theorem Dev.setLayer_keys (h n : Nat) (v : Layer) : (d.setLayer h n v).keys = d.keys := rfl
@[simp] theorem Dev.setLayer_keyStage (h n : Nat) (v : Layer) : (d.setLayer h n v).keyStage = d.keyStage := rfl
@[simp] theorem Dev.setLayer_bulk (h n : Nat) (v : Layer) : (d.setLayer h n v).bulk = d.bulk := rfl
@[simp] theorem Dev.setLayer_pulse (h n : Nat) (v : Layer) : (d.setLayer h n v).pulse = d.pulse := rfl
@[simp] theorem Dev.setLayer_pulseOn (h n : Nat) (v : Layer) : (d.setLayer h n v).pulseOn = d.pulseOn := rfl
@[simp] theorem Dev.setLayer_snapTick (h n : Nat) (v : Layer) : (d.setLayer h n v).snapTick = d.snapTick := rfl
@[simp] theorem Dev.setLayer_snapCanvas (h n : Nat) (v : Layer) : (d.setLayer h n v).snapCanvas = d.snapCanvas := rfl
@[simp] theorem Dev.setLayer_snapFrom (h n : Nat) (v : Layer) : (d.setLayer h n v).snapFrom = d.snapFrom := rfl
@[simp] theorem Dev.setLayer_hbm (h n : Nat) (v : Layer) : (d.setLayer h n v).hbm = d.hbm := rfl
@[simp] theorem Dev.setLayer_bad (h n : Nat) (v : Layer) : (d.setLayer h n v).bad = d.bad := rfl
@[simp] theorem Dev.setLayer_pcq (h n : Nat) (v : Layer) : (d.setLayer h n v).pcq = d.pcq := rfl
@[simp] theorem Dev.setLayer_migr (h n : Nat) (v : Layer) : (d.setLayer h n v).migr = d.migr := rfl
@[simp] theorem Dev.setLayer_journal (h n : Nat) (v : Layer) : (d.setLayer h n v).journal = d.journal := rfl
@[simp] theorem Dev.setLayer_eccLast (h n : Nat) (v : Layer) : (d.setLayer h n v).eccLast = d.eccLast := rfl
@[simp] theorem Dev.setLayer_classB (h n : Nat) (v : Layer) : (d.setLayer h n v).classB = d.classB := rfl
@[simp] theorem Dev.setLayer_heldB (h n : Nat) (v : Layer) : (d.setLayer h n v).heldB = d.heldB := rfl
@[simp] theorem Dev.setLayer_owed (h n : Nat) (v : Layer) : (d.setLayer h n v).owed = d.owed := rfl
@[simp] theorem Dev.setLayer_scrub (h n : Nat) (v : Layer) : (d.setLayer h n v).scrub = d.scrub := rfl
@[simp] theorem Dev.setLayer_ceTimes (h n : Nat) (v : Layer) : (d.setLayer h n v).ceTimes = d.ceTimes := rfl
@[simp] theorem Dev.setLayer_meets (h n : Nat) (v : Layer) : (d.setLayer h n v).meets = d.meets := rfl
@[simp] theorem Dev.setLayer_policyMet (h n : Nat) (v : Layer) : (d.setLayer h n v).policyMet = d.policyMet := rfl
@[simp] theorem Dev.setLayer_ueSeen (h n : Nat) (v : Layer) : (d.setLayer h n v).ueSeen = d.ueSeen := rfl
@[simp] theorem Dev.setLayer_leaves (h n : Nat) (v : Layer) : (d.setLayer h n v).leaves = d.leaves := rfl
@[simp] theorem Dev.setLayer_wcache (h n : Nat) (v : Layer) : (d.setLayer h n v).wcache = d.wcache := rfl
@[simp] theorem Dev.setLayer_walks (h n : Nat) (v : Layer) : (d.setLayer h n v).walks = d.walks := rfl
@[simp] theorem Dev.setLayer_ingest (h n : Nat) (v : Layer) : (d.setLayer h n v).ingest = d.ingest := rfl
@[simp] theorem Dev.setLayer_faults (h n : Nat) (v : Layer) : (d.setLayer h n v).faults = d.faults := rfl
@[simp] theorem Dev.setLayer_lostOpen (h n : Nat) (v : Layer) : (d.setLayer h n v).lostOpen = d.lostOpen := rfl
@[simp] theorem Dev.setLayer_invAt (h n : Nat) (v : Layer) : (d.setLayer h n v).invAt = d.invAt := rfl
@[simp] theorem Dev.setLayer_casc (h n : Nat) (v : Layer) : (d.setLayer h n v).casc = d.casc := rfl
@[simp] theorem Dev.setLayer_chans (h n : Nat) (v : Layer) : (d.setLayer h n v).chans = d.chans := rfl
@[simp] theorem Dev.setLayer_starts (h n : Nat) (v : Layer) : (d.setLayer h n v).starts = d.starts := rfl
@[simp] theorem Dev.setLayer_serving (h n : Nat) (v : Layer) : (d.setLayer h n v).serving = d.serving := rfl
@[simp] theorem Dev.setLayer_cus (h n : Nat) (v : Layer) : (d.setLayer h n v).cus = d.cus := rfl
@[simp] theorem Dev.setLayer_clk (h n : Nat) (v : Layer) : (d.setLayer h n v).clk = d.clk := rfl
@[simp] theorem Dev.setLayer_pwr (h n : Nat) (v : Layer) : (d.setLayer h n v).pwr = d.pwr := rfl
@[simp] theorem Dev.setLayer_stw (h n : Nat) (v : Layer) : (d.setLayer h n v).stw = d.stw := rfl
@[simp] theorem Dev.setLayer_alcq (h n : Nat) (v : Layer) : (d.setLayer h n v).alcq = d.alcq := rfl
@[simp] theorem Dev.setLayer_alcSeen (h n : Nat) (v : Layer) : (d.setLayer h n v).alcSeen = d.alcSeen := rfl
@[simp] theorem Dev.setLayer_alcFind (h n : Nat) (v : Layer) : (d.setLayer h n v).alcFind = d.alcFind := rfl
@[simp] theorem Dev.setLayer_alcOn (h n : Nat) (v : Layer) : (d.setLayer h n v).alcOn = d.alcOn := rfl
@[simp] theorem Dev.setLayer_otSeen (h n : Nat) (v : Layer) : (d.setLayer h n v).otSeen = d.otSeen := rfl
@[simp] theorem Dev.setLayer_sealOpen (h n : Nat) (v : Layer) : (d.setLayer h n v).sealOpen = d.sealOpen := rfl

/-! ## `setHall` -/

@[simp] theorem Dev.setHall_now (h : Nat) (v : Hall) : (d.setHall h v).now = d.now := rfl
@[simp] theorem Dev.setHall_seed (h : Nat) (v : Hall) : (d.setHall h v).seed = d.seed := rfl
@[simp] theorem Dev.setHall_h48 (h : Nat) (v : Hall) : (d.setHall h v).h48 = d.h48 := rfl
@[simp] theorem Dev.setHall_serial (h : Nat) (v : Hall) : (d.setHall h v).serial = d.serial := rfl
@[simp] theorem Dev.setHall_baseMac (h : Nat) (v : Hall) : (d.setHall h v).baseMac = d.baseMac := rfl
@[simp] theorem Dev.setHall_factoryOk (h : Nat) (v : Hall) : (d.setHall h v).factoryOk = d.factoryOk := rfl
@[simp] theorem Dev.setHall_fenceLog (h : Nat) (v : Hall) : (d.setHall h v).fenceLog = d.fenceLog := rfl
@[simp] theorem Dev.setHall_struck (h : Nat) (v : Hall) : (d.setHall h v).struck = d.struck := rfl
@[simp] theorem Dev.setHall_regs (h : Nat) (v : Hall) : (d.setHall h v).regs = d.regs := rfl
@[simp] theorem Dev.setHall_out (h : Nat) (v : Hall) : (d.setHall h v).out = d.out := rfl
@[simp] theorem Dev.setHall_first (h : Nat) (v : Hall) : (d.setHall h v).first = d.first := rfl
@[simp] theorem Dev.setHall_msTick (h : Nat) (v : Hall) : (d.setHall h v).msTick = d.msTick := rfl
@[simp] theorem Dev.setHall_commit (h : Nat) (v : Hall) : (d.setHall h v).commit = d.commit := rfl
@[simp] theorem Dev.setHall_dry (h : Nat) (v : Hall) : (d.setHall h v).dry = d.dry := rfl
@[simp] theorem Dev.setHall_answer (h : Nat) (v : Hall) : (d.setHall h v).answer = d.answer := rfl
@[simp] theorem Dev.setHall_answerIn (h : Nat) (v : Hall) : (d.setHall h v).answerIn = d.answerIn := rfl
@[simp] theorem Dev.setHall_report (h : Nat) (v : Hall) : (d.setHall h v).report = d.report := rfl
@[simp] theorem Dev.setHall_reReport (h : Nat) (v : Hall) : (d.setHall h v).reReport = d.reReport := rfl
@[simp] theorem Dev.setHall_readmit (h : Nat) (v : Hall) : (d.setHall h v).readmit = d.readmit := rfl
@[simp] theorem Dev.setHall_shed (h : Nat) (v : Hall) : (d.setHall h v).shed = d.shed := rfl
@[simp] theorem Dev.setHall_galLost (h : Nat) (v : Hall) : (d.setHall h v).galLost = d.galLost := rfl
@[simp] theorem Dev.setHall_canvases (h : Nat) (v : Hall) : (d.setHall h v).canvases = d.canvases := rfl
@[simp] theorem Dev.setHall_layers (h : Nat) (v : Hall) : (d.setHall h v).layers = d.layers := rfl
@[simp] theorem Dev.setHall_gal (h : Nat) (v : Hall) : (d.setHall h v).gal = d.gal := rfl
@[simp] theorem Dev.setHall_wbRows (h : Nat) (v : Hall) : (d.setHall h v).wbRows = d.wbRows := rfl
@[simp] theorem Dev.setHall_wins (h : Nat) (v : Hall) : (d.setHall h v).wins = d.wins := rfl
@[simp] theorem Dev.setHall_lanes (h : Nat) (v : Hall) : (d.setHall h v).lanes = d.lanes := rfl
@[simp] theorem Dev.setHall_laneQ (h : Nat) (v : Hall) : (d.setHall h v).laneQ = d.laneQ := rfl
@[simp] theorem Dev.setHall_hostQ (h : Nat) (v : Hall) : (d.setHall h v).hostQ = d.hostQ := rfl
@[simp] theorem Dev.setHall_policers (h : Nat) (v : Hall) : (d.setHall h v).policers = d.policers := rfl
@[simp] theorem Dev.setHall_shapers (h : Nat) (v : Hall) : (d.setHall h v).shapers = d.shapers := rfl
@[simp] theorem Dev.setHall_samplers (h : Nat) (v : Hall) : (d.setHall h v).samplers = d.samplers := rfl
@[simp] theorem Dev.setHall_polMs (h : Nat) (v : Hall) : (d.setHall h v).polMs = d.polMs := rfl
@[simp] theorem Dev.setHall_ptp (h : Nat) (v : Hall) : (d.setHall h v).ptp = d.ptp := rfl
@[simp] theorem Dev.setHall_slave (h : Nat) (v : Hall) : (d.setHall h v).slave = d.slave := rfl
@[simp] theorem Dev.setHall_recvs (h : Nat) (v : Hall) : (d.setHall h v).recvs = d.recvs := rfl
@[simp] theorem Dev.setHall_sessions (h : Nat) (v : Hall) : (d.setHall h v).sessions = d.sessions := rfl
@[simp] theorem Dev.setHall_challenges (h : Nat) (v : Hall) : (d.setHall h v).challenges = d.challenges := rfl
@[simp] theorem Dev.setHall_keys (h : Nat) (v : Hall) : (d.setHall h v).keys = d.keys := rfl
@[simp] theorem Dev.setHall_keyStage (h : Nat) (v : Hall) : (d.setHall h v).keyStage = d.keyStage := rfl
@[simp] theorem Dev.setHall_bulk (h : Nat) (v : Hall) : (d.setHall h v).bulk = d.bulk := rfl
@[simp] theorem Dev.setHall_pulse (h : Nat) (v : Hall) : (d.setHall h v).pulse = d.pulse := rfl
@[simp] theorem Dev.setHall_pulseOn (h : Nat) (v : Hall) : (d.setHall h v).pulseOn = d.pulseOn := rfl
@[simp] theorem Dev.setHall_snapTick (h : Nat) (v : Hall) : (d.setHall h v).snapTick = d.snapTick := rfl
@[simp] theorem Dev.setHall_snapCanvas (h : Nat) (v : Hall) : (d.setHall h v).snapCanvas = d.snapCanvas := rfl
@[simp] theorem Dev.setHall_snapFrom (h : Nat) (v : Hall) : (d.setHall h v).snapFrom = d.snapFrom := rfl
@[simp] theorem Dev.setHall_hbm (h : Nat) (v : Hall) : (d.setHall h v).hbm = d.hbm := rfl
@[simp] theorem Dev.setHall_bad (h : Nat) (v : Hall) : (d.setHall h v).bad = d.bad := rfl
@[simp] theorem Dev.setHall_pcq (h : Nat) (v : Hall) : (d.setHall h v).pcq = d.pcq := rfl
@[simp] theorem Dev.setHall_migr (h : Nat) (v : Hall) : (d.setHall h v).migr = d.migr := rfl
@[simp] theorem Dev.setHall_journal (h : Nat) (v : Hall) : (d.setHall h v).journal = d.journal := rfl
@[simp] theorem Dev.setHall_eccLast (h : Nat) (v : Hall) : (d.setHall h v).eccLast = d.eccLast := rfl
@[simp] theorem Dev.setHall_classB (h : Nat) (v : Hall) : (d.setHall h v).classB = d.classB := rfl
@[simp] theorem Dev.setHall_heldB (h : Nat) (v : Hall) : (d.setHall h v).heldB = d.heldB := rfl
@[simp] theorem Dev.setHall_owed (h : Nat) (v : Hall) : (d.setHall h v).owed = d.owed := rfl
@[simp] theorem Dev.setHall_scrub (h : Nat) (v : Hall) : (d.setHall h v).scrub = d.scrub := rfl
@[simp] theorem Dev.setHall_ceTimes (h : Nat) (v : Hall) : (d.setHall h v).ceTimes = d.ceTimes := rfl
@[simp] theorem Dev.setHall_meets (h : Nat) (v : Hall) : (d.setHall h v).meets = d.meets := rfl
@[simp] theorem Dev.setHall_policyMet (h : Nat) (v : Hall) : (d.setHall h v).policyMet = d.policyMet := rfl
@[simp] theorem Dev.setHall_ueSeen (h : Nat) (v : Hall) : (d.setHall h v).ueSeen = d.ueSeen := rfl
@[simp] theorem Dev.setHall_leaves (h : Nat) (v : Hall) : (d.setHall h v).leaves = d.leaves := rfl
@[simp] theorem Dev.setHall_wcache (h : Nat) (v : Hall) : (d.setHall h v).wcache = d.wcache := rfl
@[simp] theorem Dev.setHall_walks (h : Nat) (v : Hall) : (d.setHall h v).walks = d.walks := rfl
@[simp] theorem Dev.setHall_ingest (h : Nat) (v : Hall) : (d.setHall h v).ingest = d.ingest := rfl
@[simp] theorem Dev.setHall_faults (h : Nat) (v : Hall) : (d.setHall h v).faults = d.faults := rfl
@[simp] theorem Dev.setHall_lostOpen (h : Nat) (v : Hall) : (d.setHall h v).lostOpen = d.lostOpen := rfl
@[simp] theorem Dev.setHall_invAt (h : Nat) (v : Hall) : (d.setHall h v).invAt = d.invAt := rfl
@[simp] theorem Dev.setHall_casc (h : Nat) (v : Hall) : (d.setHall h v).casc = d.casc := rfl
@[simp] theorem Dev.setHall_chans (h : Nat) (v : Hall) : (d.setHall h v).chans = d.chans := rfl
@[simp] theorem Dev.setHall_starts (h : Nat) (v : Hall) : (d.setHall h v).starts = d.starts := rfl
@[simp] theorem Dev.setHall_serving (h : Nat) (v : Hall) : (d.setHall h v).serving = d.serving := rfl
@[simp] theorem Dev.setHall_cus (h : Nat) (v : Hall) : (d.setHall h v).cus = d.cus := rfl
@[simp] theorem Dev.setHall_clk (h : Nat) (v : Hall) : (d.setHall h v).clk = d.clk := rfl
@[simp] theorem Dev.setHall_pwr (h : Nat) (v : Hall) : (d.setHall h v).pwr = d.pwr := rfl
@[simp] theorem Dev.setHall_stw (h : Nat) (v : Hall) : (d.setHall h v).stw = d.stw := rfl
@[simp] theorem Dev.setHall_alcq (h : Nat) (v : Hall) : (d.setHall h v).alcq = d.alcq := rfl
@[simp] theorem Dev.setHall_alcSeen (h : Nat) (v : Hall) : (d.setHall h v).alcSeen = d.alcSeen := rfl
@[simp] theorem Dev.setHall_alcFind (h : Nat) (v : Hall) : (d.setHall h v).alcFind = d.alcFind := rfl
@[simp] theorem Dev.setHall_alcOn (h : Nat) (v : Hall) : (d.setHall h v).alcOn = d.alcOn := rfl
@[simp] theorem Dev.setHall_otSeen (h : Nat) (v : Hall) : (d.setHall h v).otSeen = d.otSeen := rfl
@[simp] theorem Dev.setHall_sealOpen (h : Nat) (v : Hall) : (d.setHall h v).sealOpen = d.sealOpen := rfl

/-! ## `setWin` -/

@[simp] theorem Dev.setWin_now (w : Nat) (v : Win) : (d.setWin w v).now = d.now := rfl
@[simp] theorem Dev.setWin_seed (w : Nat) (v : Win) : (d.setWin w v).seed = d.seed := rfl
@[simp] theorem Dev.setWin_h48 (w : Nat) (v : Win) : (d.setWin w v).h48 = d.h48 := rfl
@[simp] theorem Dev.setWin_serial (w : Nat) (v : Win) : (d.setWin w v).serial = d.serial := rfl
@[simp] theorem Dev.setWin_baseMac (w : Nat) (v : Win) : (d.setWin w v).baseMac = d.baseMac := rfl
@[simp] theorem Dev.setWin_factoryOk (w : Nat) (v : Win) : (d.setWin w v).factoryOk = d.factoryOk := rfl
@[simp] theorem Dev.setWin_fenceLog (w : Nat) (v : Win) : (d.setWin w v).fenceLog = d.fenceLog := rfl
@[simp] theorem Dev.setWin_struck (w : Nat) (v : Win) : (d.setWin w v).struck = d.struck := rfl
@[simp] theorem Dev.setWin_regs (w : Nat) (v : Win) : (d.setWin w v).regs = d.regs := rfl
@[simp] theorem Dev.setWin_out (w : Nat) (v : Win) : (d.setWin w v).out = d.out := rfl
@[simp] theorem Dev.setWin_first (w : Nat) (v : Win) : (d.setWin w v).first = d.first := rfl
@[simp] theorem Dev.setWin_msTick (w : Nat) (v : Win) : (d.setWin w v).msTick = d.msTick := rfl
@[simp] theorem Dev.setWin_commit (w : Nat) (v : Win) : (d.setWin w v).commit = d.commit := rfl
@[simp] theorem Dev.setWin_dry (w : Nat) (v : Win) : (d.setWin w v).dry = d.dry := rfl
@[simp] theorem Dev.setWin_answer (w : Nat) (v : Win) : (d.setWin w v).answer = d.answer := rfl
@[simp] theorem Dev.setWin_answerIn (w : Nat) (v : Win) : (d.setWin w v).answerIn = d.answerIn := rfl
@[simp] theorem Dev.setWin_report (w : Nat) (v : Win) : (d.setWin w v).report = d.report := rfl
@[simp] theorem Dev.setWin_reReport (w : Nat) (v : Win) : (d.setWin w v).reReport = d.reReport := rfl
@[simp] theorem Dev.setWin_readmit (w : Nat) (v : Win) : (d.setWin w v).readmit = d.readmit := rfl
@[simp] theorem Dev.setWin_shed (w : Nat) (v : Win) : (d.setWin w v).shed = d.shed := rfl
@[simp] theorem Dev.setWin_galLost (w : Nat) (v : Win) : (d.setWin w v).galLost = d.galLost := rfl
@[simp] theorem Dev.setWin_canvases (w : Nat) (v : Win) : (d.setWin w v).canvases = d.canvases := rfl
@[simp] theorem Dev.setWin_layers (w : Nat) (v : Win) : (d.setWin w v).layers = d.layers := rfl
@[simp] theorem Dev.setWin_halls (w : Nat) (v : Win) : (d.setWin w v).halls = d.halls := rfl
@[simp] theorem Dev.setWin_gal (w : Nat) (v : Win) : (d.setWin w v).gal = d.gal := rfl
@[simp] theorem Dev.setWin_wbRows (w : Nat) (v : Win) : (d.setWin w v).wbRows = d.wbRows := rfl
@[simp] theorem Dev.setWin_lanes (w : Nat) (v : Win) : (d.setWin w v).lanes = d.lanes := rfl
@[simp] theorem Dev.setWin_laneQ (w : Nat) (v : Win) : (d.setWin w v).laneQ = d.laneQ := rfl
@[simp] theorem Dev.setWin_hostQ (w : Nat) (v : Win) : (d.setWin w v).hostQ = d.hostQ := rfl
@[simp] theorem Dev.setWin_policers (w : Nat) (v : Win) : (d.setWin w v).policers = d.policers := rfl
@[simp] theorem Dev.setWin_shapers (w : Nat) (v : Win) : (d.setWin w v).shapers = d.shapers := rfl
@[simp] theorem Dev.setWin_samplers (w : Nat) (v : Win) : (d.setWin w v).samplers = d.samplers := rfl
@[simp] theorem Dev.setWin_polMs (w : Nat) (v : Win) : (d.setWin w v).polMs = d.polMs := rfl
@[simp] theorem Dev.setWin_ptp (w : Nat) (v : Win) : (d.setWin w v).ptp = d.ptp := rfl
@[simp] theorem Dev.setWin_slave (w : Nat) (v : Win) : (d.setWin w v).slave = d.slave := rfl
@[simp] theorem Dev.setWin_recvs (w : Nat) (v : Win) : (d.setWin w v).recvs = d.recvs := rfl
@[simp] theorem Dev.setWin_sessions (w : Nat) (v : Win) : (d.setWin w v).sessions = d.sessions := rfl
@[simp] theorem Dev.setWin_challenges (w : Nat) (v : Win) : (d.setWin w v).challenges = d.challenges := rfl
@[simp] theorem Dev.setWin_keys (w : Nat) (v : Win) : (d.setWin w v).keys = d.keys := rfl
@[simp] theorem Dev.setWin_keyStage (w : Nat) (v : Win) : (d.setWin w v).keyStage = d.keyStage := rfl
@[simp] theorem Dev.setWin_bulk (w : Nat) (v : Win) : (d.setWin w v).bulk = d.bulk := rfl
@[simp] theorem Dev.setWin_pulse (w : Nat) (v : Win) : (d.setWin w v).pulse = d.pulse := rfl
@[simp] theorem Dev.setWin_pulseOn (w : Nat) (v : Win) : (d.setWin w v).pulseOn = d.pulseOn := rfl
@[simp] theorem Dev.setWin_snapTick (w : Nat) (v : Win) : (d.setWin w v).snapTick = d.snapTick := rfl
@[simp] theorem Dev.setWin_snapCanvas (w : Nat) (v : Win) : (d.setWin w v).snapCanvas = d.snapCanvas := rfl
@[simp] theorem Dev.setWin_snapFrom (w : Nat) (v : Win) : (d.setWin w v).snapFrom = d.snapFrom := rfl
@[simp] theorem Dev.setWin_hbm (w : Nat) (v : Win) : (d.setWin w v).hbm = d.hbm := rfl
@[simp] theorem Dev.setWin_bad (w : Nat) (v : Win) : (d.setWin w v).bad = d.bad := rfl
@[simp] theorem Dev.setWin_pcq (w : Nat) (v : Win) : (d.setWin w v).pcq = d.pcq := rfl
@[simp] theorem Dev.setWin_migr (w : Nat) (v : Win) : (d.setWin w v).migr = d.migr := rfl
@[simp] theorem Dev.setWin_journal (w : Nat) (v : Win) : (d.setWin w v).journal = d.journal := rfl
@[simp] theorem Dev.setWin_eccLast (w : Nat) (v : Win) : (d.setWin w v).eccLast = d.eccLast := rfl
@[simp] theorem Dev.setWin_classB (w : Nat) (v : Win) : (d.setWin w v).classB = d.classB := rfl
@[simp] theorem Dev.setWin_heldB (w : Nat) (v : Win) : (d.setWin w v).heldB = d.heldB := rfl
@[simp] theorem Dev.setWin_owed (w : Nat) (v : Win) : (d.setWin w v).owed = d.owed := rfl
@[simp] theorem Dev.setWin_scrub (w : Nat) (v : Win) : (d.setWin w v).scrub = d.scrub := rfl
@[simp] theorem Dev.setWin_ceTimes (w : Nat) (v : Win) : (d.setWin w v).ceTimes = d.ceTimes := rfl
@[simp] theorem Dev.setWin_meets (w : Nat) (v : Win) : (d.setWin w v).meets = d.meets := rfl
@[simp] theorem Dev.setWin_policyMet (w : Nat) (v : Win) : (d.setWin w v).policyMet = d.policyMet := rfl
@[simp] theorem Dev.setWin_ueSeen (w : Nat) (v : Win) : (d.setWin w v).ueSeen = d.ueSeen := rfl
@[simp] theorem Dev.setWin_leaves (w : Nat) (v : Win) : (d.setWin w v).leaves = d.leaves := rfl
@[simp] theorem Dev.setWin_wcache (w : Nat) (v : Win) : (d.setWin w v).wcache = d.wcache := rfl
@[simp] theorem Dev.setWin_walks (w : Nat) (v : Win) : (d.setWin w v).walks = d.walks := rfl
@[simp] theorem Dev.setWin_ingest (w : Nat) (v : Win) : (d.setWin w v).ingest = d.ingest := rfl
@[simp] theorem Dev.setWin_faults (w : Nat) (v : Win) : (d.setWin w v).faults = d.faults := rfl
@[simp] theorem Dev.setWin_lostOpen (w : Nat) (v : Win) : (d.setWin w v).lostOpen = d.lostOpen := rfl
@[simp] theorem Dev.setWin_invAt (w : Nat) (v : Win) : (d.setWin w v).invAt = d.invAt := rfl
@[simp] theorem Dev.setWin_casc (w : Nat) (v : Win) : (d.setWin w v).casc = d.casc := rfl
@[simp] theorem Dev.setWin_chans (w : Nat) (v : Win) : (d.setWin w v).chans = d.chans := rfl
@[simp] theorem Dev.setWin_starts (w : Nat) (v : Win) : (d.setWin w v).starts = d.starts := rfl
@[simp] theorem Dev.setWin_serving (w : Nat) (v : Win) : (d.setWin w v).serving = d.serving := rfl
@[simp] theorem Dev.setWin_cus (w : Nat) (v : Win) : (d.setWin w v).cus = d.cus := rfl
@[simp] theorem Dev.setWin_clk (w : Nat) (v : Win) : (d.setWin w v).clk = d.clk := rfl
@[simp] theorem Dev.setWin_pwr (w : Nat) (v : Win) : (d.setWin w v).pwr = d.pwr := rfl
@[simp] theorem Dev.setWin_stw (w : Nat) (v : Win) : (d.setWin w v).stw = d.stw := rfl
@[simp] theorem Dev.setWin_alcq (w : Nat) (v : Win) : (d.setWin w v).alcq = d.alcq := rfl
@[simp] theorem Dev.setWin_alcSeen (w : Nat) (v : Win) : (d.setWin w v).alcSeen = d.alcSeen := rfl
@[simp] theorem Dev.setWin_alcFind (w : Nat) (v : Win) : (d.setWin w v).alcFind = d.alcFind := rfl
@[simp] theorem Dev.setWin_alcOn (w : Nat) (v : Win) : (d.setWin w v).alcOn = d.alcOn := rfl
@[simp] theorem Dev.setWin_otSeen (w : Nat) (v : Win) : (d.setWin w v).otSeen = d.otSeen := rfl
@[simp] theorem Dev.setWin_sealOpen (w : Nat) (v : Win) : (d.setWin w v).sealOpen = d.sealOpen := rfl

/-! ## `setLane` -/

@[simp] theorem Dev.setLane_now (n : Nat) (v : Lane) : (d.setLane n v).now = d.now := rfl
@[simp] theorem Dev.setLane_seed (n : Nat) (v : Lane) : (d.setLane n v).seed = d.seed := rfl
@[simp] theorem Dev.setLane_h48 (n : Nat) (v : Lane) : (d.setLane n v).h48 = d.h48 := rfl
@[simp] theorem Dev.setLane_serial (n : Nat) (v : Lane) : (d.setLane n v).serial = d.serial := rfl
@[simp] theorem Dev.setLane_baseMac (n : Nat) (v : Lane) : (d.setLane n v).baseMac = d.baseMac := rfl
@[simp] theorem Dev.setLane_factoryOk (n : Nat) (v : Lane) : (d.setLane n v).factoryOk = d.factoryOk := rfl
@[simp] theorem Dev.setLane_fenceLog (n : Nat) (v : Lane) : (d.setLane n v).fenceLog = d.fenceLog := rfl
@[simp] theorem Dev.setLane_struck (n : Nat) (v : Lane) : (d.setLane n v).struck = d.struck := rfl
@[simp] theorem Dev.setLane_regs (n : Nat) (v : Lane) : (d.setLane n v).regs = d.regs := rfl
@[simp] theorem Dev.setLane_out (n : Nat) (v : Lane) : (d.setLane n v).out = d.out := rfl
@[simp] theorem Dev.setLane_first (n : Nat) (v : Lane) : (d.setLane n v).first = d.first := rfl
@[simp] theorem Dev.setLane_msTick (n : Nat) (v : Lane) : (d.setLane n v).msTick = d.msTick := rfl
@[simp] theorem Dev.setLane_commit (n : Nat) (v : Lane) : (d.setLane n v).commit = d.commit := rfl
@[simp] theorem Dev.setLane_dry (n : Nat) (v : Lane) : (d.setLane n v).dry = d.dry := rfl
@[simp] theorem Dev.setLane_answer (n : Nat) (v : Lane) : (d.setLane n v).answer = d.answer := rfl
@[simp] theorem Dev.setLane_answerIn (n : Nat) (v : Lane) : (d.setLane n v).answerIn = d.answerIn := rfl
@[simp] theorem Dev.setLane_report (n : Nat) (v : Lane) : (d.setLane n v).report = d.report := rfl
@[simp] theorem Dev.setLane_reReport (n : Nat) (v : Lane) : (d.setLane n v).reReport = d.reReport := rfl
@[simp] theorem Dev.setLane_readmit (n : Nat) (v : Lane) : (d.setLane n v).readmit = d.readmit := rfl
@[simp] theorem Dev.setLane_shed (n : Nat) (v : Lane) : (d.setLane n v).shed = d.shed := rfl
@[simp] theorem Dev.setLane_galLost (n : Nat) (v : Lane) : (d.setLane n v).galLost = d.galLost := rfl
@[simp] theorem Dev.setLane_canvases (n : Nat) (v : Lane) : (d.setLane n v).canvases = d.canvases := rfl
@[simp] theorem Dev.setLane_layers (n : Nat) (v : Lane) : (d.setLane n v).layers = d.layers := rfl
@[simp] theorem Dev.setLane_halls (n : Nat) (v : Lane) : (d.setLane n v).halls = d.halls := rfl
@[simp] theorem Dev.setLane_gal (n : Nat) (v : Lane) : (d.setLane n v).gal = d.gal := rfl
@[simp] theorem Dev.setLane_wbRows (n : Nat) (v : Lane) : (d.setLane n v).wbRows = d.wbRows := rfl
@[simp] theorem Dev.setLane_wins (n : Nat) (v : Lane) : (d.setLane n v).wins = d.wins := rfl
@[simp] theorem Dev.setLane_laneQ (n : Nat) (v : Lane) : (d.setLane n v).laneQ = d.laneQ := rfl
@[simp] theorem Dev.setLane_hostQ (n : Nat) (v : Lane) : (d.setLane n v).hostQ = d.hostQ := rfl
@[simp] theorem Dev.setLane_policers (n : Nat) (v : Lane) : (d.setLane n v).policers = d.policers := rfl
@[simp] theorem Dev.setLane_shapers (n : Nat) (v : Lane) : (d.setLane n v).shapers = d.shapers := rfl
@[simp] theorem Dev.setLane_samplers (n : Nat) (v : Lane) : (d.setLane n v).samplers = d.samplers := rfl
@[simp] theorem Dev.setLane_polMs (n : Nat) (v : Lane) : (d.setLane n v).polMs = d.polMs := rfl
@[simp] theorem Dev.setLane_ptp (n : Nat) (v : Lane) : (d.setLane n v).ptp = d.ptp := rfl
@[simp] theorem Dev.setLane_slave (n : Nat) (v : Lane) : (d.setLane n v).slave = d.slave := rfl
@[simp] theorem Dev.setLane_recvs (n : Nat) (v : Lane) : (d.setLane n v).recvs = d.recvs := rfl
@[simp] theorem Dev.setLane_sessions (n : Nat) (v : Lane) : (d.setLane n v).sessions = d.sessions := rfl
@[simp] theorem Dev.setLane_challenges (n : Nat) (v : Lane) : (d.setLane n v).challenges = d.challenges := rfl
@[simp] theorem Dev.setLane_keys (n : Nat) (v : Lane) : (d.setLane n v).keys = d.keys := rfl
@[simp] theorem Dev.setLane_keyStage (n : Nat) (v : Lane) : (d.setLane n v).keyStage = d.keyStage := rfl
@[simp] theorem Dev.setLane_bulk (n : Nat) (v : Lane) : (d.setLane n v).bulk = d.bulk := rfl
@[simp] theorem Dev.setLane_pulse (n : Nat) (v : Lane) : (d.setLane n v).pulse = d.pulse := rfl
@[simp] theorem Dev.setLane_pulseOn (n : Nat) (v : Lane) : (d.setLane n v).pulseOn = d.pulseOn := rfl
@[simp] theorem Dev.setLane_snapTick (n : Nat) (v : Lane) : (d.setLane n v).snapTick = d.snapTick := rfl
@[simp] theorem Dev.setLane_snapCanvas (n : Nat) (v : Lane) : (d.setLane n v).snapCanvas = d.snapCanvas := rfl
@[simp] theorem Dev.setLane_snapFrom (n : Nat) (v : Lane) : (d.setLane n v).snapFrom = d.snapFrom := rfl
@[simp] theorem Dev.setLane_hbm (n : Nat) (v : Lane) : (d.setLane n v).hbm = d.hbm := rfl
@[simp] theorem Dev.setLane_bad (n : Nat) (v : Lane) : (d.setLane n v).bad = d.bad := rfl
@[simp] theorem Dev.setLane_pcq (n : Nat) (v : Lane) : (d.setLane n v).pcq = d.pcq := rfl
@[simp] theorem Dev.setLane_migr (n : Nat) (v : Lane) : (d.setLane n v).migr = d.migr := rfl
@[simp] theorem Dev.setLane_journal (n : Nat) (v : Lane) : (d.setLane n v).journal = d.journal := rfl
@[simp] theorem Dev.setLane_eccLast (n : Nat) (v : Lane) : (d.setLane n v).eccLast = d.eccLast := rfl
@[simp] theorem Dev.setLane_classB (n : Nat) (v : Lane) : (d.setLane n v).classB = d.classB := rfl
@[simp] theorem Dev.setLane_heldB (n : Nat) (v : Lane) : (d.setLane n v).heldB = d.heldB := rfl
@[simp] theorem Dev.setLane_owed (n : Nat) (v : Lane) : (d.setLane n v).owed = d.owed := rfl
@[simp] theorem Dev.setLane_scrub (n : Nat) (v : Lane) : (d.setLane n v).scrub = d.scrub := rfl
@[simp] theorem Dev.setLane_ceTimes (n : Nat) (v : Lane) : (d.setLane n v).ceTimes = d.ceTimes := rfl
@[simp] theorem Dev.setLane_meets (n : Nat) (v : Lane) : (d.setLane n v).meets = d.meets := rfl
@[simp] theorem Dev.setLane_policyMet (n : Nat) (v : Lane) : (d.setLane n v).policyMet = d.policyMet := rfl
@[simp] theorem Dev.setLane_ueSeen (n : Nat) (v : Lane) : (d.setLane n v).ueSeen = d.ueSeen := rfl
@[simp] theorem Dev.setLane_leaves (n : Nat) (v : Lane) : (d.setLane n v).leaves = d.leaves := rfl
@[simp] theorem Dev.setLane_wcache (n : Nat) (v : Lane) : (d.setLane n v).wcache = d.wcache := rfl
@[simp] theorem Dev.setLane_walks (n : Nat) (v : Lane) : (d.setLane n v).walks = d.walks := rfl
@[simp] theorem Dev.setLane_ingest (n : Nat) (v : Lane) : (d.setLane n v).ingest = d.ingest := rfl
@[simp] theorem Dev.setLane_faults (n : Nat) (v : Lane) : (d.setLane n v).faults = d.faults := rfl
@[simp] theorem Dev.setLane_lostOpen (n : Nat) (v : Lane) : (d.setLane n v).lostOpen = d.lostOpen := rfl
@[simp] theorem Dev.setLane_invAt (n : Nat) (v : Lane) : (d.setLane n v).invAt = d.invAt := rfl
@[simp] theorem Dev.setLane_casc (n : Nat) (v : Lane) : (d.setLane n v).casc = d.casc := rfl
@[simp] theorem Dev.setLane_chans (n : Nat) (v : Lane) : (d.setLane n v).chans = d.chans := rfl
@[simp] theorem Dev.setLane_starts (n : Nat) (v : Lane) : (d.setLane n v).starts = d.starts := rfl
@[simp] theorem Dev.setLane_serving (n : Nat) (v : Lane) : (d.setLane n v).serving = d.serving := rfl
@[simp] theorem Dev.setLane_cus (n : Nat) (v : Lane) : (d.setLane n v).cus = d.cus := rfl
@[simp] theorem Dev.setLane_clk (n : Nat) (v : Lane) : (d.setLane n v).clk = d.clk := rfl
@[simp] theorem Dev.setLane_pwr (n : Nat) (v : Lane) : (d.setLane n v).pwr = d.pwr := rfl
@[simp] theorem Dev.setLane_stw (n : Nat) (v : Lane) : (d.setLane n v).stw = d.stw := rfl
@[simp] theorem Dev.setLane_alcq (n : Nat) (v : Lane) : (d.setLane n v).alcq = d.alcq := rfl
@[simp] theorem Dev.setLane_alcSeen (n : Nat) (v : Lane) : (d.setLane n v).alcSeen = d.alcSeen := rfl
@[simp] theorem Dev.setLane_alcFind (n : Nat) (v : Lane) : (d.setLane n v).alcFind = d.alcFind := rfl
@[simp] theorem Dev.setLane_alcOn (n : Nat) (v : Lane) : (d.setLane n v).alcOn = d.alcOn := rfl
@[simp] theorem Dev.setLane_otSeen (n : Nat) (v : Lane) : (d.setLane n v).otSeen = d.otSeen := rfl
@[simp] theorem Dev.setLane_sealOpen (n : Nat) (v : Lane) : (d.setLane n v).sealOpen = d.sealOpen := rfl

/-! ## `setSampler` -/

@[simp] theorem Dev.setSampler_now (k : Nat) (v : Sampler) : (d.setSampler k v).now = d.now := rfl
@[simp] theorem Dev.setSampler_seed (k : Nat) (v : Sampler) : (d.setSampler k v).seed = d.seed := rfl
@[simp] theorem Dev.setSampler_h48 (k : Nat) (v : Sampler) : (d.setSampler k v).h48 = d.h48 := rfl
@[simp] theorem Dev.setSampler_serial (k : Nat) (v : Sampler) : (d.setSampler k v).serial = d.serial := rfl
@[simp] theorem Dev.setSampler_baseMac (k : Nat) (v : Sampler) : (d.setSampler k v).baseMac = d.baseMac := rfl
@[simp] theorem Dev.setSampler_factoryOk (k : Nat) (v : Sampler) : (d.setSampler k v).factoryOk = d.factoryOk := rfl
@[simp] theorem Dev.setSampler_fenceLog (k : Nat) (v : Sampler) : (d.setSampler k v).fenceLog = d.fenceLog := rfl
@[simp] theorem Dev.setSampler_struck (k : Nat) (v : Sampler) : (d.setSampler k v).struck = d.struck := rfl
@[simp] theorem Dev.setSampler_regs (k : Nat) (v : Sampler) : (d.setSampler k v).regs = d.regs := rfl
@[simp] theorem Dev.setSampler_out (k : Nat) (v : Sampler) : (d.setSampler k v).out = d.out := rfl
@[simp] theorem Dev.setSampler_first (k : Nat) (v : Sampler) : (d.setSampler k v).first = d.first := rfl
@[simp] theorem Dev.setSampler_msTick (k : Nat) (v : Sampler) : (d.setSampler k v).msTick = d.msTick := rfl
@[simp] theorem Dev.setSampler_commit (k : Nat) (v : Sampler) : (d.setSampler k v).commit = d.commit := rfl
@[simp] theorem Dev.setSampler_dry (k : Nat) (v : Sampler) : (d.setSampler k v).dry = d.dry := rfl
@[simp] theorem Dev.setSampler_answer (k : Nat) (v : Sampler) : (d.setSampler k v).answer = d.answer := rfl
@[simp] theorem Dev.setSampler_answerIn (k : Nat) (v : Sampler) : (d.setSampler k v).answerIn = d.answerIn := rfl
@[simp] theorem Dev.setSampler_report (k : Nat) (v : Sampler) : (d.setSampler k v).report = d.report := rfl
@[simp] theorem Dev.setSampler_reReport (k : Nat) (v : Sampler) : (d.setSampler k v).reReport = d.reReport := rfl
@[simp] theorem Dev.setSampler_readmit (k : Nat) (v : Sampler) : (d.setSampler k v).readmit = d.readmit := rfl
@[simp] theorem Dev.setSampler_shed (k : Nat) (v : Sampler) : (d.setSampler k v).shed = d.shed := rfl
@[simp] theorem Dev.setSampler_galLost (k : Nat) (v : Sampler) : (d.setSampler k v).galLost = d.galLost := rfl
@[simp] theorem Dev.setSampler_canvases (k : Nat) (v : Sampler) : (d.setSampler k v).canvases = d.canvases := rfl
@[simp] theorem Dev.setSampler_layers (k : Nat) (v : Sampler) : (d.setSampler k v).layers = d.layers := rfl
@[simp] theorem Dev.setSampler_halls (k : Nat) (v : Sampler) : (d.setSampler k v).halls = d.halls := rfl
@[simp] theorem Dev.setSampler_gal (k : Nat) (v : Sampler) : (d.setSampler k v).gal = d.gal := rfl
@[simp] theorem Dev.setSampler_wbRows (k : Nat) (v : Sampler) : (d.setSampler k v).wbRows = d.wbRows := rfl
@[simp] theorem Dev.setSampler_wins (k : Nat) (v : Sampler) : (d.setSampler k v).wins = d.wins := rfl
@[simp] theorem Dev.setSampler_lanes (k : Nat) (v : Sampler) : (d.setSampler k v).lanes = d.lanes := rfl
@[simp] theorem Dev.setSampler_laneQ (k : Nat) (v : Sampler) : (d.setSampler k v).laneQ = d.laneQ := rfl
@[simp] theorem Dev.setSampler_hostQ (k : Nat) (v : Sampler) : (d.setSampler k v).hostQ = d.hostQ := rfl
@[simp] theorem Dev.setSampler_policers (k : Nat) (v : Sampler) : (d.setSampler k v).policers = d.policers := rfl
@[simp] theorem Dev.setSampler_shapers (k : Nat) (v : Sampler) : (d.setSampler k v).shapers = d.shapers := rfl
@[simp] theorem Dev.setSampler_polMs (k : Nat) (v : Sampler) : (d.setSampler k v).polMs = d.polMs := rfl
@[simp] theorem Dev.setSampler_ptp (k : Nat) (v : Sampler) : (d.setSampler k v).ptp = d.ptp := rfl
@[simp] theorem Dev.setSampler_slave (k : Nat) (v : Sampler) : (d.setSampler k v).slave = d.slave := rfl
@[simp] theorem Dev.setSampler_recvs (k : Nat) (v : Sampler) : (d.setSampler k v).recvs = d.recvs := rfl
@[simp] theorem Dev.setSampler_sessions (k : Nat) (v : Sampler) : (d.setSampler k v).sessions = d.sessions := rfl
@[simp] theorem Dev.setSampler_challenges (k : Nat) (v : Sampler) : (d.setSampler k v).challenges = d.challenges := rfl
@[simp] theorem Dev.setSampler_keys (k : Nat) (v : Sampler) : (d.setSampler k v).keys = d.keys := rfl
@[simp] theorem Dev.setSampler_keyStage (k : Nat) (v : Sampler) : (d.setSampler k v).keyStage = d.keyStage := rfl
@[simp] theorem Dev.setSampler_bulk (k : Nat) (v : Sampler) : (d.setSampler k v).bulk = d.bulk := rfl
@[simp] theorem Dev.setSampler_pulse (k : Nat) (v : Sampler) : (d.setSampler k v).pulse = d.pulse := rfl
@[simp] theorem Dev.setSampler_pulseOn (k : Nat) (v : Sampler) : (d.setSampler k v).pulseOn = d.pulseOn := rfl
@[simp] theorem Dev.setSampler_snapTick (k : Nat) (v : Sampler) : (d.setSampler k v).snapTick = d.snapTick := rfl
@[simp] theorem Dev.setSampler_snapCanvas (k : Nat) (v : Sampler) : (d.setSampler k v).snapCanvas = d.snapCanvas := rfl
@[simp] theorem Dev.setSampler_snapFrom (k : Nat) (v : Sampler) : (d.setSampler k v).snapFrom = d.snapFrom := rfl
@[simp] theorem Dev.setSampler_hbm (k : Nat) (v : Sampler) : (d.setSampler k v).hbm = d.hbm := rfl
@[simp] theorem Dev.setSampler_bad (k : Nat) (v : Sampler) : (d.setSampler k v).bad = d.bad := rfl
@[simp] theorem Dev.setSampler_pcq (k : Nat) (v : Sampler) : (d.setSampler k v).pcq = d.pcq := rfl
@[simp] theorem Dev.setSampler_migr (k : Nat) (v : Sampler) : (d.setSampler k v).migr = d.migr := rfl
@[simp] theorem Dev.setSampler_journal (k : Nat) (v : Sampler) : (d.setSampler k v).journal = d.journal := rfl
@[simp] theorem Dev.setSampler_eccLast (k : Nat) (v : Sampler) : (d.setSampler k v).eccLast = d.eccLast := rfl
@[simp] theorem Dev.setSampler_classB (k : Nat) (v : Sampler) : (d.setSampler k v).classB = d.classB := rfl
@[simp] theorem Dev.setSampler_heldB (k : Nat) (v : Sampler) : (d.setSampler k v).heldB = d.heldB := rfl
@[simp] theorem Dev.setSampler_owed (k : Nat) (v : Sampler) : (d.setSampler k v).owed = d.owed := rfl
@[simp] theorem Dev.setSampler_scrub (k : Nat) (v : Sampler) : (d.setSampler k v).scrub = d.scrub := rfl
@[simp] theorem Dev.setSampler_ceTimes (k : Nat) (v : Sampler) : (d.setSampler k v).ceTimes = d.ceTimes := rfl
@[simp] theorem Dev.setSampler_meets (k : Nat) (v : Sampler) : (d.setSampler k v).meets = d.meets := rfl
@[simp] theorem Dev.setSampler_policyMet (k : Nat) (v : Sampler) : (d.setSampler k v).policyMet = d.policyMet := rfl
@[simp] theorem Dev.setSampler_ueSeen (k : Nat) (v : Sampler) : (d.setSampler k v).ueSeen = d.ueSeen := rfl
@[simp] theorem Dev.setSampler_leaves (k : Nat) (v : Sampler) : (d.setSampler k v).leaves = d.leaves := rfl
@[simp] theorem Dev.setSampler_wcache (k : Nat) (v : Sampler) : (d.setSampler k v).wcache = d.wcache := rfl
@[simp] theorem Dev.setSampler_walks (k : Nat) (v : Sampler) : (d.setSampler k v).walks = d.walks := rfl
@[simp] theorem Dev.setSampler_ingest (k : Nat) (v : Sampler) : (d.setSampler k v).ingest = d.ingest := rfl
@[simp] theorem Dev.setSampler_faults (k : Nat) (v : Sampler) : (d.setSampler k v).faults = d.faults := rfl
@[simp] theorem Dev.setSampler_lostOpen (k : Nat) (v : Sampler) : (d.setSampler k v).lostOpen = d.lostOpen := rfl
@[simp] theorem Dev.setSampler_invAt (k : Nat) (v : Sampler) : (d.setSampler k v).invAt = d.invAt := rfl
@[simp] theorem Dev.setSampler_casc (k : Nat) (v : Sampler) : (d.setSampler k v).casc = d.casc := rfl
@[simp] theorem Dev.setSampler_chans (k : Nat) (v : Sampler) : (d.setSampler k v).chans = d.chans := rfl
@[simp] theorem Dev.setSampler_starts (k : Nat) (v : Sampler) : (d.setSampler k v).starts = d.starts := rfl
@[simp] theorem Dev.setSampler_serving (k : Nat) (v : Sampler) : (d.setSampler k v).serving = d.serving := rfl
@[simp] theorem Dev.setSampler_cus (k : Nat) (v : Sampler) : (d.setSampler k v).cus = d.cus := rfl
@[simp] theorem Dev.setSampler_clk (k : Nat) (v : Sampler) : (d.setSampler k v).clk = d.clk := rfl
@[simp] theorem Dev.setSampler_pwr (k : Nat) (v : Sampler) : (d.setSampler k v).pwr = d.pwr := rfl
@[simp] theorem Dev.setSampler_stw (k : Nat) (v : Sampler) : (d.setSampler k v).stw = d.stw := rfl
@[simp] theorem Dev.setSampler_alcq (k : Nat) (v : Sampler) : (d.setSampler k v).alcq = d.alcq := rfl
@[simp] theorem Dev.setSampler_alcSeen (k : Nat) (v : Sampler) : (d.setSampler k v).alcSeen = d.alcSeen := rfl
@[simp] theorem Dev.setSampler_alcFind (k : Nat) (v : Sampler) : (d.setSampler k v).alcFind = d.alcFind := rfl
@[simp] theorem Dev.setSampler_alcOn (k : Nat) (v : Sampler) : (d.setSampler k v).alcOn = d.alcOn := rfl
@[simp] theorem Dev.setSampler_otSeen (k : Nat) (v : Sampler) : (d.setSampler k v).otSeen = d.otSeen := rfl
@[simp] theorem Dev.setSampler_sealOpen (k : Nat) (v : Sampler) : (d.setSampler k v).sealOpen = d.sealOpen := rfl

/-! ## `setPtpPort` -/

@[simp] theorem Dev.setPtpPort_now (s : Nat) (v : PtpPort) : (d.setPtpPort s v).now = d.now := rfl
@[simp] theorem Dev.setPtpPort_seed (s : Nat) (v : PtpPort) : (d.setPtpPort s v).seed = d.seed := rfl
@[simp] theorem Dev.setPtpPort_h48 (s : Nat) (v : PtpPort) : (d.setPtpPort s v).h48 = d.h48 := rfl
@[simp] theorem Dev.setPtpPort_serial (s : Nat) (v : PtpPort) : (d.setPtpPort s v).serial = d.serial := rfl
@[simp] theorem Dev.setPtpPort_baseMac (s : Nat) (v : PtpPort) : (d.setPtpPort s v).baseMac = d.baseMac := rfl
@[simp] theorem Dev.setPtpPort_factoryOk (s : Nat) (v : PtpPort) : (d.setPtpPort s v).factoryOk = d.factoryOk := rfl
@[simp] theorem Dev.setPtpPort_fenceLog (s : Nat) (v : PtpPort) : (d.setPtpPort s v).fenceLog = d.fenceLog := rfl
@[simp] theorem Dev.setPtpPort_struck (s : Nat) (v : PtpPort) : (d.setPtpPort s v).struck = d.struck := rfl
@[simp] theorem Dev.setPtpPort_regs (s : Nat) (v : PtpPort) : (d.setPtpPort s v).regs = d.regs := rfl
@[simp] theorem Dev.setPtpPort_out (s : Nat) (v : PtpPort) : (d.setPtpPort s v).out = d.out := rfl
@[simp] theorem Dev.setPtpPort_first (s : Nat) (v : PtpPort) : (d.setPtpPort s v).first = d.first := rfl
@[simp] theorem Dev.setPtpPort_msTick (s : Nat) (v : PtpPort) : (d.setPtpPort s v).msTick = d.msTick := rfl
@[simp] theorem Dev.setPtpPort_commit (s : Nat) (v : PtpPort) : (d.setPtpPort s v).commit = d.commit := rfl
@[simp] theorem Dev.setPtpPort_dry (s : Nat) (v : PtpPort) : (d.setPtpPort s v).dry = d.dry := rfl
@[simp] theorem Dev.setPtpPort_answer (s : Nat) (v : PtpPort) : (d.setPtpPort s v).answer = d.answer := rfl
@[simp] theorem Dev.setPtpPort_answerIn (s : Nat) (v : PtpPort) : (d.setPtpPort s v).answerIn = d.answerIn := rfl
@[simp] theorem Dev.setPtpPort_report (s : Nat) (v : PtpPort) : (d.setPtpPort s v).report = d.report := rfl
@[simp] theorem Dev.setPtpPort_reReport (s : Nat) (v : PtpPort) : (d.setPtpPort s v).reReport = d.reReport := rfl
@[simp] theorem Dev.setPtpPort_readmit (s : Nat) (v : PtpPort) : (d.setPtpPort s v).readmit = d.readmit := rfl
@[simp] theorem Dev.setPtpPort_shed (s : Nat) (v : PtpPort) : (d.setPtpPort s v).shed = d.shed := rfl
@[simp] theorem Dev.setPtpPort_galLost (s : Nat) (v : PtpPort) : (d.setPtpPort s v).galLost = d.galLost := rfl
@[simp] theorem Dev.setPtpPort_canvases (s : Nat) (v : PtpPort) : (d.setPtpPort s v).canvases = d.canvases := rfl
@[simp] theorem Dev.setPtpPort_layers (s : Nat) (v : PtpPort) : (d.setPtpPort s v).layers = d.layers := rfl
@[simp] theorem Dev.setPtpPort_halls (s : Nat) (v : PtpPort) : (d.setPtpPort s v).halls = d.halls := rfl
@[simp] theorem Dev.setPtpPort_gal (s : Nat) (v : PtpPort) : (d.setPtpPort s v).gal = d.gal := rfl
@[simp] theorem Dev.setPtpPort_wbRows (s : Nat) (v : PtpPort) : (d.setPtpPort s v).wbRows = d.wbRows := rfl
@[simp] theorem Dev.setPtpPort_wins (s : Nat) (v : PtpPort) : (d.setPtpPort s v).wins = d.wins := rfl
@[simp] theorem Dev.setPtpPort_lanes (s : Nat) (v : PtpPort) : (d.setPtpPort s v).lanes = d.lanes := rfl
@[simp] theorem Dev.setPtpPort_laneQ (s : Nat) (v : PtpPort) : (d.setPtpPort s v).laneQ = d.laneQ := rfl
@[simp] theorem Dev.setPtpPort_hostQ (s : Nat) (v : PtpPort) : (d.setPtpPort s v).hostQ = d.hostQ := rfl
@[simp] theorem Dev.setPtpPort_policers (s : Nat) (v : PtpPort) : (d.setPtpPort s v).policers = d.policers := rfl
@[simp] theorem Dev.setPtpPort_shapers (s : Nat) (v : PtpPort) : (d.setPtpPort s v).shapers = d.shapers := rfl
@[simp] theorem Dev.setPtpPort_samplers (s : Nat) (v : PtpPort) : (d.setPtpPort s v).samplers = d.samplers := rfl
@[simp] theorem Dev.setPtpPort_polMs (s : Nat) (v : PtpPort) : (d.setPtpPort s v).polMs = d.polMs := rfl
@[simp] theorem Dev.setPtpPort_slave (s : Nat) (v : PtpPort) : (d.setPtpPort s v).slave = d.slave := rfl
@[simp] theorem Dev.setPtpPort_recvs (s : Nat) (v : PtpPort) : (d.setPtpPort s v).recvs = d.recvs := rfl
@[simp] theorem Dev.setPtpPort_sessions (s : Nat) (v : PtpPort) : (d.setPtpPort s v).sessions = d.sessions := rfl
@[simp] theorem Dev.setPtpPort_challenges (s : Nat) (v : PtpPort) : (d.setPtpPort s v).challenges = d.challenges := rfl
@[simp] theorem Dev.setPtpPort_keys (s : Nat) (v : PtpPort) : (d.setPtpPort s v).keys = d.keys := rfl
@[simp] theorem Dev.setPtpPort_keyStage (s : Nat) (v : PtpPort) : (d.setPtpPort s v).keyStage = d.keyStage := rfl
@[simp] theorem Dev.setPtpPort_bulk (s : Nat) (v : PtpPort) : (d.setPtpPort s v).bulk = d.bulk := rfl
@[simp] theorem Dev.setPtpPort_pulse (s : Nat) (v : PtpPort) : (d.setPtpPort s v).pulse = d.pulse := rfl
@[simp] theorem Dev.setPtpPort_pulseOn (s : Nat) (v : PtpPort) : (d.setPtpPort s v).pulseOn = d.pulseOn := rfl
@[simp] theorem Dev.setPtpPort_snapTick (s : Nat) (v : PtpPort) : (d.setPtpPort s v).snapTick = d.snapTick := rfl
@[simp] theorem Dev.setPtpPort_snapCanvas (s : Nat) (v : PtpPort) : (d.setPtpPort s v).snapCanvas = d.snapCanvas := rfl
@[simp] theorem Dev.setPtpPort_snapFrom (s : Nat) (v : PtpPort) : (d.setPtpPort s v).snapFrom = d.snapFrom := rfl
@[simp] theorem Dev.setPtpPort_hbm (s : Nat) (v : PtpPort) : (d.setPtpPort s v).hbm = d.hbm := rfl
@[simp] theorem Dev.setPtpPort_bad (s : Nat) (v : PtpPort) : (d.setPtpPort s v).bad = d.bad := rfl
@[simp] theorem Dev.setPtpPort_pcq (s : Nat) (v : PtpPort) : (d.setPtpPort s v).pcq = d.pcq := rfl
@[simp] theorem Dev.setPtpPort_migr (s : Nat) (v : PtpPort) : (d.setPtpPort s v).migr = d.migr := rfl
@[simp] theorem Dev.setPtpPort_journal (s : Nat) (v : PtpPort) : (d.setPtpPort s v).journal = d.journal := rfl
@[simp] theorem Dev.setPtpPort_eccLast (s : Nat) (v : PtpPort) : (d.setPtpPort s v).eccLast = d.eccLast := rfl
@[simp] theorem Dev.setPtpPort_classB (s : Nat) (v : PtpPort) : (d.setPtpPort s v).classB = d.classB := rfl
@[simp] theorem Dev.setPtpPort_heldB (s : Nat) (v : PtpPort) : (d.setPtpPort s v).heldB = d.heldB := rfl
@[simp] theorem Dev.setPtpPort_owed (s : Nat) (v : PtpPort) : (d.setPtpPort s v).owed = d.owed := rfl
@[simp] theorem Dev.setPtpPort_scrub (s : Nat) (v : PtpPort) : (d.setPtpPort s v).scrub = d.scrub := rfl
@[simp] theorem Dev.setPtpPort_ceTimes (s : Nat) (v : PtpPort) : (d.setPtpPort s v).ceTimes = d.ceTimes := rfl
@[simp] theorem Dev.setPtpPort_meets (s : Nat) (v : PtpPort) : (d.setPtpPort s v).meets = d.meets := rfl
@[simp] theorem Dev.setPtpPort_policyMet (s : Nat) (v : PtpPort) : (d.setPtpPort s v).policyMet = d.policyMet := rfl
@[simp] theorem Dev.setPtpPort_ueSeen (s : Nat) (v : PtpPort) : (d.setPtpPort s v).ueSeen = d.ueSeen := rfl
@[simp] theorem Dev.setPtpPort_leaves (s : Nat) (v : PtpPort) : (d.setPtpPort s v).leaves = d.leaves := rfl
@[simp] theorem Dev.setPtpPort_wcache (s : Nat) (v : PtpPort) : (d.setPtpPort s v).wcache = d.wcache := rfl
@[simp] theorem Dev.setPtpPort_walks (s : Nat) (v : PtpPort) : (d.setPtpPort s v).walks = d.walks := rfl
@[simp] theorem Dev.setPtpPort_ingest (s : Nat) (v : PtpPort) : (d.setPtpPort s v).ingest = d.ingest := rfl
@[simp] theorem Dev.setPtpPort_faults (s : Nat) (v : PtpPort) : (d.setPtpPort s v).faults = d.faults := rfl
@[simp] theorem Dev.setPtpPort_lostOpen (s : Nat) (v : PtpPort) : (d.setPtpPort s v).lostOpen = d.lostOpen := rfl
@[simp] theorem Dev.setPtpPort_invAt (s : Nat) (v : PtpPort) : (d.setPtpPort s v).invAt = d.invAt := rfl
@[simp] theorem Dev.setPtpPort_casc (s : Nat) (v : PtpPort) : (d.setPtpPort s v).casc = d.casc := rfl
@[simp] theorem Dev.setPtpPort_chans (s : Nat) (v : PtpPort) : (d.setPtpPort s v).chans = d.chans := rfl
@[simp] theorem Dev.setPtpPort_starts (s : Nat) (v : PtpPort) : (d.setPtpPort s v).starts = d.starts := rfl
@[simp] theorem Dev.setPtpPort_serving (s : Nat) (v : PtpPort) : (d.setPtpPort s v).serving = d.serving := rfl
@[simp] theorem Dev.setPtpPort_cus (s : Nat) (v : PtpPort) : (d.setPtpPort s v).cus = d.cus := rfl
@[simp] theorem Dev.setPtpPort_clk (s : Nat) (v : PtpPort) : (d.setPtpPort s v).clk = d.clk := rfl
@[simp] theorem Dev.setPtpPort_pwr (s : Nat) (v : PtpPort) : (d.setPtpPort s v).pwr = d.pwr := rfl
@[simp] theorem Dev.setPtpPort_stw (s : Nat) (v : PtpPort) : (d.setPtpPort s v).stw = d.stw := rfl
@[simp] theorem Dev.setPtpPort_alcq (s : Nat) (v : PtpPort) : (d.setPtpPort s v).alcq = d.alcq := rfl
@[simp] theorem Dev.setPtpPort_alcSeen (s : Nat) (v : PtpPort) : (d.setPtpPort s v).alcSeen = d.alcSeen := rfl
@[simp] theorem Dev.setPtpPort_alcFind (s : Nat) (v : PtpPort) : (d.setPtpPort s v).alcFind = d.alcFind := rfl
@[simp] theorem Dev.setPtpPort_alcOn (s : Nat) (v : PtpPort) : (d.setPtpPort s v).alcOn = d.alcOn := rfl
@[simp] theorem Dev.setPtpPort_otSeen (s : Nat) (v : PtpPort) : (d.setPtpPort s v).otSeen = d.otSeen := rfl
@[simp] theorem Dev.setPtpPort_sealOpen (s : Nat) (v : PtpPort) : (d.setPtpPort s v).sealOpen = d.sealOpen := rfl

/-! ## `setRecv` -/

@[simp] theorem Dev.setRecv_now (r : Nat) (v : Recv) : (d.setRecv r v).now = d.now := rfl
@[simp] theorem Dev.setRecv_seed (r : Nat) (v : Recv) : (d.setRecv r v).seed = d.seed := rfl
@[simp] theorem Dev.setRecv_h48 (r : Nat) (v : Recv) : (d.setRecv r v).h48 = d.h48 := rfl
@[simp] theorem Dev.setRecv_serial (r : Nat) (v : Recv) : (d.setRecv r v).serial = d.serial := rfl
@[simp] theorem Dev.setRecv_baseMac (r : Nat) (v : Recv) : (d.setRecv r v).baseMac = d.baseMac := rfl
@[simp] theorem Dev.setRecv_factoryOk (r : Nat) (v : Recv) : (d.setRecv r v).factoryOk = d.factoryOk := rfl
@[simp] theorem Dev.setRecv_fenceLog (r : Nat) (v : Recv) : (d.setRecv r v).fenceLog = d.fenceLog := rfl
@[simp] theorem Dev.setRecv_struck (r : Nat) (v : Recv) : (d.setRecv r v).struck = d.struck := rfl
@[simp] theorem Dev.setRecv_regs (r : Nat) (v : Recv) : (d.setRecv r v).regs = d.regs := rfl
@[simp] theorem Dev.setRecv_out (r : Nat) (v : Recv) : (d.setRecv r v).out = d.out := rfl
@[simp] theorem Dev.setRecv_first (r : Nat) (v : Recv) : (d.setRecv r v).first = d.first := rfl
@[simp] theorem Dev.setRecv_msTick (r : Nat) (v : Recv) : (d.setRecv r v).msTick = d.msTick := rfl
@[simp] theorem Dev.setRecv_commit (r : Nat) (v : Recv) : (d.setRecv r v).commit = d.commit := rfl
@[simp] theorem Dev.setRecv_dry (r : Nat) (v : Recv) : (d.setRecv r v).dry = d.dry := rfl
@[simp] theorem Dev.setRecv_answer (r : Nat) (v : Recv) : (d.setRecv r v).answer = d.answer := rfl
@[simp] theorem Dev.setRecv_answerIn (r : Nat) (v : Recv) : (d.setRecv r v).answerIn = d.answerIn := rfl
@[simp] theorem Dev.setRecv_report (r : Nat) (v : Recv) : (d.setRecv r v).report = d.report := rfl
@[simp] theorem Dev.setRecv_reReport (r : Nat) (v : Recv) : (d.setRecv r v).reReport = d.reReport := rfl
@[simp] theorem Dev.setRecv_readmit (r : Nat) (v : Recv) : (d.setRecv r v).readmit = d.readmit := rfl
@[simp] theorem Dev.setRecv_shed (r : Nat) (v : Recv) : (d.setRecv r v).shed = d.shed := rfl
@[simp] theorem Dev.setRecv_galLost (r : Nat) (v : Recv) : (d.setRecv r v).galLost = d.galLost := rfl
@[simp] theorem Dev.setRecv_canvases (r : Nat) (v : Recv) : (d.setRecv r v).canvases = d.canvases := rfl
@[simp] theorem Dev.setRecv_layers (r : Nat) (v : Recv) : (d.setRecv r v).layers = d.layers := rfl
@[simp] theorem Dev.setRecv_halls (r : Nat) (v : Recv) : (d.setRecv r v).halls = d.halls := rfl
@[simp] theorem Dev.setRecv_gal (r : Nat) (v : Recv) : (d.setRecv r v).gal = d.gal := rfl
@[simp] theorem Dev.setRecv_wbRows (r : Nat) (v : Recv) : (d.setRecv r v).wbRows = d.wbRows := rfl
@[simp] theorem Dev.setRecv_wins (r : Nat) (v : Recv) : (d.setRecv r v).wins = d.wins := rfl
@[simp] theorem Dev.setRecv_lanes (r : Nat) (v : Recv) : (d.setRecv r v).lanes = d.lanes := rfl
@[simp] theorem Dev.setRecv_laneQ (r : Nat) (v : Recv) : (d.setRecv r v).laneQ = d.laneQ := rfl
@[simp] theorem Dev.setRecv_hostQ (r : Nat) (v : Recv) : (d.setRecv r v).hostQ = d.hostQ := rfl
@[simp] theorem Dev.setRecv_policers (r : Nat) (v : Recv) : (d.setRecv r v).policers = d.policers := rfl
@[simp] theorem Dev.setRecv_shapers (r : Nat) (v : Recv) : (d.setRecv r v).shapers = d.shapers := rfl
@[simp] theorem Dev.setRecv_samplers (r : Nat) (v : Recv) : (d.setRecv r v).samplers = d.samplers := rfl
@[simp] theorem Dev.setRecv_polMs (r : Nat) (v : Recv) : (d.setRecv r v).polMs = d.polMs := rfl
@[simp] theorem Dev.setRecv_ptp (r : Nat) (v : Recv) : (d.setRecv r v).ptp = d.ptp := rfl
@[simp] theorem Dev.setRecv_slave (r : Nat) (v : Recv) : (d.setRecv r v).slave = d.slave := rfl
@[simp] theorem Dev.setRecv_sessions (r : Nat) (v : Recv) : (d.setRecv r v).sessions = d.sessions := rfl
@[simp] theorem Dev.setRecv_challenges (r : Nat) (v : Recv) : (d.setRecv r v).challenges = d.challenges := rfl
@[simp] theorem Dev.setRecv_keys (r : Nat) (v : Recv) : (d.setRecv r v).keys = d.keys := rfl
@[simp] theorem Dev.setRecv_keyStage (r : Nat) (v : Recv) : (d.setRecv r v).keyStage = d.keyStage := rfl
@[simp] theorem Dev.setRecv_bulk (r : Nat) (v : Recv) : (d.setRecv r v).bulk = d.bulk := rfl
@[simp] theorem Dev.setRecv_pulse (r : Nat) (v : Recv) : (d.setRecv r v).pulse = d.pulse := rfl
@[simp] theorem Dev.setRecv_pulseOn (r : Nat) (v : Recv) : (d.setRecv r v).pulseOn = d.pulseOn := rfl
@[simp] theorem Dev.setRecv_snapTick (r : Nat) (v : Recv) : (d.setRecv r v).snapTick = d.snapTick := rfl
@[simp] theorem Dev.setRecv_snapCanvas (r : Nat) (v : Recv) : (d.setRecv r v).snapCanvas = d.snapCanvas := rfl
@[simp] theorem Dev.setRecv_snapFrom (r : Nat) (v : Recv) : (d.setRecv r v).snapFrom = d.snapFrom := rfl
@[simp] theorem Dev.setRecv_hbm (r : Nat) (v : Recv) : (d.setRecv r v).hbm = d.hbm := rfl
@[simp] theorem Dev.setRecv_bad (r : Nat) (v : Recv) : (d.setRecv r v).bad = d.bad := rfl
@[simp] theorem Dev.setRecv_pcq (r : Nat) (v : Recv) : (d.setRecv r v).pcq = d.pcq := rfl
@[simp] theorem Dev.setRecv_migr (r : Nat) (v : Recv) : (d.setRecv r v).migr = d.migr := rfl
@[simp] theorem Dev.setRecv_journal (r : Nat) (v : Recv) : (d.setRecv r v).journal = d.journal := rfl
@[simp] theorem Dev.setRecv_eccLast (r : Nat) (v : Recv) : (d.setRecv r v).eccLast = d.eccLast := rfl
@[simp] theorem Dev.setRecv_classB (r : Nat) (v : Recv) : (d.setRecv r v).classB = d.classB := rfl
@[simp] theorem Dev.setRecv_heldB (r : Nat) (v : Recv) : (d.setRecv r v).heldB = d.heldB := rfl
@[simp] theorem Dev.setRecv_owed (r : Nat) (v : Recv) : (d.setRecv r v).owed = d.owed := rfl
@[simp] theorem Dev.setRecv_scrub (r : Nat) (v : Recv) : (d.setRecv r v).scrub = d.scrub := rfl
@[simp] theorem Dev.setRecv_ceTimes (r : Nat) (v : Recv) : (d.setRecv r v).ceTimes = d.ceTimes := rfl
@[simp] theorem Dev.setRecv_meets (r : Nat) (v : Recv) : (d.setRecv r v).meets = d.meets := rfl
@[simp] theorem Dev.setRecv_policyMet (r : Nat) (v : Recv) : (d.setRecv r v).policyMet = d.policyMet := rfl
@[simp] theorem Dev.setRecv_ueSeen (r : Nat) (v : Recv) : (d.setRecv r v).ueSeen = d.ueSeen := rfl
@[simp] theorem Dev.setRecv_leaves (r : Nat) (v : Recv) : (d.setRecv r v).leaves = d.leaves := rfl
@[simp] theorem Dev.setRecv_wcache (r : Nat) (v : Recv) : (d.setRecv r v).wcache = d.wcache := rfl
@[simp] theorem Dev.setRecv_walks (r : Nat) (v : Recv) : (d.setRecv r v).walks = d.walks := rfl
@[simp] theorem Dev.setRecv_ingest (r : Nat) (v : Recv) : (d.setRecv r v).ingest = d.ingest := rfl
@[simp] theorem Dev.setRecv_faults (r : Nat) (v : Recv) : (d.setRecv r v).faults = d.faults := rfl
@[simp] theorem Dev.setRecv_lostOpen (r : Nat) (v : Recv) : (d.setRecv r v).lostOpen = d.lostOpen := rfl
@[simp] theorem Dev.setRecv_invAt (r : Nat) (v : Recv) : (d.setRecv r v).invAt = d.invAt := rfl
@[simp] theorem Dev.setRecv_casc (r : Nat) (v : Recv) : (d.setRecv r v).casc = d.casc := rfl
@[simp] theorem Dev.setRecv_chans (r : Nat) (v : Recv) : (d.setRecv r v).chans = d.chans := rfl
@[simp] theorem Dev.setRecv_starts (r : Nat) (v : Recv) : (d.setRecv r v).starts = d.starts := rfl
@[simp] theorem Dev.setRecv_serving (r : Nat) (v : Recv) : (d.setRecv r v).serving = d.serving := rfl
@[simp] theorem Dev.setRecv_cus (r : Nat) (v : Recv) : (d.setRecv r v).cus = d.cus := rfl
@[simp] theorem Dev.setRecv_clk (r : Nat) (v : Recv) : (d.setRecv r v).clk = d.clk := rfl
@[simp] theorem Dev.setRecv_pwr (r : Nat) (v : Recv) : (d.setRecv r v).pwr = d.pwr := rfl
@[simp] theorem Dev.setRecv_stw (r : Nat) (v : Recv) : (d.setRecv r v).stw = d.stw := rfl
@[simp] theorem Dev.setRecv_alcq (r : Nat) (v : Recv) : (d.setRecv r v).alcq = d.alcq := rfl
@[simp] theorem Dev.setRecv_alcSeen (r : Nat) (v : Recv) : (d.setRecv r v).alcSeen = d.alcSeen := rfl
@[simp] theorem Dev.setRecv_alcFind (r : Nat) (v : Recv) : (d.setRecv r v).alcFind = d.alcFind := rfl
@[simp] theorem Dev.setRecv_alcOn (r : Nat) (v : Recv) : (d.setRecv r v).alcOn = d.alcOn := rfl
@[simp] theorem Dev.setRecv_otSeen (r : Nat) (v : Recv) : (d.setRecv r v).otSeen = d.otSeen := rfl
@[simp] theorem Dev.setRecv_sealOpen (r : Nat) (v : Recv) : (d.setRecv r v).sealOpen = d.sealOpen := rfl

/-! ## `setSess` -/

@[simp] theorem Dev.setSess_now (i : Nat) (v : Option Sess) : (d.setSess i v).now = d.now := rfl
@[simp] theorem Dev.setSess_seed (i : Nat) (v : Option Sess) : (d.setSess i v).seed = d.seed := rfl
@[simp] theorem Dev.setSess_h48 (i : Nat) (v : Option Sess) : (d.setSess i v).h48 = d.h48 := rfl
@[simp] theorem Dev.setSess_serial (i : Nat) (v : Option Sess) : (d.setSess i v).serial = d.serial := rfl
@[simp] theorem Dev.setSess_baseMac (i : Nat) (v : Option Sess) : (d.setSess i v).baseMac = d.baseMac := rfl
@[simp] theorem Dev.setSess_factoryOk (i : Nat) (v : Option Sess) : (d.setSess i v).factoryOk = d.factoryOk := rfl
@[simp] theorem Dev.setSess_fenceLog (i : Nat) (v : Option Sess) : (d.setSess i v).fenceLog = d.fenceLog := rfl
@[simp] theorem Dev.setSess_struck (i : Nat) (v : Option Sess) : (d.setSess i v).struck = d.struck := rfl
@[simp] theorem Dev.setSess_regs (i : Nat) (v : Option Sess) : (d.setSess i v).regs = d.regs := rfl
@[simp] theorem Dev.setSess_out (i : Nat) (v : Option Sess) : (d.setSess i v).out = d.out := rfl
@[simp] theorem Dev.setSess_first (i : Nat) (v : Option Sess) : (d.setSess i v).first = d.first := rfl
@[simp] theorem Dev.setSess_msTick (i : Nat) (v : Option Sess) : (d.setSess i v).msTick = d.msTick := rfl
@[simp] theorem Dev.setSess_commit (i : Nat) (v : Option Sess) : (d.setSess i v).commit = d.commit := rfl
@[simp] theorem Dev.setSess_dry (i : Nat) (v : Option Sess) : (d.setSess i v).dry = d.dry := rfl
@[simp] theorem Dev.setSess_answer (i : Nat) (v : Option Sess) : (d.setSess i v).answer = d.answer := rfl
@[simp] theorem Dev.setSess_answerIn (i : Nat) (v : Option Sess) : (d.setSess i v).answerIn = d.answerIn := rfl
@[simp] theorem Dev.setSess_report (i : Nat) (v : Option Sess) : (d.setSess i v).report = d.report := rfl
@[simp] theorem Dev.setSess_reReport (i : Nat) (v : Option Sess) : (d.setSess i v).reReport = d.reReport := rfl
@[simp] theorem Dev.setSess_readmit (i : Nat) (v : Option Sess) : (d.setSess i v).readmit = d.readmit := rfl
@[simp] theorem Dev.setSess_shed (i : Nat) (v : Option Sess) : (d.setSess i v).shed = d.shed := rfl
@[simp] theorem Dev.setSess_galLost (i : Nat) (v : Option Sess) : (d.setSess i v).galLost = d.galLost := rfl
@[simp] theorem Dev.setSess_canvases (i : Nat) (v : Option Sess) : (d.setSess i v).canvases = d.canvases := rfl
@[simp] theorem Dev.setSess_layers (i : Nat) (v : Option Sess) : (d.setSess i v).layers = d.layers := rfl
@[simp] theorem Dev.setSess_halls (i : Nat) (v : Option Sess) : (d.setSess i v).halls = d.halls := rfl
@[simp] theorem Dev.setSess_gal (i : Nat) (v : Option Sess) : (d.setSess i v).gal = d.gal := rfl
@[simp] theorem Dev.setSess_wbRows (i : Nat) (v : Option Sess) : (d.setSess i v).wbRows = d.wbRows := rfl
@[simp] theorem Dev.setSess_wins (i : Nat) (v : Option Sess) : (d.setSess i v).wins = d.wins := rfl
@[simp] theorem Dev.setSess_lanes (i : Nat) (v : Option Sess) : (d.setSess i v).lanes = d.lanes := rfl
@[simp] theorem Dev.setSess_laneQ (i : Nat) (v : Option Sess) : (d.setSess i v).laneQ = d.laneQ := rfl
@[simp] theorem Dev.setSess_hostQ (i : Nat) (v : Option Sess) : (d.setSess i v).hostQ = d.hostQ := rfl
@[simp] theorem Dev.setSess_policers (i : Nat) (v : Option Sess) : (d.setSess i v).policers = d.policers := rfl
@[simp] theorem Dev.setSess_shapers (i : Nat) (v : Option Sess) : (d.setSess i v).shapers = d.shapers := rfl
@[simp] theorem Dev.setSess_samplers (i : Nat) (v : Option Sess) : (d.setSess i v).samplers = d.samplers := rfl
@[simp] theorem Dev.setSess_polMs (i : Nat) (v : Option Sess) : (d.setSess i v).polMs = d.polMs := rfl
@[simp] theorem Dev.setSess_ptp (i : Nat) (v : Option Sess) : (d.setSess i v).ptp = d.ptp := rfl
@[simp] theorem Dev.setSess_slave (i : Nat) (v : Option Sess) : (d.setSess i v).slave = d.slave := rfl
@[simp] theorem Dev.setSess_recvs (i : Nat) (v : Option Sess) : (d.setSess i v).recvs = d.recvs := rfl
@[simp] theorem Dev.setSess_challenges (i : Nat) (v : Option Sess) : (d.setSess i v).challenges = d.challenges := rfl
@[simp] theorem Dev.setSess_keys (i : Nat) (v : Option Sess) : (d.setSess i v).keys = d.keys := rfl
@[simp] theorem Dev.setSess_keyStage (i : Nat) (v : Option Sess) : (d.setSess i v).keyStage = d.keyStage := rfl
@[simp] theorem Dev.setSess_bulk (i : Nat) (v : Option Sess) : (d.setSess i v).bulk = d.bulk := rfl
@[simp] theorem Dev.setSess_pulse (i : Nat) (v : Option Sess) : (d.setSess i v).pulse = d.pulse := rfl
@[simp] theorem Dev.setSess_pulseOn (i : Nat) (v : Option Sess) : (d.setSess i v).pulseOn = d.pulseOn := rfl
@[simp] theorem Dev.setSess_snapTick (i : Nat) (v : Option Sess) : (d.setSess i v).snapTick = d.snapTick := rfl
@[simp] theorem Dev.setSess_snapCanvas (i : Nat) (v : Option Sess) : (d.setSess i v).snapCanvas = d.snapCanvas := rfl
@[simp] theorem Dev.setSess_snapFrom (i : Nat) (v : Option Sess) : (d.setSess i v).snapFrom = d.snapFrom := rfl
@[simp] theorem Dev.setSess_hbm (i : Nat) (v : Option Sess) : (d.setSess i v).hbm = d.hbm := rfl
@[simp] theorem Dev.setSess_bad (i : Nat) (v : Option Sess) : (d.setSess i v).bad = d.bad := rfl
@[simp] theorem Dev.setSess_pcq (i : Nat) (v : Option Sess) : (d.setSess i v).pcq = d.pcq := rfl
@[simp] theorem Dev.setSess_migr (i : Nat) (v : Option Sess) : (d.setSess i v).migr = d.migr := rfl
@[simp] theorem Dev.setSess_journal (i : Nat) (v : Option Sess) : (d.setSess i v).journal = d.journal := rfl
@[simp] theorem Dev.setSess_eccLast (i : Nat) (v : Option Sess) : (d.setSess i v).eccLast = d.eccLast := rfl
@[simp] theorem Dev.setSess_classB (i : Nat) (v : Option Sess) : (d.setSess i v).classB = d.classB := rfl
@[simp] theorem Dev.setSess_heldB (i : Nat) (v : Option Sess) : (d.setSess i v).heldB = d.heldB := rfl
@[simp] theorem Dev.setSess_owed (i : Nat) (v : Option Sess) : (d.setSess i v).owed = d.owed := rfl
@[simp] theorem Dev.setSess_scrub (i : Nat) (v : Option Sess) : (d.setSess i v).scrub = d.scrub := rfl
@[simp] theorem Dev.setSess_ceTimes (i : Nat) (v : Option Sess) : (d.setSess i v).ceTimes = d.ceTimes := rfl
@[simp] theorem Dev.setSess_meets (i : Nat) (v : Option Sess) : (d.setSess i v).meets = d.meets := rfl
@[simp] theorem Dev.setSess_policyMet (i : Nat) (v : Option Sess) : (d.setSess i v).policyMet = d.policyMet := rfl
@[simp] theorem Dev.setSess_ueSeen (i : Nat) (v : Option Sess) : (d.setSess i v).ueSeen = d.ueSeen := rfl
@[simp] theorem Dev.setSess_leaves (i : Nat) (v : Option Sess) : (d.setSess i v).leaves = d.leaves := rfl
@[simp] theorem Dev.setSess_wcache (i : Nat) (v : Option Sess) : (d.setSess i v).wcache = d.wcache := rfl
@[simp] theorem Dev.setSess_walks (i : Nat) (v : Option Sess) : (d.setSess i v).walks = d.walks := rfl
@[simp] theorem Dev.setSess_ingest (i : Nat) (v : Option Sess) : (d.setSess i v).ingest = d.ingest := rfl
@[simp] theorem Dev.setSess_faults (i : Nat) (v : Option Sess) : (d.setSess i v).faults = d.faults := rfl
@[simp] theorem Dev.setSess_lostOpen (i : Nat) (v : Option Sess) : (d.setSess i v).lostOpen = d.lostOpen := rfl
@[simp] theorem Dev.setSess_invAt (i : Nat) (v : Option Sess) : (d.setSess i v).invAt = d.invAt := rfl
@[simp] theorem Dev.setSess_casc (i : Nat) (v : Option Sess) : (d.setSess i v).casc = d.casc := rfl
@[simp] theorem Dev.setSess_chans (i : Nat) (v : Option Sess) : (d.setSess i v).chans = d.chans := rfl
@[simp] theorem Dev.setSess_starts (i : Nat) (v : Option Sess) : (d.setSess i v).starts = d.starts := rfl
@[simp] theorem Dev.setSess_serving (i : Nat) (v : Option Sess) : (d.setSess i v).serving = d.serving := rfl
@[simp] theorem Dev.setSess_cus (i : Nat) (v : Option Sess) : (d.setSess i v).cus = d.cus := rfl
@[simp] theorem Dev.setSess_clk (i : Nat) (v : Option Sess) : (d.setSess i v).clk = d.clk := rfl
@[simp] theorem Dev.setSess_pwr (i : Nat) (v : Option Sess) : (d.setSess i v).pwr = d.pwr := rfl
@[simp] theorem Dev.setSess_stw (i : Nat) (v : Option Sess) : (d.setSess i v).stw = d.stw := rfl
@[simp] theorem Dev.setSess_alcq (i : Nat) (v : Option Sess) : (d.setSess i v).alcq = d.alcq := rfl
@[simp] theorem Dev.setSess_alcSeen (i : Nat) (v : Option Sess) : (d.setSess i v).alcSeen = d.alcSeen := rfl
@[simp] theorem Dev.setSess_alcFind (i : Nat) (v : Option Sess) : (d.setSess i v).alcFind = d.alcFind := rfl
@[simp] theorem Dev.setSess_alcOn (i : Nat) (v : Option Sess) : (d.setSess i v).alcOn = d.alcOn := rfl
@[simp] theorem Dev.setSess_otSeen (i : Nat) (v : Option Sess) : (d.setSess i v).otSeen = d.otSeen := rfl
@[simp] theorem Dev.setSess_sealOpen (i : Nat) (v : Option Sess) : (d.setSess i v).sealOpen = d.sealOpen := rfl

/-! ## `setMigr` -/

@[simp] theorem Dev.setMigr_now (s : Nat) (v : Option Migr) : (d.setMigr s v).now = d.now := rfl
@[simp] theorem Dev.setMigr_seed (s : Nat) (v : Option Migr) : (d.setMigr s v).seed = d.seed := rfl
@[simp] theorem Dev.setMigr_h48 (s : Nat) (v : Option Migr) : (d.setMigr s v).h48 = d.h48 := rfl
@[simp] theorem Dev.setMigr_serial (s : Nat) (v : Option Migr) : (d.setMigr s v).serial = d.serial := rfl
@[simp] theorem Dev.setMigr_baseMac (s : Nat) (v : Option Migr) : (d.setMigr s v).baseMac = d.baseMac := rfl
@[simp] theorem Dev.setMigr_factoryOk (s : Nat) (v : Option Migr) : (d.setMigr s v).factoryOk = d.factoryOk := rfl
@[simp] theorem Dev.setMigr_fenceLog (s : Nat) (v : Option Migr) : (d.setMigr s v).fenceLog = d.fenceLog := rfl
@[simp] theorem Dev.setMigr_struck (s : Nat) (v : Option Migr) : (d.setMigr s v).struck = d.struck := rfl
@[simp] theorem Dev.setMigr_regs (s : Nat) (v : Option Migr) : (d.setMigr s v).regs = d.regs := rfl
@[simp] theorem Dev.setMigr_out (s : Nat) (v : Option Migr) : (d.setMigr s v).out = d.out := rfl
@[simp] theorem Dev.setMigr_first (s : Nat) (v : Option Migr) : (d.setMigr s v).first = d.first := rfl
@[simp] theorem Dev.setMigr_msTick (s : Nat) (v : Option Migr) : (d.setMigr s v).msTick = d.msTick := rfl
@[simp] theorem Dev.setMigr_commit (s : Nat) (v : Option Migr) : (d.setMigr s v).commit = d.commit := rfl
@[simp] theorem Dev.setMigr_dry (s : Nat) (v : Option Migr) : (d.setMigr s v).dry = d.dry := rfl
@[simp] theorem Dev.setMigr_answer (s : Nat) (v : Option Migr) : (d.setMigr s v).answer = d.answer := rfl
@[simp] theorem Dev.setMigr_answerIn (s : Nat) (v : Option Migr) : (d.setMigr s v).answerIn = d.answerIn := rfl
@[simp] theorem Dev.setMigr_report (s : Nat) (v : Option Migr) : (d.setMigr s v).report = d.report := rfl
@[simp] theorem Dev.setMigr_reReport (s : Nat) (v : Option Migr) : (d.setMigr s v).reReport = d.reReport := rfl
@[simp] theorem Dev.setMigr_readmit (s : Nat) (v : Option Migr) : (d.setMigr s v).readmit = d.readmit := rfl
@[simp] theorem Dev.setMigr_shed (s : Nat) (v : Option Migr) : (d.setMigr s v).shed = d.shed := rfl
@[simp] theorem Dev.setMigr_galLost (s : Nat) (v : Option Migr) : (d.setMigr s v).galLost = d.galLost := rfl
@[simp] theorem Dev.setMigr_canvases (s : Nat) (v : Option Migr) : (d.setMigr s v).canvases = d.canvases := rfl
@[simp] theorem Dev.setMigr_layers (s : Nat) (v : Option Migr) : (d.setMigr s v).layers = d.layers := rfl
@[simp] theorem Dev.setMigr_halls (s : Nat) (v : Option Migr) : (d.setMigr s v).halls = d.halls := rfl
@[simp] theorem Dev.setMigr_gal (s : Nat) (v : Option Migr) : (d.setMigr s v).gal = d.gal := rfl
@[simp] theorem Dev.setMigr_wbRows (s : Nat) (v : Option Migr) : (d.setMigr s v).wbRows = d.wbRows := rfl
@[simp] theorem Dev.setMigr_wins (s : Nat) (v : Option Migr) : (d.setMigr s v).wins = d.wins := rfl
@[simp] theorem Dev.setMigr_lanes (s : Nat) (v : Option Migr) : (d.setMigr s v).lanes = d.lanes := rfl
@[simp] theorem Dev.setMigr_laneQ (s : Nat) (v : Option Migr) : (d.setMigr s v).laneQ = d.laneQ := rfl
@[simp] theorem Dev.setMigr_hostQ (s : Nat) (v : Option Migr) : (d.setMigr s v).hostQ = d.hostQ := rfl
@[simp] theorem Dev.setMigr_policers (s : Nat) (v : Option Migr) : (d.setMigr s v).policers = d.policers := rfl
@[simp] theorem Dev.setMigr_shapers (s : Nat) (v : Option Migr) : (d.setMigr s v).shapers = d.shapers := rfl
@[simp] theorem Dev.setMigr_samplers (s : Nat) (v : Option Migr) : (d.setMigr s v).samplers = d.samplers := rfl
@[simp] theorem Dev.setMigr_polMs (s : Nat) (v : Option Migr) : (d.setMigr s v).polMs = d.polMs := rfl
@[simp] theorem Dev.setMigr_ptp (s : Nat) (v : Option Migr) : (d.setMigr s v).ptp = d.ptp := rfl
@[simp] theorem Dev.setMigr_slave (s : Nat) (v : Option Migr) : (d.setMigr s v).slave = d.slave := rfl
@[simp] theorem Dev.setMigr_recvs (s : Nat) (v : Option Migr) : (d.setMigr s v).recvs = d.recvs := rfl
@[simp] theorem Dev.setMigr_sessions (s : Nat) (v : Option Migr) : (d.setMigr s v).sessions = d.sessions := rfl
@[simp] theorem Dev.setMigr_challenges (s : Nat) (v : Option Migr) : (d.setMigr s v).challenges = d.challenges := rfl
@[simp] theorem Dev.setMigr_keys (s : Nat) (v : Option Migr) : (d.setMigr s v).keys = d.keys := rfl
@[simp] theorem Dev.setMigr_keyStage (s : Nat) (v : Option Migr) : (d.setMigr s v).keyStage = d.keyStage := rfl
@[simp] theorem Dev.setMigr_bulk (s : Nat) (v : Option Migr) : (d.setMigr s v).bulk = d.bulk := rfl
@[simp] theorem Dev.setMigr_pulse (s : Nat) (v : Option Migr) : (d.setMigr s v).pulse = d.pulse := rfl
@[simp] theorem Dev.setMigr_pulseOn (s : Nat) (v : Option Migr) : (d.setMigr s v).pulseOn = d.pulseOn := rfl
@[simp] theorem Dev.setMigr_snapTick (s : Nat) (v : Option Migr) : (d.setMigr s v).snapTick = d.snapTick := rfl
@[simp] theorem Dev.setMigr_snapCanvas (s : Nat) (v : Option Migr) : (d.setMigr s v).snapCanvas = d.snapCanvas := rfl
@[simp] theorem Dev.setMigr_snapFrom (s : Nat) (v : Option Migr) : (d.setMigr s v).snapFrom = d.snapFrom := rfl
@[simp] theorem Dev.setMigr_hbm (s : Nat) (v : Option Migr) : (d.setMigr s v).hbm = d.hbm := rfl
@[simp] theorem Dev.setMigr_bad (s : Nat) (v : Option Migr) : (d.setMigr s v).bad = d.bad := rfl
@[simp] theorem Dev.setMigr_pcq (s : Nat) (v : Option Migr) : (d.setMigr s v).pcq = d.pcq := rfl
@[simp] theorem Dev.setMigr_journal (s : Nat) (v : Option Migr) : (d.setMigr s v).journal = d.journal := rfl
@[simp] theorem Dev.setMigr_eccLast (s : Nat) (v : Option Migr) : (d.setMigr s v).eccLast = d.eccLast := rfl
@[simp] theorem Dev.setMigr_classB (s : Nat) (v : Option Migr) : (d.setMigr s v).classB = d.classB := rfl
@[simp] theorem Dev.setMigr_heldB (s : Nat) (v : Option Migr) : (d.setMigr s v).heldB = d.heldB := rfl
@[simp] theorem Dev.setMigr_owed (s : Nat) (v : Option Migr) : (d.setMigr s v).owed = d.owed := rfl
@[simp] theorem Dev.setMigr_scrub (s : Nat) (v : Option Migr) : (d.setMigr s v).scrub = d.scrub := rfl
@[simp] theorem Dev.setMigr_ceTimes (s : Nat) (v : Option Migr) : (d.setMigr s v).ceTimes = d.ceTimes := rfl
@[simp] theorem Dev.setMigr_meets (s : Nat) (v : Option Migr) : (d.setMigr s v).meets = d.meets := rfl
@[simp] theorem Dev.setMigr_policyMet (s : Nat) (v : Option Migr) : (d.setMigr s v).policyMet = d.policyMet := rfl
@[simp] theorem Dev.setMigr_ueSeen (s : Nat) (v : Option Migr) : (d.setMigr s v).ueSeen = d.ueSeen := rfl
@[simp] theorem Dev.setMigr_leaves (s : Nat) (v : Option Migr) : (d.setMigr s v).leaves = d.leaves := rfl
@[simp] theorem Dev.setMigr_wcache (s : Nat) (v : Option Migr) : (d.setMigr s v).wcache = d.wcache := rfl
@[simp] theorem Dev.setMigr_walks (s : Nat) (v : Option Migr) : (d.setMigr s v).walks = d.walks := rfl
@[simp] theorem Dev.setMigr_ingest (s : Nat) (v : Option Migr) : (d.setMigr s v).ingest = d.ingest := rfl
@[simp] theorem Dev.setMigr_faults (s : Nat) (v : Option Migr) : (d.setMigr s v).faults = d.faults := rfl
@[simp] theorem Dev.setMigr_lostOpen (s : Nat) (v : Option Migr) : (d.setMigr s v).lostOpen = d.lostOpen := rfl
@[simp] theorem Dev.setMigr_invAt (s : Nat) (v : Option Migr) : (d.setMigr s v).invAt = d.invAt := rfl
@[simp] theorem Dev.setMigr_casc (s : Nat) (v : Option Migr) : (d.setMigr s v).casc = d.casc := rfl
@[simp] theorem Dev.setMigr_chans (s : Nat) (v : Option Migr) : (d.setMigr s v).chans = d.chans := rfl
@[simp] theorem Dev.setMigr_starts (s : Nat) (v : Option Migr) : (d.setMigr s v).starts = d.starts := rfl
@[simp] theorem Dev.setMigr_serving (s : Nat) (v : Option Migr) : (d.setMigr s v).serving = d.serving := rfl
@[simp] theorem Dev.setMigr_cus (s : Nat) (v : Option Migr) : (d.setMigr s v).cus = d.cus := rfl
@[simp] theorem Dev.setMigr_clk (s : Nat) (v : Option Migr) : (d.setMigr s v).clk = d.clk := rfl
@[simp] theorem Dev.setMigr_pwr (s : Nat) (v : Option Migr) : (d.setMigr s v).pwr = d.pwr := rfl
@[simp] theorem Dev.setMigr_stw (s : Nat) (v : Option Migr) : (d.setMigr s v).stw = d.stw := rfl
@[simp] theorem Dev.setMigr_alcq (s : Nat) (v : Option Migr) : (d.setMigr s v).alcq = d.alcq := rfl
@[simp] theorem Dev.setMigr_alcSeen (s : Nat) (v : Option Migr) : (d.setMigr s v).alcSeen = d.alcSeen := rfl
@[simp] theorem Dev.setMigr_alcFind (s : Nat) (v : Option Migr) : (d.setMigr s v).alcFind = d.alcFind := rfl
@[simp] theorem Dev.setMigr_alcOn (s : Nat) (v : Option Migr) : (d.setMigr s v).alcOn = d.alcOn := rfl
@[simp] theorem Dev.setMigr_otSeen (s : Nat) (v : Option Migr) : (d.setMigr s v).otSeen = d.otSeen := rfl
@[simp] theorem Dev.setMigr_sealOpen (s : Nat) (v : Option Migr) : (d.setMigr s v).sealOpen = d.sealOpen := rfl

/-! ## `setChan` -/

@[simp] theorem Dev.setChan_now (k : Nat) (v : Chan) : (d.setChan k v).now = d.now := rfl
@[simp] theorem Dev.setChan_seed (k : Nat) (v : Chan) : (d.setChan k v).seed = d.seed := rfl
@[simp] theorem Dev.setChan_h48 (k : Nat) (v : Chan) : (d.setChan k v).h48 = d.h48 := rfl
@[simp] theorem Dev.setChan_serial (k : Nat) (v : Chan) : (d.setChan k v).serial = d.serial := rfl
@[simp] theorem Dev.setChan_baseMac (k : Nat) (v : Chan) : (d.setChan k v).baseMac = d.baseMac := rfl
@[simp] theorem Dev.setChan_factoryOk (k : Nat) (v : Chan) : (d.setChan k v).factoryOk = d.factoryOk := rfl
@[simp] theorem Dev.setChan_fenceLog (k : Nat) (v : Chan) : (d.setChan k v).fenceLog = d.fenceLog := rfl
@[simp] theorem Dev.setChan_struck (k : Nat) (v : Chan) : (d.setChan k v).struck = d.struck := rfl
@[simp] theorem Dev.setChan_regs (k : Nat) (v : Chan) : (d.setChan k v).regs = d.regs := rfl
@[simp] theorem Dev.setChan_out (k : Nat) (v : Chan) : (d.setChan k v).out = d.out := rfl
@[simp] theorem Dev.setChan_first (k : Nat) (v : Chan) : (d.setChan k v).first = d.first := rfl
@[simp] theorem Dev.setChan_msTick (k : Nat) (v : Chan) : (d.setChan k v).msTick = d.msTick := rfl
@[simp] theorem Dev.setChan_commit (k : Nat) (v : Chan) : (d.setChan k v).commit = d.commit := rfl
@[simp] theorem Dev.setChan_dry (k : Nat) (v : Chan) : (d.setChan k v).dry = d.dry := rfl
@[simp] theorem Dev.setChan_answer (k : Nat) (v : Chan) : (d.setChan k v).answer = d.answer := rfl
@[simp] theorem Dev.setChan_answerIn (k : Nat) (v : Chan) : (d.setChan k v).answerIn = d.answerIn := rfl
@[simp] theorem Dev.setChan_report (k : Nat) (v : Chan) : (d.setChan k v).report = d.report := rfl
@[simp] theorem Dev.setChan_reReport (k : Nat) (v : Chan) : (d.setChan k v).reReport = d.reReport := rfl
@[simp] theorem Dev.setChan_readmit (k : Nat) (v : Chan) : (d.setChan k v).readmit = d.readmit := rfl
@[simp] theorem Dev.setChan_shed (k : Nat) (v : Chan) : (d.setChan k v).shed = d.shed := rfl
@[simp] theorem Dev.setChan_galLost (k : Nat) (v : Chan) : (d.setChan k v).galLost = d.galLost := rfl
@[simp] theorem Dev.setChan_canvases (k : Nat) (v : Chan) : (d.setChan k v).canvases = d.canvases := rfl
@[simp] theorem Dev.setChan_layers (k : Nat) (v : Chan) : (d.setChan k v).layers = d.layers := rfl
@[simp] theorem Dev.setChan_halls (k : Nat) (v : Chan) : (d.setChan k v).halls = d.halls := rfl
@[simp] theorem Dev.setChan_gal (k : Nat) (v : Chan) : (d.setChan k v).gal = d.gal := rfl
@[simp] theorem Dev.setChan_wbRows (k : Nat) (v : Chan) : (d.setChan k v).wbRows = d.wbRows := rfl
@[simp] theorem Dev.setChan_wins (k : Nat) (v : Chan) : (d.setChan k v).wins = d.wins := rfl
@[simp] theorem Dev.setChan_lanes (k : Nat) (v : Chan) : (d.setChan k v).lanes = d.lanes := rfl
@[simp] theorem Dev.setChan_laneQ (k : Nat) (v : Chan) : (d.setChan k v).laneQ = d.laneQ := rfl
@[simp] theorem Dev.setChan_hostQ (k : Nat) (v : Chan) : (d.setChan k v).hostQ = d.hostQ := rfl
@[simp] theorem Dev.setChan_policers (k : Nat) (v : Chan) : (d.setChan k v).policers = d.policers := rfl
@[simp] theorem Dev.setChan_shapers (k : Nat) (v : Chan) : (d.setChan k v).shapers = d.shapers := rfl
@[simp] theorem Dev.setChan_samplers (k : Nat) (v : Chan) : (d.setChan k v).samplers = d.samplers := rfl
@[simp] theorem Dev.setChan_polMs (k : Nat) (v : Chan) : (d.setChan k v).polMs = d.polMs := rfl
@[simp] theorem Dev.setChan_ptp (k : Nat) (v : Chan) : (d.setChan k v).ptp = d.ptp := rfl
@[simp] theorem Dev.setChan_slave (k : Nat) (v : Chan) : (d.setChan k v).slave = d.slave := rfl
@[simp] theorem Dev.setChan_recvs (k : Nat) (v : Chan) : (d.setChan k v).recvs = d.recvs := rfl
@[simp] theorem Dev.setChan_sessions (k : Nat) (v : Chan) : (d.setChan k v).sessions = d.sessions := rfl
@[simp] theorem Dev.setChan_challenges (k : Nat) (v : Chan) : (d.setChan k v).challenges = d.challenges := rfl
@[simp] theorem Dev.setChan_keys (k : Nat) (v : Chan) : (d.setChan k v).keys = d.keys := rfl
@[simp] theorem Dev.setChan_keyStage (k : Nat) (v : Chan) : (d.setChan k v).keyStage = d.keyStage := rfl
@[simp] theorem Dev.setChan_bulk (k : Nat) (v : Chan) : (d.setChan k v).bulk = d.bulk := rfl
@[simp] theorem Dev.setChan_pulse (k : Nat) (v : Chan) : (d.setChan k v).pulse = d.pulse := rfl
@[simp] theorem Dev.setChan_pulseOn (k : Nat) (v : Chan) : (d.setChan k v).pulseOn = d.pulseOn := rfl
@[simp] theorem Dev.setChan_snapTick (k : Nat) (v : Chan) : (d.setChan k v).snapTick = d.snapTick := rfl
@[simp] theorem Dev.setChan_snapCanvas (k : Nat) (v : Chan) : (d.setChan k v).snapCanvas = d.snapCanvas := rfl
@[simp] theorem Dev.setChan_snapFrom (k : Nat) (v : Chan) : (d.setChan k v).snapFrom = d.snapFrom := rfl
@[simp] theorem Dev.setChan_hbm (k : Nat) (v : Chan) : (d.setChan k v).hbm = d.hbm := rfl
@[simp] theorem Dev.setChan_bad (k : Nat) (v : Chan) : (d.setChan k v).bad = d.bad := rfl
@[simp] theorem Dev.setChan_pcq (k : Nat) (v : Chan) : (d.setChan k v).pcq = d.pcq := rfl
@[simp] theorem Dev.setChan_migr (k : Nat) (v : Chan) : (d.setChan k v).migr = d.migr := rfl
@[simp] theorem Dev.setChan_journal (k : Nat) (v : Chan) : (d.setChan k v).journal = d.journal := rfl
@[simp] theorem Dev.setChan_eccLast (k : Nat) (v : Chan) : (d.setChan k v).eccLast = d.eccLast := rfl
@[simp] theorem Dev.setChan_classB (k : Nat) (v : Chan) : (d.setChan k v).classB = d.classB := rfl
@[simp] theorem Dev.setChan_heldB (k : Nat) (v : Chan) : (d.setChan k v).heldB = d.heldB := rfl
@[simp] theorem Dev.setChan_owed (k : Nat) (v : Chan) : (d.setChan k v).owed = d.owed := rfl
@[simp] theorem Dev.setChan_scrub (k : Nat) (v : Chan) : (d.setChan k v).scrub = d.scrub := rfl
@[simp] theorem Dev.setChan_ceTimes (k : Nat) (v : Chan) : (d.setChan k v).ceTimes = d.ceTimes := rfl
@[simp] theorem Dev.setChan_meets (k : Nat) (v : Chan) : (d.setChan k v).meets = d.meets := rfl
@[simp] theorem Dev.setChan_policyMet (k : Nat) (v : Chan) : (d.setChan k v).policyMet = d.policyMet := rfl
@[simp] theorem Dev.setChan_ueSeen (k : Nat) (v : Chan) : (d.setChan k v).ueSeen = d.ueSeen := rfl
@[simp] theorem Dev.setChan_leaves (k : Nat) (v : Chan) : (d.setChan k v).leaves = d.leaves := rfl
@[simp] theorem Dev.setChan_wcache (k : Nat) (v : Chan) : (d.setChan k v).wcache = d.wcache := rfl
@[simp] theorem Dev.setChan_walks (k : Nat) (v : Chan) : (d.setChan k v).walks = d.walks := rfl
@[simp] theorem Dev.setChan_ingest (k : Nat) (v : Chan) : (d.setChan k v).ingest = d.ingest := rfl
@[simp] theorem Dev.setChan_faults (k : Nat) (v : Chan) : (d.setChan k v).faults = d.faults := rfl
@[simp] theorem Dev.setChan_lostOpen (k : Nat) (v : Chan) : (d.setChan k v).lostOpen = d.lostOpen := rfl
@[simp] theorem Dev.setChan_invAt (k : Nat) (v : Chan) : (d.setChan k v).invAt = d.invAt := rfl
@[simp] theorem Dev.setChan_casc (k : Nat) (v : Chan) : (d.setChan k v).casc = d.casc := rfl
@[simp] theorem Dev.setChan_starts (k : Nat) (v : Chan) : (d.setChan k v).starts = d.starts := rfl
@[simp] theorem Dev.setChan_serving (k : Nat) (v : Chan) : (d.setChan k v).serving = d.serving := rfl
@[simp] theorem Dev.setChan_cus (k : Nat) (v : Chan) : (d.setChan k v).cus = d.cus := rfl
@[simp] theorem Dev.setChan_clk (k : Nat) (v : Chan) : (d.setChan k v).clk = d.clk := rfl
@[simp] theorem Dev.setChan_pwr (k : Nat) (v : Chan) : (d.setChan k v).pwr = d.pwr := rfl
@[simp] theorem Dev.setChan_stw (k : Nat) (v : Chan) : (d.setChan k v).stw = d.stw := rfl
@[simp] theorem Dev.setChan_alcq (k : Nat) (v : Chan) : (d.setChan k v).alcq = d.alcq := rfl
@[simp] theorem Dev.setChan_alcSeen (k : Nat) (v : Chan) : (d.setChan k v).alcSeen = d.alcSeen := rfl
@[simp] theorem Dev.setChan_alcFind (k : Nat) (v : Chan) : (d.setChan k v).alcFind = d.alcFind := rfl
@[simp] theorem Dev.setChan_alcOn (k : Nat) (v : Chan) : (d.setChan k v).alcOn = d.alcOn := rfl
@[simp] theorem Dev.setChan_otSeen (k : Nat) (v : Chan) : (d.setChan k v).otSeen = d.otSeen := rfl
@[simp] theorem Dev.setChan_sealOpen (k : Nat) (v : Chan) : (d.setChan k v).sealOpen = d.sealOpen := rfl

/-! ## `setCu` -/

@[simp] theorem Dev.setCu_now (u : Nat) (v : Cu) : (d.setCu u v).now = d.now := rfl
@[simp] theorem Dev.setCu_seed (u : Nat) (v : Cu) : (d.setCu u v).seed = d.seed := rfl
@[simp] theorem Dev.setCu_h48 (u : Nat) (v : Cu) : (d.setCu u v).h48 = d.h48 := rfl
@[simp] theorem Dev.setCu_serial (u : Nat) (v : Cu) : (d.setCu u v).serial = d.serial := rfl
@[simp] theorem Dev.setCu_baseMac (u : Nat) (v : Cu) : (d.setCu u v).baseMac = d.baseMac := rfl
@[simp] theorem Dev.setCu_factoryOk (u : Nat) (v : Cu) : (d.setCu u v).factoryOk = d.factoryOk := rfl
@[simp] theorem Dev.setCu_fenceLog (u : Nat) (v : Cu) : (d.setCu u v).fenceLog = d.fenceLog := rfl
@[simp] theorem Dev.setCu_struck (u : Nat) (v : Cu) : (d.setCu u v).struck = d.struck := rfl
@[simp] theorem Dev.setCu_regs (u : Nat) (v : Cu) : (d.setCu u v).regs = d.regs := rfl
@[simp] theorem Dev.setCu_out (u : Nat) (v : Cu) : (d.setCu u v).out = d.out := rfl
@[simp] theorem Dev.setCu_first (u : Nat) (v : Cu) : (d.setCu u v).first = d.first := rfl
@[simp] theorem Dev.setCu_msTick (u : Nat) (v : Cu) : (d.setCu u v).msTick = d.msTick := rfl
@[simp] theorem Dev.setCu_commit (u : Nat) (v : Cu) : (d.setCu u v).commit = d.commit := rfl
@[simp] theorem Dev.setCu_dry (u : Nat) (v : Cu) : (d.setCu u v).dry = d.dry := rfl
@[simp] theorem Dev.setCu_answer (u : Nat) (v : Cu) : (d.setCu u v).answer = d.answer := rfl
@[simp] theorem Dev.setCu_answerIn (u : Nat) (v : Cu) : (d.setCu u v).answerIn = d.answerIn := rfl
@[simp] theorem Dev.setCu_report (u : Nat) (v : Cu) : (d.setCu u v).report = d.report := rfl
@[simp] theorem Dev.setCu_reReport (u : Nat) (v : Cu) : (d.setCu u v).reReport = d.reReport := rfl
@[simp] theorem Dev.setCu_readmit (u : Nat) (v : Cu) : (d.setCu u v).readmit = d.readmit := rfl
@[simp] theorem Dev.setCu_shed (u : Nat) (v : Cu) : (d.setCu u v).shed = d.shed := rfl
@[simp] theorem Dev.setCu_galLost (u : Nat) (v : Cu) : (d.setCu u v).galLost = d.galLost := rfl
@[simp] theorem Dev.setCu_canvases (u : Nat) (v : Cu) : (d.setCu u v).canvases = d.canvases := rfl
@[simp] theorem Dev.setCu_layers (u : Nat) (v : Cu) : (d.setCu u v).layers = d.layers := rfl
@[simp] theorem Dev.setCu_halls (u : Nat) (v : Cu) : (d.setCu u v).halls = d.halls := rfl
@[simp] theorem Dev.setCu_gal (u : Nat) (v : Cu) : (d.setCu u v).gal = d.gal := rfl
@[simp] theorem Dev.setCu_wbRows (u : Nat) (v : Cu) : (d.setCu u v).wbRows = d.wbRows := rfl
@[simp] theorem Dev.setCu_wins (u : Nat) (v : Cu) : (d.setCu u v).wins = d.wins := rfl
@[simp] theorem Dev.setCu_lanes (u : Nat) (v : Cu) : (d.setCu u v).lanes = d.lanes := rfl
@[simp] theorem Dev.setCu_laneQ (u : Nat) (v : Cu) : (d.setCu u v).laneQ = d.laneQ := rfl
@[simp] theorem Dev.setCu_hostQ (u : Nat) (v : Cu) : (d.setCu u v).hostQ = d.hostQ := rfl
@[simp] theorem Dev.setCu_policers (u : Nat) (v : Cu) : (d.setCu u v).policers = d.policers := rfl
@[simp] theorem Dev.setCu_shapers (u : Nat) (v : Cu) : (d.setCu u v).shapers = d.shapers := rfl
@[simp] theorem Dev.setCu_samplers (u : Nat) (v : Cu) : (d.setCu u v).samplers = d.samplers := rfl
@[simp] theorem Dev.setCu_polMs (u : Nat) (v : Cu) : (d.setCu u v).polMs = d.polMs := rfl
@[simp] theorem Dev.setCu_ptp (u : Nat) (v : Cu) : (d.setCu u v).ptp = d.ptp := rfl
@[simp] theorem Dev.setCu_slave (u : Nat) (v : Cu) : (d.setCu u v).slave = d.slave := rfl
@[simp] theorem Dev.setCu_recvs (u : Nat) (v : Cu) : (d.setCu u v).recvs = d.recvs := rfl
@[simp] theorem Dev.setCu_sessions (u : Nat) (v : Cu) : (d.setCu u v).sessions = d.sessions := rfl
@[simp] theorem Dev.setCu_challenges (u : Nat) (v : Cu) : (d.setCu u v).challenges = d.challenges := rfl
@[simp] theorem Dev.setCu_keys (u : Nat) (v : Cu) : (d.setCu u v).keys = d.keys := rfl
@[simp] theorem Dev.setCu_keyStage (u : Nat) (v : Cu) : (d.setCu u v).keyStage = d.keyStage := rfl
@[simp] theorem Dev.setCu_bulk (u : Nat) (v : Cu) : (d.setCu u v).bulk = d.bulk := rfl
@[simp] theorem Dev.setCu_pulse (u : Nat) (v : Cu) : (d.setCu u v).pulse = d.pulse := rfl
@[simp] theorem Dev.setCu_pulseOn (u : Nat) (v : Cu) : (d.setCu u v).pulseOn = d.pulseOn := rfl
@[simp] theorem Dev.setCu_snapTick (u : Nat) (v : Cu) : (d.setCu u v).snapTick = d.snapTick := rfl
@[simp] theorem Dev.setCu_snapCanvas (u : Nat) (v : Cu) : (d.setCu u v).snapCanvas = d.snapCanvas := rfl
@[simp] theorem Dev.setCu_snapFrom (u : Nat) (v : Cu) : (d.setCu u v).snapFrom = d.snapFrom := rfl
@[simp] theorem Dev.setCu_hbm (u : Nat) (v : Cu) : (d.setCu u v).hbm = d.hbm := rfl
@[simp] theorem Dev.setCu_bad (u : Nat) (v : Cu) : (d.setCu u v).bad = d.bad := rfl
@[simp] theorem Dev.setCu_pcq (u : Nat) (v : Cu) : (d.setCu u v).pcq = d.pcq := rfl
@[simp] theorem Dev.setCu_migr (u : Nat) (v : Cu) : (d.setCu u v).migr = d.migr := rfl
@[simp] theorem Dev.setCu_journal (u : Nat) (v : Cu) : (d.setCu u v).journal = d.journal := rfl
@[simp] theorem Dev.setCu_eccLast (u : Nat) (v : Cu) : (d.setCu u v).eccLast = d.eccLast := rfl
@[simp] theorem Dev.setCu_classB (u : Nat) (v : Cu) : (d.setCu u v).classB = d.classB := rfl
@[simp] theorem Dev.setCu_heldB (u : Nat) (v : Cu) : (d.setCu u v).heldB = d.heldB := rfl
@[simp] theorem Dev.setCu_owed (u : Nat) (v : Cu) : (d.setCu u v).owed = d.owed := rfl
@[simp] theorem Dev.setCu_scrub (u : Nat) (v : Cu) : (d.setCu u v).scrub = d.scrub := rfl
@[simp] theorem Dev.setCu_ceTimes (u : Nat) (v : Cu) : (d.setCu u v).ceTimes = d.ceTimes := rfl
@[simp] theorem Dev.setCu_meets (u : Nat) (v : Cu) : (d.setCu u v).meets = d.meets := rfl
@[simp] theorem Dev.setCu_policyMet (u : Nat) (v : Cu) : (d.setCu u v).policyMet = d.policyMet := rfl
@[simp] theorem Dev.setCu_ueSeen (u : Nat) (v : Cu) : (d.setCu u v).ueSeen = d.ueSeen := rfl
@[simp] theorem Dev.setCu_leaves (u : Nat) (v : Cu) : (d.setCu u v).leaves = d.leaves := rfl
@[simp] theorem Dev.setCu_wcache (u : Nat) (v : Cu) : (d.setCu u v).wcache = d.wcache := rfl
@[simp] theorem Dev.setCu_walks (u : Nat) (v : Cu) : (d.setCu u v).walks = d.walks := rfl
@[simp] theorem Dev.setCu_ingest (u : Nat) (v : Cu) : (d.setCu u v).ingest = d.ingest := rfl
@[simp] theorem Dev.setCu_faults (u : Nat) (v : Cu) : (d.setCu u v).faults = d.faults := rfl
@[simp] theorem Dev.setCu_lostOpen (u : Nat) (v : Cu) : (d.setCu u v).lostOpen = d.lostOpen := rfl
@[simp] theorem Dev.setCu_invAt (u : Nat) (v : Cu) : (d.setCu u v).invAt = d.invAt := rfl
@[simp] theorem Dev.setCu_casc (u : Nat) (v : Cu) : (d.setCu u v).casc = d.casc := rfl
@[simp] theorem Dev.setCu_chans (u : Nat) (v : Cu) : (d.setCu u v).chans = d.chans := rfl
@[simp] theorem Dev.setCu_starts (u : Nat) (v : Cu) : (d.setCu u v).starts = d.starts := rfl
@[simp] theorem Dev.setCu_serving (u : Nat) (v : Cu) : (d.setCu u v).serving = d.serving := rfl
@[simp] theorem Dev.setCu_clk (u : Nat) (v : Cu) : (d.setCu u v).clk = d.clk := rfl
@[simp] theorem Dev.setCu_pwr (u : Nat) (v : Cu) : (d.setCu u v).pwr = d.pwr := rfl
@[simp] theorem Dev.setCu_stw (u : Nat) (v : Cu) : (d.setCu u v).stw = d.stw := rfl
@[simp] theorem Dev.setCu_alcq (u : Nat) (v : Cu) : (d.setCu u v).alcq = d.alcq := rfl
@[simp] theorem Dev.setCu_alcSeen (u : Nat) (v : Cu) : (d.setCu u v).alcSeen = d.alcSeen := rfl
@[simp] theorem Dev.setCu_alcFind (u : Nat) (v : Cu) : (d.setCu u v).alcFind = d.alcFind := rfl
@[simp] theorem Dev.setCu_alcOn (u : Nat) (v : Cu) : (d.setCu u v).alcOn = d.alcOn := rfl
@[simp] theorem Dev.setCu_otSeen (u : Nat) (v : Cu) : (d.setCu u v).otSeen = d.otSeen := rfl
@[simp] theorem Dev.setCu_sealOpen (u : Nat) (v : Cu) : (d.setCu u v).sealOpen = d.sealOpen := rfl

/-! ## `setPll` -/

@[simp] theorem Dev.setPll_now (i : Nat) (v : Pll) : (d.setPll i v).now = d.now := rfl
@[simp] theorem Dev.setPll_seed (i : Nat) (v : Pll) : (d.setPll i v).seed = d.seed := rfl
@[simp] theorem Dev.setPll_h48 (i : Nat) (v : Pll) : (d.setPll i v).h48 = d.h48 := rfl
@[simp] theorem Dev.setPll_serial (i : Nat) (v : Pll) : (d.setPll i v).serial = d.serial := rfl
@[simp] theorem Dev.setPll_baseMac (i : Nat) (v : Pll) : (d.setPll i v).baseMac = d.baseMac := rfl
@[simp] theorem Dev.setPll_factoryOk (i : Nat) (v : Pll) : (d.setPll i v).factoryOk = d.factoryOk := rfl
@[simp] theorem Dev.setPll_fenceLog (i : Nat) (v : Pll) : (d.setPll i v).fenceLog = d.fenceLog := rfl
@[simp] theorem Dev.setPll_struck (i : Nat) (v : Pll) : (d.setPll i v).struck = d.struck := rfl
@[simp] theorem Dev.setPll_regs (i : Nat) (v : Pll) : (d.setPll i v).regs = d.regs := rfl
@[simp] theorem Dev.setPll_out (i : Nat) (v : Pll) : (d.setPll i v).out = d.out := rfl
@[simp] theorem Dev.setPll_first (i : Nat) (v : Pll) : (d.setPll i v).first = d.first := rfl
@[simp] theorem Dev.setPll_msTick (i : Nat) (v : Pll) : (d.setPll i v).msTick = d.msTick := rfl
@[simp] theorem Dev.setPll_commit (i : Nat) (v : Pll) : (d.setPll i v).commit = d.commit := rfl
@[simp] theorem Dev.setPll_dry (i : Nat) (v : Pll) : (d.setPll i v).dry = d.dry := rfl
@[simp] theorem Dev.setPll_answer (i : Nat) (v : Pll) : (d.setPll i v).answer = d.answer := rfl
@[simp] theorem Dev.setPll_answerIn (i : Nat) (v : Pll) : (d.setPll i v).answerIn = d.answerIn := rfl
@[simp] theorem Dev.setPll_report (i : Nat) (v : Pll) : (d.setPll i v).report = d.report := rfl
@[simp] theorem Dev.setPll_reReport (i : Nat) (v : Pll) : (d.setPll i v).reReport = d.reReport := rfl
@[simp] theorem Dev.setPll_readmit (i : Nat) (v : Pll) : (d.setPll i v).readmit = d.readmit := rfl
@[simp] theorem Dev.setPll_shed (i : Nat) (v : Pll) : (d.setPll i v).shed = d.shed := rfl
@[simp] theorem Dev.setPll_galLost (i : Nat) (v : Pll) : (d.setPll i v).galLost = d.galLost := rfl
@[simp] theorem Dev.setPll_canvases (i : Nat) (v : Pll) : (d.setPll i v).canvases = d.canvases := rfl
@[simp] theorem Dev.setPll_layers (i : Nat) (v : Pll) : (d.setPll i v).layers = d.layers := rfl
@[simp] theorem Dev.setPll_halls (i : Nat) (v : Pll) : (d.setPll i v).halls = d.halls := rfl
@[simp] theorem Dev.setPll_gal (i : Nat) (v : Pll) : (d.setPll i v).gal = d.gal := rfl
@[simp] theorem Dev.setPll_wbRows (i : Nat) (v : Pll) : (d.setPll i v).wbRows = d.wbRows := rfl
@[simp] theorem Dev.setPll_wins (i : Nat) (v : Pll) : (d.setPll i v).wins = d.wins := rfl
@[simp] theorem Dev.setPll_lanes (i : Nat) (v : Pll) : (d.setPll i v).lanes = d.lanes := rfl
@[simp] theorem Dev.setPll_laneQ (i : Nat) (v : Pll) : (d.setPll i v).laneQ = d.laneQ := rfl
@[simp] theorem Dev.setPll_hostQ (i : Nat) (v : Pll) : (d.setPll i v).hostQ = d.hostQ := rfl
@[simp] theorem Dev.setPll_policers (i : Nat) (v : Pll) : (d.setPll i v).policers = d.policers := rfl
@[simp] theorem Dev.setPll_shapers (i : Nat) (v : Pll) : (d.setPll i v).shapers = d.shapers := rfl
@[simp] theorem Dev.setPll_samplers (i : Nat) (v : Pll) : (d.setPll i v).samplers = d.samplers := rfl
@[simp] theorem Dev.setPll_polMs (i : Nat) (v : Pll) : (d.setPll i v).polMs = d.polMs := rfl
@[simp] theorem Dev.setPll_ptp (i : Nat) (v : Pll) : (d.setPll i v).ptp = d.ptp := rfl
@[simp] theorem Dev.setPll_slave (i : Nat) (v : Pll) : (d.setPll i v).slave = d.slave := rfl
@[simp] theorem Dev.setPll_recvs (i : Nat) (v : Pll) : (d.setPll i v).recvs = d.recvs := rfl
@[simp] theorem Dev.setPll_sessions (i : Nat) (v : Pll) : (d.setPll i v).sessions = d.sessions := rfl
@[simp] theorem Dev.setPll_challenges (i : Nat) (v : Pll) : (d.setPll i v).challenges = d.challenges := rfl
@[simp] theorem Dev.setPll_keys (i : Nat) (v : Pll) : (d.setPll i v).keys = d.keys := rfl
@[simp] theorem Dev.setPll_keyStage (i : Nat) (v : Pll) : (d.setPll i v).keyStage = d.keyStage := rfl
@[simp] theorem Dev.setPll_bulk (i : Nat) (v : Pll) : (d.setPll i v).bulk = d.bulk := rfl
@[simp] theorem Dev.setPll_pulse (i : Nat) (v : Pll) : (d.setPll i v).pulse = d.pulse := rfl
@[simp] theorem Dev.setPll_pulseOn (i : Nat) (v : Pll) : (d.setPll i v).pulseOn = d.pulseOn := rfl
@[simp] theorem Dev.setPll_snapTick (i : Nat) (v : Pll) : (d.setPll i v).snapTick = d.snapTick := rfl
@[simp] theorem Dev.setPll_snapCanvas (i : Nat) (v : Pll) : (d.setPll i v).snapCanvas = d.snapCanvas := rfl
@[simp] theorem Dev.setPll_snapFrom (i : Nat) (v : Pll) : (d.setPll i v).snapFrom = d.snapFrom := rfl
@[simp] theorem Dev.setPll_hbm (i : Nat) (v : Pll) : (d.setPll i v).hbm = d.hbm := rfl
@[simp] theorem Dev.setPll_bad (i : Nat) (v : Pll) : (d.setPll i v).bad = d.bad := rfl
@[simp] theorem Dev.setPll_pcq (i : Nat) (v : Pll) : (d.setPll i v).pcq = d.pcq := rfl
@[simp] theorem Dev.setPll_migr (i : Nat) (v : Pll) : (d.setPll i v).migr = d.migr := rfl
@[simp] theorem Dev.setPll_journal (i : Nat) (v : Pll) : (d.setPll i v).journal = d.journal := rfl
@[simp] theorem Dev.setPll_eccLast (i : Nat) (v : Pll) : (d.setPll i v).eccLast = d.eccLast := rfl
@[simp] theorem Dev.setPll_classB (i : Nat) (v : Pll) : (d.setPll i v).classB = d.classB := rfl
@[simp] theorem Dev.setPll_heldB (i : Nat) (v : Pll) : (d.setPll i v).heldB = d.heldB := rfl
@[simp] theorem Dev.setPll_owed (i : Nat) (v : Pll) : (d.setPll i v).owed = d.owed := rfl
@[simp] theorem Dev.setPll_scrub (i : Nat) (v : Pll) : (d.setPll i v).scrub = d.scrub := rfl
@[simp] theorem Dev.setPll_ceTimes (i : Nat) (v : Pll) : (d.setPll i v).ceTimes = d.ceTimes := rfl
@[simp] theorem Dev.setPll_meets (i : Nat) (v : Pll) : (d.setPll i v).meets = d.meets := rfl
@[simp] theorem Dev.setPll_policyMet (i : Nat) (v : Pll) : (d.setPll i v).policyMet = d.policyMet := rfl
@[simp] theorem Dev.setPll_ueSeen (i : Nat) (v : Pll) : (d.setPll i v).ueSeen = d.ueSeen := rfl
@[simp] theorem Dev.setPll_leaves (i : Nat) (v : Pll) : (d.setPll i v).leaves = d.leaves := rfl
@[simp] theorem Dev.setPll_wcache (i : Nat) (v : Pll) : (d.setPll i v).wcache = d.wcache := rfl
@[simp] theorem Dev.setPll_walks (i : Nat) (v : Pll) : (d.setPll i v).walks = d.walks := rfl
@[simp] theorem Dev.setPll_ingest (i : Nat) (v : Pll) : (d.setPll i v).ingest = d.ingest := rfl
@[simp] theorem Dev.setPll_faults (i : Nat) (v : Pll) : (d.setPll i v).faults = d.faults := rfl
@[simp] theorem Dev.setPll_lostOpen (i : Nat) (v : Pll) : (d.setPll i v).lostOpen = d.lostOpen := rfl
@[simp] theorem Dev.setPll_invAt (i : Nat) (v : Pll) : (d.setPll i v).invAt = d.invAt := rfl
@[simp] theorem Dev.setPll_casc (i : Nat) (v : Pll) : (d.setPll i v).casc = d.casc := rfl
@[simp] theorem Dev.setPll_chans (i : Nat) (v : Pll) : (d.setPll i v).chans = d.chans := rfl
@[simp] theorem Dev.setPll_starts (i : Nat) (v : Pll) : (d.setPll i v).starts = d.starts := rfl
@[simp] theorem Dev.setPll_serving (i : Nat) (v : Pll) : (d.setPll i v).serving = d.serving := rfl
@[simp] theorem Dev.setPll_cus (i : Nat) (v : Pll) : (d.setPll i v).cus = d.cus := rfl
@[simp] theorem Dev.setPll_pwr (i : Nat) (v : Pll) : (d.setPll i v).pwr = d.pwr := rfl
@[simp] theorem Dev.setPll_stw (i : Nat) (v : Pll) : (d.setPll i v).stw = d.stw := rfl
@[simp] theorem Dev.setPll_alcq (i : Nat) (v : Pll) : (d.setPll i v).alcq = d.alcq := rfl
@[simp] theorem Dev.setPll_alcSeen (i : Nat) (v : Pll) : (d.setPll i v).alcSeen = d.alcSeen := rfl
@[simp] theorem Dev.setPll_alcFind (i : Nat) (v : Pll) : (d.setPll i v).alcFind = d.alcFind := rfl
@[simp] theorem Dev.setPll_alcOn (i : Nat) (v : Pll) : (d.setPll i v).alcOn = d.alcOn := rfl
@[simp] theorem Dev.setPll_otSeen (i : Nat) (v : Pll) : (d.setPll i v).otSeen = d.otSeen := rfl
@[simp] theorem Dev.setPll_sealOpen (i : Nat) (v : Pll) : (d.setPll i v).sealOpen = d.sealOpen := rfl
@[simp] theorem Dev.setPll_clk_tsyn (i : Nat) (v : Pll) : (d.setPll i v).clk.tsyn = d.clk.tsyn := rfl
@[simp] theorem Dev.setPll_clk_fcvs (i : Nat) (v : Pll) : (d.setPll i v).clk.fcvs = d.clk.fcvs := rfl
@[simp] theorem Dev.setPll_clk_inside (i : Nat) (v : Pll) : (d.setPll i v).clk.inside = d.clk.inside := rfl
@[simp] theorem Dev.setPll_clk_outside (i : Nat) (v : Pll) : (d.setPll i v).clk.outside = d.clk.outside := rfl
@[simp] theorem Dev.setPll_clk_fresh (i : Nat) (v : Pll) : (d.setPll i v).clk.fresh = d.clk.fresh := rfl
@[simp] theorem Dev.setPll_clk_avail (i : Nat) (v : Pll) : (d.setPll i v).clk.avail = d.clk.avail := rfl
@[simp] theorem Dev.setPll_clk_ppsTs (i : Nat) (v : Pll) : (d.setPll i v).clk.ppsTs = d.clk.ppsTs := rfl
@[simp] theorem Dev.setPll_clk_guardMs (i : Nat) (v : Pll) : (d.setPll i v).clk.guardMs = d.clk.guardMs := rfl
@[simp] theorem Dev.setPll_clk_ppsOut (i : Nat) (v : Pll) : (d.setPll i v).clk.ppsOut = d.clk.ppsOut := rfl
@[simp] theorem Dev.setPll_clk_frac (i : Nat) (v : Pll) : (d.setPll i v).clk.frac = d.clk.frac := rfl

/-! ## `setTsyn` -/

@[simp] theorem Dev.setTsyn_now (c : Nat) (v : Tsyn) : (d.setTsyn c v).now = d.now := rfl
@[simp] theorem Dev.setTsyn_seed (c : Nat) (v : Tsyn) : (d.setTsyn c v).seed = d.seed := rfl
@[simp] theorem Dev.setTsyn_h48 (c : Nat) (v : Tsyn) : (d.setTsyn c v).h48 = d.h48 := rfl
@[simp] theorem Dev.setTsyn_serial (c : Nat) (v : Tsyn) : (d.setTsyn c v).serial = d.serial := rfl
@[simp] theorem Dev.setTsyn_baseMac (c : Nat) (v : Tsyn) : (d.setTsyn c v).baseMac = d.baseMac := rfl
@[simp] theorem Dev.setTsyn_factoryOk (c : Nat) (v : Tsyn) : (d.setTsyn c v).factoryOk = d.factoryOk := rfl
@[simp] theorem Dev.setTsyn_fenceLog (c : Nat) (v : Tsyn) : (d.setTsyn c v).fenceLog = d.fenceLog := rfl
@[simp] theorem Dev.setTsyn_struck (c : Nat) (v : Tsyn) : (d.setTsyn c v).struck = d.struck := rfl
@[simp] theorem Dev.setTsyn_regs (c : Nat) (v : Tsyn) : (d.setTsyn c v).regs = d.regs := rfl
@[simp] theorem Dev.setTsyn_out (c : Nat) (v : Tsyn) : (d.setTsyn c v).out = d.out := rfl
@[simp] theorem Dev.setTsyn_first (c : Nat) (v : Tsyn) : (d.setTsyn c v).first = d.first := rfl
@[simp] theorem Dev.setTsyn_msTick (c : Nat) (v : Tsyn) : (d.setTsyn c v).msTick = d.msTick := rfl
@[simp] theorem Dev.setTsyn_commit (c : Nat) (v : Tsyn) : (d.setTsyn c v).commit = d.commit := rfl
@[simp] theorem Dev.setTsyn_dry (c : Nat) (v : Tsyn) : (d.setTsyn c v).dry = d.dry := rfl
@[simp] theorem Dev.setTsyn_answer (c : Nat) (v : Tsyn) : (d.setTsyn c v).answer = d.answer := rfl
@[simp] theorem Dev.setTsyn_answerIn (c : Nat) (v : Tsyn) : (d.setTsyn c v).answerIn = d.answerIn := rfl
@[simp] theorem Dev.setTsyn_report (c : Nat) (v : Tsyn) : (d.setTsyn c v).report = d.report := rfl
@[simp] theorem Dev.setTsyn_reReport (c : Nat) (v : Tsyn) : (d.setTsyn c v).reReport = d.reReport := rfl
@[simp] theorem Dev.setTsyn_readmit (c : Nat) (v : Tsyn) : (d.setTsyn c v).readmit = d.readmit := rfl
@[simp] theorem Dev.setTsyn_shed (c : Nat) (v : Tsyn) : (d.setTsyn c v).shed = d.shed := rfl
@[simp] theorem Dev.setTsyn_galLost (c : Nat) (v : Tsyn) : (d.setTsyn c v).galLost = d.galLost := rfl
@[simp] theorem Dev.setTsyn_canvases (c : Nat) (v : Tsyn) : (d.setTsyn c v).canvases = d.canvases := rfl
@[simp] theorem Dev.setTsyn_layers (c : Nat) (v : Tsyn) : (d.setTsyn c v).layers = d.layers := rfl
@[simp] theorem Dev.setTsyn_halls (c : Nat) (v : Tsyn) : (d.setTsyn c v).halls = d.halls := rfl
@[simp] theorem Dev.setTsyn_gal (c : Nat) (v : Tsyn) : (d.setTsyn c v).gal = d.gal := rfl
@[simp] theorem Dev.setTsyn_wbRows (c : Nat) (v : Tsyn) : (d.setTsyn c v).wbRows = d.wbRows := rfl
@[simp] theorem Dev.setTsyn_wins (c : Nat) (v : Tsyn) : (d.setTsyn c v).wins = d.wins := rfl
@[simp] theorem Dev.setTsyn_lanes (c : Nat) (v : Tsyn) : (d.setTsyn c v).lanes = d.lanes := rfl
@[simp] theorem Dev.setTsyn_laneQ (c : Nat) (v : Tsyn) : (d.setTsyn c v).laneQ = d.laneQ := rfl
@[simp] theorem Dev.setTsyn_hostQ (c : Nat) (v : Tsyn) : (d.setTsyn c v).hostQ = d.hostQ := rfl
@[simp] theorem Dev.setTsyn_policers (c : Nat) (v : Tsyn) : (d.setTsyn c v).policers = d.policers := rfl
@[simp] theorem Dev.setTsyn_shapers (c : Nat) (v : Tsyn) : (d.setTsyn c v).shapers = d.shapers := rfl
@[simp] theorem Dev.setTsyn_samplers (c : Nat) (v : Tsyn) : (d.setTsyn c v).samplers = d.samplers := rfl
@[simp] theorem Dev.setTsyn_polMs (c : Nat) (v : Tsyn) : (d.setTsyn c v).polMs = d.polMs := rfl
@[simp] theorem Dev.setTsyn_ptp (c : Nat) (v : Tsyn) : (d.setTsyn c v).ptp = d.ptp := rfl
@[simp] theorem Dev.setTsyn_slave (c : Nat) (v : Tsyn) : (d.setTsyn c v).slave = d.slave := rfl
@[simp] theorem Dev.setTsyn_recvs (c : Nat) (v : Tsyn) : (d.setTsyn c v).recvs = d.recvs := rfl
@[simp] theorem Dev.setTsyn_sessions (c : Nat) (v : Tsyn) : (d.setTsyn c v).sessions = d.sessions := rfl
@[simp] theorem Dev.setTsyn_challenges (c : Nat) (v : Tsyn) : (d.setTsyn c v).challenges = d.challenges := rfl
@[simp] theorem Dev.setTsyn_keys (c : Nat) (v : Tsyn) : (d.setTsyn c v).keys = d.keys := rfl
@[simp] theorem Dev.setTsyn_keyStage (c : Nat) (v : Tsyn) : (d.setTsyn c v).keyStage = d.keyStage := rfl
@[simp] theorem Dev.setTsyn_bulk (c : Nat) (v : Tsyn) : (d.setTsyn c v).bulk = d.bulk := rfl
@[simp] theorem Dev.setTsyn_pulse (c : Nat) (v : Tsyn) : (d.setTsyn c v).pulse = d.pulse := rfl
@[simp] theorem Dev.setTsyn_pulseOn (c : Nat) (v : Tsyn) : (d.setTsyn c v).pulseOn = d.pulseOn := rfl
@[simp] theorem Dev.setTsyn_snapTick (c : Nat) (v : Tsyn) : (d.setTsyn c v).snapTick = d.snapTick := rfl
@[simp] theorem Dev.setTsyn_snapCanvas (c : Nat) (v : Tsyn) : (d.setTsyn c v).snapCanvas = d.snapCanvas := rfl
@[simp] theorem Dev.setTsyn_snapFrom (c : Nat) (v : Tsyn) : (d.setTsyn c v).snapFrom = d.snapFrom := rfl
@[simp] theorem Dev.setTsyn_hbm (c : Nat) (v : Tsyn) : (d.setTsyn c v).hbm = d.hbm := rfl
@[simp] theorem Dev.setTsyn_bad (c : Nat) (v : Tsyn) : (d.setTsyn c v).bad = d.bad := rfl
@[simp] theorem Dev.setTsyn_pcq (c : Nat) (v : Tsyn) : (d.setTsyn c v).pcq = d.pcq := rfl
@[simp] theorem Dev.setTsyn_migr (c : Nat) (v : Tsyn) : (d.setTsyn c v).migr = d.migr := rfl
@[simp] theorem Dev.setTsyn_journal (c : Nat) (v : Tsyn) : (d.setTsyn c v).journal = d.journal := rfl
@[simp] theorem Dev.setTsyn_eccLast (c : Nat) (v : Tsyn) : (d.setTsyn c v).eccLast = d.eccLast := rfl
@[simp] theorem Dev.setTsyn_classB (c : Nat) (v : Tsyn) : (d.setTsyn c v).classB = d.classB := rfl
@[simp] theorem Dev.setTsyn_heldB (c : Nat) (v : Tsyn) : (d.setTsyn c v).heldB = d.heldB := rfl
@[simp] theorem Dev.setTsyn_owed (c : Nat) (v : Tsyn) : (d.setTsyn c v).owed = d.owed := rfl
@[simp] theorem Dev.setTsyn_scrub (c : Nat) (v : Tsyn) : (d.setTsyn c v).scrub = d.scrub := rfl
@[simp] theorem Dev.setTsyn_ceTimes (c : Nat) (v : Tsyn) : (d.setTsyn c v).ceTimes = d.ceTimes := rfl
@[simp] theorem Dev.setTsyn_meets (c : Nat) (v : Tsyn) : (d.setTsyn c v).meets = d.meets := rfl
@[simp] theorem Dev.setTsyn_policyMet (c : Nat) (v : Tsyn) : (d.setTsyn c v).policyMet = d.policyMet := rfl
@[simp] theorem Dev.setTsyn_ueSeen (c : Nat) (v : Tsyn) : (d.setTsyn c v).ueSeen = d.ueSeen := rfl
@[simp] theorem Dev.setTsyn_leaves (c : Nat) (v : Tsyn) : (d.setTsyn c v).leaves = d.leaves := rfl
@[simp] theorem Dev.setTsyn_wcache (c : Nat) (v : Tsyn) : (d.setTsyn c v).wcache = d.wcache := rfl
@[simp] theorem Dev.setTsyn_walks (c : Nat) (v : Tsyn) : (d.setTsyn c v).walks = d.walks := rfl
@[simp] theorem Dev.setTsyn_ingest (c : Nat) (v : Tsyn) : (d.setTsyn c v).ingest = d.ingest := rfl
@[simp] theorem Dev.setTsyn_faults (c : Nat) (v : Tsyn) : (d.setTsyn c v).faults = d.faults := rfl
@[simp] theorem Dev.setTsyn_lostOpen (c : Nat) (v : Tsyn) : (d.setTsyn c v).lostOpen = d.lostOpen := rfl
@[simp] theorem Dev.setTsyn_invAt (c : Nat) (v : Tsyn) : (d.setTsyn c v).invAt = d.invAt := rfl
@[simp] theorem Dev.setTsyn_casc (c : Nat) (v : Tsyn) : (d.setTsyn c v).casc = d.casc := rfl
@[simp] theorem Dev.setTsyn_chans (c : Nat) (v : Tsyn) : (d.setTsyn c v).chans = d.chans := rfl
@[simp] theorem Dev.setTsyn_starts (c : Nat) (v : Tsyn) : (d.setTsyn c v).starts = d.starts := rfl
@[simp] theorem Dev.setTsyn_serving (c : Nat) (v : Tsyn) : (d.setTsyn c v).serving = d.serving := rfl
@[simp] theorem Dev.setTsyn_cus (c : Nat) (v : Tsyn) : (d.setTsyn c v).cus = d.cus := rfl
@[simp] theorem Dev.setTsyn_pwr (c : Nat) (v : Tsyn) : (d.setTsyn c v).pwr = d.pwr := rfl
@[simp] theorem Dev.setTsyn_stw (c : Nat) (v : Tsyn) : (d.setTsyn c v).stw = d.stw := rfl
@[simp] theorem Dev.setTsyn_alcq (c : Nat) (v : Tsyn) : (d.setTsyn c v).alcq = d.alcq := rfl
@[simp] theorem Dev.setTsyn_alcSeen (c : Nat) (v : Tsyn) : (d.setTsyn c v).alcSeen = d.alcSeen := rfl
@[simp] theorem Dev.setTsyn_alcFind (c : Nat) (v : Tsyn) : (d.setTsyn c v).alcFind = d.alcFind := rfl
@[simp] theorem Dev.setTsyn_alcOn (c : Nat) (v : Tsyn) : (d.setTsyn c v).alcOn = d.alcOn := rfl
@[simp] theorem Dev.setTsyn_otSeen (c : Nat) (v : Tsyn) : (d.setTsyn c v).otSeen = d.otSeen := rfl
@[simp] theorem Dev.setTsyn_sealOpen (c : Nat) (v : Tsyn) : (d.setTsyn c v).sealOpen = d.sealOpen := rfl
@[simp] theorem Dev.setTsyn_clk_plls (c : Nat) (v : Tsyn) : (d.setTsyn c v).clk.plls = d.clk.plls := rfl
@[simp] theorem Dev.setTsyn_clk_fcvs (c : Nat) (v : Tsyn) : (d.setTsyn c v).clk.fcvs = d.clk.fcvs := rfl
@[simp] theorem Dev.setTsyn_clk_inside (c : Nat) (v : Tsyn) : (d.setTsyn c v).clk.inside = d.clk.inside := rfl
@[simp] theorem Dev.setTsyn_clk_outside (c : Nat) (v : Tsyn) : (d.setTsyn c v).clk.outside = d.clk.outside := rfl
@[simp] theorem Dev.setTsyn_clk_fresh (c : Nat) (v : Tsyn) : (d.setTsyn c v).clk.fresh = d.clk.fresh := rfl
@[simp] theorem Dev.setTsyn_clk_avail (c : Nat) (v : Tsyn) : (d.setTsyn c v).clk.avail = d.clk.avail := rfl
@[simp] theorem Dev.setTsyn_clk_ppsTs (c : Nat) (v : Tsyn) : (d.setTsyn c v).clk.ppsTs = d.clk.ppsTs := rfl
@[simp] theorem Dev.setTsyn_clk_guardMs (c : Nat) (v : Tsyn) : (d.setTsyn c v).clk.guardMs = d.clk.guardMs := rfl
@[simp] theorem Dev.setTsyn_clk_ppsOut (c : Nat) (v : Tsyn) : (d.setTsyn c v).clk.ppsOut = d.clk.ppsOut := rfl
@[simp] theorem Dev.setTsyn_clk_frac (c : Nat) (v : Tsyn) : (d.setTsyn c v).clk.frac = d.clk.frac := rfl

/-! ## `setPort` -/

@[simp] theorem Dev.setPort_now (k : Nat) (v : Port) : (d.setPort k v).now = d.now := rfl
@[simp] theorem Dev.setPort_seed (k : Nat) (v : Port) : (d.setPort k v).seed = d.seed := rfl
@[simp] theorem Dev.setPort_h48 (k : Nat) (v : Port) : (d.setPort k v).h48 = d.h48 := rfl
@[simp] theorem Dev.setPort_serial (k : Nat) (v : Port) : (d.setPort k v).serial = d.serial := rfl
@[simp] theorem Dev.setPort_baseMac (k : Nat) (v : Port) : (d.setPort k v).baseMac = d.baseMac := rfl
@[simp] theorem Dev.setPort_factoryOk (k : Nat) (v : Port) : (d.setPort k v).factoryOk = d.factoryOk := rfl
@[simp] theorem Dev.setPort_fenceLog (k : Nat) (v : Port) : (d.setPort k v).fenceLog = d.fenceLog := rfl
@[simp] theorem Dev.setPort_struck (k : Nat) (v : Port) : (d.setPort k v).struck = d.struck := rfl
@[simp] theorem Dev.setPort_regs (k : Nat) (v : Port) : (d.setPort k v).regs = d.regs := rfl
@[simp] theorem Dev.setPort_out (k : Nat) (v : Port) : (d.setPort k v).out = d.out := rfl
@[simp] theorem Dev.setPort_first (k : Nat) (v : Port) : (d.setPort k v).first = d.first := rfl
@[simp] theorem Dev.setPort_msTick (k : Nat) (v : Port) : (d.setPort k v).msTick = d.msTick := rfl
@[simp] theorem Dev.setPort_commit (k : Nat) (v : Port) : (d.setPort k v).commit = d.commit := rfl
@[simp] theorem Dev.setPort_dry (k : Nat) (v : Port) : (d.setPort k v).dry = d.dry := rfl
@[simp] theorem Dev.setPort_answer (k : Nat) (v : Port) : (d.setPort k v).answer = d.answer := rfl
@[simp] theorem Dev.setPort_answerIn (k : Nat) (v : Port) : (d.setPort k v).answerIn = d.answerIn := rfl
@[simp] theorem Dev.setPort_report (k : Nat) (v : Port) : (d.setPort k v).report = d.report := rfl
@[simp] theorem Dev.setPort_reReport (k : Nat) (v : Port) : (d.setPort k v).reReport = d.reReport := rfl
@[simp] theorem Dev.setPort_readmit (k : Nat) (v : Port) : (d.setPort k v).readmit = d.readmit := rfl
@[simp] theorem Dev.setPort_shed (k : Nat) (v : Port) : (d.setPort k v).shed = d.shed := rfl
@[simp] theorem Dev.setPort_galLost (k : Nat) (v : Port) : (d.setPort k v).galLost = d.galLost := rfl
@[simp] theorem Dev.setPort_canvases (k : Nat) (v : Port) : (d.setPort k v).canvases = d.canvases := rfl
@[simp] theorem Dev.setPort_layers (k : Nat) (v : Port) : (d.setPort k v).layers = d.layers := rfl
@[simp] theorem Dev.setPort_halls (k : Nat) (v : Port) : (d.setPort k v).halls = d.halls := rfl
@[simp] theorem Dev.setPort_gal (k : Nat) (v : Port) : (d.setPort k v).gal = d.gal := rfl
@[simp] theorem Dev.setPort_wbRows (k : Nat) (v : Port) : (d.setPort k v).wbRows = d.wbRows := rfl
@[simp] theorem Dev.setPort_wins (k : Nat) (v : Port) : (d.setPort k v).wins = d.wins := rfl
@[simp] theorem Dev.setPort_lanes (k : Nat) (v : Port) : (d.setPort k v).lanes = d.lanes := rfl
@[simp] theorem Dev.setPort_laneQ (k : Nat) (v : Port) : (d.setPort k v).laneQ = d.laneQ := rfl
@[simp] theorem Dev.setPort_hostQ (k : Nat) (v : Port) : (d.setPort k v).hostQ = d.hostQ := rfl
@[simp] theorem Dev.setPort_policers (k : Nat) (v : Port) : (d.setPort k v).policers = d.policers := rfl
@[simp] theorem Dev.setPort_shapers (k : Nat) (v : Port) : (d.setPort k v).shapers = d.shapers := rfl
@[simp] theorem Dev.setPort_samplers (k : Nat) (v : Port) : (d.setPort k v).samplers = d.samplers := rfl
@[simp] theorem Dev.setPort_polMs (k : Nat) (v : Port) : (d.setPort k v).polMs = d.polMs := rfl
@[simp] theorem Dev.setPort_ptp (k : Nat) (v : Port) : (d.setPort k v).ptp = d.ptp := rfl
@[simp] theorem Dev.setPort_slave (k : Nat) (v : Port) : (d.setPort k v).slave = d.slave := rfl
@[simp] theorem Dev.setPort_recvs (k : Nat) (v : Port) : (d.setPort k v).recvs = d.recvs := rfl
@[simp] theorem Dev.setPort_sessions (k : Nat) (v : Port) : (d.setPort k v).sessions = d.sessions := rfl
@[simp] theorem Dev.setPort_challenges (k : Nat) (v : Port) : (d.setPort k v).challenges = d.challenges := rfl
@[simp] theorem Dev.setPort_keys (k : Nat) (v : Port) : (d.setPort k v).keys = d.keys := rfl
@[simp] theorem Dev.setPort_keyStage (k : Nat) (v : Port) : (d.setPort k v).keyStage = d.keyStage := rfl
@[simp] theorem Dev.setPort_bulk (k : Nat) (v : Port) : (d.setPort k v).bulk = d.bulk := rfl
@[simp] theorem Dev.setPort_pulse (k : Nat) (v : Port) : (d.setPort k v).pulse = d.pulse := rfl
@[simp] theorem Dev.setPort_pulseOn (k : Nat) (v : Port) : (d.setPort k v).pulseOn = d.pulseOn := rfl
@[simp] theorem Dev.setPort_snapTick (k : Nat) (v : Port) : (d.setPort k v).snapTick = d.snapTick := rfl
@[simp] theorem Dev.setPort_snapCanvas (k : Nat) (v : Port) : (d.setPort k v).snapCanvas = d.snapCanvas := rfl
@[simp] theorem Dev.setPort_snapFrom (k : Nat) (v : Port) : (d.setPort k v).snapFrom = d.snapFrom := rfl
@[simp] theorem Dev.setPort_hbm (k : Nat) (v : Port) : (d.setPort k v).hbm = d.hbm := rfl
@[simp] theorem Dev.setPort_bad (k : Nat) (v : Port) : (d.setPort k v).bad = d.bad := rfl
@[simp] theorem Dev.setPort_pcq (k : Nat) (v : Port) : (d.setPort k v).pcq = d.pcq := rfl
@[simp] theorem Dev.setPort_migr (k : Nat) (v : Port) : (d.setPort k v).migr = d.migr := rfl
@[simp] theorem Dev.setPort_journal (k : Nat) (v : Port) : (d.setPort k v).journal = d.journal := rfl
@[simp] theorem Dev.setPort_eccLast (k : Nat) (v : Port) : (d.setPort k v).eccLast = d.eccLast := rfl
@[simp] theorem Dev.setPort_classB (k : Nat) (v : Port) : (d.setPort k v).classB = d.classB := rfl
@[simp] theorem Dev.setPort_heldB (k : Nat) (v : Port) : (d.setPort k v).heldB = d.heldB := rfl
@[simp] theorem Dev.setPort_owed (k : Nat) (v : Port) : (d.setPort k v).owed = d.owed := rfl
@[simp] theorem Dev.setPort_scrub (k : Nat) (v : Port) : (d.setPort k v).scrub = d.scrub := rfl
@[simp] theorem Dev.setPort_ceTimes (k : Nat) (v : Port) : (d.setPort k v).ceTimes = d.ceTimes := rfl
@[simp] theorem Dev.setPort_meets (k : Nat) (v : Port) : (d.setPort k v).meets = d.meets := rfl
@[simp] theorem Dev.setPort_policyMet (k : Nat) (v : Port) : (d.setPort k v).policyMet = d.policyMet := rfl
@[simp] theorem Dev.setPort_ueSeen (k : Nat) (v : Port) : (d.setPort k v).ueSeen = d.ueSeen := rfl
@[simp] theorem Dev.setPort_leaves (k : Nat) (v : Port) : (d.setPort k v).leaves = d.leaves := rfl
@[simp] theorem Dev.setPort_wcache (k : Nat) (v : Port) : (d.setPort k v).wcache = d.wcache := rfl
@[simp] theorem Dev.setPort_walks (k : Nat) (v : Port) : (d.setPort k v).walks = d.walks := rfl
@[simp] theorem Dev.setPort_ingest (k : Nat) (v : Port) : (d.setPort k v).ingest = d.ingest := rfl
@[simp] theorem Dev.setPort_faults (k : Nat) (v : Port) : (d.setPort k v).faults = d.faults := rfl
@[simp] theorem Dev.setPort_lostOpen (k : Nat) (v : Port) : (d.setPort k v).lostOpen = d.lostOpen := rfl
@[simp] theorem Dev.setPort_invAt (k : Nat) (v : Port) : (d.setPort k v).invAt = d.invAt := rfl
@[simp] theorem Dev.setPort_chans (k : Nat) (v : Port) : (d.setPort k v).chans = d.chans := rfl
@[simp] theorem Dev.setPort_starts (k : Nat) (v : Port) : (d.setPort k v).starts = d.starts := rfl
@[simp] theorem Dev.setPort_serving (k : Nat) (v : Port) : (d.setPort k v).serving = d.serving := rfl
@[simp] theorem Dev.setPort_cus (k : Nat) (v : Port) : (d.setPort k v).cus = d.cus := rfl
@[simp] theorem Dev.setPort_clk (k : Nat) (v : Port) : (d.setPort k v).clk = d.clk := rfl
@[simp] theorem Dev.setPort_pwr (k : Nat) (v : Port) : (d.setPort k v).pwr = d.pwr := rfl
@[simp] theorem Dev.setPort_stw (k : Nat) (v : Port) : (d.setPort k v).stw = d.stw := rfl
@[simp] theorem Dev.setPort_alcq (k : Nat) (v : Port) : (d.setPort k v).alcq = d.alcq := rfl
@[simp] theorem Dev.setPort_alcSeen (k : Nat) (v : Port) : (d.setPort k v).alcSeen = d.alcSeen := rfl
@[simp] theorem Dev.setPort_alcFind (k : Nat) (v : Port) : (d.setPort k v).alcFind = d.alcFind := rfl
@[simp] theorem Dev.setPort_alcOn (k : Nat) (v : Port) : (d.setPort k v).alcOn = d.alcOn := rfl
@[simp] theorem Dev.setPort_otSeen (k : Nat) (v : Port) : (d.setPort k v).otSeen = d.otSeen := rfl
@[simp] theorem Dev.setPort_sealOpen (k : Nat) (v : Port) : (d.setPort k v).sealOpen = d.sealOpen := rfl
@[simp] theorem Dev.setPort_casc_seq (k : Nat) (v : Port) : (d.setPort k v).casc.seq = d.casc.seq := rfl
@[simp] theorem Dev.setPort_casc_seen (k : Nat) (v : Port) : (d.setPort k v).casc.seen = d.casc.seen := rfl
@[simp] theorem Dev.setPort_casc_commit (k : Nat) (v : Port) : (d.setPort k v).casc.commit = d.casc.commit := rfl
@[simp] theorem Dev.setPort_casc_groups (k : Nat) (v : Port) : (d.setPort k v).casc.groups = d.casc.groups := rfl
@[simp] theorem Dev.setPort_casc_events (k : Nat) (v : Port) : (d.setPort k v).casc.events = d.casc.events := rfl
@[simp] theorem Dev.setPort_casc_joining (k : Nat) (v : Port) : (d.setPort k v).casc.joining = d.casc.joining := rfl
@[simp] theorem Dev.setPort_casc_join (k : Nat) (v : Port) : (d.setPort k v).casc.join = d.casc.join := rfl
@[simp] theorem Dev.setPort_casc_skews (k : Nat) (v : Port) : (d.setPort k v).casc.skews = d.casc.skews := rfl
@[simp] theorem Dev.setPort_casc_restore (k : Nat) (v : Port) : (d.setPort k v).casc.restore = d.casc.restore := rfl
@[simp] theorem Dev.setPort_casc_full (k : Nat) (v : Port) : (d.setPort k v).casc.full = d.casc.full := rfl
@[simp] theorem Dev.setPort_casc_decide (k : Nat) (v : Port) : (d.setPort k v).casc.decide = d.casc.decide := rfl

end Sys2Proof.Machine
end

