-- ==== Sys2Proof/Laws/Power.lean ====
section
/-! SUPPORT. What resets and starts leave of the module's power, and that occurrences and the Alcove's door leave it as it is. -/

namespace Sys2Proof.Machine

/-- What every step of a fold keeps, the fold keeps. -/
theorem foldl_keeps {α β γ : Type} (g : α → γ) (f : α → β → α) (h : ∀ a b, g (f a b) = g a) (l : List β) (a : α) :
    g (l.foldl f a) = g a := by
  induction l generalizing a with
  | nil => rfl
  | cons b l ih => simp [ih, h]

/-! ## Occurrences and messages leave power as it is -/

theorem Dev.emitMsg_pwr (d : Dev) (k : Nat) (m : LMsg) : (d.emitMsg k m).pwr = d.pwr := by
  unfold Dev.emitMsg; (repeat' split) <;> rfl
theorem Dev.landSend_pwr (d : Dev) (ps : List Nat) (ty seq : Nat) (b : Bool) (body : List Byte) :
    (d.landSend ps ty seq b body).pwr = d.pwr := by
  unfold Dev.landSend
  rw [foldl_keeps (fun d : Dev => d.pwr)]
  intro a b; exact Dev.emitMsg_pwr _ _ _
theorem Dev.evtN_pwr (d : Dev) : d.evtN.pwr = d.pwr := by
  unfold Dev.evtN
  rw [foldl_keeps (fun d : Dev => d.pwr)]
  intro a b
  show (if _ then _ else _ : Dev).pwr = _
  split <;> rfl
theorem Dev.toSessions_pwr (d : Dev) (e : Nat) : (d.toSessions e).pwr = d.pwr := by
  unfold Dev.toSessions
  rw [foldl_keeps (fun d : Dev => d.pwr)]
  intro a b; dsimp only; (repeat' split) <;> rfl
theorem Dev.raise_pwr (d : Dev) (e : Nat) : (d.raise e).pwr = d.pwr := by
  have hp (d : Dev) (r : Nat) : ((List.range 4).foldl (fun d i => if bitOf r i = 1 then d.evtPulse i else d) d).pwr = d.pwr := by
    rw [foldl_keeps (fun d : Dev => d.pwr)]
    intro a b; unfold Dev.evtPulse; (repeat' split) <;> rfl
  unfold Dev.raise
  dsimp only
  (repeat' split) <;> simp [Dev.evtN_pwr, hp, Dev.toSessions_pwr, Dev.landSend_pwr]

theorem Dev.alcUnits_pwr (d : Dev) (a : Alcove) : (d.alcUnits a).pwr = d.pwr := by
  unfold Dev.alcUnits
  dsimp only
  rw [foldl_keeps (fun d : Dev => d.pwr)]
  intro a b; rfl
theorem Dev.alcUnits_hbm (d : Dev) (a : Alcove) : (d.alcUnits a).hbm = d.hbm := by
  unfold Dev.alcUnits
  dsimp only
  rw [foldl_keeps (fun d : Dev => d.hbm)]
  intro a b; rfl

/-- What the Alcove shows the module leaves its power, and the HBM of one that does not work. -/
theorem State.alcShow_pwr (s : State) : (State.alcShow s).dev.pwr = s.dev.pwr := by
  have hu := s.dev.alcUnits_pwr s.alc
  unfold State.alcShow
  dsimp only
  split
  · rw [foldl_keeps (fun d : Dev => d.pwr) _ fun a b => Dev.raise_pwr a b]; exact hu
  · exact hu
theorem State.alcShow_hbm (s : State) (h : s.dev.live = false) : (State.alcShow s).dev.hbm = s.dev.hbm := by
  have hu := s.dev.alcUnits_pwr s.alc
  have hl : (s.dev.alcUnits s.alc).live = false := by rw [← h]; unfold Dev.live; rw [hu]
  have hh := s.dev.alcUnits_hbm s.alc
  unfold State.alcShow
  simp only [hl]
  exact hh

/-! ## Reset and start -/

theorem Dev.evtRelease_pwr (d : Dev) : d.evtRelease.pwr = d.pwr := by
  unfold Dev.evtRelease
  rw [foldl_keeps (fun d : Dev => d.pwr)]
  intro a b; (repeat' split) <;> rfl

/-- A reset leaves the module on, with no failure in progress, its kind, flash and saves. -/
theorem Dev.modReset_pwr (d : Dev) (kind : Nat) :
    (d.modReset kind).pwr.on = true ∧ (d.modReset kind).pwr.standby = false ∧ (d.modReset kind).pwr.fail = none ∧
    (d.modReset kind).pwr.failing = none ∧ (d.modReset kind).pwr.kind = kind ∧ (d.modReset kind).pwr.flash = d.pwr.flash ∧
    (d.modReset kind).pwr.resetN = d.pwr.resetN := by
  have h1 : (((d.cutLines.evtRelease).pwrgood false).ppsPut d.now false).lockOff.pwr = { d.pwr with pwrgood := false } := by
    have hc : d.cutLines.pwr = d.pwr := by unfold Dev.cutLines; split <;> rfl
    have hp : ((d.cutLines.evtRelease).pwrgood false).pwr = { d.pwr with pwrgood := false } := by
      unfold Dev.pwrgood
      split
      · next h => rw [Dev.evtRelease_pwr, hc] at *; rw [← h]
      · show { d.cutLines.evtRelease.pwr with pwrgood := false } = _
        rw [Dev.evtRelease_pwr, hc]
    have hq (e : Dev) : (e.ppsPut d.now false).lockOff.pwr = e.pwr := by
      unfold Dev.ppsPut Dev.lockOff; (repeat' split) <;> rfl
    rw [hq, hp]
  have hf (e : Dev) : e.factoryMacs.pwr = e.pwr := by
    unfold Dev.factoryMacs
    split
    · rfl
    · rw [foldl_keeps (fun d : Dev => d.pwr)]
      intro a b; rfl
  unfold Dev.modReset
  generalize (((d.cutLines.evtRelease).pwrgood false).ppsPut d.now false).lockOff = e at *
  dsimp only
  simp only [Dev.put_pwr]
  refine ⟨?_, ?_, ?_, ?_, ?_, ?_, ?_⟩
  all_goals ((repeat' split) <;> simp [hf, Pwr.reset, Dev.reset, h1])

theorem Dev.vioOut_pwr (d : Dev) (up : Bool) : (d.vioOut up).pwr = { d.pwr with vio := up } := by
  unfold Dev.vioOut
  split
  · next h => rw [← h]
  · rfl

/-- The start of a module that comes out of standby or gets VIN again. -/
theorem Dev.standbyExit_pwr (d : Dev) :
    d.standbyExit.pwr.on = true ∧ d.standbyExit.pwr.standby = false ∧ d.standbyExit.pwr.fail = none ∧ d.standbyExit.pwr.failing = none ∧
    d.standbyExit.pwr.kind = (if d.pwr.kind = 4 then 4 else 5) ∧ d.standbyExit.pwr.flash = d.pwr.flash := by
  have h := d.modReset_pwr (if d.pwr.kind = 4 then 4 else 5)
  unfold Dev.standbyExit
  simp only [Dev.put_pwr, Dev.vioOut_pwr, h]
  simp
theorem Dev.powerStart_pwr (d : Dev) (mv : Nat) :
    (d.powerStart mv).pwr.on = true ∧ (d.powerStart mv).pwr.standby = false ∧ (d.powerStart mv).pwr.fail = none ∧
    (d.powerStart mv).pwr.failing = none ∧ (d.powerStart mv).pwr.kind = 0 ∧ (d.powerStart mv).pwr.flash = d.pwr.flash := by
  have h := ({ d with pwr.vio := false } : Dev).modReset_pwr 0
  unfold Dev.powerStart Dev.vinShow
  simp only [Dev.put_pwr, Dev.vioOut_pwr, h]
  simp

theorem Dev.storeSave_eq (d : Dev) (x : Save) :
    d.storeSave x = { d with pwr.saveA := (d.storeSave x).pwr.saveA, pwr.saveB := (d.storeSave x).pwr.saveB } := by
  unfold Dev.storeSave; (repeat' split) <;> rfl

end Sys2Proof.Machine
end

