-- ==== Sys2Proof/Laws/Reg.lean ====
section
/-! SUPPORT. Laws of software accesses: what a command bit does that is accepted, and what the mailbox leaves behind. -/

namespace Sys2Proof.Machine

/-! ## Registers -/

theorem Dev.stored_setStored_same (d : Dev) (a : Nat) (w : Word) : (d.setStored a w).stored a = w := by
  simp [Dev.stored, Dev.setStored]
theorem Dev.stored_setStored_other (d : Dev) (a b : Nat) (w : Word) (h : b ≠ a) : (d.setStored a w).stored b = d.stored b := by
  simp [Dev.stored, Dev.setStored, Tab.get_set_other _ _ _ _ _ h]
theorem Dev.loc_setLoc_same (d : Dev) (acc a : Nat) (w : Word) : (d.setLoc acc a w).loc acc a = w := by
  simp [Dev.loc, Dev.setLoc]
theorem Dev.ind_setInd_same (d : Dev) (p a : Nat) (w : Word) : (d.setInd p a w).ind p a = w := by
  simp [Dev.ind, Dev.setInd]

/-- A key tells its accessor and its address. -/
theorem locKey_inj {a b x y : Nat} (hx : x < 2 ^ 32) (hy : y < 2 ^ 32) (h : locKey a x = locKey b y) : a = b ∧ x = y := by
  unfold locKey at h; omega
theorem Dev.loc_setLoc_other (d : Dev) (acc b a x : Nat) (w : Word) (h : locKey b x ≠ locKey acc a) :
    (d.setLoc acc a w).loc b x = d.loc b x := by
  simp [Dev.loc, Dev.setLoc, Tab.get_set_other _ _ _ _ _ h]

theorem Dev.get_put_other (d : Dev) (r q : FieldRef) (v : Nat) (h : q.addr ≠ r.addr) : (d.put r v).get q = d.get q := by
  simp [Dev.get, Dev.put, Dev.stored_setStored_other _ _ _ _ h]

/-! ## Accessors -/

@[simp] theorem Dev.at_present (d : Dev) (t acc : Nat) : (d.at t).present acc = d.present acc := rfl

/-- Sessions and the monitor always exist (R278). -/
theorem Dev.present_of_lt (d : Dev) {acc : Nat} (h : acc < 17) : d.present acc = true := by
  have : acc ≠ 17 := by omega
  simp [Dev.present, this]

/-- With no request waiting every access is granted (R278). -/
theorem Dev.grants_of_empty (d : Dev) (acc pg : Nat) (h : d.pwr.flashWait = []) : d.grants acc pg = true := by
  simp [Dev.grants, h]

/-- An accessor that does not exist changes nothing. -/
theorem Dev.absent_access (al : Alcove) (d : Dev) (acc : Nat) (x : Access) (h : d.present acc = false) : d.access al acc x = d := by
  simp [Dev.access, h]

/-- A granted access of an accessor that exists has its effect at once. -/
theorem Dev.access_eq (al : Alcove) (d : Dev) (acc : Nat) (x : Access) (hx : d.present acc = true) (hg : d.grants acc x.page = true)
    (hf : d.flashHolds acc x = false) : d.access al acc x = (d.access1 al acc x).2 := by
  have hw : (d.pwr.flashWait.any fun k => k.acc == acc) = false := by
    rw [List.any_eq_false]
    intro k hk
    have := List.all_eq_true.1 hg k hk
    simp at this ⊢
    exact this.1
  simp [Dev.access, hx, Dev.grant, Job.new, hw, Dev.runSteps, hf, hg]

/-- An access that is not granted waits with all it has to do. -/
theorem Dev.access_waits (al : Alcove) (d : Dev) (acc : Nat) (x : Access) (hx : d.present acc = true)
    (h : d.grants acc x.page = false ∨ d.flashHolds acc x = true) : d.access al acc x = d.park (.new acc [x] .quiet) := by
  have hs : (d.flashHolds acc x || !d.grants acc x.page) = true := by rcases h with h | h <;> simp [h]
  unfold Dev.access Dev.grant
  by_cases hw : (d.pwr.flashWait.any fun k => k.acc == acc) = true
  · simp [hx, Job.new, hw]
  · simp [hx, Job.new, hw, Dev.runSteps, hs]

/-- A write to another page, or outside the header of the flash's page, finds no flash to wait for (R515). -/
theorem Dev.flashHolds_write (d : Dev) (acc a : Nat) (v m : Word) (h1 : wordAddr a ≠ A.IND_DATA flashPage)
    (h2 : wordAddr a ≠ A.MBX_CTL flashPage) : d.flashHolds acc (.write a v m) = false := by
  simp [Dev.flashHolds, h1, h2]
theorem Dev.flashHolds_high (d : Dev) (acc a : Nat) (v m : Word) (h : 0x100 ≤ pageOfs (wordAddr a)) :
    d.flashHolds acc (.write a v m) = false := by
  apply Dev.flashHolds_write <;>
  · intro e
    rw [e] at h
    exact absurd h (by decide)
@[simp] theorem Dev.flashHolds_fetch (d : Dev) (acc pg item : Nat) : d.flashHolds acc (.fetch pg item) = false := by
  simp [Dev.flashHolds]
@[simp] theorem Dev.flashHolds_read (d : Dev) (acc a : Nat) : d.flashHolds acc (.read a) = false := by
  simp [Dev.flashHolds]

/-- A write of a word of a locked space is done, changing nothing, or ignored (R276). -/
theorem Dev.indLocked_cases (d : Dev) (pg : Nat) (p : Page) (a : Nat) (w : Word) :
    (d.ind pg a = w &&& BitVec.ofNat 32 (indMask p a) ∧ d.indLocked pg p a w = .done d) ∨
    (d.ind pg a ≠ w &&& BitVec.ofNat 32 (indMask p a) ∧ d.indLocked pg p a w = .ignored false) := by
  unfold Dev.indLocked
  split
  · exact .inl ⟨‹_›, rfl⟩
  · exact .inr ⟨‹_›, rfl⟩

/-! ## A command bit -/

/-- What the address of a command bit must be: a register of a page outside its header, whose one writable field under the
bit is the command. -/
structure CmdAt (a k : Nat) (p : Page) (f : Fld) : Prop where
  word  : wordAddr a = a
  page  : pageAt a = some p
  ofs   : 0x100 ≤ pageOfs a
  evt   : evtBits a = 0xFFFFFFFF
  one   : (fldsAt a).filter (fun g => g.acc != .ro && g.acc != .rc && g.acc != .loc && w32 (2 ^ k) &&& BitVec.ofNat 32 g.mask != 0) = [f]
  cmd   : f.acc = .cmd
  bit   : w32 (2 ^ k) &&& (w32 (2 ^ k) &&& BitVec.ofNat 32 f.mask) = w32 (2 ^ k)
  small : (w32 (2 ^ k)).toNat = 2 ^ k
  set   : (w32 (2 ^ k) &&& BitVec.ofNat 32 f.mask) != 0

/-- A command of an accessor that exists, of a sufficient level, not locked and not outstanding, has its effect and nothing else. -/
theorem Dev.writeBits_cmd (al : Alcove) (d : Dev) (acc a k : Nat) (p : Page) (f : Fld) (c : CmdAt a k p f)
    (hx : d.present acc = true) (hg : d.grants acc (pageNo a) = true) (hl : d.get (F.PRIV_LEVEL.level (pageNo a)) ≤ d.levelOn acc (pageNo a))
    (hp : f.prv = true → 2 ≤ d.levelOn acc (pageNo a))
    (hk : d.fieldLocked a f = false) (hb : w32 (2 ^ k) &&& ~~~(d.cmdBits a) = w32 (2 ^ k))
    (ht : (d.act1 d acc a (2 ^ k)).1 = true) :
    d.writeBits al acc a (2 ^ k) (2 ^ k) = (d.act1 d acc a (2 ^ k)).2 := by
  have h1 := c.ofs
  have n1 : pageOfs a ≠ 0x0C := by omega
  have n2 : ¬ (pageOfs a = 0x14 ∨ pageOfs a = 0x18 ∨ pageOfs a = 0x1C) := by omega
  have n3 : ¬ (pageOfs a = 0x20 ∨ (0x30 ≤ pageOfs a ∧ pageOfs a < 0x40)) := by omega
  have n4 : pageOfs a ≠ 0x40 := by omega
  have n5 : pageOfs a ≠ 0x24 := by omega
  have n6 : pageOfs a ≠ 0x28 := by omega
  have hn : ¬ d.levelOn acc (pageNo a) < d.get (F.PRIV_LEVEL.level (pageNo a)) := by omega
  have hm : (w32 (2 ^ k) &&& 0xFFFFFFFF : Word) = w32 (2 ^ k) := by
    have : (0xFFFFFFFF : Word) = BitVec.allOnes 32 := by decide
    rw [this, BitVec.and_allOnes]
  have hq : (f.prv && decide (d.levelOn acc (pageNo a) < 2)) = false := by
    cases hf : f.prv
    · rfl
    · have := hp hf; simp; omega
  have hw : d.wosSet a f = false := by simp [Dev.wosSet, c.cmd]
  have e1 : (w32 ((w32 (2 ^ k) &&& (w32 (2 ^ k) &&& BitVec.ofNat 32 f.mask)).toNat) &&& ~~~(d.cmdBits a)) = w32 (2 ^ k) := by
    rw [c.bit]
    simp only [w32, BitVec.ofNat_toNat, BitVec.setWidth_eq]
    exact hb
  have hset : (w32 (2 ^ k) &&& (w32 (2 ^ k) &&& BitVec.ofNat 32 f.mask) != 0) = true := by
    rw [c.bit, bne_iff_ne]
    intro h
    have h2 := congrArg BitVec.toNat h
    rw [c.small] at h2
    exact absurd h2 (by simp)
  have hact : (f.acc == Acc.cmd) = true := by simp [c.cmd]
  unfold Dev.writeBits
  rw [Dev.access_eq al d acc _ hx (by simpa [Access.page, c.word] using hg) (Dev.flashHolds_high _ _ _ _ _ (by rw [c.word]; exact h1))]
  unfold Dev.access1 Dev.regWrite
  simp only [c.word, c.page, n1, n2, n3, n4, n5, n6, if_false]
  unfold Dev.writeFields writeFlds cmdsOf
  simp only [c.evt, hm, c.one, List.isEmpty_cons, Bool.false_eq_true, if_false, hn, List.filter_cons, List.filter_nil, hact,
    Bool.true_or, Bool.not_true, Bool.false_or, hset, if_true, hq, Bool.not_false, hk, hw, Bool.false_and, List.foldl_cons,
    List.foldl_nil, List.any_cons, List.any_nil, Nat.zero_or, e1, c.small, ht, List.isEmpty_nil, Bool.or_self]
  simp

/-! ## The mailbox -/

/-- The control word of a read request names the item and the read direction. -/
theorem readCtl (x : Word) (n : Nat) (h : n < 256) :
    bitOf ((x &&& 0x01010000) ||| w32 (n % 256)).toNat 8 = 0 ∧ bitsOf ((x &&& 0x01010000) ||| w32 (n % 256)).toNat 0 8 = n := by
  have hx : ((x &&& 0x01010000) ||| w32 (n % 256)).toNat = (x.toNat &&& 0x01010000) ||| n := by
    rw [BitVec.toNat_or, BitVec.toNat_and]
    have h2 : (w32 (n % 256)).toNat = n := by simp [w32]; omega
    rw [h2]; rfl
  rw [hx]
  refine ⟨?_, ?_⟩
  · have h9 : ((x.toNat &&& 0x01010000) ||| n) % 2 ^ 9 = n := by
      rw [Nat.or_mod_two_pow, Nat.and_mod_two_pow]
      simp; omega
    unfold bitOf
    rw [Nat.shiftRight_eq_div_pow]
    omega
  · unfold bitsOf
    rw [Nat.shiftRight_zero, Nat.or_mod_two_pow, Nat.and_mod_two_pow]
    simp; omega

/-- The words of a mailbox lie at different keys. -/
theorem mbxKey_ne (acc pg : Nat) {x y : Nat} (h : x ≠ y) : locKey acc (pg * 0x1000 + x) ≠ locKey acc (pg * 0x1000 + y) := by
  unfold locKey; omega

/-- A request in the read direction captures the item's words and sets valid (R281). -/
theorem Dev.itemFetch_eq (al : Alcove) (d : Dev) (acc : Nat) (i : Item) (p : Page) (hp : pageOf i.place.1 = some p)
    (hi : itemAt p i.place.2 = some i) (hn : i.place.2 < 256) (hr : i.reads = true) (hx : d.present acc = true)
    (hg : d.grants acc i.place.1 = true) (hw : d.itemWaits acc i.place.1 = false) :
    d.itemFetch al acc i =
      (let pg := i.place.1
       let d0 := d.setLoc acc (A.MBX_CTL pg) ((d.loc acc (A.MBX_CTL pg) &&& 0x01010000) ||| w32 (i.place.2 % 256))
       let r := d0.itemRead al acc (d.loc acc (A.SNAP_CTL pg) &&& 1 == 1) i
       ((List.range 4).foldl (fun e k => e.setLoc acc (A.MBX_DATA pg k) (r.1.getD k 0)) r.2).setMbx acc pg false true) := by
  have hc := readCtl (d.loc acc (A.MBX_CTL i.place.1)) i.place.2 hn
  have hw' : ∀ w, (d.setLoc acc (A.MBX_CTL i.place.1) w).itemWaits acc i.place.1 = false := by
    intro w
    unfold Dev.itemWaits at hw ⊢
    rw [Dev.loc_setLoc_other]
    · exact hw
    · exact mbxKey_ne acc i.place.1 (by decide)
  have hs' : ∀ w, (d.setLoc acc (A.MBX_CTL i.place.1) w).loc acc (A.SNAP_CTL i.place.1) = d.loc acc (A.SNAP_CTL i.place.1) := by
    intro w
    rw [Dev.loc_setLoc_other]
    exact mbxKey_ne acc i.place.1 (by decide)
  unfold Dev.itemFetch
  rw [Dev.access_eq al d acc (.fetch i.place.1 i.place.2) hx hg (Dev.flashHolds_fetch _ _ _ _)]
  simp only [Dev.access1, hp, Dev.mbxFetch, Dev.mbxGo, Dev.loc_setLoc_same, hc.1, hc.2, hi, hw', hs', hr]
  simp

/-- The words of a mailbox after a capture. -/
theorem Dev.mbxWord_capture (d : Dev) (acc pg : Nat) (ws : List Word) (go valid : Bool) (k : Nat) (hk : k < 4) :
    (((List.range 4).foldl (fun e k => e.setLoc acc (A.MBX_DATA pg k) (ws.getD k 0)) d).setMbx acc pg go valid).mbxWord acc pg k =
      ws.getD k 0 := by
  have h4 : List.range 4 = [0, 1, 2, 3] := rfl
  rw [h4]
  simp only [List.foldl_cons, List.foldl_nil, Dev.mbxWord, Dev.setMbx, A.MBX_DATA, A.MBX_CTL]
  interval_cases k <;>
    simp (disch := unfold locKey; omega) only [Dev.loc_setLoc_other, Dev.loc_setLoc_same]

end Sys2Proof.Machine
end

