-- ==== Sys2Proof/Laws/Run.lean ====
section
/-! SUPPORT. What each way of acting does: on a module that works, on one that does not, and what it never touches. -/

namespace Sys2Proof.Machine

/-! ## A module that works and one that does not -/

theorem Dev.run_live (d : Dev) (t : Nat) (f : Dev → Dev) (h : d.live = true) : d.run t f = f (d.reach t) := by
  simp [Dev.run, h]
/-- With nothing due a module that works only keeps time before a command. -/
theorem Dev.reach_quiet (d : Dev) (t : Nat) (hc : d.commit = none) (hr : ∀ c, (d.canvas c).owed = [])
    (hj : d.casc.joining = none) (hl : ∀ e ∈ d.lanes, e.2.sbTx = [] ∧ e.2.timeDue = false)
    (hs : d.serving = none) (hm : ∀ e ∈ d.regs.loc, e.1 % 0x1000 = 0x2C → e.2 = 0) : d.reach t = d.at t := by
  have hg (u : Nat) : d.globalsDue u = d := by simp [Dev.globalsDue, hc]
  have ho (u : Nat) : d.owedDue u = d := List.foldl_fixed' (fun c => by simp [hr c]) _
  have hd (u : Nat) : d.joinDue u = d := by simp [Dev.joinDue, hj]
  have hq : (d.at t).drainAll = d.at t := by
    have h : (d.at t).lanes.filter (fun e => !e.2.sbTx.isEmpty || e.2.timeDue) = [] := by
      simp only [List.filter_eq_nil_iff]
      intro e he
      obtain ⟨h1, h2⟩ := hl e he
      simp [h1, h2]
    simp only [Dev.drainAll, h, List.foldl_nil]
  have he : (d.at t).engTurn = d.at t := by simp [Dev.engTurn, hs]
  have hi : (d.at t).retryItems = d.at t := by
    have h : (d.at t).regs.loc.filter (fun e => e.1 % 0x1000 == 0x2C && e.2 != 0) = [] := by
      simp only [List.filter_eq_nil_iff]
      intro e he
      have := hm e he
      simp; tauto
    simp only [Dev.retryItems, Dev.retry, h, List.foldl_nil]
  simp [Dev.reach, hg, ho, hd, hq, he, hi]
theorem Dev.run_dead (d : Dev) (t : Nat) (f : Dev → Dev) (h : d.live = false) : d.run t f = d.at t := by
  simp [Dev.run, Dev.reach, h]

theorem State.act_live (s : State) (t : Nat) (f : Dev → Dev) (h : s.dev.live = true) :
    s.act t f = .next { s with dev := f (s.dev.reach t) } := by
  simp [State.act, Dev.run_live _ _ _ h]
theorem State.act_dead (s : State) (t : Nat) (f : Dev → Dev) (h : s.dev.live = false) :
    s.act t f = .next { s with dev := s.dev.at t } := by
  simp [State.act, Dev.run_dead _ _ _ h]

theorem State.access_live (s : State) (t : Nat) (f : Alcove → Dev → Dev) (h : s.dev.live = true) :
    s.access t f = .next (State.settle { s with dev := f s.alc (s.dev.reach t) }) := by
  simp [State.access, Dev.run_live _ _ _ h]
theorem State.access_dead (s : State) (t : Nat) (f : Alcove → Dev → Dev) (h : s.dev.live = false) :
    s.access t f = .next (State.settle { s with dev := s.dev.at t }) := by
  simp [State.access, Dev.run_dead _ _ _ h]

/-- With no write waiting for a stack a relock takes none (R456). -/
theorem Dev.ingestAgain_empty (d : Dev) (h : d.ingest = []) : d.ingestAgain = d := by
  have e : ({ d with ingest := [] } : Dev) = d := by rw [← h]
  simp [Dev.ingestAgain, h, e]

/-! ## The queue and the test access port are left alone -/

@[simp] theorem State.alcShow_pending (s : State) : (State.alcShow s).pending = s.pending := rfl
@[simp] theorem State.alcShow_tap (s : State) : (State.alcShow s).tap = s.tap := rfl
@[simp] theorem State.alcShow_alc (s : State) : (State.alcShow s).alc = { s.alc with evs := [] } := rfl

/-- With nothing put at the Alcove an access ends as it stands. -/
theorem State.settle_empty (s : State) (hq : s.dev.alcq = []) : State.settle s = s := by
  simp [State.settle, hq]

theorem State.settle_pending (s : State) : (State.settle s).pending = s.pending := by
  unfold State.settle; split <;> rfl
theorem State.settle_tap (s : State) : (State.settle s).tap = s.tap := by
  unfold State.settle; split <;> rfl

/-- What a command leaves of the Alcove: all that its accesses put there is taken. -/
theorem State.settle_alc (s : State) :
    (State.settle s).alc = s.alc ∨ (State.settle s).alc = { s.dev.alcNow s.alc with evs := [] } := by
  unfold State.settle
  split
  · exact .inl rfl
  · exact .inr rfl

/-- With nothing put at the Alcove the module does not follow it, and the Alcove is as the command found it. -/
theorem Dev.alcFollow_empty (al : Alcove) (d : Dev) (hq : d.alcq = []) : d.alcFollow al = d := by
  simp [Dev.alcFollow, hq]
theorem Dev.alcNow_empty (al : Alcove) (d : Dev) (hq : d.alcq = []) : d.alcNow al = al := by
  simp [Dev.alcNow, hq]

end Sys2Proof.Machine
end

