-- ==== Sys2Proof/Laws/Tap.lean ====
section
/-! SUPPORT. Laws of the test access port: the boundary register has one cell for each land (R562). -/

namespace Sys2Proof.Machine

/-- Lands in some order are those lands. -/
theorem pickLands_perm : ∀ (n : Nat) (ls : List Land), ls.length = n → (pickLands n ls).Perm ls
  | 0, ls, h => by rw [List.length_eq_zero_iff.1 h]; exact .nil
  | n + 1, ls, h => by
    have hl : Config.boundaryOrder n % ls.length < ls.length := Nat.mod_lt _ (by omega)
    have hm := List.getElem_mem hl
    rw [pickLands, List.getElem?_eq_getElem hl]
    exact ((pickLands_perm n _ (by rw [List.length_erase_of_mem hm]; omega)).cons _).trans (List.perm_cons_erase hm).symm

/-- The cells of the boundary register are those of all lands. -/
theorem cellOrder_perm : cellOrder.Perm boundaryLands := pickLands_perm _ _ rfl

end Sys2Proof.Machine
end

