-- ==== Sys2Proof/WellFormed.lean ====
section
/-! DEFINITION. What a command must satisfy beside the ranges its types give. The checks bound what the surroundings of the
block can send: lengths that the manual fixes. They are no conditions of the meanings, which answer ill-formed commands
too. -/

namespace Sys2Proof

/-- The number of bytes a write carries is its length (R361). -/
def wfHbmRequest (len : Nat) (wr : Option (List (Option Byte))) : Bool :=
  match wr with
  | some bs => bs.length == len
  | none => true

/-- An error pattern covers the 32 data bytes and 4 check bytes of a burst, or is empty for no error (R364, R367). -/
def wfBurst (err : List Byte) : Bool := err.isEmpty || err.length == 36

/-- The sweeps of a PC: five lanes in two directions of 32 voltage steps each (R371). -/
def wfSweeps (s : List Sweep) : Bool := s.length == 10 && s.all fun x => x.length == 32

/-- Training names each PC at most once (R357). -/
def wfTraining (dead : List (Fin 64)) (sweeps : List (Fin 64 × List Sweep)) : Bool :=
  decide (dead ++ sweeps.map (·.1)).Nodup && sweeps.all fun x => wfSweeps x.2

/-- A packet has one to three row headers (R304). -/
def wfRtp (p : RtpPacket) : Bool := decide (1 ≤ p.rows.length) && decide (p.rows.length ≤ 3)

/-- A frame ends in a tag of 16 bytes or in none (R313). -/
def wfAed (f : AedFrame) : Bool := f.tag.isEmpty || f.tag.length == 16

/-- A VOTE has 14 entries (R250). -/
def wfVote (v : Vote) : Bool := v.entries.length == 14

/-- A CONTENT message carries a multiple of 64 bytes, at most 2,048 (R250). -/
def wfContent (data : List Byte) : Bool := data.length % 64 == 0 && decide (data.length ≤ 2048)

/-- A block of an upload carries 1,024 bytes (R545). -/
def wfXBlock (b : Option XBlock) : Bool :=
  match b with
  | some x => x.data.length == 1024
  | none => true

/-- A COMMIT record keeps its ranges (R519). -/
def wfCommit (lead wait : Nat) : Bool := decide (1 ≤ lead) && decide (lead ≤ 10000) && decide (wait ≤ 60000)

/-- The stored values of an exhibit number 4,096 (R478). -/
def wfUpsets (up : List CopyUpset) : Bool := up.all fun u => decide (u.index < 4096)

/-- A window has at most 65,536 output lines; `l` is one of them (R232). -/
def wfLine (l : Nat) : Bool := decide (l < 65536)

/-- Nothing beside the ranges of the types is asked of any other command. -/
def Instr.wf (i : Instr) : Bool :=
  match i with
  | .lineSlotStart _ _ l => wfLine l
  | .sramUe _ (.gallery _ row col) => wfLine row && wfLine col
  | .contentRx _ _ _ _ _ _ data _ => wfContent data
  | .voteRx _ _ _ v => wfVote v
  | .rxPacket _ _ p => wfRtp p
  | .aedOpen _ f => wfAed f
  | .aedAuth _ f => wfAed f
  | .aedClose _ f => wfAed f
  | .aedKeepalive _ f => wfAed f
  | .aedRead _ f => wfAed f
  | .aedWrite _ f => wfAed f
  | .aedMaskedWrite _ f => wfAed f
  | .aedSequence _ f => wfAed f
  | .aedMailbox _ f => wfAed f
  | .aedSubscribe _ f => wfAed f
  | .aedBulkWrite _ f => wfAed f
  | .aedFence _ f => wfAed f
  | .aedCommitRequest _ f => wfAed f
  | .hbmRequest _ _ len wr _ _ => wfHbmRequest len wr
  | .hbmReadDone _ _ ret _ _ => wfBurst ret.err
  | .scrubStep _ _ ret => wfBurst ret.err
  | .retrainSweepDone _ _ s vs => wfSweeps s && vs.all fun v => wfBurst v.2
  | .hbmTrainingDone _ dead sweeps => wfTraining dead sweeps
  | .cuRegionEnd _ _ _ up => wfUpsets up
  | .arm _ _ _ _ _ _ _ _ up => wfUpsets up
  | .expCopyCheck _ _ _ up => wfUpsets up
  | .imageRecordCommit _ _ lead wait => wfCommit lead wait
  | .xmodemBlock _ b _ => wfXBlock b
  | _ => true

end Sys2Proof
end

