-- ==== Sys2Proof/Tests/Slice0.lean ====
section
/-! SUPPORT. The model's own tests: ill-formed terms that each check of WellFormed refuses, worked examples of the manual,
and for every statement with hypotheses a concrete state and operands that meet them. -/

namespace Sys2Proof.Tests

open Sys2Proof Sys2Proof.Machine

/-! ## Small states -/

/-- The module after reset. -/
def d0 : Dev := State.reset.dev

/-- The module while the boot applies a configuration image: accessor 17 exists. -/
def dB : Dev := { d0 with pwr.applying := true }

/-- A state whose module is the given one. -/
def st (d : Dev) : State := { State.reset with dev := d }

/-- The module with a field of a register set to an active value. -/
def act (d : Dev) (r : FieldRef) (v : Nat) : Dev :=
  { d with regs.active := Tab.set resetWord d.regs.active r.addr (putBits (d.actv r.addr) r.lsb r.width v) }

/-- A received header with nothing set. -/
def rx0 : RxHdr :=
  { sub := 0, dmac := 0, smac := 0, pcp := none, len := 100, ipv6 := false, src := 0, dst := 0, udp := true, sport := 0, dport := 0 }

/-- An Aedwin frame whose tag has the given bytes. -/
def aed (tag : List Byte) : AedFrame :=
  { rx := rx0, hdr := { magic := 0, version := 1, sid := 0, len := 0, seq := 0, ref := 0, other := none }, body := [], tag := tag }

/-- A message of a landing. -/
def msg (src : Fin 16) (ok : Bool) : MsgHead := { src := src, hops := 0, dst := 0, bcast := true, seq := 7, crcOk := ok }

/-! ## Ill-formed terms are refused -/

theorem test_wf_hbm_request : (Instr.hbmRequest 0 0 2 (some [some 1]) .rt none).wf = false := by decide
theorem test_wf_burst : (Instr.scrubStep 0 0 ⟨[1], 0⟩).wf = false ∧ (Instr.scrubStep 0 0 ⟨[], 0⟩).wf = true := by decide
theorem test_wf_sweep : (Instr.retrainSweepDone 0 0 [[]] []).wf = false := by decide
theorem test_wf_training : (Instr.hbmTrainingDone 0 [3, 3] []).wf = false := by decide
theorem test_wf_rtp :
    (Instr.rxPacket 0 rx0 { version := 2, pt := 96, ssrc := 0, seq := 0, stamp := 0, marker := false, rows := [] }).wf = false := by
  decide
theorem test_wf_aed : (Instr.aedOpen 0 (aed [1])).wf = false ∧ (Instr.aedOpen 0 (aed [])).wf = true := by decide
theorem test_wf_vote :
    (Instr.voteRx 0 0 (msg 1 true) { gen := 0, code := 0, landing := 0, counted := 0, entries := [] }).wf = false := by decide
theorem test_wf_content : (Instr.contentRx 0 0 (msg 1 true) 0 0 0 [0] 0).wf = false := by decide
theorem test_wf_xblock : (Instr.xmodemBlock 0 (some { num := 1, data := [], crc := 0 }) true).wf = false := by decide
theorem test_wf_commit :
    (Instr.imageRecordCommit 0 0 0 0).wf = false ∧ (Instr.imageRecordCommit 0 0 10000 60000).wf = true ∧
    (Instr.imageRecordCommit 0 0 10001 0).wf = false ∧ (Instr.imageRecordCommit 0 0 1 60001).wf = false := by decide
theorem test_wf_upsets :
    (Instr.expCopyCheck 0 0 0 [{ inB := false, index := 4096, bits := 1 }]).wf = false ∧
    (Instr.expCopyCheck 0 0 0 [{ inB := false, index := 4095, bits := 1 }]).wf = true := by decide
theorem test_wf_line : (Instr.lineSlotStart 0 0 65536).wf = false ∧ (Instr.lineSlotStart 0 0 65535).wf = true := by decide
theorem test_wf_gallery :
    (Instr.sramUe 0 (.gallery 0 0 65536)).wf = false ∧ (Instr.sramUe 0 (.gallery 0 65536 0)).wf = false ∧
    (Instr.sramUe 0 (.gallery 0 1 2)).wf = true := by decide

/-! ## Check units -/

/-- RUNNING keeps the low w bits of what is written to it; w resets to 32 (R432, R433, R443). -/
theorem test_running_width : ((d0.cuLoad 3 (2 ^ 32 + 5)).cu 3).v = 5 := by decide +kernel

/-- Packets held back stand in ascending extended sequence number, across its wrap too (R435). -/
theorem test_held_packets_wrap :
    holdPk 0 [1] [(2 ^ 32 - 1, [0]), (1, [2])] = [(2 ^ 32 - 1, [0]), (0, [1]), (1, [2])] ∧
    readyPk (2 ^ 32 - 1) [(2 ^ 32 - 1, [0]), (0, [1]), (2, [3])] = ([0, 1], 1, [(2, [3])]) := by decide

/-! ## No row of the table has bits -/

theorem test_no_word_spells_a_command : decodeTableWord 8 0 = none ∧ decodeTableWord 32 0xFFFFFFFF = none := by decide

/-! ## Worked examples of the manual -/

/-- The example of R13: ticks 1,000,000 and 1,000,001 of a 120 Hz canvas. -/
theorem test_tick_example :
    ({ epoch := 0, num := 25000000, den := 3 } : Stream).tick 1000000 = 8333333333333 ∧
    ({ epoch := 0, num := 25000000, den := 3 } : Stream).tick 1000001 = 8333341666666 := by decide

/-- The example of R360: slot 9, row 4,228, bank 6, and bank 26 under order 3. -/
theorem test_address_map_example :
    (mapPa 1 62 0x300001800).slot = 9 ∧ (mapPa 1 62 0x300001800).row = 4228 ∧ (mapPa 1 62 0x300001800).bank = 6 ∧
    (mapPa 1 62 0x300001800).col = 0 ∧ (mapPa 3 62 0x300001800).bank = 26 := by decide

/-- The example of R89: addresses of layer registers. -/
theorem test_layer_address_example : (F.LAYER_CTL.enable 0 32).addr = 0x104100 ∧ A.BUF_SIZE 3 12 = 0x132500 + 0x2C := by decide

/-- The example of R290 and R291: the enable of event 401 lies at offset 0x1B0 of EVENTS, bit 17. -/
theorem test_event_address_example :
    (F.EVT_ENABLE_ALL.enable 12).addr % 4096 = 0x1B0 ∧ 401 / 32 = 12 ∧ 401 % 32 = 17 := by decide

/-- An event that is disabled sets its raw bit and no pending bit (R290). -/
theorem test_disabled_event :
    (d0.raise 401).get (F.EVT_RAW_ALL.raw 12) = 2 ^ 17 ∧ (d0.raise 401).get (F.EVT_PENDING_ALL.pending 12) = 0 := by decide

/-- A fence wraps: 0xFFFFFFFF reaches 1 in two steps (R198, R199). -/
theorem test_fence_wraps : fenceReached 1 0xFFFFFFFF = true ∧ fenceReached 0xFFFFFFFF 1 = false := by decide

/-- A half away is behind (R199). -/
theorem test_fence_half : fenceReached 0x80000000 0 = false ∧ fenceReached 0x7FFFFFFF 0 = true := by decide

/-- The identification code as its fields are stated (R562): version 1, part 0x0144, Cloennak's code, the 1 at the end. -/
theorem test_idcode : idcodeWord.toNat / 2 ^ 28 = 1 ∧ bitsOf idcodeWord.toNat 12 16 = 0x144 ∧ bitsOf idcodeWord.toNat 0 1 = 1 := by
  decide

/-! ## Witnesses: states and operands that meet the hypotheses of the statements

The statements are named by their title in `Obligations.lean`. The boot application (accessor 17) acts at level 2 (R278). -/

/-- The module works after reset: the hypothesis of every completion statement. -/
theorem witness_live : State.reset.dev.live = true ∧ State.reset.doorsShut := ⟨by decide, rfl⟩

/-- EmptyQueueIdles. -/
theorem witness_empty_queue : State.reset.pending = [] := rfl

/-- StoppedModuleOnlyKeepsTime. -/
theorem witness_stopped :
    ({ d0 with pwr.on := false } : Dev).live = false ∧ (st { d0 with pwr.on := false }).doorsShut ∧
    actsOnModule (.canvasTick 5 0) = true := ⟨by decide, rfl, rfl⟩

/-- AlcoveStaysInBounds. -/
theorem witness_alcove_step :
    State.reset.alc.Ok ∧ ∃ u, step { State.reset with pending := [.otSave 1 2] } = .next u := ⟨⟨by decide, by decide, by decide⟩, _, rfl⟩

/-- UnacknowledgedRecordsStand: one record is in the ring. -/
theorem witness_unacknowledged :
    let a : Alcove := { State.reset.alc with nextSeq := 1, ring := [(0, [1])] }
    let s : State := { State.reset with alc := a, pending := [.otSave 1 2] }
    a.Ok ∧ (∃ u, step s = .next u) ∧ (∀ t o rest, s.pending ≠ .alcovePowerUp t o :: rest) ∧ a.oldest ≤ 0 ∧ 0 < a.nextSeq :=
  ⟨⟨by decide, by decide, by decide⟩, ⟨_, rfl⟩, (by intro t o rest h; cases h), by decide, by decide⟩

/-- SealChangeRule, opening and closing. -/
theorem witness_seal_change :
    State.reset.alc.on = true ∧ State.reset.alc.opened ≠ true ∧ State.reset.alc.exhibits.length + 1 < State.reset.alc.free ∧
    ({ State.reset.alc with opened := true } : Alcove).opened ≠ false := by decide

/-- SealedAlcoveRefusesSealCommands, both Seal commands. -/
theorem witness_sealed :
    State.reset.alc.on = true ∧ State.reset.alc.opened = false ∧
    bitsOf (alcWord 0x20 0 0).toNat 0 8 = 0x20 ∧ bitsOf (alcWord 0x21 255 65535).toNat 0 8 = 0x21 := by decide

/-- AlcoveCommandsReachTheAlcove: the boot application at the first door, Ururi at level 3 at the seal door. -/
theorem witness_doors :
    dB.alcOn = true ∧ ({ dB with alcOn := false } : Dev).alcOn = false ∧ Item.alcCmd.door = true ∧
    dB.mayAct 17 0 ∧ dB.itemWaits 17 0 = false ∧ ({ d0 with sealOpen := true }.put F.URURI_CTL.level 3).mayAct 16 0xF00 ∧
    (d0.put F.URURI_CTL.level 3).itemWaits 16 0xF00 = false := by unfold Dev.mayAct; decide

/-- AcknowledgeFreesRecords, each clause at the ends of its range. -/
theorem witness_ack :
    let a : Alcove := { State.reset.alc with oldest := 2, nextSeq := 5 }
    a.Ok ∧ a.nextSeq < 2 ^ 32 ∧ (a.oldest ≤ 2 ∧ 2 < a.nextSeq) ∧ (a.oldest ≤ 4 ∧ 4 < a.nextSeq) ∧ a.nextSeq ≤ 5 ∧
    a.nextSeq ≤ 4294967295 ∧ 1 < a.oldest ∧ 0 < a.oldest := ⟨⟨by decide, by decide, by decide⟩, by decide⟩

/-- TapInstructionShiftsOnly: a module with power, an identification shifted out, and each kind of instruction. -/
theorem witness_tap :
    d0.pwr.on = true ∧ tapOp 0x01 = .idcode ∧ ({ trstN := true, ir := 0x01, dr := List.replicate 32 false } : TapScan).dr.length = 32 ∧
    tapOp 0x00 = .extest ∧ tapOp 0x02 = .sample ∧ tapOp 0x04 = .highz ∧ tapOp 0x05 = .clamp ∧ tapOp 0x06 = .extestPulse ∧
    tapOp 0x07 = .extestTrain ∧ tapOp 0x03 = .bypass ∧ tapOp 0xFF = .bypass ∧ ({ Tap.reset with high := true } : Tap).high = true ∧
    Tap.reset.high = false := by decide

/-- HallCommandsAct: a flip of the last plain layer with the select lock on. -/
theorem witness_flip :
    let d := dB.put (F.BAL_LOCK.select_lock 7) 1
    d.mayAct 17 (pageNo (A.FLIP_CMD 7 31)) ∧ d.is (F.BAL_LOCK.select_lock 7) = true ∧ (31 : Fin 33).val ≠ 32 ∧ (32 : Fin 33).val = 32 := by
  unfold Dev.mayAct; decide

/-- HallCommandsAct. -/
theorem witness_hall :
    dB.mayPriv 17 (pageNo (A.HALL_CMD 7)) ∧ dB.mayPriv 17 (pageNo (A.TONE_CMD 0)) ∧ dB.toneOwned 0 = false ∧
    dB.mayPriv 17 (pageNo (A.FLIP_CMD 7 32)) ∧ dB.is (F.BAL_LOCK.select_lock 7) = false := by
  unfold Dev.mayPriv Dev.mayAct; decide

/-- LaneAndDmaCommandsAct. -/
theorem witness_lane_dma :
    dB.mayPriv 17 (pageNo (A.LANE_CMD 143)) ∧ dB.cmdBits (A.LANE_CMD 143) = 0 ∧ dB.mayAct 17 (pageNo (A.CH_CMD 63)) ∧
    dB.chState 63 ≠ 4 := by unfold Dev.mayPriv Dev.mayAct; decide

/-- SystemCommandsAct. -/
theorem witness_system :
    dB.mayAct 17 0 ∧ dB.grants 17 (pageNo A.CLK_CTL) = true ∧ 2 ≤ dB.levelOf 17 ∧ dB.mayPriv 17 (pageNo (F.TSYN_CMD.recal 7).addr) ∧
    dB.cmdBits (F.TSYN_CMD.recal 7).addr = 0 ∧ dB.mayPriv 17 (pageNo A.RST_CMD) ∧ dB.anyCanvas = false ∧ dB.pwr.rstAt = none := by
  unfold Dev.mayPriv Dev.mayAct; decide

/-- ResetRefusedWhileACanvasIsEnabled. -/
theorem witness_reset_refused :
    let d := act dB (F.TICK_CTL.enable 3) 1
    d.live = true ∧ d.mayPriv 17 (pageNo A.RST_CMD) ∧ d.anyCanvas = true ∧ d.pwr.rstAt = none := by
  unfold Dev.mayPriv Dev.mayAct; decide

/-- FenceWriteMovesForwardOnly, each clause at the ends of its range, from a fence that reads 0. -/
theorem witness_fence_write :
    dB.mayAct 17 (pageNo (A.FENCE 511)) ∧ dB.fence 511 = 0 ∧ dB.get (F.FENCE_OWNER.owner 511) = 0 ∧
    ((0 : Word).toNat + 2 ^ 32 - 0) % 2 ^ 32 = 0 ∧ ((0x7FFFFFFF : Word).toNat + 2 ^ 32 - 0) % 2 ^ 32 < 2 ^ 31 ∧
    2 ^ 31 ≤ ((0x80000000 : Word).toNat + 2 ^ 32 - 0) % 2 ^ 32 ∧ (d0.put (F.FENCE_OWNER.owner 511) 1).get (F.FENCE_OWNER.owner 511) ≠ 0 := by
  unfold Dev.mayAct; decide

/-- FenceReachedWithinHalfTheRange: the ends of both ranges. -/
theorem witness_fence_range :
    0 ≤ 2 ^ 31 - 1 ∧ fenceReached 5 (5 - BitVec.ofNat 32 (2 ^ 31 - 1)) = true ∧ fenceReached 5 (5 + BitVec.ofNat 32 1) = false ∧
    fenceReached 5 (5 + BitVec.ofNat 32 (2 ^ 31)) = false := by decide

/-- DoorbellRaisesItsEvents. -/
theorem witness_doorbell : dB.mayAct 17 (pageNo A.DOORBELL_LO) := by unfold Dev.mayAct; decide

/-- DisabledEventSetsItsRawBitOnly: both values of the enable. -/
theorem witness_event_enable :
    bitOf (d0.get (F.EVT_ENABLE_ALL.enable 31)) 31 = 0 ∧
    bitOf ((d0.put (F.EVT_ENABLE_ALL.enable 31) (2 ^ 31)).get (F.EVT_ENABLE_ALL.enable 31)) 31 = 1 := by decide

/-- WriteBelowTheLevelIsIgnored: a session that is not open writes CFG_CTL, and the boot's accessor when no image is applied. -/
theorem witness_below_level :
    (∃ p, pageAt (wordAddr A.CFG_CTL) = some p) ∧ 0x100 ≤ pageOfs (wordAddr A.CFG_CTL) ∧
    writeFlds (wordAddr A.CFG_CTL) (evtBits (wordAddr A.CFG_CTL)) ≠ [] ∧ d0.present 17 = false ∧ d0.present 0 = true ∧
    d0.grants 0 (pageNo (wordAddr A.CFG_CTL)) = true ∧
    d0.levelOn 0 (pageNo (wordAddr A.CFG_CTL)) < d0.get (F.PRIV_LEVEL.level (pageNo (wordAddr A.CFG_CTL))) ∧
    (∀ n, actingAt (wordAddr A.CFG_CTL) ≠ .laneCmd n) ∧ actingAt (wordAddr A.CFG_CTL) ≠ .pcCmd ∧
    (∀ c, actingAt (wordAddr A.CFG_CTL) ≠ .tsyn c) ∧ actingAt (wordAddr A.CFG_CTL) ≠ .cascCmd := by
  have h : actingAt (wordAddr A.CFG_CTL) = .cfgCtl := by decide
  refine ⟨Option.isSome_iff_exists.mp (by decide), by decide, by decide, by decide, by decide, by decide, by decide, ?_⟩
  simp [h]

/-- IgnoredWriteIsRecorded. -/
theorem witness_ignored : (pageOf 0x3000).isSome = true ∧ bitOf (d0.get (F.EVT_ENABLE_ALL.enable 0)) 1 = 0 := by decide

/-- AccessOutsideThePagesHasNoEffect. -/
theorem witness_no_page : pageAt (wordAddr 0x3FFFFFC) = none := by decide

/-- UnassignedIndirectAccessAdvances. -/
theorem witness_no_indirect : ∃ p, pageOf 257 = some p ∧ p.hasInd = false := by
  obtain ⟨p, hp⟩ := Option.isSome_iff_exists.mp (show (pageOf 257).isSome = true by decide)
  refine ⟨p, hp, ?_⟩
  have h : (pageOf 257).map Page.hasInd = some false := by decide
  rw [hp] at h
  exact Option.some.inj h

/-- ReadItemsCaptureTheirWords: no item waits on any of their pages. -/
theorem witness_read_items :
    dB.itemWaits 17 (Item.sbRx 143).place.1 = false ∧ dB.itemWaits 17 Item.saveGen.place.1 = false ∧
    dB.itemWaits 17 (Item.result 55).place.1 = false := by decide

/-- ReadItemsReturnWhatTheStateHolds: a canvas that runs. -/
theorem witness_running : (d0.put (F.TICK_STATUS.running 7) 1).is (F.TICK_STATUS.running 7) = true := by decide

/-- Whether an item of the boot application is taken after reset with given words. -/
def takenAtReset (i : Item) (ws : List Word) : Bool :=
  decide (dB.get (F.PRIV_LEVEL.level i.place.1) ≤ dB.levelOn 17 i.place.1) && !dB.itemWaits 17 i.place.1 &&
    match (dB.posted 17 i ws).itemWrite 17 i (ws.getD 0 0) (ws.getD 1 0) (ws.getD 2 0) (ws.getD 3 0) with
    | .taken _ => true
    | _ => false

/-- What `takenAtReset` says. -/
theorem takesItem_of_takenAtReset (i : Item) (ws : List Word) (h : takenAtReset i ws = true) : ∃ e, dB.takesItem 17 i ws e := by
  simp only [takenAtReset, Bool.and_eq_true, decide_eq_true_eq, Bool.not_eq_true'] at h
  obtain ⟨⟨h1, h2⟩, h3⟩ := h
  split at h3
  · exact ⟨_, ⟨rfl, rfl, h1⟩, h2, ‹_›⟩
  · cases h3

/-- WriteItemsAreTaken: items of the module page, of lanes, of the Aedwin page and of translation. -/
theorem witness_write_items :
    ([(.commitRequest, [1, 2, 3, 4]), (.snapAt, [1, 2]), (.epoch 7, [1, 2, 3]), (.sbTx 143, [0, 0]), (.gateSwap 5, [0, 0, 1]),
      (.gateStop 5, []), (.gateCancel 5, []), (.keyLoad, [0, 0, 0]), (.keyCommit, [0]), (.invRequest, [0, 0, 0])] :
      List (Item × List Word)).all (fun x => takenAtReset x.1 x.2) = true := by decide +kernel

/-- WriteItemsAreTaken: items of check units, of time, of flash and of operations. -/
theorem witness_write_items_service :
    ([(.running 55, [0, 0]), (.timeSet, [0, 0, 0, 0]), (.flashErase, [0]), (.saveGen, [0, 1]), (.opRequest, opWords 1 0 0 false),
      (.opRequest, opWords 5 0 0 false), (.opRequest, opWords 8 0 0 false), (.opRequest, opWords 1 0 0 true)] :
      List (Item × List Word)).all (fun x => takenAtReset x.1 x.2) = true := by decide +kernel

/-- FirstTickAtOrAfter: an instant between two ticks. -/
theorem witness_first_tick :
    let s : Stream := { epoch := 0, num := 25000000, den := 3 }
    0 < s.num ∧ 0 < s.den ∧ s.firstFrom 8333334 = 2 ∧ 1 < s.firstFrom 8333334 := by decide

/-- PhasesLieWithinTheirTick. -/
theorem witness_phase :
    let s : Stream := { epoch := 0, num := 25000000, den := 3 }
    0 < s.den ∧ 0 ≤ 32768 ∧ 32768 ≤ 65536 ∧ s.at 0 32768 = 4166666 := by decide

/-- StoredBytesReadBack: the memory at reset is in form, and an address beside the store. -/
theorem witness_store : Memory.wf d0.hbm = true ∧ ((4 < 5 ∨ 5 + 2 ≤ 4) ∧ (7 < 5 ∨ 5 + 2 ≤ 7)) := by decide

/-- TranslationModes: modes 0 and 2. -/
theorem witness_modes :
    d0.get (F.SPACE_CTL.mode 3) = 0 ∧ (d0.put (F.SPACE_CTL.mode 3) 2).get (F.SPACE_CTL.mode 3) = 2 := by decide

/-- The tables of the example of R386: ASID 3, root at 0x10000000, then L1, L2 and L3 tables at 0x10001000, 0x10002000 and
0x10003000. -/
def walkDev : Dev :=
  let e (d : Dev) (a v : Nat) : Dev := d.storeBytes a ((bytesLE 8 v).map some)
  let d := ((d0.put (F.SPACE_CTL.mode 3) 1).put (F.ROOT_LO.root 3) 0x10000).put F.CAPACITY.slots 62
  e (e (e (e d 0x10000000 0x10001001) 0x10001008 0x10002001) 0x10002000 0x10003001) 0x10003090 0x23451000F

/-- WalkReachesTheSmallPage: the entries of the example. -/
theorem witness_walk :
    walkDev.get (F.SPACE_CTL.mode 3) = 1 ∧ walkDev.leafFor 3 0x40123456 = none ∧
    (walkDev.wcache.find? fun e => e.1 == wcacheKey 3 0x40123456) = none ∧ walkDev.rootOf 3 = 0x10000000 ∧
    0x10000000 + 4096 ≤ walkDev.paEnd ∧ walkDev.entryAt 0x10000000 (bitsOf 0x40123456 39 9) = some 0x10001001 ∧
    walkDev.entryAt 0x10001000 (bitsOf 0x40123456 30 9) = some 0x10002001 ∧
    walkDev.entryAt 0x10002000 (bitsOf 0x40123456 21 9) = some 0x10003001 ∧
    walkDev.entryAt 0x10003000 (bitsOf 0x40123456 16 5) = some 0x23451000F := by decide

/-- WalkReachesTheSmallPage: what the entries of the example hold. -/
theorem witness_walk_entries :
    tableEntry walkDev.paEnd 0x10001001 = .ok 0x10001000 ∧ tableEntry walkDev.paEnd 0x10002001 = .ok 0x10002000 ∧
    bitOf 0x10003001 0 = 1 ∧ bitOf 0x10003001 1 = 0 ∧ bitsOf 0x10003001 4 4 = 0 ∧ bitsOf 0x10003001 48 8 = 0 ∧
    bitsOf 0x10003001 8 40 * 256 = 0x10003000 ∧ 0x10003000 + 256 ≤ walkDev.paEnd ∧
    bitOf 0x23451000F 0 = 1 ∧ bitOf 0x23451000F 1 = 1 ∧ bitsOf 0x23451000F 4 4 = 0 ∧ bitsOf 0x23451000F 8 8 = 0 ∧
    bitsOf 0x23451000F 48 8 = 0 ∧ bitsOf 0x23451000F 8 40 * 256 = 0x234510000 ∧ 0x234510000 + 65536 ≤ walkDev.paEnd ∧
    bitOf 0x23451000F 3 = 1 ∧ bitOf 0x23451000F 2 = 1 := ⟨rfl, rfl, by decide⟩

/-- The physical address of the example of R386. -/
theorem test_walk_example : walkDev.translate 3 0x40123456 false = .ok 0x234513456 := rfl

/-- PolicerTestsEachFrame: the first filter entry takes the class of the frame on its sub-port. -/
theorem witness_police :
    (List.range 4096).find? ((d0.setInd fltPage 0 0x00010101).fltMatch rx0) = some 0 ∧ Bucket.empty.last ≤ 0 := by
  refine ⟨?_, by decide⟩
  rw [show (4096 : Nat) = 4095 + 1 from rfl, List.range_succ_eq_map, List.find?_cons_of_pos (by decide)]

/-- PolicerResetFillsTheBucket. -/
theorem witness_policer_reset : dB.mayAct 17 (pageNo A.POL_CMD) := by unfold Dev.mayAct; decide

/-- RunningValueKeepsItsWidth: CRC-8. -/
theorem witness_crc8 : let p : CuPar := ⟨8, 0x07, 0, 0, false, false⟩; 8 ≤ p.w ∧ p.poly < 2 ^ p.w ∧ 255 < 2 ^ p.w := by decide

/-- SidebandQueueOfALane: a lane in Stairline mode, with its queue empty and full. -/
theorem witness_sideband :
    let d := act (act d0 (F.LANE_CTL.enable 5) 1) (F.LANE_CTL.mode 5) 1
    let f : Frag := { channel := 0, first := true, last := true, data := [0, 0, 0, 0, 0, 0] }
    d.live = true ∧ d.modeOf 5 = 1 ∧ (d.lane 5).sbRx.length < 64 ∧
    64 ≤ ({ d.lane 5 with sbRx := List.replicate 64 f } : Lane).sbRx.length := by decide

/-- SecondRingCopyIsDropped: a landing of a ring hears another, for the first time and again. -/
theorem witness_ring :
    let d := act (act d0 F.CASC_CTL.enable 1) F.CASC_CTL.topology 1
    d.actIs F.CASC_CTL.enable = true ∧ d.ring = true ∧ (msg 1 true).src.val ≠ d.get F.CASC_ID.landing ∧ (msg 1 false).crcOk = false ∧
    d.casc.seen.contains (1, 7) = false ∧ ({ d with casc.seen := [(1, 7)] } : Dev).casc.seen.contains (1, 7) = true := by decide

/-- A save of a thermal trip, and one of a power failure. -/
def save (cause : Nat) : Save :=
  { seq := 1, t0 := 0, tc := 0, cause := cause, gen := 0, ticks := [], regs := [], ind := [], wide := [], valid := true }

/-- SaveSparesTheNewest. -/
theorem witness_newest_save : ({ d0 with pwr.saveA := some (save 1) } : Dev).newestSave = some (save 1) := by decide

/-- SaveCompletePowersDown, for both kinds of cause. -/
theorem witness_save_complete :
    let d (c : Nat) : Dev := { d0 with pwr.fail := some (c, 0), pwr.failing := some (save c) }
    (d 3).pwr.fail = some (3, 0) ∧ (d 3).pwr.failing = some (save 3) ∧ (save 3).cause = 3 ∧
    (d 1).pwr.failing = some (save 1) ∧ (save 1).cause ≠ 3 := by decide

/-- UruriLevelUnderTheCeiling: the levels on both sides of the ceiling. -/
theorem witness_ceiling :
    let d := d0.put F.URURI_CTL.ceiling 2
    d.live = true ∧ d.get F.URURI_CTL.ceiling < 3 ∧ 2 ≤ d.get F.URURI_CTL.ceiling ∧ 0 ≤ d.get F.URURI_CTL.ceiling := by decide

/-- UruriLevelUnderTheCeiling: a line of 257 characters, and one that spells no command. -/
theorem witness_line : 256 < (List.replicate 257 (0x41 : Byte)).length ∧ (ururiLine 0 (asciiOf "FOO 1")).isNone = true :=
  ⟨List.length_replicate ▸ by decide, by decide⟩

/-- A line in lower case, with a number in hexadecimal and underscores; one with a letter in a decimal number (R542). -/
theorem test_line :
    (ururiLine 0 (asciiOf "rd 0x1_00 2")).isSome = true ∧ (ururiLine 0 (asciiOf "RD 1a")).isNone = true ∧
    lineNumber (charsOf "0x1_fF") = some 511 ∧ lineNumber (charsOf "1_0") = some 10 := by decide

/-- FlashProgramClearsBits: the last word of the flash, and its sector. -/
theorem witness_flash :
    4 * 100663295 < 0x18000000 ∧ 100663295 / 16384 = 6143 ∧ 100663295 / 16384 ≠ 6142 ∧ (0 : Nat) ≠ 100663295 := by decide

/-- FlashProgramClearsBits: the flash is busy for the boot application, and a session's access waits behind its own. -/
theorem witness_flash_waits :
    let d := (dB.put F.FLASH_STATUS.busy 1).setLoc 17 (A.IND_ADDR flashPage) 0x05FFFFFF
    d.present 17 = true ∧ d.is F.FLASH_STATUS.busy = true ∧ d.get (F.PRIV_LEVEL.level flashPage) ≤ d.levelOn 17 flashPage ∧
    (d.loc 17 (A.IND_ADDR flashPage)).toNat < 0x08000000 ∧ d.flashWritable (4 * (d.loc 17 (A.IND_ADDR flashPage)).toNat) = true ∧
    (d0.park (.new 0 [.read 0x100] .quiet)).grants 0 0 = false := by decide

/-- DmaAndCheckRowsComplete: a unit of the Alcove in a region, and the units on both sides of the border. -/
theorem witness_alcove_unit : (({ Cu.idle with inAlc := true } : Cu).inAlc = true) ∧ (55 : Fin 64).val < 56 ∧ 56 ≤ (56 : Fin 64).val := by
  decide

/-- AlcovePowerAndBootRowsComplete: a module held in reset, whose charger runs. -/
theorem witness_charger :
    let d : Dev := { d0 with pwr.stopped := true }
    d.live = false ∧ d.chargerRuns = true := by decide

/-- AlcovePowerAndBootRowsComplete: temperatures on both sides of the trip. -/
theorem witness_trip : signedOf (109 : BitVec 8).toNat 8 < 110 ∧ 110 ≤ signedOf (110 : BitVec 8).toNat 8 ∧
    signedOf (255 : BitVec 8).toNat 8 < 110 := by decide

/-! ## Single steps -/

/-- A software write moves a fence forward by 5 and leaves the queue empty (R198). -/
theorem test_step_fence_write :
    (match step { st dB with pending := [.fenceWrite 9 17 3 5] } with
      | .next u => some (u.dev.fence 3, u.dev.now, u.pending)
      | _ => none) = some (5, 9, []) := by decide +kernel

/-- A hall of the active configuration is killed (R87). -/
theorem test_step_hall_kill :
    (match step { st (act (act dB (F.TICK_CTL.enable 0) 1) (F.HALL_CTL.enable 2) 1) with pending := [.hallKill 9 17 2] } with
      | .next u => some ((u.dev.hall 2).killedAt, u.dev.get (F.HALL_STATUS.killed 2), u.dev.get (F.KILL_COUNT.count 2))
      | _ => none) = some (some 9, 1, 1) := by decide +kernel

/-- The identification code shifts out bit 0 first, after the eight bits of the instruction register (R561). -/
theorem test_step_idcode :
    (match exec (.tapInstruction 1 { trstN := true, ir := 0x01, dr := List.replicate 32 false }) State.reset with
      | .next u => some (u.dev.out.head?, u.tap.ir)
      | _ => none) = some (some (.tdo 1 ((List.range 32).map (0x1014454B : Word).getLsbD)), 0x01) := by decide +kernel

/-- The seal opens: the count rises to 1 (R489). -/
theorem test_step_seal_opens :
    (match exec (.sealChange 1 2 true) State.reset with
      | .next u => some (u.alc.sealCount, u.alc.opened, u.alc.nextSeq)
      | _ => none) = some (1, true, 1) := by decide

end Sys2Proof.Tests
end

/-! # The frame contract: ticks, commits, the commands and items of the GLOBAL page

First what software accesses do once they are granted (a command bit, a register outside the header, a staged field, a write-direction
mailbox item), each said once; then the statements of the family. -/

namespace Sys2Proof.Machine

/-! ## Command bits -/

/-- No lock bit covers a field outside the hall, DMA and translation pages (R139, R210, R395, R422). -/
theorem Dev.fieldLocked_false (d : Dev) {a : Nat} {p : Page} (f : Fld) (hp : pageAt a = some p)
    (hb : p.block ≠ .hall ∧ p.block ≠ .dma ∧ p.block ≠ .xlat) : d.fieldLocked a f = false := by
  obtain ⟨hh, hd, hx⟩ := hb
  unfold Dev.fieldLocked
  rw [hp]
  dsimp only
  split
  · exact absurd ‹p.block = .hall› hh
  · exact absurd ‹p.block = .dma› hd
  · exact absurd ‹p.block = .xlat› hx
  · rfl

/-- A command bit of an accessor that may act there, of a field that is not locked, with nothing outstanding: its action, alone. -/
theorem Dev.cmd_eq (al : Alcove) (d : Dev) {acc : Nat} {r : FieldRef} {p : Page} {f : Fld} {e : Dev} (c : CmdAt r.addr r.lsb p f)
    (hm : d.mayAct acc (pageNo r.addr)) (hp : f.prv = true → 2 ≤ d.levelOn acc (pageNo r.addr)) (hk : d.fieldLocked r.addr f = false)
    (hb : d.cmdBits r.addr = 0) (he : d.act1 d acc r.addr (2 ^ r.lsb) = (true, e)) : d.cmd al acc r = e := by
  obtain ⟨hx, hg, hl⟩ := hm
  unfold Dev.cmd
  rw [Dev.writeBits_cmd al d acc r.addr r.lsb p f c hx hg hl hp hk (by rw [hb]; exact BitVec.and_allOnes) (by rw [he]), he]

/-- A command of an accessor that acts through a command bit. -/
theorem State.act_cmd (s : State) (t : Nat) (acc : Nat) (r : FieldRef) (e : Dev) (hl : s.dev.live = true)
    (he : (s.dev.reach t).cmd s.alc acc r = e) : (s.act t fun d => d.cmd s.alc acc r) = .next { s with dev := e } := by
  rw [State.act_live _ _ _ hl, he]

/-! ## A write of a register outside the header -/

/-- A write to a register of a page outside its header is one of its fields. -/
theorem Dev.regWrite_high (al : Alcove) (d : Dev) (acc : Nat) {a : Nat} {p : Page} (v m : Word) (hw : wordAddr a = a)
    (hp : pageAt a = some p) (ho : 0x100 ≤ pageOfs a) :
    d.regWrite al acc a v m = (.of (d.writeFields acc a p v m).1, (d.writeFields acc a p v m).2) := by
  have n1 : pageOfs a ≠ 0x0C := by omega
  have n2 : ¬ (pageOfs a = 0x14 ∨ pageOfs a = 0x18 ∨ pageOfs a = 0x1C) := by omega
  have n3 : ¬ (pageOfs a = 0x20 ∨ (0x30 ≤ pageOfs a ∧ pageOfs a < 0x40)) := by omega
  have n4 : pageOfs a ≠ 0x40 := by omega
  have n5 : pageOfs a ≠ 0x24 := by omega
  have n6 : pageOfs a ≠ 0x28 := by omega
  unfold Dev.regWrite
  simp only [hw, hp, n1, n2, n3, n4, n5, n6, if_false]

/-- A granted write of a whole register outside the header writes its fields. -/
theorem Dev.store_high (al : Alcove) (d : Dev) {acc a : Nat} {p : Page} (v : Word) (hw : wordAddr a = a) (hp : pageAt a = some p)
    (ho : 0x100 ≤ pageOfs a) (hx : d.present acc = true) (hg : d.grants acc (pageNo a) = true) :
    d.store al acc a v = (d.writeFields acc a p v 0xFFFFFFFF).2 := by
  unfold Dev.store
  rw [Dev.access_eq al d acc _ hx (by rw [Access.page, hw]; exact hg) (Dev.flashHolds_high _ _ _ _ _ (by rw [hw]; exact ho)),
    Dev.access1, Dev.regWrite_high al d acc v _ hw hp ho]

/-- What the address of a plain staged field must be: a register of a page outside its header, without action, whose one writable field
is an RWS field without PRV suffix and storing rule. -/
structure StagedAt (a : Nat) (p : Page) (f : Fld) : Prop where
  word  : wordAddr a = a
  page  : pageAt a = some p
  ofs   : 0x100 ≤ pageOfs a
  evt   : evtBits a = 0xFFFFFFFF
  one   : writeFlds a 0xFFFFFFFF = [f]
  plain : actingAt a = .plain
  acc   : f.acc = .rws
  prv   : f.prv = false
  clamp : f.clamp = .none

/-- A staged field outside the header takes the bits written to it. -/
theorem fieldNew_staged {a : Nat} {p : Page} {f : Fld} (c : StagedAt a p f) (x : Nat) :
    fieldNew p a f (bitsOf x f.lsb f.width) = bitsOf x f.lsb f.width := by
  have ho := c.ofs
  have n : pageOfs a ≠ 0x48 := by omega
  simp [fieldNew, n, Fld.store, c.clamp, bitsOf]

/-- At the level of the page a write of the bits `m` of a staged field that is not locked stores them and nothing else. -/
theorem Dev.writeFields_staged (d : Dev) (acc : Nat) {a : Nat} {p : Page} {f : Fld} (c : StagedAt a p f) (v m : Word)
    (he : m &&& evtBits a = m) (h1 : writeFlds a m = [f]) (hl : d.get (F.PRIV_LEVEL.level (pageNo a)) ≤ d.levelOn acc (pageNo a))
    (hk : d.fieldLocked a f = false) :
    d.writeFields acc a p v m =
      (true, d.setStored a (putBits (d.stored a) f.lsb f.width (bitsOf ((d.stored a &&& ~~~m) ||| (v &&& m)).toNat f.lsb f.width))) := by
  have hn : ¬ d.levelOn acc (pageNo a) < d.get (F.PRIV_LEVEL.level (pageNo a)) := by omega
  have hw : d.wosSet a f = false := by simp [Dev.wosSet, c.acc]
  unfold Dev.writeFields
  simp [he, h1, hn, c.acc, c.prv, hk, hw, fieldNew_staged c, Dev.storeWord, Dev.act1, c.plain]

/-- A write of a whole staged register by an accessor that may act there: the bits of its field are staged, and nothing else changes. -/
theorem Dev.store_staged (al : Alcove) (d : Dev) {acc a : Nat} {p : Page} {f : Fld} (c : StagedAt a p f) (v : Word)
    (hm : d.mayAct acc (pageNo a)) (hk : d.fieldLocked a f = false) :
    d.store al acc a v = d.setStored a (putBits (d.stored a) f.lsb f.width (bitsOf v.toNat f.lsb f.width)) := by
  obtain ⟨hx, hg, hl⟩ := hm
  have hv : (d.stored a &&& ~~~(0xFFFFFFFF : Word)) ||| (v &&& 0xFFFFFFFF) = v := by
    rw [show (0xFFFFFFFF : Word) = BitVec.allOnes 32 from rfl, BitVec.and_allOnes, BitVec.not_allOnes, BitVec.and_zero, BitVec.zero_or]
  rw [Dev.store_high al d v c.word c.page c.ofs hx hg,
    Dev.writeFields_staged d acc c v _ (by rw [c.evt]; rfl) c.one hl hk, hv]

/-- A word whose low field is replaced by the bits of another: the masked mix of the two. -/
theorem putBits_low (w v : Word) (n : Nat) (hn : n ≤ 32) :
    putBits w 0 n (bitsOf v.toNat 0 n) = (w &&& ~~~(BitVec.ofNat 32 (2 ^ n - 1))) ||| (v &&& BitVec.ofNat 32 (2 ^ n - 1)) := by
  have hv : v &&& BitVec.ofNat 32 (2 ^ n - 1) = BitVec.ofNat 32 (v.toNat % 2 ^ n) := by
    apply BitVec.eq_of_toNat_eq
    have : 2 ^ n - 1 < 2 ^ 32 := lt_of_lt_of_le (Nat.sub_lt (Nat.two_pow_pos n) one_pos) (Nat.pow_le_pow_right two_pos hn)
    rw [BitVec.toNat_and, BitVec.toNat_ofNat, BitVec.toNat_ofNat, Nat.mod_eq_of_lt this, Nat.and_two_pow_sub_one_eq_mod,
      Nat.mod_eq_of_lt (lt_of_le_of_lt (Nat.mod_le _ _) v.isLt)]
  simp [putBits, bitsOf, hv]

/-- A register write of an accessor that puts nothing at the doors of the Alcove. -/
theorem State.access_store (s : State) (t acc a : Nat) (v : Word) (e : Dev) (hl : s.dev.live = true)
    (he : (s.dev.reach t).store s.alc acc a v = e) (hq : e.alcq = []) :
    (s.access t fun al d => d.store al acc a v) = .next { s with dev := e } := by
  rw [State.access_live _ _ _ hl, he, State.settle_empty _ hq]

/-! ## Write-direction mailbox items -/

/-- The control word of a write request names the item and the write direction. -/
theorem writeCtl (x : Word) (n : Nat) (h : n < 256) :
    bitOf ((x &&& 0x01010000) ||| w32 (n % 256 + 256)).toNat 8 = 1 ∧ bitsOf ((x &&& 0x01010000) ||| w32 (n % 256 + 256)).toNat 0 8 = n := by
  have hx : ((x &&& 0x01010000) ||| w32 (n % 256 + 256)).toNat = (x.toNat &&& 0x01010000) ||| (n + 256) := by
    have h2 : (w32 (n % 256 + 256)).toNat = n + 256 := by simp [w32]; omega
    rw [BitVec.toNat_or, BitVec.toNat_and, h2]
    rfl
  have h9 : ((x.toNat &&& 0x01010000) ||| (n + 256)) % 2 ^ 9 = n + 256 := by
    rw [Nat.or_mod_two_pow, Nat.and_mod_two_pow]
    simp; omega
  rw [hx]
  unfold bitOf bitsOf
  rw [Nat.shiftRight_eq_div_pow, Nat.shiftRight_zero]
  omega

/-- A request for an item of another page than that of the flash does not wait for the flash (R515). -/
theorem Dev.flashHolds_send (d : Dev) (acc pg item : Nat) (ws : List Word) (h : pg ≠ flashPage) :
    d.flashHolds acc (.send pg item ws) = false := by
  simp [Dev.flashHolds, h]

/-! ### The words and the request as posted -/

section
variable (d : Dev) (acc : Nat) (i : Item) (ws : List Word)

/-- Posting a request keeps whatever session-local words have no part in. -/
theorem Dev.posted_keeps {γ : Type} (g : Dev → γ) (h : ∀ (d : Dev) (b a : Nat) (w : Word), g (d.setLoc b a w) = g d) :
    g (d.posted acc i ws) = g d := by
  unfold Dev.posted
  exact (h _ _ _ _).trans (foldl_keeps g _ (fun _ _ => h _ _ _ _) _ _)

/-- So does the end of an item that is taken. -/
theorem Dev.took_keeps {γ : Type} (g : Dev → γ) (h : ∀ (d : Dev) (b a : Nat) (w : Word), g (d.setLoc b a w) = g d) (pg : Nat) :
    g (d.took acc pg) = g d := by
  unfold Dev.took Dev.setMbx
  rw [h, h]

/-- A posted request leaves whether an item waits. -/
theorem Dev.posted_itemWaits : (d.posted acc i ws).itemWaits acc i.place.1 = d.itemWaits acc i.place.1 := by
  have h4 : List.range 4 = [0, 1, 2, 3] := rfl
  unfold Dev.itemWaits Dev.posted
  rw [h4]
  simp only [List.foldl_cons, List.foldl_nil, A.MBX_DATA, A.MBX_CTL, waitAddr]
  simp (disch := unfold locKey; omega) only [Dev.loc_setLoc_other]

/-- The mailbox holds the words of a posted request. -/
theorem Dev.posted_mbxWord {k : Nat} (hk : k < 4) : (d.posted acc i ws).mbxWord acc i.place.1 k = ws.getD k 0 := by
  have h4 : List.range 4 = [0, 1, 2, 3] := rfl
  unfold Dev.mbxWord Dev.posted
  rw [h4]
  simp only [List.foldl_cons, List.foldl_nil, A.MBX_DATA, A.MBX_CTL]
  interval_cases k <;>
    simp (disch := unfold locKey; omega) only [Dev.loc_setLoc_other, Dev.loc_setLoc_same]

/-- The control word of a posted request. -/
theorem Dev.posted_ctl (hn : i.place.2 < 256) :
    bitOf ((d.posted acc i ws).loc acc (A.MBX_CTL i.place.1)).toNat 8 = 1 ∧
    bitsOf ((d.posted acc i ws).loc acc (A.MBX_CTL i.place.1)).toNat 0 8 = i.place.2 := by
  unfold Dev.posted
  dsimp only
  rw [Dev.loc_setLoc_same]
  exact writeCtl _ _ hn

end

/-- A granted request in the write direction, at the level of its page and with no item waiting there, offers its item (R281). -/
theorem Dev.itemSend_eq (al : Alcove) (d : Dev) (acc : Nat) (i : Item) (ws : List Word) (p : Page) (hp : pageOf i.place.1 = some p)
    (hi : itemAt p i.place.2 = some i) (hn : i.place.2 < 256) (hr : i.writes = true) (hd : i.door = false) (hm : d.mayAct acc i.place.1)
    (hw : d.itemWaits acc i.place.1 = false) (hf : d.flashHolds acc (.send i.place.1 i.place.2 ws) = false) :
    d.itemSend al acc i ws = ((d.posted acc i ws).offerItem acc i.place.1 i).2 := by
  obtain ⟨hx, hg, hl⟩ := hm
  obtain ⟨hc8, hc⟩ := d.posted_ctl acc i ws hn
  have hn' : ¬ (d.posted acc i ws).levelOn acc i.place.1 < (d.posted acc i ws).get (F.PRIV_LEVEL.level i.place.1) := by
    rw [Dev.posted_keeps d acc i ws (fun d => d.levelOn acc i.place.1) (fun _ _ _ _ => rfl),
      Dev.posted_keeps d acc i ws (fun d => d.get _) (fun _ _ _ _ => rfl)]
    omega
  have hw' : (d.posted acc i ws).itemWaits acc i.place.1 = false := by rw [Dev.posted_itemWaits, hw]
  unfold Dev.itemSend
  rw [Dev.access_eq al d acc (.send i.place.1 i.place.2 ws) hx hg hf, Dev.access1, hp]
  show ((d.posted acc i ws).mbxGo al acc i.place.1 p).2 = _
  unfold Dev.mbxGo
  simp [hc8, hc, hn', hi, hw', hr, hd]

/-- An item that the module takes has its effect, with go and valid clear (R281). -/
theorem Dev.itemSend_taken (al : Alcove) (d : Dev) (acc : Nat) (i : Item) (ws : List Word) (e : Dev) (p : Page)
    (hp : pageOf i.place.1 = some p) (hi : itemAt p i.place.2 = some i) (hn : i.place.2 < 256) (hr : i.writes = true)
    (hd : i.door = false) (ht : d.takesItem acc i ws e) (hf : d.flashHolds acc (.send i.place.1 i.place.2 ws) = false) :
    d.itemSend al acc i ws = e.took acc i.place.1 := by
  obtain ⟨hm, hw, he⟩ := ht
  rw [Dev.itemSend_eq al d acc i ws p hp hi hn hr hd hm hw hf]
  unfold Dev.offerItem
  simp only [Dev.posted_mbxWord, Nat.reduceLT, he]
  rfl

/-! ## Commands of the module pages (O15) -/

theorem commitCancel_cmdAt : CmdAt A.COMMIT_CMD 0 ⟨.glob, 0, 0⟩ (fp "cancel" 0 1 .cmd 0) := by
  constructor <;> decide
theorem snapNow_cmdAt : CmdAt A.SNAP_CMD 0 ⟨.glob, 0, 0⟩ (fp "now" 0 1 .cmd 0) := by
  constructor <;> decide
theorem tsynRecal_cmdAt (c : Fin 8) : CmdAt (A.TSYN_CMD c) 0 ⟨.clock, 0, 2⟩ (fpv "recal" 0 1 .cmd 0) := by
  constructor <;> revert c <;> decide
theorem rstModule_cmdAt : CmdAt A.RST_CMD 0 ⟨.powerBoot, 0, 0⟩ (fpv "module" 0 1 .cmd 0) := by
  constructor <;> decide
theorem rstStandby_cmdAt : CmdAt A.RST_CMD 1 ⟨.powerBoot, 0, 0⟩ (fpv "standby" 1 1 .cmd 0) := by
  constructor <;> decide

theorem actingAt_commitCmd : actingAt A.COMMIT_CMD = .commitCmd := by decide
theorem actingAt_snapCmd : actingAt A.SNAP_CMD = .snapCmd := by decide
theorem actingAt_tsynCmd (c : Fin 8) : actingAt (A.TSYN_CMD c) = .tsyn c := by revert c; decide
theorem actingAt_rstCmd : actingAt A.RST_CMD = .rstCmd := by decide

/-- COMMIT_CMD.cancel at the level of the GLOBAL page cancels (R36). -/
theorem Dev.cmd_commitCancel (al : Alcove) (d : Dev) (acc : Nat) (hm : d.mayAct acc 0) :
    d.cmd al acc F.COMMIT_CMD.cancel = d.cancelAny acc :=
  Dev.cmd_eq al d commitCancel_cmdAt hm (fun h => absurd h (by decide)) (d.fieldLocked_false _ commitCancel_cmdAt.page (by decide))
    (by simp only [Dev.cmdBits, F.COMMIT_CMD.cancel, actingAt_commitCmd])
    (by simp [Dev.act1, F.COMMIT_CMD.cancel, actingAt_commitCmd, bitOf])

/-- SNAP_CMD.now at the level of the GLOBAL page takes a snapshot (R283). -/
theorem Dev.cmd_snapNow (al : Alcove) (d : Dev) (acc : Nat) (hm : d.mayAct acc 0) :
    d.cmd al acc F.SNAP_CMD.now = d.snapshot false :=
  Dev.cmd_eq al d snapNow_cmdAt hm (fun h => absurd h (by decide)) (d.fieldLocked_false _ snapNow_cmdAt.page (by decide))
    (by simp only [Dev.cmdBits, F.SNAP_CMD.now, actingAt_snapCmd])
    (by simp [Dev.act1, F.SNAP_CMD.now, actingAt_snapCmd, bitOf])

/-- TSYN_CMD.recal with none outstanding requests the operation after the step that a canvas at rest owes (R468, R469). -/
theorem Dev.cmd_tsynRecal (al : Alcove) (d : Dev) (acc : Nat) (c : Fin 8) (hm : d.mayPriv acc (pageNo (A.TSYN_CMD c)))
    (hb : d.cmdBits (A.TSYN_CMD c) = 0) : d.cmd al acc (F.TSYN_CMD.recal c) = (d.tsynRest c).opRequest 6 c c 2 :=
  Dev.cmd_eq al d (tsynRecal_cmdAt c) hm.1 (fun _ => hm.2) (d.fieldLocked_false _ (tsynRecal_cmdAt c).page (by decide)) hb
    (by simp [Dev.act1, F.TSYN_CMD.recal, actingAt_tsynCmd, bitOf])

/-- With no reset to come no bit of RST_CMD is outstanding (R275, R511). -/
theorem Dev.cmdBits_rstCmd (d : Dev) (hr : d.pwr.rstAt = none) : d.cmdBits A.RST_CMD = 0 := by
  simp [Dev.cmdBits, actingAt_rstCmd, hr, b2n, w32]

/-- RST_CMD.module with no canvas enabled: a reset is due 1 ms later (R511). -/
theorem Dev.cmd_rstModule (al : Alcove) (d : Dev) (acc : Nat) (hm : d.mayPriv acc (pageNo A.RST_CMD)) (hc : d.anyCanvas = false)
    (hr : d.pwr.rstAt = none) : d.cmd al acc F.RST_CMD.module = { d with pwr := { d.pwr with rstAt := some (d.now + 1000000) } } :=
  Dev.cmd_eq al d rstModule_cmdAt hm.1 (fun _ => hm.2) (d.fieldLocked_false _ rstModule_cmdAt.page (by decide)) (d.cmdBits_rstCmd hr)
    (by simp [Dev.act1, F.RST_CMD.module, actingAt_rstCmd, bitOf, Dev.rstModule, hc, hr])

/-- RST_CMD.standby with no canvas enabled: the module goes to standby (R511). -/
theorem Dev.cmd_rstStandby (al : Alcove) (d : Dev) (acc : Nat) (hm : d.mayPriv acc (pageNo A.RST_CMD)) (hc : d.anyCanvas = false)
    (hr : d.pwr.rstAt = none) :
    d.cmd al acc F.RST_CMD.standby =
      (let e := (d.pwrgood false).vioOut false
       { e with pwr := { e.pwr with on := false, standby := true, kind := 5 } }) :=
  Dev.cmd_eq al d rstStandby_cmdAt hm.1 (fun _ => hm.2) (d.fieldLocked_false _ rstStandby_cmdAt.page (by decide)) (d.cmdBits_rstCmd hr)
    (by simp [Dev.act1, F.RST_CMD.standby, actingAt_rstCmd, bitOf, Dev.rstStandby, hc])

/-- CLK_CTL.core_recal of an accessor at level 2, with none outstanding, recalibrates with the edges that the guard swallows (R457). -/
theorem execCoreRecal_granted (s : State) (t : Nat) (acc : Accessor) (edges : Nat) (hl : s.dev.live = true)
    (hx : (s.dev.reach t).present acc = true) (hg : (s.dev.reach t).grants acc (pageNo A.CLK_CTL) = true)
    (h2 : 2 ≤ (s.dev.reach t).levelOf acc) (ho : (s.dev.reach t).is F.CLK_CTL.core_recal = false) :
    execCoreRecal t acc edges s = .next { s with dev := (s.dev.reach t).coreRecal edges } := by
  have hn : ¬ ((s.dev.reach t).levelOf acc < 2) := by omega
  unfold execCoreRecal
  rw [State.act_live _ _ _ hl]
  simp [hn, ho, hx, hg]

/-- Settles O15: each command is one granted command bit whose action `cmd_eq` gives; core recalibration has a meaning of its own. -/
theorem systemCommandsAct : Obligations.SystemCommandsAct := by
  unfold Obligations.SystemCommandsAct
  intro s t acc c edges hl
  refine ⟨fun hm => ⟨?_, ?_⟩, fun hx hg h2 ho => ?_, fun hm hb => ?_, fun hm hc hr => ⟨?_, ?_⟩⟩
  · exact s.act_cmd t acc _ _ hl (Dev.cmd_commitCancel _ _ _ hm)
  · exact s.act_cmd t acc _ _ hl (Dev.cmd_snapNow _ _ _ hm)
  · exact execCoreRecal_granted s t acc edges hl hx hg h2 ho
  · exact s.act_cmd t acc _ _ hl (Dev.cmd_tsynRecal _ _ _ c hm hb)
  · exact s.act_cmd t acc _ _ hl (Dev.cmd_rstModule _ _ _ hm hc hr)
  · exact s.act_cmd t acc _ _ hl (Dev.cmd_rstStandby _ _ _ hm hc hr)

/-! ## The period of a canvas (O24) -/

theorem periodNum_stagedAt (c : Fin 8) : StagedAt (A.PERIOD_NUM c) ⟨.glob, 0, 0⟩ (fp "num" 0 32 .rws 0x1312D00) := by
  constructor <;> revert c <;> decide
theorem periodDen_stagedAt (c : Fin 8) : StagedAt (A.PERIOD_DEN c) ⟨.glob, 0, 0⟩ (fp "den" 0 10 .rws 1) := by
  constructor <;> revert c <;> decide

/-- A write of a staged field of the GLOBAL page, at its level and with nothing at the doors, changes that field of the staged word alone. -/
theorem execRegisterWrite_staged (s : State) (t : Nat) (acc : Accessor) (v : Word) {a : Nat} {f : Fld} (c : StagedAt a ⟨.glob, 0, 0⟩ f)
    (ha : a < 0x1000) (hl : s.dev.live = true) (hq : (s.reached t).doorsShut) (hm : (s.dev.reach t).mayAct acc 0) :
    execRegisterWrite t acc (BitVec.ofNat 26 a) v s =
      .next { s with
        dev := (s.dev.reach t).setStored a (putBits ((s.dev.reach t).stored a) f.lsb f.width (bitsOf v.toNat f.lsb f.width)) } := by
  have hpg : pageNo a = 0 := Nat.div_eq_of_lt ha
  have hto : (BitVec.ofNat 26 a).toNat = a := by rw [BitVec.toNat_ofNat]; omega
  refine State.access_store s t acc _ v _ hl ?_ hq
  rw [hto]
  exact Dev.store_staged _ _ c v (hpg ▸ hm) (Dev.fieldLocked_false _ f c.page (by decide))

/-- Settles O24: both registers hold one staged field, of 32 and of 10 bits from bit 0. -/
theorem periodWriteStagesOnly : Obligations.PeriodWriteStagesOnly := by
  unfold Obligations.PeriodWriteStagesOnly
  intro s t acc c v hl hq hm
  refine ⟨?_, ?_, fun a w => ⟨rfl, rfl⟩⟩
  · have h := execRegisterWrite_staged s t acc v (periodNum_stagedAt c) (by unfold A.PERIOD_NUM; omega) hl hq hm
    have hv (w : Word) : putBits w 0 32 (bitsOf v.toNat 0 32) = v := by
      rw [putBits_low w v 32 le_rfl, show BitVec.ofNat 32 (2 ^ 32 - 1) = BitVec.allOnes 32 from rfl, BitVec.not_allOnes, BitVec.and_zero,
        BitVec.zero_or, BitVec.and_allOnes]
    exact h.trans (by simp only [fp, hv])
  · have h := execRegisterWrite_staged s t acc v (periodDen_stagedAt c) (by unfold A.PERIOD_DEN; omega) hl hq hm
    exact h.trans (by simp only [fp, putBits_low _ v 10 (by decide)]; rfl)

/-! ## Plain read items (O28) -/

/-- Settles O28: asking for an item writes the accessor's MBX_CTL alone, which none of these items reads. -/
theorem readItemsReturnWhatTheStateHolds : Obligations.ReadItemsReturnWhatTheStateHolds := by
  unfold Obligations.ReadItemsReturnWhatTheStateHolds
  intro d al acc c u
  refine ⟨rfl, fun hr => ?_, rfl, ?_, rfl, rfl, rfl, rfl⟩
  · have hr' : (d.asked acc (.tickNow c)).is (F.TICK_STATUS.running c) = true := hr
    simp only [Dev.itemWords, Dev.itemRead, hr']
    rfl
  · show [w32 (d.serial / 2 ^ (32 * 0)), _, _, _] = _
    rw [Nat.mul_zero, Nat.pow_zero, Nat.div_one]
    rfl

/-! ## The epoch of a canvas (O30) -/

/-- The words of the epoch of a canvas as EPOCH_WRITE stages them (R55). -/
def Dev.stageEpoch (d : Dev) (c : Nat) (w0 w1 w2 : Word) : Dev :=
  ((d.setStored (epochAddr c 0) (w0 &&& 0x3FFFFFFF)).setStored (epochAddr c 1) w1).setStored (epochAddr c 2) (w2 &&& 0xFFFF)

theorem epochAddr_ne (c : Nat) {i j : Nat} (h : i ≠ j) : epochAddr c i ≠ epochAddr c j := by
  unfold epochAddr; omega

theorem Dev.stageEpoch_stored (d : Dev) (c : Nat) (w0 w1 w2 : Word) :
    (d.stageEpoch c w0 w1 w2).stored (epochAddr c 0) = w0 &&& 0x3FFFFFFF ∧
    (d.stageEpoch c w0 w1 w2).stored (epochAddr c 1) = w1 ∧ (d.stageEpoch c w0 w1 w2).stored (epochAddr c 2) = w2 &&& 0xFFFF := by
  have h01 := epochAddr_ne c (i := 0) (j := 1) (by decide)
  have h02 := epochAddr_ne c (i := 0) (j := 2) (by decide)
  have h12 := epochAddr_ne c (i := 1) (j := 2) (by decide)
  unfold Dev.stageEpoch
  refine ⟨?_, ?_, ?_⟩
  · rw [Dev.stored_setStored_other _ _ _ _ h02, Dev.stored_setStored_other _ _ _ _ h01, Dev.stored_setStored_same]
  · rw [Dev.stored_setStored_other _ _ _ _ h12, Dev.stored_setStored_same]
  · rw [Dev.stored_setStored_same]

theorem Dev.stageEpoch_stored_other (d : Dev) (c : Nat) (w0 w1 w2 : Word) {a : Nat} (h0 : a ≠ epochAddr c 0) (h1 : a ≠ epochAddr c 1)
    (h2 : a ≠ epochAddr c 2) : (d.stageEpoch c w0 w1 w2).stored a = d.stored a := by
  unfold Dev.stageEpoch
  rw [Dev.stored_setStored_other _ _ _ _ h2, Dev.stored_setStored_other _ _ _ _ h1, Dev.stored_setStored_other _ _ _ _ h0]

theorem itemAt_epoch (c : Fin 8) : itemAt ⟨.glob, 0, 0⟩ (0x10 + c) = some (.epoch c) := by revert c; decide

/-- A request for the epoch of a canvas is taken: its words are staged (R55). -/
theorem Dev.itemSend_epoch (al : Alcove) (d : Dev) (acc : Nat) (c : Fin 8) (w0 w1 w2 : Word) (hm : d.mayAct acc 0)
    (hw : d.itemWaits acc 0 = false) :
    d.itemSend al acc (.epoch c) [w0, w1, w2] = ((d.posted acc (.epoch c) [w0, w1, w2]).stageEpoch c w0 w1 w2).took acc 0 :=
  Dev.itemSend_taken al d acc (.epoch c) [w0, w1, w2] _ ⟨.glob, 0, 0⟩ rfl (itemAt_epoch c)
    (by simp only [Item.place]; omega) rfl rfl ⟨hm, hw, rfl⟩ (d.flashHolds_send acc 0 _ _ (by decide))

/-- What neither session-local nor stored words have a part in is after EPOCH_WRITE as before. -/
theorem Dev.itemSend_epoch_keeps {γ : Type} (g : Dev → γ) (h : ∀ (d : Dev) (b a : Nat) (w : Word), g (d.setLoc b a w) = g d)
    (hs : ∀ (d : Dev) (a : Nat) (w : Word), g (d.setStored a w) = g d) (d : Dev) (acc : Nat) (c : Nat) (w0 w1 w2 : Word) :
    g (((d.posted acc (.epoch c) [w0, w1, w2]).stageEpoch c w0 w1 w2).took acc 0) = g d := by
  rw [Dev.took_keeps _ _ g h, Dev.stageEpoch, hs, hs, hs, Dev.posted_keeps _ _ _ _ g h]

/-- Settles O30: the item is taken at once, and beside the three staged words only session-local words of the mailbox change. -/
theorem epochWriteStagesTheEpoch : Obligations.EpochWriteStagesTheEpoch := by
  unfold Obligations.EpochWriteStagesTheEpoch
  intro s t acc c w0 w1 w2 hl hm hw
  generalize hd : s.dev.reach t = d at hm hw
  have hstored (a : Nat) : (((d.posted acc (.epoch c) [w0, w1, w2]).stageEpoch c w0 w1 w2).took acc 0).stored a =
      ((d.posted acc (.epoch c) [w0, w1, w2]).stageEpoch c w0 w1 w2).stored a :=
    Dev.took_keeps _ _ (fun d => d.stored a) (fun _ _ _ _ => rfl) _
  obtain ⟨h0, h1, h2⟩ := (d.posted acc (.epoch c) [w0, w1, w2]).stageEpoch_stored c w0 w1 w2
  refine ⟨_, (State.act_live s t _ hl).trans (by rw [hd, Dev.itemSend_epoch _ _ _ c w0 w1 w2 hm hw]), ?_, ?_, ?_, ?_, ?_, ?_, ?_, ?_⟩
  · exact (hstored _).trans h0
  · exact (hstored _).trans h1
  · exact (hstored _).trans h2
  · exact Dev.itemSend_epoch_keeps Dev.actv (fun _ _ _ _ => rfl) (fun _ _ _ => rfl) d acc c w0 w1 w2
  · exact Dev.itemSend_epoch_keeps Dev.pendv (fun _ _ _ _ => rfl) (fun _ _ _ => rfl) d acc c w0 w1 w2
  · exact Dev.itemSend_epoch_keeps Dev.hbm (fun _ _ _ _ => rfl) (fun _ _ _ => rfl) d acc c w0 w1 w2
  · exact Dev.itemSend_epoch_keeps Dev.commit (fun _ _ _ _ => rfl) (fun _ _ _ => rfl) d acc c w0 w1 w2
  · intro a ha0 ha1 ha2
    rw [hstored, Dev.stageEpoch_stored_other _ c w0 w1 w2 ha0 ha1 ha2]
    exact Dev.posted_keeps d acc _ _ (fun d => d.stored a) (fun _ _ _ _ => rfl)

/-! ## Tick streams (O31, O32, O33) -/

/-- A quotient rounded up is at most `k` exactly where `k` divisors reach the dividend. -/
theorem ceilDiv_le_iff {a b k : Nat} (hb : 0 < b) : ceilDiv a b ≤ k ↔ a ≤ k * b := by
  unfold ceilDiv
  rw [Nat.div_le_iff_le_mul_add_pred hb, Nat.mul_comm b k]
  omega

/-- A tick lies at or after an instant exactly from the first tick found for it on (R20). -/
theorem Stream.le_tick_iff (s : Stream) (t k : Nat) (hn : 0 < s.num) (hd : 0 < s.den) :
    t ≤ s.tick k ↔ s.firstFrom t ≤ k := by
  unfold Stream.tick Stream.firstFrom
  rw [ceilDiv_le_iff hn, ← Nat.le_div_iff_mul_le hd]
  exact tsub_le_iff_left.symm

/-- Settles O32, by the equivalence `Stream.le_tick_iff` at the tick found and at each smaller one. -/
theorem firstTickAtOrAfter : Obligations.FirstTickAtOrAfter := by
  unfold Obligations.FirstTickAtOrAfter
  intro s t hn hd
  refine ⟨(s.le_tick_iff t _ hn hd).2 le_rfl, fun k hk => ?_⟩
  have := s.le_tick_iff t k hn hd
  omega

/-- Settles O31: the definition of a tick's instant is the formula of R13. -/
theorem tickInstants : Obligations.TickInstants := by
  unfold Obligations.TickInstants
  intro e num den n
  rfl

/-- Phase starts rise with their offsets (R17). -/
theorem Stream.at_mono (s : Stream) (n : Nat) {x y : Nat} (h : x ≤ y) : s.at n x ≤ s.at n y := by
  unfold Stream.at
  gcongr

theorem Stream.at_zero (s : Stream) (n : Nat) : s.at n 0 = s.tick n := by
  unfold Stream.at Stream.tick
  rw [Nat.add_zero, Nat.mul_comm n, Nat.mul_assoc, Nat.mul_div_mul_left _ _ (by decide)]

theorem Stream.at_whole (s : Stream) (n : Nat) : s.at n 65536 = s.tick (n + 1) := by
  rw [← s.at_zero (n + 1)]
  unfold Stream.at
  rw [show n * 65536 + 65536 = (n + 1) * 65536 + 0 by omega]

/-- Settles O33: starts rise with their offsets, and the offsets 0 and 65,536 are a tick and the next. -/
theorem phasesLieWithinTheirTick : Obligations.PhasesLieWithinTheirTick := by
  unfold Obligations.PhasesLieWithinTheirTick
  intro s n x y _ hxy hy
  refine ⟨rfl, s.at_mono n hxy, s.at_zero n, ?_, ?_, s.at_whole n⟩
  · rw [← s.at_zero n]
    exact s.at_mono n (Nat.zero_le x)
  · rw [← s.at_whole n]
    exact s.at_mono n hy

/-! ## Commands of ticks, halls, layers and statistics (O50) -/

/-- Settles O50: the meaning of each of these commands is an action on the module alone, which `State.act_live` runs. -/
theorem frameRowsComplete : Obligations.FrameRowsComplete := by
  unfold Obligations.FrameRowsComplete
  intro s
  refine ⟨?_, ?_, ?_, ?_, ?_, ?_, ?_, ?_, ?_, ?_, ?_, ?_, ?_, ?_⟩
  all_goals intros; exact State.act_live s _ _ ‹_›

end Sys2Proof.Machine

/-! # The halls and layers: the commands of a hall page

The commands of a hall page are command bits (`Dev.cmd_eq`): where each one lies, which lock covers it, and what it does. -/

namespace Sys2Proof.Machine

/-! ## Where the commands lie -/

/-- The page of a hall that holds a layer block (R89). -/
def layerPage (n : Nat) : Nat := if n < 8 then 1 else if n < 20 then 2 else if n < 32 then 3 else 4

/-- A field of FLIP_CMD, which carries the PRV suffix in the block of the balustrade alone (R89, R92). -/
def flipFld (n : Nat) (name : String) (lsb : Nat) : Fld := { fp name lsb 1 .cmd 0 with prv := n == 32 }

theorem hallKill_cmdAt (h : Fin 8) : CmdAt (A.HALL_CMD h) 0 ⟨.hall, h, 0⟩ (fpv "kill" 0 1 .cmd 0) := by
  constructor <;> revert h <;> decide
theorem toneSwap_cmdAt (h : Fin 8) : CmdAt (A.TONE_CMD h) 0 ⟨.hall, h, 7⟩ (fp "swap_tone" 0 1 .cmd 0) := by
  constructor <;> revert h <;> decide
theorem lut3dSwap_cmdAt (h : Fin 8) : CmdAt (A.TONE_CMD h) 1 ⟨.hall, h, 7⟩ (fp "swap_lut3d" 1 1 .cmd 0) := by
  constructor <;> revert h <;> decide
theorem flipRequest_cmdAt (h : Fin 8) (n : Fin 33) :
    CmdAt (A.FLIP_CMD h n) 0 ⟨.hall, h, layerPage n⟩ (flipFld n "request" 0) := by
  constructor <;> revert h n <;> decide
theorem flipWithdraw_cmdAt (h : Fin 8) (n : Fin 33) :
    CmdAt (A.FLIP_CMD h n) 1 ⟨.hall, h, layerPage n⟩ (flipFld n "withdraw" 1) := by
  constructor <;> revert h n <;> decide

theorem actingAt_hallCmd (h : Fin 8) : actingAt (A.HALL_CMD h) = .hallCmd h := by revert h; decide
theorem actingAt_toneCmd (h : Fin 8) : actingAt (A.TONE_CMD h) = .toneCmd h := by revert h; decide
theorem actingAt_flipCmd (h : Fin 8) (n : Fin 33) : actingAt (A.FLIP_CMD h n) = .flipCmd h n := by revert h n; decide

/-! ## Locks of a hall page (R139, R210) -/

/-- On a hall page the locks of the balustrade cover a field, and on TONE_CMD the ownership of the banks (R139, R210). -/
theorem Dev.fieldLocked_hall (d : Dev) {a h pg : Nat} (f : Fld) (hp : pageAt a = some ⟨.hall, h, pg⟩) :
    d.fieldLocked a f = (d.balLocked h pg a f.name ||
      (a == A.TONE_CMD h && ((f.name == "swap_tone" && d.toneOwned h) || (f.name == "swap_lut3d" && d.lut3dOwned h)))) := by
  simp only [Dev.fieldLocked, hp]

/-- A field of a hall page other than TONE_CMD is locked where the balustrade's locks cover it (R210). -/
theorem Dev.fieldLocked_balLocked (d : Dev) {a h pg : Nat} (f : Fld) (hp : pageAt a = some ⟨.hall, h, pg⟩) (ha : a ≠ A.TONE_CMD h) :
    d.fieldLocked a f = d.balLocked h pg a f.name := by
  rw [d.fieldLocked_hall f hp, beq_false_of_ne ha, Bool.false_and, Bool.or_false]

/-- Banks that the tone policy does not own leave both swap commands of the hall free (R139). -/
theorem Dev.fieldLocked_toneCmd (d : Dev) (h : Fin 8) (f : Fld) (ho : d.toneOwned h = false) :
    d.fieldLocked (A.TONE_CMD h) f = false := by
  have hb : d.balLocked h 7 (A.TONE_CMD h) f.name = false := rfl
  rw [d.fieldLocked_hall f (toneSwap_cmdAt h).page, hb]
  simp [Dev.lut3dOwned, ho]

/-- No lock covers the kill command (R87, R210). -/
theorem Dev.fieldLocked_hallCmd (d : Dev) (h : Fin 8) (f : Fld) : d.fieldLocked (A.HALL_CMD h) f = false := by
  rw [d.fieldLocked_balLocked f (hallKill_cmdAt h).page (by revert h; decide)]
  have hm : ((List.range 8).any fun i => A.HALL_CMD h == A.PHASE_MASK_HI h i) = false := by revert h; decide
  simp [Dev.balLocked, hm]

theorem flipCmd_not_placeOffset (h : Fin 8) : (placeOffsets h).contains (A.FLIP_CMD h 32) = false := by revert h; decide
theorem flipCmd_ne_toneCmd (h : Fin 8) (n : Fin 33) : A.FLIP_CMD h n ≠ A.TONE_CMD h := by revert h n; decide

/-- The flip commands of the balustrade are locked by its select lock alone (R210). -/
theorem Dev.balLocked_flipCmd_bal (d : Dev) (h : Fin 8) (name : String) :
    d.balLocked h 4 (A.FLIP_CMD h 32) name = d.is (F.BAL_LOCK.select_lock h) := by
  simp only [Dev.balLocked, flipCmd_not_placeOffset, Bool.and_false, Bool.false_or, beq_self_eq_true, Bool.and_true]

/-- The select lock covers the flip commands of the balustrade, and no lock those of the other layers (R210). -/
theorem Dev.fieldLocked_flipCmd (d : Dev) (h : Fin 8) (n : Fin 33) (f : Fld)
    (hs : n.val = 32 → d.is (F.BAL_LOCK.select_lock h) = false) : d.fieldLocked (A.FLIP_CMD h n) f = false := by
  rw [d.fieldLocked_balLocked f (flipRequest_cmdAt h n).page (flipCmd_ne_toneCmd h n)]
  by_cases hn : n.val = 32
  · rw [hn]
    exact (d.balLocked_flipCmd_bal h f.name).trans (hs hn)
  · have hp : layerPage n = 1 ∨ layerPage n = 2 ∨ layerPage n = 3 := by unfold layerPage; split_ifs <;> omega
    rcases hp with hp | hp | hp <;> rw [hp] <;> rfl

/-! ## What the commands do (O13) -/

/-- What waits for its tick boundary in TONE_CMD keeps no later command of the register from acting (R137, R275). -/
theorem Dev.cmdBits_toneCmd (d : Dev) (h : Fin 8) : d.cmdBits (A.TONE_CMD h) = 0 := by
  simp only [Dev.cmdBits, actingAt_toneCmd]
/-- Flip commands are never outstanding (R275). -/
theorem Dev.cmdBits_flipCmd (d : Dev) (h : Fin 8) (n : Fin 33) : d.cmdBits (A.FLIP_CMD h n) = 0 := by
  simp only [Dev.cmdBits, actingAt_flipCmd]

/-- HALL_CMD.kill at level 2 kills the hall (R87). -/
theorem Dev.cmd_hallKill (al : Alcove) (d : Dev) (acc : Nat) (h : Fin 8) (hm : d.mayPriv acc (pageNo (A.HALL_CMD h))) :
    d.cmd al acc (F.HALL_CMD.kill h) = d.hallKill h :=
  Dev.cmd_eq al d (hallKill_cmdAt h) hm.1 (fun _ => hm.2) (d.fieldLocked_hallCmd h _)
    (by simp only [Dev.cmdBits, F.HALL_CMD.kill, actingAt_hallCmd])
    (by simp [Dev.act1, F.HALL_CMD.kill, actingAt_hallCmd, bitOf])

/-- TONE_CMD.swap_tone of a hall whose banks the tone policy does not own is set until the swap (R137). -/
theorem Dev.cmd_toneSwap (al : Alcove) (d : Dev) (acc : Nat) (h : Fin 8) (hm : d.mayAct acc (pageNo (A.TONE_CMD h)))
    (ho : d.toneOwned h = false) : d.cmd al acc (F.TONE_CMD.swap_tone h) = d.put (F.TONE_CMD.swap_tone h) 1 :=
  Dev.cmd_eq al d (toneSwap_cmdAt h) hm (fun hp => absurd hp (by decide)) (d.fieldLocked_toneCmd h _ ho) (d.cmdBits_toneCmd h)
    (by simp [Dev.act1, F.TONE_CMD.swap_tone, actingAt_toneCmd, bitOf])

/-- TONE_CMD.swap_lut3d of such a hall is set until the swap (R137). -/
theorem Dev.cmd_lut3dSwap (al : Alcove) (d : Dev) (acc : Nat) (h : Fin 8) (hm : d.mayAct acc (pageNo (A.TONE_CMD h)))
    (ho : d.toneOwned h = false) : d.cmd al acc (F.TONE_CMD.swap_lut3d h) = d.put (F.TONE_CMD.swap_lut3d h) 1 :=
  Dev.cmd_eq al d (lut3dSwap_cmdAt h) hm (fun hp => absurd hp (by decide)) (d.fieldLocked_toneCmd h _ ho) (d.cmdBits_toneCmd h)
    (by simp [Dev.act1, F.TONE_CMD.swap_lut3d, actingAt_toneCmd, bitOf])

section
variable (al : Alcove) (d : Dev) (acc : Nat) (h : Fin 8) (n : Fin 33) (hm : d.mayAct acc (pageNo (A.FLIP_CMD h n)))
  (hb : n.val = 32 → 2 ≤ d.levelOn acc (pageNo (A.FLIP_CMD h n)) ∧ d.is (F.BAL_LOCK.select_lock h) = false)
include hm hb

/-- FLIP_CMD.request at the level of its page queues a flip; that of the balustrade needs level 2 and its select lock off (R193, R210). -/
theorem Dev.cmd_flipRequest : d.cmd al acc (F.FLIP_CMD.request h n) = d.flipRequest h n :=
  Dev.cmd_eq al d (flipRequest_cmdAt h n) hm (fun hp => (hb (eq_of_beq hp)).1) (d.fieldLocked_flipCmd h n _ fun hn => (hb hn).2)
    (d.cmdBits_flipCmd h n) (by simp [Dev.act1, F.FLIP_CMD.request, actingAt_flipCmd, bitOf])

/-- FLIP_CMD.withdraw, allowed alike, takes the entry back (R195, R210). -/
theorem Dev.cmd_flipWithdraw : d.cmd al acc (F.FLIP_CMD.withdraw h n) = d.flipWithdraw h n :=
  Dev.cmd_eq al d (flipWithdraw_cmdAt h n) hm (fun hp => (hb (eq_of_beq hp)).1) (d.fieldLocked_flipCmd h n _ fun hn => (hb hn).2)
    (d.cmdBits_flipCmd h n) (by simp [Dev.act1, F.FLIP_CMD.withdraw, actingAt_flipCmd, bitOf])

end

/-- Settles O13: each command is one granted command bit that no lock covers, whose action `cmd_eq` gives. -/
theorem hallCommandsAct : Obligations.HallCommandsAct := by
  unfold Obligations.HallCommandsAct
  intro s t acc h n hl
  refine ⟨fun hm => ?_, fun hm ho => ⟨?_, ?_⟩, fun hm hb => ⟨?_, ?_⟩⟩
  · exact s.act_cmd t acc _ _ hl (Dev.cmd_hallKill _ _ _ h hm)
  · exact s.act_cmd t acc _ _ hl (Dev.cmd_toneSwap _ _ _ h hm.1 ho)
  · exact s.act_cmd t acc _ _ hl (Dev.cmd_lut3dSwap _ _ _ h hm.1 ho)
  · exact s.act_cmd t acc _ _ hl (Dev.cmd_flipRequest _ _ _ h n hm hb)
  · exact s.act_cmd t acc _ _ hl (Dev.cmd_flipWithdraw _ _ _ h n hm hb)

end Sys2Proof.Machine

/-! # Fences: what a target, a software write and an advance mean

First the words and registers that an occurrence and a landing message leave as they are, each said once; then a write of a register
that is one field; then the statements of the family. -/

namespace Sys2Proof.Machine

/-! ## Fields of a word -/

theorem bitOf_eq_one_iff (x i : Nat) : bitOf x i = 1 ↔ x.testBit i = true := by
  rw [Nat.testBit_eq_decide_div_mod_eq, decide_eq_true_eq, bitOf, Nat.shiftRight_eq_div_pow]

theorem testBit_bitsOf (x l n i : Nat) : (bitsOf x l n).testBit i = (decide (i < n) && x.testBit (l + i)) := by
  rw [bitsOf, Nat.testBit_mod_two_pow, Nat.testBit_shiftRight]

/-- The bits of a field of a word are those put there. -/
theorem testBit_putBits (w : Word) {l n i : Nat} (v : Nat) (hi : i < n) (h : l + i < 32) :
    (putBits w l n v).toNat.testBit (l + i) = v.testBit i := by
  have hm : (2 ^ n - 1 : Nat).testBit i = true := by rw [Nat.testBit_two_pow_sub_one, decide_eq_true hi]
  simp only [putBits, BitVec.testBit_toNat, BitVec.getLsbD_or, BitVec.getLsbD_and, BitVec.getLsbD_not, BitVec.getLsbD_ofNat,
    Nat.testBit_shiftLeft, Nat.testBit_mod_two_pow, Nat.add_sub_cancel_left, Nat.le_add_right, h, hi, hm]
  simp

/-- A field of a word reads the value put there. -/
theorem bitsOf_putBits (w : Word) {l n : Nat} (v : Nat) (h : l + n ≤ 32) : bitsOf (putBits w l n v).toNat l n = v % 2 ^ n := by
  refine Nat.eq_of_testBit_eq fun i => ?_
  rw [testBit_bitsOf, Nat.testBit_mod_two_pow]
  by_cases hi : i < n
  · rw [testBit_putBits w v hi (by omega)]
  · simp only [hi, decide_false, Bool.false_and]

/-- A stored field reads what was put there. -/
theorem Dev.get_put_same (d : Dev) (r : FieldRef) (v : Nat) (h : r.lsb + r.width ≤ 32) : (d.put r v).get r = v % 2 ^ r.width := by
  rw [Dev.get, Dev.put, Dev.stored_setStored_same, bitsOf_putBits _ _ h]

theorem Dev.stored_put_other (d : Dev) (r : FieldRef) (v : Nat) {a : Nat} (h : a ≠ r.addr) : (d.put r v).stored a = d.stored a :=
  Dev.stored_setStored_other d r.addr a _ h

/-- A field reads alike where its word is alike. -/
theorem Dev.get_congr {d e : Dev} {r : FieldRef} (h : d.stored r.addr = e.stored r.addr) : d.get r = e.get r := by
  rw [Dev.get, Dev.get, h]

/-- Bits set in a field of a whole word are set. -/
theorem Dev.orBits_sets (d : Dev) {a k : Nat} (hk : k < 32) : bitOf ((d.orBits ⟨a, 0, 32⟩ (2 ^ k)).get ⟨a, 0, 32⟩) k = 1 := by
  rw [bitOf_eq_one_iff, Dev.orBits, Dev.get_put_same _ _ _ (le_refl 32), Nat.testBit_mod_two_pow,
    Nat.testBit_or, Nat.testBit_two_pow_self, Bool.or_true, Bool.and_true, decide_eq_true hk]

/-! ## What messages and occurrences store (R249, R290) -/

section
variable (d : Dev)

theorem Dev.emitMsg_regs (k : Nat) (m : LMsg) : (d.emitMsg k m).regs = d.regs := by
  unfold Dev.emitMsg; split <;> rfl

/-- A landing message stores nothing in the registers. -/
theorem Dev.landSend_regs (ps : List Nat) (ty dst : Nat) (b : Bool) (body : List Byte) : (d.landSend ps ty dst b body).regs = d.regs := by
  unfold Dev.landSend
  exact foldl_keeps (fun d : Dev => d.regs) _ (fun _ _ => Dev.emitMsg_regs _ _ _) _ _

theorem Dev.landSend_stored (ps : List Nat) (ty dst : Nat) (b : Bool) (body : List Byte) (a : Nat) :
    (d.landSend ps ty dst b body).stored a = d.stored a := by
  unfold Dev.stored; rw [Dev.landSend_regs]

/-- Whether or not a message is sent, the registers are as before. -/
theorem Dev.landSendIf_stored (c : Prop) [Decidable c] (ps : List Nat) (ty dst : Nat) (b : Bool) (body : List Byte) (a : Nat) :
    (if c then d.landSend ps ty dst b body else d).stored a = d.stored a := by
  split
  · exact d.landSend_stored ps ty dst b body a
  · rfl

theorem Dev.evtPulse_stored (i a : Nat) : (d.evtPulse i).stored a = d.stored a := by
  unfold Dev.evtPulse; split <;> rfl

/-- Of the registers the EVT_N lands change EVT_N_STATUS alone (R292). -/
theorem Dev.evtN_stored {a : Nat} (h : a ≠ A.EVT_N_STATUS) : d.evtN.stored a = d.stored a := by
  unfold Dev.evtN
  refine foldl_keeps (fun d : Dev => d.stored a) _ (fun e i => ?_) _ _
  dsimp only
  split
  · rfl
  · exact e.stored_put_other _ _ h

/-- Of the registers a delivery to the sessions changes AED_EVT_LOST alone (R321). -/
theorem Dev.toSessions_stored (ev : Nat) {a : Nat} (h : a ≠ A.AED_EVT_LOST) : (d.toSessions ev).stored a = d.stored a := by
  unfold Dev.toSessions
  refine foldl_keeps (fun d : Dev => d.stored a) _ (fun e i => ?_) _ _
  dsimp only
  split
  · split
    · split
      · exact Dev.stored_put_other _ _ _ h
      · rfl
    · rfl
  · rfl

/-- Of the registers an occurrence changes its raw word, its pending word, EVT_N_STATUS and AED_EVT_LOST alone (R290). -/
theorem Dev.raise_stored (e : Nat) {a : Nat} (hp : a ≠ A.EVT_PENDING_ALL (e / 32)) (hn : a ≠ A.EVT_N_STATUS)
    (hl : a ≠ A.AED_EVT_LOST) :
    (d.raise e).stored a = (d.orBits (F.EVT_RAW_ALL.raw (e / 32)) (2 ^ (e % 32))).stored a := by
  have pulses (d : Dev) (r : Nat) :
      ((List.range 4).foldl (fun d i => if bitOf r i = 1 then d.evtPulse i else d) d).stored a = d.stored a := by
    refine foldl_keeps (fun d : Dev => d.stored a) _ (fun d i => ?_) _ _
    split
    · exact d.evtPulse_stored i a
    · rfl
  have pending (d : Dev) (v : Nat) : (d.orBits (F.EVT_PENDING_ALL.pending (e / 32)) v).stored a = d.stored a :=
    d.stored_put_other _ _ hp
  unfold Dev.raise
  dsimp only
  split
  · rw [Dev.evtN_stored _ hn, pulses, Dev.landSendIf_stored]
    split
    · rw [Dev.toSessions_stored _ _ hl, pending]
    · exact pending _ _
  · rfl

/-- An occurrence sets its raw bit, whatever its enable (R290). -/
theorem Dev.raise_raw {e : Nat} (he : e < 1024) : bitOf ((d.raise e).get (F.EVT_RAW_ALL.raw (e / 32))) (e % 32) = 1 := by
  have hs := d.raise_stored e (a := A.EVT_RAW_ALL (e / 32)) (by unfold A.EVT_RAW_ALL A.EVT_PENDING_ALL; omega)
    (by unfold A.EVT_RAW_ALL A.EVT_N_STATUS; omega) (by unfold A.EVT_RAW_ALL A.AED_EVT_LOST; omega)
  rw [Dev.get_congr (r := F.EVT_RAW_ALL.raw (e / 32)) hs]
  exact d.orBits_sets (Nat.mod_lt e (by decide))

end

/-! ## A write of a register that is one field -/

/-- What the address of a whole-word register must be: a register of a page outside its header, whose one writable field is an RW field
of all 32 bits without PRV suffix and storing rule. -/
structure WordAt (a : Nat) (p : Page) (f : Fld) : Prop where
  word  : wordAddr a = a
  page  : pageAt a = some p
  ofs   : 0x100 ≤ pageOfs a
  evt   : evtBits a = 0xFFFFFFFF
  one   : writeFlds a 0xFFFFFFFF = [f]
  acc   : f.acc = .rw
  prv   : f.prv = false
  clamp : f.clamp = .none
  lsb   : f.lsb = 0
  width : f.width = 32

/-- All bits of a word put in its place are that word. -/
theorem putBits_whole (w v : Word) : putBits w 0 32 (bitsOf v.toNat 0 32) = v := by
  rw [putBits_low w v 32 le_rfl, show BitVec.ofNat 32 (2 ^ 32 - 1) = BitVec.allOnes 32 from rfl, BitVec.not_allOnes, BitVec.and_zero,
    BitVec.zero_or, BitVec.and_allOnes]

/-- At the level of the page a write that replaces a whole-word register stores the word in the way of the register, and then the register
acts with no command bit. -/
theorem Dev.writeFields_word (d : Dev) (acc : Nat) {a : Nat} {p : Page} {f : Fld} {v m : Word} {e : Dev} (c : WordAt a p f)
    (hm : m &&& evtBits a = m) (h1 : writeFlds a m = [f]) (hv : (d.stored a &&& ~~~m) ||| (v &&& m) = v)
    (hl : d.get (F.PRIV_LEVEL.level (pageNo a)) ≤ d.levelOn acc (pageNo a)) (hk : d.fieldLocked a f = false)
    (hs : d.storeWord acc a v = (true, e)) (hr : actingAt a ≠ .rstCmd) :
    d.writeFields acc a p v m = e.act1 d acc a 0 := by
  have ho := c.ofs
  have h48 : pageOfs a ≠ 0x48 := by omega
  have hn : ¬ d.levelOn acc (pageNo a) < d.get (F.PRIV_LEVEL.level (pageNo a)) := by omega
  have hw : d.wosSet a f = false := by simp [Dev.wosSet, c.acc]
  have hnew : fieldNew p a f (bitsOf v.toNat 0 32) = bitsOf v.toNat 0 32 := by
    simp [fieldNew, h48, Fld.store, c.clamp, c.width, bitsOf]
  unfold Dev.writeFields
  simp [hm, h1, hv, hn, c.acc, c.prv, hk, hw, c.lsb, c.width, hnew, putBits_whole, hs, hr, cmdsOf, w32]

/-- A write of a whole-word register by an accessor that may act there has that effect and no other. -/
theorem Dev.store_word (al : Alcove) (d : Dev) {acc a : Nat} {p : Page} {f : Fld} {v : Word} {e : Dev} (c : WordAt a p f)
    (hm : d.mayAct acc (pageNo a)) (hk : d.fieldLocked a f = false) (hs : d.storeWord acc a v = (true, e)) (hr : actingAt a ≠ .rstCmd) :
    d.store al acc a v = (e.act1 d acc a 0).2 := by
  obtain ⟨hx, hg, hl⟩ := hm
  have hv : (d.stored a &&& ~~~(0xFFFFFFFF : Word)) ||| (v &&& 0xFFFFFFFF) = v := by
    rw [show (0xFFFFFFFF : Word) = BitVec.allOnes 32 from rfl, BitVec.and_allOnes, BitVec.not_allOnes, BitVec.and_zero, BitVec.zero_or]
  rw [Dev.store_high al d v c.word c.page c.ofs hx hg,
    Dev.writeFields_word d acc c (by rw [c.evt]; rfl) c.one hv hl hk hs hr]

/-! ## Where the fences lie (R216) -/

/-- The field of FENCE[f]. -/
def fenceFld : Fld := fp "value" 0 32 .rw 0

theorem pageNo_fence (f : Fin 512) : pageNo (A.FENCE f) = 0xB01 := by
  unfold pageNo A.FENCE; omega

theorem pageOfs_fence (f : Fin 512) : pageOfs (A.FENCE f) = 0x100 + f * 4 := by
  unfold pageOfs A.FENCE; omega

theorem pageAt_fence (f : Fin 512) : pageAt (A.FENCE f) = some ⟨.events, 0, 1⟩ :=
  congrArg pageOf (pageNo_fence f)

/-- The row of an array of registers holds each register of it. -/
theorem ra_hit (name : String) (off : Nat) (fs : List Fld) {n step i : Nat} (hi : i < n) (hs : 0 < step) (hb : i * step < 0x1000) :
    (ra name off n step fs).hit (off + i * step) = true := by
  simp [RegRow.hit, ra, Nat.mod_eq_of_lt hb, Nat.div_eq_of_lt hb, Nat.mul_div_cancel i hs, hi]

/-- The row of the fences holds each of them. -/
theorem rowAt_fence (f : Fin 512) : rowAt (A.FENCE f) = some (ra "FENCE" 0x100 512 4 [fenceFld]) := by
  have ho : A.FENCE f % 0x1000 = 0x100 + f * 4 := pageOfs_fence f
  have hh : (ra "FENCE" 0x100 512 4 [fenceFld]).hit (0x100 + f * 4) = true :=
    ra_hit _ _ _ f.isLt (by decide) (by omega)
  have hb : ¬ 0x100 + f.val * 4 < 0x100 := by omega
  simp only [rowAt, pageAt_fence, ho, hb, if_false]
  exact List.find?_cons_of_pos hh

theorem fldsAt_fence (f : Fin 512) : fldsAt (A.FENCE f) = [fenceFld] := by
  have ho : A.FENCE f % 0x1000 ≠ 0x48 := by have := pageOfs_fence f; unfold pageOfs at this; omega
  simp only [fldsAt, pageAt_fence, rowAt_fence, ho, if_false]
  rfl

/-- A fence is one RW field of 32 bits. -/
theorem fence_wordAt (f : Fin 512) : WordAt (A.FENCE f) ⟨.events, 0, 1⟩ fenceFld where
  word := by unfold wordAddr A.FENCE; omega
  page := pageAt_fence f
  ofs := by rw [pageOfs_fence]; omega
  evt := by unfold evtBits; rw [if_neg]; unfold A.FENCE; omega
  one := by rw [writeFlds, fldsAt_fence]; rfl
  acc := rfl
  prv := rfl
  clamp := rfl
  lsb := rfl
  width := rfl

theorem actingAt_fence (f : Fin 512) : actingAt (A.FENCE f) = .fence f := by
  have h1 : 0x100 ≤ 0x100 + f.val * 4 ∧ 0x100 + f.val * 4 < 0x900 := by omega
  simp [actingAt, pageAt_fence, pageOfs_fence, h1]

theorem fence_injective : Function.Injective A.FENCE := fun f g h => by
  unfold A.FENCE at h; omega

/-! ## Targets (O17) -/

/-- The distance from one word to another, modulo 2^32. -/
theorem toNat_sub_word (x y : Word) : (x - y).toNat = (x.toNat + 2 ^ 32 - y.toNat) % 2 ^ 32 := by
  rw [BitVec.toNat_sub]; omega

/-- A target is reached exactly where the fence is less than half the range ahead of it (R199). -/
theorem fenceReached_iff (f v : Word) : fenceReached f v = true ↔ (f.toNat + 2 ^ 32 - v.toNat) % 2 ^ 32 < 2 ^ 31 := by
  rw [fenceReached, decide_eq_true_eq, toNat_sub_word]

/-- Settles O17, by the distance of the two words. -/
theorem fenceReachedWithinHalfTheRange : Obligations.FenceReachedWithinHalfTheRange := by
  unfold Obligations.FenceReachedWithinHalfTheRange
  refine ⟨fenceReached_iff, fun f k => ⟨fun hk => ?_, fun h1 hk => ?_⟩⟩
  · rw [fenceReached_iff, toNat_sub_word, BitVec.toNat_ofNat]
    omega
  · rw [Bool.eq_false_iff, Ne, fenceReached_iff, BitVec.toNat_add, BitVec.toNat_ofNat]
    omega

/-! ## Software writes (O18) -/

/-- A write of FENCE[f] by an accessor that may act there is a software write of the fence (R198). -/
theorem Dev.store_fence (al : Alcove) (d : Dev) (acc : Nat) (f : Fin 512) (v : Word) (hm : d.mayAct acc (pageNo (A.FENCE f))) :
    d.store al acc (A.FENCE f) v = d.fenceWrite d.now acc f v := by
  have hs : d.storeWord acc (A.FENCE f) v = (true, d.fenceWrite d.now acc f v) := by simp only [Dev.storeWord, actingAt_fence]
  rw [Dev.store_word al d (fence_wordAt f) hm (d.fieldLocked_false _ (pageAt_fence f) (by decide)) hs (by simp [actingAt_fence])]
  simp only [Dev.act1, actingAt_fence]

/-- The three kinds of a software write to a fence that software owns, by its distance from the value that stands (R200). -/
theorem Dev.fenceMove_eq (d : Dev) (at' f : Nat) (v : Word) :
    let k := (v.toNat + 2 ^ 32 - (d.fence f).toNat) % 2 ^ 32
    (k = 0 → d.fenceMove at' f v = d) ∧ (1 ≤ k → k < 2 ^ 31 → d.fenceMove at' f v = d.fenceSet at' f v) ∧
    (2 ^ 31 ≤ k → d.fenceMove at' f v = d.bump F.FENCE_BACKWARD.count) := by
  intro k
  have hk : (v - d.fence f).toNat = k := toNat_sub_word v (d.fence f)
  unfold Dev.fenceMove
  simp only [hk]
  refine ⟨fun h0 => if_pos h0, fun h1 h2 => ?_, fun h2 => ?_⟩
  · rw [if_neg (by omega), if_pos h2]
  · rw [if_neg (by omega), if_neg (by omega)]

/-- Settles O18: the write reaches the fence, where its owner and then its distance decide. -/
theorem fenceWriteMovesForwardOnly : Obligations.FenceWriteMovesForwardOnly := by
  unfold Obligations.FenceWriteMovesForwardOnly
  intro s t acc f v hl hm k
  have he : exec (.fenceWrite t acc f v) s = .next { s with dev := (s.dev.reach t).fenceWrite (s.dev.reach t).now acc f v } :=
    (State.act_live s t _ hl).trans (by rw [Dev.store_fence _ _ _ f v hm])
  rw [he]
  obtain ⟨h0, h1, h2⟩ := (s.dev.reach t).fenceMove_eq (s.dev.reach t).now f v
  refine ⟨fun ho => ?_, fun ho => ?_⟩
  · rw [Dev.fenceWrite, if_pos ho]
    exact ⟨fun hk => by rw [h0 hk], fun hk hk' => by rw [h1 hk hk'], fun hk => by rw [h2 hk]⟩
  · rw [Dev.fenceWrite, if_neg ho]

/-! ## Advances (O19) -/

/-- The layer registers lie in the pages of the halls (R60, R89). -/
theorem layerBase_bounds {h n : Nat} (hh : h < 8) : 0x101100 ≤ layerBase h n ∧ layerBase h n ≤ 0x174100 := by
  unfold layerBase; split_ifs <;> omega

/-- Of the registers the note of a late entry changes LATE_FENCES of its layer alone (R207). -/
theorem Dev.noteLate_stored (d : Dev) (at' h n : Nat) (via : Option Nat) {a : Nat} (ha : a ≠ A.LATE_FENCES h n) :
    (d.noteLate at' h n via).stored a = d.stored a := by
  unfold Dev.noteLate
  dsimp only
  split
  · split
    · exact Dev.stored_put_other _ _ _ ha
    · rfl
  · rfl

/-- The latch of an entry stores nothing in the registers (R203). -/
theorem Dev.latchSince_stored (d : Dev) (at' h n f a : Nat) : (d.latchSince at' h n f).stored a = d.stored a := rfl

/-- Of the registers beyond the pages of the halls an advance changes the fence and what the event of its group changes alone: its message
to other landings and the entries that become ready store nothing there (R200, R201, R265). -/
theorem Dev.fenceSet_stored (d : Dev) (at' f : Nat) (v : Word) {a : Nat} (ha : 0x180000 ≤ a) :
    (d.fenceSet at' f v).stored a = (((d.noteAdvance at' f).setStored (A.FENCE f) v).raise (896 + f / 8)).stored a := by
  unfold Dev.fenceSet
  dsimp only
  generalize hb : ((d.noteAdvance at' f).setStored (A.FENCE f) v).raise (896 + f / 8) = b
  refine List.foldlRecOn (motive := fun e : Dev => e.stored a = b.stored a) _ _ ?_ fun e he x hx => ?_
  · exact b.landSendIf_stored _ _ _ _ _ _ a
  · obtain ⟨h, hh, n, -, rfl⟩ : ∃ h < 8, ∃ n < 33, (h, n) = x := by simpa using hx
    have hne : a ≠ A.LATE_FENCES h n := by
      have := layerBase_bounds (n := n) hh
      unfold A.LATE_FENCES; omega
    dsimp only
    split
    · split
      · rw [Dev.noteLate_stored _ _ _ _ _ hne, Dev.latchSince_stored, he]
      · exact he
    · exact he

/-- An occurrence leaves every fence as it is. -/
theorem Dev.raise_fence (d : Dev) {e : Nat} (he : e < 1024) (f : Fin 512) : (d.raise e).fence f = d.fence f := by
  unfold Dev.fence
  rw [Dev.raise_stored d e (by unfold A.FENCE A.EVT_PENDING_ALL; omega) (by unfold A.FENCE A.EVT_N_STATUS; omega)
    (by unfold A.FENCE A.AED_EVT_LOST; omega)]
  exact d.stored_put_other _ _ (by unfold A.FENCE F.EVT_RAW_ALL.raw A.EVT_RAW_ALL; dsimp only; omega)

/-- Of the fences an advance changes the one it stores alone: neither its event nor what follows reaches another. -/
theorem Dev.fenceSet_fence (d : Dev) (at' : Nat) (f g : Fin 512) (v : Word) :
    (d.fenceSet at' f v).fence g = ((d.noteAdvance at' f).setStored (A.FENCE f) v).fence g := by
  have hs := d.fenceSet_stored at' f v (a := A.FENCE g) (by unfold A.FENCE; omega)
  exact hs.trans (Dev.raise_fence _ (by omega) g)

/-- Settles O19: the advance stores the value and raises the event, and what follows it leaves both. -/
theorem fenceAdvanceShowsAndRaises : Obligations.FenceAdvanceShowsAndRaises := by
  unfold Obligations.FenceAdvanceShowsAndRaises
  intro d at' f v
  refine ⟨?_, fun g hg => ?_, ?_⟩
  · exact (d.fenceSet_fence at' f f v).trans (Dev.stored_setStored_same _ _ _)
  · have hne : A.FENCE g ≠ A.FENCE f := fun h => hg (Fin.ext (fence_injective h))
    exact (d.fenceSet_fence at' f g v).trans (Dev.stored_setStored_other _ _ _ _ hne)
  · have hr := Dev.raise_raw ((d.noteAdvance at' f).setStored (A.FENCE f) v) (show 896 + f.val / 8 < 1024 by omega)
    have ha : 0x180000 ≤ (F.EVT_RAW_ALL.raw ((896 + f.val / 8) / 32)).addr := by
      unfold F.EVT_RAW_ALL.raw A.EVT_RAW_ALL; dsimp only; omega
    rw [Dev.get_congr (d.fenceSet_stored at' f v ha)]
    exact hr

end Sys2Proof.Machine

/-! # Outputs and the Gallery: commands of lanes and channels, and the sideband of a lane

The commands of a lane page and of a DMA channel are command bits (`Dev.cmd_eq`, `Dev.writeBits_cmd`); a sideband fragment changes its lane
and, through LANE_EVT, what an occurrence changes, whose frame is said once. -/

namespace Sys2Proof.Machine

/-! ## Where the commands of lanes and channels lie -/

theorem pageAt_laneCmd (n : Fin 144) : pageAt (A.LANE_CMD n) = some ⟨.lane, n, 0⟩ := by revert n; decide

theorem pageOfs_laneCmd (n : Fin 144) : pageOfs (A.LANE_CMD n) = 0x10C := by
  unfold pageOfs A.LANE_CMD; omega

/-- The fields of LANE_CMD (R241). -/
def laneCmdFlds : List Fld :=
  [fpv "failover" 0 1 .cmd 0, fpv "failback" 1 1 .cmd 0, fpv "halt" 2 1 .cmd 0, fpv "resume" 3 1 .cmd 0]

/-- The page of every lane has them there. -/
theorem fldsAt_laneCmd (n : Fin 144) : fldsAt (A.LANE_CMD n) = laneCmdFlds := by
  have ho : A.LANE_CMD n % 0x1000 = 0x10C := pageOfs_laneCmd n
  simp only [fldsAt, rowAt, pageAt_laneCmd, ho]
  rfl

theorem toNat_w32_two_pow {k : Nat} (hk : k < 32) : (w32 (2 ^ k)).toNat = 2 ^ k :=
  Nat.mod_eq_of_lt (Nat.pow_lt_pow_right (by decide) hk)

/-- A field of LANE_CMD of one bit is a command where that bit selects it. -/
theorem laneCmd_cmdAt (n : Fin 144) {k : Nat} {f : Fld} (hk : k < 32) (hm : f.mask = 2 ^ k) (hc : f.acc = .cmd)
    (h1 : laneCmdFlds.filter
      (fun g => g.acc != .ro && g.acc != .rc && g.acc != .loc && w32 (2 ^ k) &&& BitVec.ofNat 32 g.mask != 0) = [f]) :
    CmdAt (A.LANE_CMD n) k ⟨.lane, n, 0⟩ f where
  word := by unfold wordAddr A.LANE_CMD; omega
  page := pageAt_laneCmd n
  ofs := by rw [pageOfs_laneCmd]; decide
  evt := by unfold evtBits; rw [if_neg]; unfold A.LANE_CMD; omega
  one := by rw [fldsAt_laneCmd]; exact h1
  cmd := hc
  bit := by rw [hm, ← w32, BitVec.and_self, BitVec.and_self]
  small := toNat_w32_two_pow hk
  set := by
    rw [hm, ← w32, BitVec.and_self, bne_iff_ne]
    intro h
    exact (Nat.two_pow_pos k).ne' ((toNat_w32_two_pow hk).symm.trans (congrArg BitVec.toNat h))

theorem laneFailover_cmdAt (n : Fin 144) : CmdAt (A.LANE_CMD n) 0 ⟨.lane, n, 0⟩ (fpv "failover" 0 1 .cmd 0) :=
  laneCmd_cmdAt n (by decide) rfl rfl (by decide)
theorem laneFailback_cmdAt (n : Fin 144) : CmdAt (A.LANE_CMD n) 1 ⟨.lane, n, 0⟩ (fpv "failback" 1 1 .cmd 0) :=
  laneCmd_cmdAt n (by decide) rfl rfl (by decide)
theorem laneHalt_cmdAt (n : Fin 144) : CmdAt (A.LANE_CMD n) 2 ⟨.lane, n, 0⟩ (fpv "halt" 2 1 .cmd 0) :=
  laneCmd_cmdAt n (by decide) rfl rfl (by decide)
theorem laneResume_cmdAt (n : Fin 144) : CmdAt (A.LANE_CMD n) 3 ⟨.lane, n, 0⟩ (fpv "resume" 3 1 .cmd 0) :=
  laneCmd_cmdAt n (by decide) rfl rfl (by decide)

theorem chPause_cmdAt (c : Fin 64) : CmdAt (A.CH_CMD c) 0 ⟨.dma, c, 0⟩ (fp "pause" 0 1 .cmd 0) := by
  constructor <;> revert c <;> decide
theorem chResume_cmdAt (c : Fin 64) : CmdAt (A.CH_CMD c) 1 ⟨.dma, c, 0⟩ (fp "resume" 1 1 .cmd 0) := by
  constructor <;> revert c <;> decide
theorem chKick_cmdAt (c : Fin 64) : CmdAt (A.CH_CMD c) 2 ⟨.dma, c, 0⟩ (fp "kick" 2 1 .cmd 0) := by
  constructor <;> revert c <;> decide
theorem chSkip_cmdAt (c : Fin 64) : CmdAt (A.CH_CMD c) 3 ⟨.dma, c, 0⟩ (fp "skip" 3 1 .cmd 0) := by
  constructor <;> revert c <;> decide

theorem actingAt_laneCmd (n : Fin 144) : actingAt (A.LANE_CMD n) = .laneCmd n := by revert n; decide
theorem actingAt_chCmd (c : Fin 64) : actingAt (A.CH_CMD c) = .chCmd c := by revert c; decide

/-! ## Commands of a lane (R230, R231) -/

/-- No lock covers a command of a lane (R139, R210, R395, R422). -/
theorem Dev.fieldLocked_laneCmd (d : Dev) (n : Fin 144) (f : Fld) : d.fieldLocked (A.LANE_CMD n) f = false :=
  d.fieldLocked_false f (laneHalt_cmdAt n).page ⟨nofun, nofun, nofun⟩

/-- Failover, failback and resume can be outstanding, halt never is (R230, R231, R275). -/
theorem Dev.cmdBits_laneCmd_halt (d : Dev) (n : Fin 144) : w32 (2 ^ 2) &&& ~~~(d.cmdBits (A.LANE_CMD n)) = w32 (2 ^ 2) := by
  have bits (x y z : Bool) : w32 (2 ^ 2) &&& ~~~(w32 (b2n x + 2 * b2n y + 8 * b2n z)) = w32 (2 ^ 2) := by
    revert x y z; decide
  simp only [Dev.cmdBits, actingAt_laneCmd]
  exact bits _ _ _

section
variable (al : Alcove) (d : Dev) (acc : Nat) (n : Fin 144) (hm : d.mayPriv acc (pageNo (A.LANE_CMD n)))
include hm

/-- LANE_CMD.halt at level 2 halts the lane, whatever is outstanding (R230). -/
theorem Dev.cmd_laneHalt : d.cmd al acc (F.LANE_CMD.halt n) = d.laneHalt n := by
  obtain ⟨⟨hx, hg, hl⟩, h2⟩ := hm
  have he : d.act1 d acc (A.LANE_CMD n) (2 ^ 2) = (true, d.laneHalt n) := by simp [Dev.act1, actingAt_laneCmd, bitOf]
  unfold Dev.cmd F.LANE_CMD.halt
  rw [Dev.writeBits_cmd al d acc _ 2 _ _ (laneHalt_cmdAt n) hx hg hl (fun _ => h2) (d.fieldLocked_laneCmd n _)
    (d.cmdBits_laneCmd_halt n) (by rw [he]), he]

variable (hb : d.cmdBits (A.LANE_CMD n) = 0)
include hb

/-- LANE_CMD.resume at level 2, with no command of the lane outstanding, resumes it (R230). -/
theorem Dev.cmd_laneResume : d.cmd al acc (F.LANE_CMD.resume n) = d.laneResume n :=
  Dev.cmd_eq al d (laneResume_cmdAt n) hm.1 (fun _ => hm.2) (d.fieldLocked_laneCmd n _) hb
    (by simp [Dev.act1, F.LANE_CMD.resume, actingAt_laneCmd, bitOf])

/-- LANE_CMD.failover, allowed alike, requests the move to a spare (R231). -/
theorem Dev.cmd_laneFailover : d.cmd al acc (F.LANE_CMD.failover n) = d.laneMove n false :=
  Dev.cmd_eq al d (laneFailover_cmdAt n) hm.1 (fun _ => hm.2) (d.fieldLocked_laneCmd n _) hb
    (by simp [Dev.act1, F.LANE_CMD.failover, actingAt_laneCmd, bitOf])

/-- LANE_CMD.failback, allowed alike, requests the move back (R231). -/
theorem Dev.cmd_laneFailback : d.cmd al acc (F.LANE_CMD.failback n) = d.laneMove n true :=
  Dev.cmd_eq al d (laneFailback_cmdAt n) hm.1 (fun _ => hm.2) (d.fieldLocked_laneCmd n _) hb
    (by simp [Dev.act1, F.LANE_CMD.failback, actingAt_laneCmd, bitOf])

end

/-! ## Commands of a DMA channel (R405, R408, R424) -/

/-- The lock of the completion queue covers no command of its channel (R422). -/
theorem Dev.fieldLocked_chCmd (d : Dev) (c : Fin 64) (f : Fld) : d.fieldLocked (A.CH_CMD c) f = false := by
  have h : (A.CH_CMD c == A.CQ_CTL c || A.CH_CMD c == A.CQ_BASE_LO c || A.CH_CMD c == A.CQ_BASE_HI c) = false := by revert c; decide
  simp only [Dev.fieldLocked, (chPause_cmdAt c).page, h, Bool.false_and]

/-- With no pause outstanding no bit of CH_CMD reads 1 (R275, R424). -/
theorem Dev.cmdBits_chCmd (d : Dev) (c : Fin 64) (hs : d.chState c ≠ 4) : d.cmdBits (A.CH_CMD c) = 0 := by
  simp [Dev.cmdBits, actingAt_chCmd, hs, b2n, w32]

/-- A command bit of a channel at the level of its page, with no pause outstanding, has the effect of that bit alone (R405, R408, R424). -/
theorem Dev.cmd_ch (al : Alcove) (d : Dev) (acc : Nat) (c : Fin 64) {k : Nat} {f : Fld} (ha : CmdAt (A.CH_CMD c) k ⟨.dma, c, 0⟩ f)
    (hf : f.prv = false) (hm : d.mayAct acc (pageNo (A.CH_CMD c))) (hs : d.chState c ≠ 4) :
    d.cmd al acc ⟨A.CH_CMD c, k, 1⟩ = d.chCmd c (2 ^ k) :=
  Dev.cmd_eq (r := ⟨A.CH_CMD c, k, 1⟩) al d ha hm (fun hp => absurd (hf.symm.trans hp) (by decide)) (d.fieldLocked_chCmd c f)
    (d.cmdBits_chCmd c hs) (by simp only [Dev.act1, actingAt_chCmd])

/-- Settles O14: each command is one granted command bit that no lock covers; halt needs no more, as it is never outstanding. -/
theorem laneAndDmaCommandsAct : Obligations.LaneAndDmaCommandsAct := by
  unfold Obligations.LaneAndDmaCommandsAct
  refine ⟨fun s t acc n hl hm => ⟨?_, fun hb => ⟨?_, ?_, ?_⟩⟩, fun s t acc c hl hm hs => ⟨?_, ?_, ?_, ?_⟩⟩
  · exact s.act_cmd t acc _ _ hl (Dev.cmd_laneHalt _ _ _ n hm)
  · exact s.act_cmd t acc _ _ hl (Dev.cmd_laneResume _ _ _ n hm hb)
  · exact s.act_cmd t acc _ _ hl (Dev.cmd_laneFailover _ _ _ n hm hb)
  · exact s.act_cmd t acc _ _ hl (Dev.cmd_laneFailback _ _ _ n hm hb)
  · exact s.act_cmd t acc _ _ hl (Dev.cmd_ch _ _ _ c (chPause_cmdAt c) rfl hm hs)
  · exact s.act_cmd t acc _ _ hl (Dev.cmd_ch _ _ _ c (chResume_cmdAt c) rfl hm hs)
  · exact s.act_cmd t acc _ _ hl (Dev.cmd_ch _ _ _ c (chKick_cmdAt c) rfl hm hs)
  · exact s.act_cmd t acc _ _ hl (Dev.cmd_ch _ _ _ c (chSkip_cmdAt c) rfl hm hs)

/-! ## What an occurrence leaves as it is (R249, R290, R292, R321) -/

/-- A reading of the module in which nothing has part that an occurrence changes: stored words, what leaves the module, the sessions, the
sequence number of landing messages and the pulses of the EVT_N lands. -/
structure OutsideEvents {γ : Type} (g : Dev → γ) : Prop where
  stored : ∀ (d : Dev) (a : Nat) (w : Word), g (d.setStored a w) = g d
  emit   : ∀ (d : Dev) (e : Emit), g (d.emit e) = g d
  sess   : ∀ (d : Dev) (i : Nat) (v : Option Sess), g (d.setSess i v) = g d
  seq    : ∀ (d : Dev) (k : Nat), g { d with casc.seq := k } = g d
  pulses : ∀ (d : Dev) p q, g { d with pulse := p, pulseOn := q } = g d

theorem outsideEvents_lanes : OutsideEvents Dev.lanes :=
  ⟨fun _ _ _ => rfl, fun _ _ => rfl, fun _ _ _ => rfl, fun _ _ => rfl, fun _ _ _ => rfl⟩
theorem outsideEvents_hbm : OutsideEvents Dev.hbm :=
  ⟨fun _ _ _ => rfl, fun _ _ => rfl, fun _ _ _ => rfl, fun _ _ => rfl, fun _ _ _ => rfl⟩
theorem outsideEvents_actv : OutsideEvents Dev.actv :=
  ⟨fun _ _ _ => rfl, fun _ _ => rfl, fun _ _ _ => rfl, fun _ _ => rfl, fun _ _ _ => rfl⟩

section
variable {γ : Type} {g : Dev → γ} (hg : OutsideEvents g) (d : Dev)
include hg

theorem OutsideEvents.put (r : FieldRef) (v : Nat) : g (d.put r v) = g d := hg.stored _ _ _

theorem OutsideEvents.emitMsg (k : Nat) (m : LMsg) : g (d.emitMsg k m) = g d := by
  unfold Dev.emitMsg
  split
  · exact hg.emit _ _
  · rfl

theorem OutsideEvents.landSend (ps : List Nat) (ty dst : Nat) (b : Bool) (body : List Byte) :
    g (d.landSend ps ty dst b body) = g d := by
  unfold Dev.landSend
  exact (foldl_keeps g _ (fun e _ => hg.emitMsg e _ _) _ _).trans (hg.seq _ _)

theorem OutsideEvents.evtPulse (i : Nat) : g (d.evtPulse i) = g d := by
  unfold Dev.evtPulse
  split
  · exact hg.pulses _ _ _
  · rfl

theorem OutsideEvents.evtN : g d.evtN = g d := by
  unfold Dev.evtN
  refine foldl_keeps g _ (fun e i => ?_) _ _
  dsimp only
  split
  · rfl
  · rw [hg.emit, hg.put]

theorem OutsideEvents.toSessions (ev : Nat) : g (d.toSessions ev) = g d := by
  unfold Dev.toSessions
  refine foldl_keeps g _ (fun e i => ?_) _ _
  dsimp only
  split
  · split
    · split
      · exact (hg.put _ _ _).trans (hg.sess _ _ _)
      · exact hg.sess _ _ _
    · rfl
  · rfl

/-- An occurrence leaves every such reading as it is (R290). -/
theorem OutsideEvents.raise (ev : Nat) : g (d.raise ev) = g d := by
  have kept (p : Prop) [Decidable p] (x y : Dev) (h : g x = g y) : g (if p then x else y) = g y := by
    split
    · exact h
    · rfl
  have pulses (e : Dev) (r : Nat) : g ((List.range 4).foldl (fun d i => if bitOf r i = 1 then d.evtPulse i else d) e) = g e :=
    foldl_keeps g _ (fun e i => kept _ _ _ (hg.evtPulse e i)) _ _
  unfold Dev.raise
  dsimp only
  refine (kept _ _ _ ?_).trans (hg.put d (F.EVT_RAW_ALL.raw (ev / 32)) _)
  rw [hg.evtN, pulses, kept _ _ _ (hg.landSend _ _ _ _ _ _), kept _ _ _ (hg.toSessions _ _)]
  exact hg.put _ _ _

/-- So does a cause bit of LANE_EVT (R243). -/
theorem OutsideEvents.laneEvt (n : Nat) (r : Nat → FieldRef) : g (d.laneEvt n r) = g d :=
  (hg.raise _ _).trans (hg.put d _ _)

end

/-! ## The sideband of a lane (R235) -/

theorem Dev.lane_setLane_same (d : Dev) (n : Nat) (v : Lane) : (d.setLane n v).lane n = v := by
  simp [Dev.lane, Dev.setLane]
theorem Dev.lane_setLane_other (d : Dev) {n k : Nat} (v : Lane) (h : k ≠ n) : (d.setLane n v).lane k = d.lane k := by
  simp [Dev.lane, Dev.setLane, Tab.get_set_other _ _ _ _ _ h]

/-- A cause bit of LANE_EVT leaves the lanes as they are. -/
theorem Dev.laneEvt_lane (d : Dev) (n : Nat) (r : Nat → FieldRef) (k : Nat) : (d.laneEvt n r).lane k = d.lane k :=
  congrArg (fun l => Tab.get (fun _ => Lane.idle) l k) (outsideEvents_lanes.laneEvt d n r)

/-- LANE_EVT.sb_rx is set after the module sets it: the occurrence of LANE_SUMMARY stores nothing there (R243). -/
theorem Dev.laneEvt_sb_rx (d : Dev) (n : Fin 144) : (d.laneEvt n F.LANE_EVT.sb_rx).get (F.LANE_EVT.sb_rx n) = 1 := by
  have hs := (d.put (F.LANE_EVT.sb_rx n) 1).raise_stored (384 + n) (a := A.LANE_EVT n)
    (by unfold A.LANE_EVT A.EVT_PENDING_ALL; omega) (by unfold A.LANE_EVT A.EVT_N_STATUS; omega)
    (by unfold A.LANE_EVT A.AED_EVT_LOST; omega)
  have hr : A.LANE_EVT n ≠ A.EVT_RAW_ALL ((384 + n) / 32) := by unfold A.LANE_EVT A.EVT_RAW_ALL; omega
  unfold Dev.laneEvt
  rw [Dev.get_congr (r := F.LANE_EVT.sb_rx n) hs, Dev.orBits, Dev.get_put_other _ _ _ _ hr, Dev.get_put_same _ _ _ (show 7 + 1 ≤ 32 by decide)]
  rfl

section
variable (d : Dev) (n : Fin 144) (f : Frag) (hm : d.modeOf n = 1)
include hm

/-- A full queue of a lane in Stairline mode drops and counts a fragment. -/
theorem Dev.sbArrive_full (hq : 64 ≤ (d.lane n).sbRx.length) : d.sbArrive n f = d.bump (F.SB_RX_DROPPED.count n) := by
  unfold Dev.sbArrive
  rw [if_neg (not_not_intro hm), if_pos hq]

/-- Elsewhere the fragment stands last, and LANE_EVT.sb_rx is set where the queue was empty. -/
theorem Dev.sbArrive_room (hq : (d.lane n).sbRx.length < 64) :
    d.sbArrive n f =
      (let e := d.setLane n { d.lane n with sbRx := (d.lane n).sbRx ++ [f] }
       if (d.lane n).sbRx.isEmpty then e.laneEvt n F.LANE_EVT.sb_rx else e) := by
  unfold Dev.sbArrive
  rw [if_neg (not_not_intro hm), if_neg (not_le_of_gt hq)]

end

/-- The fragment that SIDEBAND_RX brings: its six bytes with the most significant first (R235). -/
def fragRx (f : SbFrag) : Frag where
  channel := f.channel.toNat
  first := f.first
  last := f.last
  data := (List.range 6).map fun i => BitVec.ofNat 8 (bitsOf f.data.toNat (40 - 8 * i) 8)

/-- SIDEBAND_RX at a module that works is the arrival of its fragment. -/
theorem exec_sidebandRx (s : State) (t : Nat) (n : Fin 144) (f : SbFrag) (hl : s.dev.live = true) :
    exec (.sidebandRx t n f) s = .next { s with dev := (s.dev.reach t).sbArrive n (fragRx f) } :=
  State.act_live s t _ hl

/-- Settles O42: the two sizes of the queue are the two branches of the arrival, and an occurrence leaves the lanes, the memory and the
active bank. -/
theorem sidebandQueueOfALane : Obligations.SidebandQueueOfALane := by
  unfold Obligations.SidebandQueueOfALane
  intro s t n f hl hm q
  refine ⟨fun hq => ?_, fun hq => ⟨_, exec_sidebandRx s t n f hl, ?_⟩⟩
  · rw [exec_sidebandRx s t n f hl, Dev.sbArrive_full _ n _ hm hq]
  · rw [Dev.sbArrive_room _ n (fragRx f) hm hq]
    dsimp only
    by_cases he : q = []
    · rw [if_pos (List.isEmpty_iff.2 he)]
      refine ⟨?_, fun k hk => ?_, ?_, ?_, fun _ => Dev.laneEvt_sb_rx _ n⟩
      · exact (Dev.laneEvt_lane _ _ _ _).trans (Dev.lane_setLane_same _ _ _)
      · exact (Dev.laneEvt_lane _ _ _ _).trans (Dev.lane_setLane_other _ _ hk)
      · exact outsideEvents_hbm.laneEvt _ _ _
      · exact outsideEvents_actv.laneEvt _ _ _
    · rw [if_neg (mt List.isEmpty_iff.1 he)]
      exact ⟨Dev.lane_setLane_same _ _ _, fun k hk => Dev.lane_setLane_other _ _ hk, rfl, rfl, fun h => absurd h he⟩

/-! ## Commands of windows, lanes, time over lanes, gates and egress (O51) -/

/-- Settles O51: the meaning of each of these commands is an action on the module alone, which `State.act_live` runs. -/
theorem laneRowsComplete : Obligations.LaneRowsComplete := by
  unfold Obligations.LaneRowsComplete
  intro s
  refine ⟨?_, ?_, ?_, ?_, ?_, ?_, ?_, ?_, ?_, ?_, ?_, ?_, ?_, ?_, ?_, ?_, ?_, ?_, ?_, ?_⟩
  all_goals intros; exact State.act_live s _ _ ‹_›

end Sys2Proof.Machine

/-! # Landing links: what a landing of a ring hears, and the commands of the family

The check of a control message is said once for each of its outcomes in a ring; the statement about copies puts them together. -/

namespace Sys2Proof.Machine

/-! ## Control messages in a ring (R249, R251) -/

section
variable (d : Dev) (k : Nat) (m : MsgHead)

/-- A message with a bad CRC counts on its port and does nothing else, in a ring or not (R249). -/
theorem Dev.heard_badCrc (hc : m.crcOk = false) : d.heard k m = (false, d.bump (F.MSG_CRC_ERR.count k)) := by
  rw [Dev.heard, if_pos (by rw [hc]; rfl)]

variable {d m} (he : d.actIs F.CASC_CTL.enable = true) (hr : d.ring = true) (ho : m.src.val ≠ d.get F.CASC_ID.landing)
  (hc : m.crcOk = true)
include he hr ho hc

/-- A landing of a ring looks an intact message of another landing up among those it has seen (R251). -/
theorem Dev.heard_ring :
    d.heard k m =
      if d.casc.seen.contains (m.src.val, m.seq.toNat) then (false, d.bump F.DUP_DROPPED.count)
      else (true, { d with casc.seen := ((m.src.val, m.seq.toNat) :: d.casc.seen).take 4096 }) := by
  simp only [Dev.heard, hc, he, hr, ho, Bool.not_true, Bool.false_eq_true, if_false]

/-- One it has seen is dropped and counted. -/
theorem Dev.heard_ring_seen (hs : d.casc.seen.contains (m.src.val, m.seq.toNat) = true) :
    d.heard k m = (false, d.bump F.DUP_DROPPED.count) := by
  rw [Dev.heard_ring k he hr ho hc, if_pos hs]

/-- One it has not seen is heard and stands first among those seen. -/
theorem Dev.heard_ring_first (hs : d.casc.seen.contains (m.src.val, m.seq.toNat) = false) :
    d.heard k m = (true, { d with casc.seen := (m.src.val, m.seq.toNat) :: d.casc.seen.take 4095 }) := by
  rw [Dev.heard_ring k he hr ho hc, if_neg (ne_true_of_eq_false hs), List.take_succ_cons]

/-- The copy of a message that was heard is dropped, on whichever port it comes: what was heard is among those seen. -/
theorem Dev.heard_ring_again (j : Nat) (hs : d.casc.seen.contains (m.src.val, m.seq.toNat) = false) :
    ((d.heard k m).2.heard j m).1 = false := by
  have hnow : ((m.src.val, m.seq.toNat) :: d.casc.seen.take 4095).contains (m.src.val, m.seq.toNat) = true :=
    List.contains_iff_mem.2 List.mem_cons_self
  have hagain :=
    Dev.heard_ring_seen (d := { d with casc.seen := (m.src.val, m.seq.toNat) :: d.casc.seen.take 4095 }) j he hr ho hc hnow
  rw [Dev.heard_ring_first k he hr ho hc hs, hagain]

end

/-- Settles O43: the three cases of a message in a ring, and of two copies the second finds the first among those seen. -/
theorem secondRingCopyIsDropped : Obligations.SecondRingCopyIsDropped := by
  unfold Obligations.SecondRingCopyIsDropped
  intro d k j m he hr ho
  refine ⟨fun hc => d.heard_badCrc k m hc, fun hc hs => Dev.heard_ring_seen k he hr ho hc hs, fun hc hs => ⟨?_, ?_⟩⟩
  · rw [Dev.heard_ring_first k he hr ho hc hs]
  · exact Dev.heard_ring_again k he hr ho hc j hs

/-! ## Commands of landing ports, landing messages and joins (O52) -/

/-- Settles O52: the meaning of each of these commands is an action on the module alone, which `State.act_live` runs. -/
theorem cascadeRowsComplete : Obligations.CascadeRowsComplete := by
  unfold Obligations.CascadeRowsComplete
  intro s
  refine ⟨?_, ?_, ?_, ?_, ?_, ?_, ?_, ?_, ?_, ?_, ?_, ?_, ?_, ?_, ?_, ?_, ?_, ?_, ?_, ?_, ?_, ?_, ?_⟩
  all_goals intros; exact State.act_live s _ _ ‹_›

end Sys2Proof.Machine

/-! # The register model: accesses, events, ignored writes and mailbox items

First accesses whose end is plain, then what an occurrence and an ignored write store, and where the mailbox items lie; each statement of
the family follows the lemmas it needs. -/

namespace Sys2Proof.Machine

/-! ## Accesses that end at once (R278, R485) -/

/-- An access that puts nothing at the doors of the Alcove ends with its effect on the module. -/
theorem State.access_quiet (s : State) (t : Nat) (f : Alcove → Dev → Dev) (e : Dev) (hl : s.dev.live = true)
    (he : f s.alc (s.dev.reach t) = e) (hq : e.alcq = []) : s.access t f = .next { s with dev := e } := by
  rw [State.access_live _ _ _ hl, he, State.settle_empty _ hq]

/-- With nothing at the doors an access that changes nothing leaves the module with its time moved on, whether or not it works. -/
theorem State.access_same (s : State) (t : Nat) (f : Alcove → Dev → Dev) (hq : (s.reached t).doorsShut)
    (he : f s.alc (s.dev.reach t) = s.dev.reach t) : s.access t f = .next { s with dev := s.dev.reach t } := by
  have hrun : s.dev.run t (f s.alc) = s.dev.reach t := by
    unfold Dev.run
    split
    · exact he
    · rfl
  rw [State.access, hrun]
  exact congrArg Host.Outcome.next (State.settle_empty (s.reached t) hq)

/-! ## Occurrences (O21) -/

/-- The raw bit of an event leaves the enables as they are. -/
theorem Dev.get_enable_raw (d : Dev) (e : Nat) :
    (d.orBits (F.EVT_RAW_ALL.raw (e / 32)) (2 ^ (e % 32))).get (F.EVT_ENABLE_ALL.enable (e / 32)) =
      d.get (F.EVT_ENABLE_ALL.enable (e / 32)) :=
  d.get_put_other _ _ _ (show A.EVT_ENABLE_ALL (e / 32) ≠ A.EVT_RAW_ALL (e / 32) by unfold A.EVT_ENABLE_ALL A.EVT_RAW_ALL; omega)

/-- An occurrence of an event whose enable is 0 sets its raw bit and does nothing else (R290). -/
theorem Dev.raise_disabled (d : Dev) {e : Nat} (h : bitOf (d.get (F.EVT_ENABLE_ALL.enable (e / 32))) (e % 32) = 0) :
    d.raise e = d.orBits (F.EVT_RAW_ALL.raw (e / 32)) (2 ^ (e % 32)) := by
  unfold Dev.raise
  exact if_neg (by rw [Dev.get_enable_raw, h]; exact zero_ne_one)

/-- The pulses of the EVT_N lands store nothing in the registers (R292). -/
theorem Dev.evtPulses_stored (d : Dev) (r a : Nat) :
    ((List.range 4).foldl (fun d i => if bitOf r i = 1 then d.evtPulse i else d) d).stored a = d.stored a := by
  refine foldl_keeps (fun d : Dev => d.stored a) _ (fun d i => ?_) _ _
  split
  · exact d.evtPulse_stored i a
  · rfl

/-- Of the registers other than EVT_N_STATUS and AED_EVT_LOST an occurrence of an enabled event changes its raw and its pending word alone:
delivery stores nothing there (R290). -/
theorem Dev.raise_enabled_stored (d : Dev) {e a : Nat} (h : bitOf (d.get (F.EVT_ENABLE_ALL.enable (e / 32))) (e % 32) = 1)
    (hn : a ≠ A.EVT_N_STATUS) (hl : a ≠ A.AED_EVT_LOST) :
    (d.raise e).stored a =
      ((d.orBits (F.EVT_RAW_ALL.raw (e / 32)) (2 ^ (e % 32))).orBits (F.EVT_PENDING_ALL.pending (e / 32)) (2 ^ (e % 32))).stored a := by
  have hon := (d.get_enable_raw e).symm ▸ h
  unfold Dev.raise
  dsimp only
  rw [if_pos hon, Dev.evtN_stored _ hn, Dev.evtPulses_stored, Dev.landSendIf_stored]
  split
  · exact Dev.toSessions_stored _ _ hl
  · rfl

/-- After an occurrence of an enabled event its pending bit is set (R290). -/
theorem Dev.raise_pending (d : Dev) {e : Nat} (he : e < 1024)
    (h : bitOf (d.get (F.EVT_ENABLE_ALL.enable (e / 32))) (e % 32) = 1) :
    bitOf ((d.raise e).get (F.EVT_PENDING_ALL.pending (e / 32))) (e % 32) = 1 := by
  have hs := d.raise_enabled_stored h (a := A.EVT_PENDING_ALL (e / 32)) (by unfold A.EVT_PENDING_ALL A.EVT_N_STATUS; omega)
    (by unfold A.EVT_PENDING_ALL A.AED_EVT_LOST; omega)
  rw [Dev.get_congr (r := F.EVT_PENDING_ALL.pending (e / 32)) hs]
  exact Dev.orBits_sets _ (Nat.mod_lt e (by decide))

/-- Settles O21: the enable decides between the two ends of an occurrence, and both set the raw bit. -/
theorem disabledEventSetsItsRawBitOnly : Obligations.DisabledEventSetsItsRawBitOnly := by
  unfold Obligations.DisabledEventSetsItsRawBitOnly
  intro d e
  exact ⟨d.raise_disabled, d.raise_raw e.isLt, d.raise_pending e.isLt⟩

/-! ## Doorbells (O20) -/

/-- The doorbell registers (R293). -/
def doorbellAddr (hi : Bool) : Nat := if hi then A.DOORBELL_HI else A.DOORBELL_LO

/-- The first event of a doorbell register. -/
def doorbellEvt (hi : Bool) : Nat := if hi then 992 else 960

/-- What the address of a strobe must be: a register of a page outside its header, whose one writable field is write-only, of all 32 bits
and without PRV suffix. -/
structure StrobeAt (a : Nat) (p : Page) (f : Fld) : Prop where
  word : wordAddr a = a
  page : pageAt a = some p
  ofs  : 0x100 ≤ pageOfs a
  evt  : evtBits a = 0xFFFFFFFF
  one  : writeFlds a 0xFFFFFFFF = [f]
  acc  : f.acc = .wo
  prv  : f.prv = false
  mask : BitVec.ofNat 32 f.mask = 0xFFFFFFFF

theorem doorbell_strobeAt (hi : Bool) : StrobeAt (doorbellAddr hi) ⟨.events, 0, 0⟩ (fp "ring" 0 32 .wo 0) := by
  constructor <;> revert hi <;> decide
theorem pageNo_doorbell (hi : Bool) : pageNo (doorbellAddr hi) = pageNo A.DOORBELL_LO := by revert hi; decide
theorem actingAt_doorbell (hi : Bool) : actingAt (doorbellAddr hi) = .doorbell hi := by revert hi; decide

/-- The events that the bits written 1 to a doorbell raise, in the order of the bits (R293). -/
def Dev.rung (d : Dev) (base : Nat) (v : Word) : Dev :=
  ((List.range 32).filter fun k => v.getLsbD k).foldl (fun d k => d.raise (base + k)) d

theorem Dev.rung_zero (d : Dev) (base : Nat) : d.rung base 0 = d := by
  simp [Dev.rung]

/-- A doorbell acts by raising them. -/
theorem Dev.act1_doorbell (d old : Dev) (acc : Nat) (hi : Bool) (v : Word) :
    d.act1 old acc (doorbellAddr hi) v.toNat = (true, d.rung (doorbellEvt hi) v) := by
  have hb (k : Nat) : bitOf v.toNat k = 1 ↔ v.getLsbD k = true := by rw [bitOf_eq_one_iff, BitVec.testBit_toNat]
  have he : 960 + (if hi = true then 32 else 0) = doorbellEvt hi := by cases hi <;> rfl
  simp only [Dev.act1, actingAt_doorbell, hb, he, Dev.rung, List.foldl_filter]

/-- A strobe that is unlocked and never outstanding, written at the level of its page, stores nothing and acts with the bits written 1; with
none it does nothing. -/
theorem Dev.writeFields_strobe (d : Dev) (acc : Nat) {a : Nat} {p : Page} {f : Fld} {v : Word} {e : Dev} (c : StrobeAt a p f)
    (hl : d.get (F.PRIV_LEVEL.level (pageNo a)) ≤ d.levelOn acc (pageNo a)) (hk : d.fieldLocked a f = false) (hb : d.cmdBits a = 0)
    (ha : d.act1 d acc a v.toNat = (true, e)) (h0 : v = 0 → e = d) : d.writeFields acc a p v 0xFFFFFFFF = (true, e) := by
  have hlt : ¬ d.levelOn acc (pageNo a) < d.get (F.PRIV_LEVEL.level (pageNo a)) := not_lt_of_ge hl
  have hact : (f.acc == Acc.cmd || f.acc == Acc.wo) = true := by rw [c.acc]; rfl
  have hw : d.wosSet a f = false := by simp [Dev.wosSet, c.acc]
  have hm : (0xFFFFFFFF : Word) &&& 0xFFFFFFFF = 0xFFFFFFFF := rfl
  have hv : v &&& 0xFFFFFFFF = v := BitVec.and_allOnes
  have hc : (w32 v.toNat &&& ~~~(0 : Word)).toNat = v.toNat := by
    rw [show ~~~(0 : Word) = BitVec.allOnes 32 from rfl, BitVec.and_allOnes, w32, BitVec.ofNat_toNat, BitVec.setWidth_eq]
  unfold Dev.writeFields
  simp only [c.evt, hm, c.one, hlt, List.isEmpty_cons, Bool.false_eq_true, if_false]
  by_cases hz : v = 0
  · have hz' : (v != 0) = false := bne_eq_false_iff_eq.2 hz
    simp only [List.filter_cons, List.filter_nil, hact, c.mask, hm, hv, hz', Bool.not_true, Bool.false_or, Bool.false_eq_true, if_false,
      List.any_nil, List.isEmpty_nil, h0 hz]
    simp
  · have hz' : (v != 0) = true := bne_iff_ne.2 hz
    simp only [List.filter_cons, List.filter_nil, hact, c.mask, hm, hv, hz', c.prv, hk, hw, hb, hc, cmdsOf, List.foldl_cons,
      List.foldl_nil, Bool.not_true, Bool.false_or, Bool.false_and, Bool.not_false, if_true, Bool.false_eq_true, if_false, List.any_cons,
      List.any_nil, Nat.zero_or, ha, List.isEmpty_cons, List.isEmpty_nil, Bool.or_self]
    simp

/-- A write of a doorbell by an accessor that may act there stores nothing and rings (R293). -/
theorem Dev.store_doorbell (al : Alcove) (d : Dev) (acc : Nat) (hi : Bool) (v : Word) (hm : d.mayAct acc (pageNo (doorbellAddr hi))) :
    d.store al acc (doorbellAddr hi) v = d.rung (doorbellEvt hi) v := by
  have c := doorbell_strobeAt hi
  obtain ⟨hx, hg, hl⟩ := hm
  rw [Dev.store_high al d v c.word c.page c.ofs hx hg, Dev.writeFields_strobe d acc c hl (d.fieldLocked_false _ c.page (by decide))
    (by simp only [Dev.cmdBits, actingAt_doorbell]) (d.act1_doorbell d acc hi v) fun hv => by rw [hv, Dev.rung_zero]]

/-- Settles O20: each command writes one of the two doorbells, and its bits raise their events in order. -/
theorem doorbellRaisesItsEvents : Obligations.DoorbellRaisesItsEvents := by
  unfold Obligations.DoorbellRaisesItsEvents
  intro s t acc v hl hm
  have ring (hi : Bool) : exec (.doorbell t acc hi v) s = .next { s with dev := (s.dev.reach t).rung (doorbellEvt hi) v } :=
    (State.act_live s t (fun d => d.store s.alc acc (doorbellAddr hi) v) hl).trans
      (by rw [Dev.store_doorbell _ _ _ hi v (by rw [pageNo_doorbell]; exact hm)])
  exact ⟨ring false, ring true⟩

/-! ## Ignored writes (O23) -/

/-- A bit of a word outside a field is as before the field was put. -/
theorem testBit_putBits_other (w : Word) {l n i : Nat} (v : Nat) (h : i < l ∨ l + n ≤ i) :
    (putBits w l n v).toNat.testBit i = w.toNat.testBit i := by
  have hm (x : Nat) (hx : x < 2 ^ n) : (x <<< l).testBit i = false := by
    rw [Nat.testBit_shiftLeft]
    rcases h with h | h
    · rw [decide_eq_false (by omega), Bool.false_and]
    · rw [Nat.testBit_lt_two_pow (lt_of_lt_of_le hx (Nat.pow_le_pow_right two_pos (by omega))), Bool.and_false]
  by_cases hi : i < 32
  · simp only [putBits, BitVec.testBit_toNat, BitVec.getLsbD_or, BitVec.getLsbD_and, BitVec.getLsbD_not, BitVec.getLsbD_ofNat,
      hm _ (Nat.mod_lt _ (Nat.two_pow_pos n)), hm _ (Nat.sub_lt (Nat.two_pow_pos n) one_pos), hi]
    simp
  · rw [BitVec.testBit_toNat, BitVec.testBit_toNat, BitVec.getLsbD_of_ge _ _ (by omega), BitVec.getLsbD_of_ge _ _ (by omega)]

/-- A field that ends below another of its register reads as before the other was put. -/
theorem Dev.get_put_below (d : Dev) (r q : FieldRef) (v : Nat) (ha : q.addr = r.addr) (h : q.lsb + q.width ≤ r.lsb) :
    (d.put r v).get q = d.get q := by
  refine Nat.eq_of_testBit_eq fun i => ?_
  rw [Dev.get, Dev.get, testBit_bitsOf, testBit_bitsOf, Dev.put, ha, Dev.stored_setStored_same]
  by_cases hi : i < q.width
  · rw [testBit_putBits_other _ _ (.inl (by omega))]
  · rw [decide_eq_false hi, Bool.false_and, Bool.false_and]

/-- A counter counts modulo 2^32 (R279). -/
theorem Dev.get_bump (d : Dev) (a : Nat) : (d.bump ⟨a, 0, 32⟩).get ⟨a, 0, 32⟩ = (d.get ⟨a, 0, 32⟩ + 1) % 2 ^ 32 :=
  d.get_put_same _ _ le_rfl

theorem Dev.get_bump_other (d : Dev) (r q : FieldRef) (h : q.addr ≠ r.addr) : (d.bump r).get q = d.get q :=
  d.get_put_other r q _ h

theorem Dev.stored_bump_other (d : Dev) (r : FieldRef) {a : Nat} (h : a ≠ r.addr) : (d.bump r).stored a = d.stored a :=
  d.stored_put_other r _ h

theorem Dev.get_orBits_other (d : Dev) (r q : FieldRef) (v : Nat) (h : q.addr ≠ r.addr) : (d.orBits r v).get q = d.get q :=
  d.get_put_other r q _ h

theorem Dev.stored_orBits_other (d : Dev) (r : FieldRef) (v : Nat) {a : Nat} (h : a ≠ r.addr) : (d.orBits r v).stored a = d.stored a :=
  d.stored_put_other r _ h

/-- The flag of PAGE_STATUS that an ignored write sets (R276, R277). -/
def ignoredFlag (priv : Bool) (p : Nat) : FieldRef := if priv then F.PAGE_STATUS.priv_denied p else F.PAGE_STATUS.lock_violation p

theorem ignoredFlag_addr (priv : Bool) (p : Nat) : (ignoredFlag priv p).addr = A.PAGE_STATUS p := by cases priv <;> rfl
theorem ignoredFlag_lsb (priv : Bool) (p : Nat) : (ignoredFlag priv p).lsb ≤ 1 := by
  cases priv
  · exact Nat.zero_le 1
  · exact le_rfl
theorem ignoredFlag_width (priv : Bool) (p : Nat) : (ignoredFlag priv p).width = 1 := by cases priv <;> rfl

/-- The record of an ignored write before its event (R276, R277). -/
def Dev.ignoredNoted (d : Dev) (p acc : Nat) (priv : Bool) : Dev :=
  ((((d.bump (F.LOCK_VIOLATION.count p)).put (ignoredFlag priv p) 1).put F.LOCK_LAST.page p).put F.LOCK_LAST.accessor (accNo acc)).bump
    F.LOCK_TOTAL.count

theorem Dev.ignored_eq (d : Dev) (p acc : Nat) (priv : Bool) : d.ignored p acc priv = (d.ignoredNoted p acc priv).raise 1 := rfl

section
variable (d : Dev) (p acc : Nat) (priv : Bool)

/-- The registers that record an ignored write, of a page and of the module, are different ones. -/
theorem ignored_addrs : A.LOCK_VIOLATION p ≠ A.PAGE_STATUS p ∧ A.LOCK_VIOLATION p ≠ A.LOCK_LAST ∧ A.LOCK_VIOLATION p ≠ A.LOCK_TOTAL ∧
    A.PAGE_STATUS p ≠ A.LOCK_LAST ∧ A.PAGE_STATUS p ≠ A.LOCK_TOTAL ∧ A.LOCK_LAST ≠ A.LOCK_TOTAL := by
  unfold A.LOCK_VIOLATION A.PAGE_STATUS A.LOCK_LAST A.LOCK_TOTAL; omega

/-- Beside those registers the record changes none. -/
theorem Dev.ignoredNoted_stored {a : Nat} (h1 : a ≠ A.LOCK_VIOLATION p) (h2 : a ≠ A.PAGE_STATUS p) (h3 : a ≠ A.LOCK_LAST)
    (h4 : a ≠ A.LOCK_TOTAL) : (d.ignoredNoted p acc priv).stored a = d.stored a := by
  have h2' : a ≠ (ignoredFlag priv p).addr := by rw [ignoredFlag_addr]; exact h2
  rw [Dev.ignoredNoted, Dev.stored_bump_other _ _ h4, Dev.stored_put_other _ _ _ h3, Dev.stored_put_other _ _ _ h3,
    Dev.stored_put_other _ _ _ h2', Dev.stored_bump_other _ _ h1]

/-- What the record holds: the counts of the page and of the module, the flag, and page and accessor. -/
theorem Dev.ignoredNoted_get (hp : p < 2 ^ 14) (ha : accNo acc < 2 ^ 5) :
    let e := d.ignoredNoted p acc priv
    e.get (F.LOCK_VIOLATION.count p) = (d.get (F.LOCK_VIOLATION.count p) + 1) % 2 ^ 32 ∧
    e.get F.LOCK_TOTAL.count = (d.get F.LOCK_TOTAL.count + 1) % 2 ^ 32 ∧ e.get (ignoredFlag priv p) = 1 ∧
    e.get F.LOCK_LAST.page = p ∧ e.get F.LOCK_LAST.accessor = accNo acc := by
  obtain ⟨hvs, hvl, hvt, hsl, hst, hlt⟩ := ignored_addrs p
  have hf := ignoredFlag_addr priv p
  have hw := ignoredFlag_width priv p
  have hb := ignoredFlag_lsb priv p
  unfold Dev.ignoredNoted
  refine ⟨?_, ?_, ?_, ?_, ?_⟩
  · rw [Dev.get_bump_other _ _ _ hvt, Dev.get_put_other _ _ _ _ hvl, Dev.get_put_other _ _ _ _ hvl,
      Dev.get_put_other _ _ _ _ (by rw [hf]; exact hvs)]
    exact d.get_bump _
  · refine (Dev.get_bump _ A.LOCK_TOTAL).trans ?_
    rw [Dev.get_put_other _ _ _ _ hlt.symm, Dev.get_put_other _ _ _ _ hlt.symm,
      Dev.get_put_other _ _ _ _ (by rw [hf]; exact hst.symm), Dev.get_bump_other _ _ _ hvt.symm]
    rfl
  · rw [Dev.get_bump_other _ _ _ (by rw [hf]; exact hst), Dev.get_put_other _ _ _ _ (by rw [hf]; exact hsl),
      Dev.get_put_other _ _ _ _ (by rw [hf]; exact hsl), Dev.get_put_same _ _ _ (by omega), hw]
    rfl
  · rw [Dev.get_bump_other _ _ _ hlt, Dev.get_put_below _ F.LOCK_LAST.accessor F.LOCK_LAST.page _ rfl (by decide),
      Dev.get_put_same _ _ _ (by decide)]
    exact Nat.mod_eq_of_lt hp
  · rw [Dev.get_bump_other _ _ _ hlt, Dev.get_put_same _ _ _ (by decide)]
    exact Nat.mod_eq_of_lt ha

/-- With event 1 disabled an ignored write sets its raw bit beside the record, and nothing else (R276, R290). -/
theorem Dev.ignored_disabled (h : bitOf (d.get (F.EVT_ENABLE_ALL.enable 0)) 1 = 0) :
    d.ignored p acc priv = (d.ignoredNoted p acc priv).orBits (F.EVT_RAW_ALL.raw 0) 2 := by
  refine (d.ignored_eq p acc priv).trans (Dev.raise_disabled (e := 1) _ ?_)
  rw [Dev.get_congr (e := d) (Dev.ignoredNoted_stored d p acc priv ?_ ?_ ?_ ?_)]
  · exact h
  all_goals simp only [F.EVT_ENABLE_ALL.enable, A.EVT_ENABLE_ALL, A.LOCK_VIOLATION, A.PAGE_STATUS, A.LOCK_LAST, A.LOCK_TOTAL]; omega

end

/-- Settles O23: with event 1 disabled the record and the raw bit are all that changes. -/
theorem ignoredWriteIsRecorded : Obligations.IgnoredWriteIsRecorded := by
  unfold Obligations.IgnoredWriteIsRecorded
  intro d p acc priv _ he e
  have heq : e = (d.ignoredNoted p acc priv).orBits (F.EVT_RAW_ALL.raw 0) 2 := d.ignored_disabled p acc priv he
  have hacc : accNo acc = acc := if_pos (by omega)
  obtain ⟨hv, ht, hs, hg, ha⟩ := d.ignoredNoted_get p acc priv p.isLt (by rw [hacc]; omega)
  have raw (q : FieldRef) (h : q.addr ≠ A.EVT_RAW_ALL 0) : e.get q = (d.ignoredNoted p acc priv).get q := by
    rw [heq, Dev.get_orBits_other _ _ _ _ h]
  refine ⟨?_, ?_, ?_, ?_, ?_, ?_, ?_, fun a h1 h2 h3 h4 h5 => ?_⟩
  · rw [raw _ (by simp only [F.LOCK_VIOLATION.count, A.LOCK_VIOLATION, A.EVT_RAW_ALL]; omega), hv]
  · rw [raw _ (by decide), ht]
  · show e.get (ignoredFlag priv p) = 1
    rw [raw _ (by rw [ignoredFlag_addr]; unfold A.PAGE_STATUS A.EVT_RAW_ALL; omega), hs]
  · rw [raw _ (by decide), hg]
  · rw [raw _ (by decide), ha, hacc]
  · rw [heq]
    exact Dev.orBits_sets (k := 1) _ (by decide)
  · rw [heq]
    rfl
  · rw [heq, Dev.stored_orBits_other _ _ _ h5, Dev.ignoredNoted_stored _ _ _ _ h1 h2 h3 h4]

/-! ## Writes below the level of the page (O22) -/

theorem outsideEvents_alcq : OutsideEvents Dev.alcq :=
  ⟨fun _ _ _ => rfl, fun _ _ => rfl, fun _ _ _ => rfl, fun _ _ => rfl, fun _ _ _ => rfl⟩

section
variable (d : Dev)

/-- An ignored write puts nothing at the doors of the Alcove. -/
theorem Dev.ignored_alcq (p acc : Nat) (priv : Bool) : (d.ignored p acc priv).alcq = d.alcq := by
  rw [Dev.ignored_eq, outsideEvents_alcq.raise]
  simp only [Dev.ignoredNoted, Dev.bump, Dev.bumpBy, Dev.put_alcq]

/-- Nor does a refused operation (R535). -/
theorem Dev.opRefuse_alcq (kind target code reason : Nat) : (d.opRefuse kind target code reason).alcq = d.alcq := by
  have hn : ((d.opNote kind target code 2 reason 0).refusedEvent code).alcq = d.alcq := by
    unfold Dev.refusedEvent
    split
    · exact outsideEvents_alcq.raise _ _
    · rfl
  have hl (e : Dev) : (e.laneRefused target).alcq = e.alcq := by
    unfold Dev.laneRefused
    split
    · exact outsideEvents_alcq.laneEvt _ _ _
    · rfl
  have hc (e : Dev) : (e.pcCode kind code).alcq = e.alcq := by
    unfold Dev.pcCode
    split <;> rfl
  unfold Dev.opRefuse
  dsimp only
  rw [outsideEvents_alcq.raise, outsideEvents_alcq.raise, Dev.bump, Dev.bumpBy, outsideEvents_alcq.put, hc]
  split
  · rw [hl, hn]
  · exact hn

/-- Nor do the operations that command bits below level 2 ask for, which are refused (R535). -/
theorem Dev.opDenied_alcq (a w v : Nat) : (d.opDenied a w v).alcq = d.alcq := by
  have hask (d : Dev) (bit kind target : Nat) : (if bitOf v bit = 1 then d.opRefuse kind target 0x14 0 else d).alcq = d.alcq := by
    split
    · exact d.opRefuse_alcq _ _ _ _
    · rfl
  unfold Dev.opDenied
  dsimp only
  split
  · rw [hask, hask]
  · rw [hask, hask]
  · split
    · exact hask _ _ _ _
    · rfl
  · split
    · exact hask _ _ _ _
    · rfl
  · rfl

theorem Dev.deniedAsks_alcq (acc a : Nat) (fs : List Fld) (v m : Word) : (d.deniedAsks acc a fs v m).alcq = d.alcq := by
  unfold Dev.deniedAsks
  split
  · exact d.opDenied_alcq _ _ _
  · rfl

/-- The registers of four kinds alone ask for operations (R231, R263, R374, R469). -/
theorem Dev.deniedAsks_none (acc : Nat) {a : Nat} (fs : List Fld) (v m : Word) (hl : ∀ n, actingAt a ≠ .laneCmd n)
    (hp : actingAt a ≠ .pcCmd) (ht : ∀ c, actingAt a ≠ .tsyn c) (hc : actingAt a ≠ .cascCmd) : d.deniedAsks acc a fs v m = d := by
  have hd (w x : Nat) : d.opDenied a w x = d := by
    unfold Dev.opDenied
    dsimp only
    split
    · exact absurd ‹_› (hl _)
    · exact absurd ‹_› hp
    · exact absurd ‹_› (ht _)
    · exact absurd ‹_› hc
    · rfl
  unfold Dev.deniedAsks
  rw [hd, ite_self]

end

/-- Bits [1:0] of an address are ignored once (R271). -/
theorem wordAddr_wordAddr (a : Nat) : wordAddr (wordAddr a) = wordAddr a := by
  unfold wordAddr; omega

theorem Dev.regWrite_wordAddr (al : Alcove) (d : Dev) (acc a : Nat) (v m : Word) :
    d.regWrite al acc (wordAddr a) v m = d.regWrite al acc a v m := by
  simp only [Dev.regWrite, wordAddr_wordAddr]

/-- A granted write of a whole register outside the header, at any of its four addresses, writes its fields. -/
theorem Dev.store_high_at (al : Alcove) (d : Dev) {acc a : Nat} {p : Page} (v : Word) (hp : pageAt (wordAddr a) = some p)
    (ho : 0x100 ≤ pageOfs (wordAddr a)) (hx : d.present acc = true) (hg : d.grants acc (pageNo (wordAddr a)) = true) :
    d.store al acc a v = (d.writeFields acc (wordAddr a) p v 0xFFFFFFFF).2 := by
  rw [Dev.store, Dev.access_eq al d acc (.write a v _) hx hg (Dev.flashHolds_high _ _ _ _ _ ho), Dev.access1,
    ← Dev.regWrite_wordAddr, Dev.regWrite_high al d acc v _ (wordAddr_wordAddr a) hp ho]

/-- A write of fields below the level of their page is ignored, and what its command bits ask for is refused (R277, R535). -/
theorem Dev.writeFields_below (d : Dev) (acc : Nat) {a : Nat} (p : Page) (v : Word) (hf : writeFlds a (evtBits a) ≠ [])
    (hl : d.levelOn acc (pageNo a) < d.get (F.PRIV_LEVEL.level (pageNo a))) :
    d.writeFields acc a p v 0xFFFFFFFF =
      (false, (d.deniedAsks acc a (writeFlds a (evtBits a)) v (evtBits a)).ignored (pageNo a) acc true) := by
  have hm : (0xFFFFFFFF : Word) &&& evtBits a = evtBits a := BitVec.allOnes_and
  have he : (writeFlds a (evtBits a)).isEmpty = false := by rw [Bool.eq_false_iff, Ne, List.isEmpty_iff]; exact hf
  unfold Dev.writeFields
  simp only [hm, he, hl, if_true, Bool.false_eq_true, if_false]

/-- Settles O22: the write reaches its fields, whose level test fails; neither the refusals nor the record put anything at the doors. -/
theorem writeBelowTheLevelIsIgnored : Obligations.WriteBelowTheLevelIsIgnored := by
  unfold Obligations.WriteBelowTheLevelIsIgnored
  intro s t acc a v p hl hq hp ho hf
  refine ⟨fun hx => ?_, fun hx hg hlt => ⟨?_, fun h1 h2 h3 h4 => Dev.deniedAsks_none _ _ _ _ _ h1 h2 h3 h4⟩⟩
  · exact s.access_same t (fun al d => d.store al acc a.toNat v) hq (Dev.absent_access _ _ _ _ hx)
  · refine s.access_quiet t (fun al d => d.store al acc a.toNat v) _ hl ?_ ?_
    · rw [Dev.store_high_at _ _ v hp ho hx hg, Dev.writeFields_below _ _ p v hf hlt]
    · rw [Dev.ignored_alcq, Dev.deniedAsks_alcq]
      exact hq

/-! ## Addresses of no page (O25) -/

section
variable (al : Alcove) (d : Dev) (acc : Nat) {a : Nat} (hp : pageAt (wordAddr a) = none)
include hp

/-- A read of an address of no page returns zero and changes nothing (R271). -/
theorem Dev.regRead_noPage (peek : Bool) : d.regRead al acc a peek = (0, d) := by
  simp only [Dev.regRead, hp]

/-- A write of one changes nothing. -/
theorem Dev.regWrite_noPage (v m : Word) : d.regWrite al acc a v m = (.ok, d) := by
  simp only [Dev.regWrite, hp]

/-- Such a write does not wait for the flash (R515). -/
theorem Dev.flashHolds_noPage (v m : Word) : d.flashHolds acc (.write a v m) = false := by
  apply Dev.flashHolds_write <;>
  · intro e
    rw [e] at hp
    exact absurd hp (by decide)

variable (hg : d.grants acc (pageNo (wordAddr a)) = true)
include hg

/-- A whole write request there changes nothing, of an accessor that exists or not (R271, R278). -/
theorem Dev.store_noPage (v : Word) : d.store al acc a v = d := by
  unfold Dev.store
  by_cases hx : d.present acc = true
  · rw [Dev.access_eq al d acc (.write a v _) hx hg (d.flashHolds_noPage acc hp v _), Dev.access1, d.regWrite_noPage al acc hp]
  · exact Dev.absent_access al d acc _ (Bool.eq_false_iff.2 hx)

/-- So does a whole read request. -/
theorem Dev.readOnce_noPage : d.readOnce al acc a = d := by
  unfold Dev.readOnce
  by_cases hx : d.present acc = true
  · rw [Dev.access_eq al d acc (.read a) hx hg (d.flashHolds_read acc a), Dev.access1, d.regRead_noPage al acc hp]
  · exact Dev.absent_access al d acc _ (Bool.eq_false_iff.2 hx)

end

/-- Settles O25: a write and a read of an address of no page change nothing, on a module that works or not. -/
theorem accessOutsideThePagesHasNoEffect : Obligations.AccessOutsideThePagesHasNoEffect := by
  unfold Obligations.AccessOutsideThePagesHasNoEffect
  intro s t acc a v hq hp hg
  refine ⟨?_, ?_, fun al peek => ?_⟩
  · exact s.access_same t (fun al d => d.store al acc a.toNat v) hq (Dev.store_noPage _ _ _ hp hg v)
  · exact s.access_same t (fun al d => d.readOnce al acc a.toNat) hq (Dev.readOnce_noPage _ _ _ hp hg)
  · rw [Dev.regRead_noPage al _ _ hp]

/-! ## Indirect words of a page without an indirect space (O26) -/

theorem wordAddr_indData (pg : Nat) : wordAddr (A.IND_DATA pg) = A.IND_DATA pg := by
  unfold wordAddr A.IND_DATA; omega
theorem pageNo_indData (pg : Nat) : pageNo (A.IND_DATA pg) = pg := by
  unfold pageNo A.IND_DATA; omega
theorem pageOfs_indData (pg : Nat) : pageOfs (A.IND_DATA pg) = 0x24 := by
  unfold pageOfs A.IND_DATA; omega
theorem pageAt_indData (pg : Nat) : pageAt (A.IND_DATA pg) = pageOf pg := congrArg pageOf (pageNo_indData pg)

section
variable (al : Alcove) (d : Dev) (acc pg : Nat) {p : Page} (hp : pageOf pg = some p)
include hp

/-- A read of IND_DATA is one of the indirect word (R280). -/
theorem Dev.regRead_indData (peek : Bool) : d.regRead al acc (A.IND_DATA pg) peek = d.indDataRead al acc pg p peek := by
  simp only [Dev.regRead, wordAddr_indData, pageAt_indData, hp, pageOfs_indData, pageNo_indData]
  rfl

/-- A whole write of IND_DATA is one of the indirect word (R280). -/
theorem Dev.regWrite_indData (v : Word) : d.regWrite al acc (A.IND_DATA pg) v 0xFFFFFFFF =
    (.of (d.indDataWrite acc pg p v).1, (d.indDataWrite acc pg p v).2) := by
  have hv : v &&& 0xFFFFFFFF#32 = v := BitVec.and_allOnes
  simp only [Dev.regWrite, wordAddr_indData, pageAt_indData, hp, pageOfs_indData, pageNo_indData]
  simp [hv]

end

/-- The pages of a hall without an indirect space are 1 to 5 and what lies beyond 10 (R280). -/
theorem hall_noInd {i n : Nat} (hi : Page.hasInd ⟨.hall, i, n⟩ = false) : n ≠ 0 ∧ (6 ≤ n → 10 < n) := by
  simpa [Page.hasInd] using hi

section
variable {p : Page} (hi : p.hasInd = false)
include hi

/-- A page without an indirect space has no indirect word to read (R280). -/
theorem Dev.indRead_none (al : Alcove) (d : Dev) (acc pg a : Nat) : d.indRead al acc pg p a = (none, d) := by
  obtain ⟨b, i, n⟩ := p
  cases b
  case glob | lane | alcove | powerBoot => cases hi
  case xlat | dma | cu | cascade | steward => rfl
  case hall =>
    have hn := hall_noInd hi
    simp only [Dev.indRead]
    split
    case h_7 => rfl
    all_goals omega
  case win | hostport | hbm | clock | events =>
    simp [Page.hasInd] at hi
    simp [Dev.indRead, hi]

/-- Nor one to write. -/
theorem Dev.indWrite_unassigned (d : Dev) (acc pg a : Nat) (w : Word) : d.indWrite acc pg p a w = .unassigned := by
  obtain ⟨b, i, n⟩ := p
  cases b
  case glob | lane | alcove | powerBoot => cases hi
  case xlat | dma | cu | cascade | steward => rfl
  case hall =>
    have hn := hall_noInd hi
    simp only [Dev.indWrite]
    split
    case h_7 => rfl
    all_goals omega
  case win | hostport | hbm | clock | events =>
    simp [Page.hasInd] at hi
    simp [Dev.indWrite, hi]

end

/-- IND_ADDR of an accessor moved on, and the range error of the page set (R280). -/
def Dev.indPassed (d : Dev) (acc pg : Nat) : Dev := (d.indNext acc pg).indRange pg

section
variable (al : Alcove) (d : Dev) (acc pg : Nat) {p : Page} (hp : pageOf pg = some p) (hi : p.hasInd = false)
include hp hi

/-- A write of IND_DATA there does not wait for the flash, whose page has an indirect space (R515). -/
theorem Dev.flashHolds_indData (v m : Word) : d.flashHolds acc (.write (A.IND_DATA pg) v m) = false := by
  apply Dev.flashHolds_write <;> rw [wordAddr_indData] <;> intro e
  · have hpg : pg = flashPage := by unfold A.IND_DATA at e; omega
    rw [hpg, show pageOf flashPage = some ⟨.powerBoot, 0, 1⟩ from rfl, Option.some.injEq] at hp
    rw [← hp] at hi
    cases hi
  · unfold A.IND_DATA A.MBX_CTL at e; omega

variable (hg : d.grants acc pg = true)
include hg

/-- A granted read of IND_DATA there finds no word: IND_ADDR moves on and ind_range is set (R280). -/
theorem Dev.readOnce_indData (hx : d.present acc = true) : d.readOnce al acc (A.IND_DATA pg) = d.indPassed acc pg := by
  have hg' : d.grants acc (Access.page (.read (A.IND_DATA pg))) = true := by
    rw [Access.page, wordAddr_indData, pageNo_indData]; exact hg
  rw [Dev.readOnce, Dev.access_eq al d acc _ hx hg' (d.flashHolds_read _ _), Dev.access1, d.regRead_indData al acc pg hp]
  simp only [Dev.indDataRead, Dev.indRead_none hi]
  rfl

/-- So does a granted write at the level of the page (R277). -/
theorem Dev.store_indData (hx : d.present acc = true) (hl : d.get (F.PRIV_LEVEL.level pg) ≤ d.levelOn acc pg) (v : Word) :
    d.store al acc (A.IND_DATA pg) v = d.indPassed acc pg := by
  have hg' : d.grants acc (Access.page (.write (A.IND_DATA pg) v 0xFFFFFFFF)) = true := by
    rw [Access.page, wordAddr_indData, pageNo_indData]; exact hg
  rw [Dev.store, Dev.access_eq al d acc _ hx hg' (d.flashHolds_indData acc pg hp hi _ _), Dev.access1,
    d.regWrite_indData al acc pg hp]
  simp only [Dev.indDataWrite, if_neg (not_lt_of_ge hl), Dev.indWrite_unassigned hi]
  rfl

end

/-- Settles O26: the address finds no word in either direction, and nothing is put at the doors. -/
theorem unassignedIndirectAccessAdvances : Obligations.UnassignedIndirectAccessAdvances := by
  unfold Obligations.UnassignedIndirectAccessAdvances
  intro s t acc pg p v hl hq hp hi a e
  refine ⟨fun hx hg => ?_, fun ⟨hx, hg, hm⟩ => ?_⟩
  · exact s.access_quiet t (fun al d => d.readOnce al acc (A.IND_DATA pg.toNat)) e hl (Dev.readOnce_indData _ _ _ _ hp hi hg hx) hq
  · exact s.access_quiet t (fun al d => d.store al acc (A.IND_DATA pg.toNat) v) e hl (Dev.store_indData _ _ _ _ hp hi hg hx hm v) hq

/-! ## Items and their places (R281) -/

/-- An item that exists: the number of its canvas, lane, channel, unit, half or class is one that the chapter has. -/
def Item.InRange : Item → Prop
  | .epoch c | .tickNow c => c < 8
  | .sbTx n | .sbRx n | .timeLast n | .gateSwap n | .gateStop n | .gateCancel n | .gateInfo n => n < 144
  | .journal s => s < 2
  | .classBytes k => k < 5
  | .position c | .lastAddr c | .bytes c | .lastWhole c => c < 64
  | .running u | .result u => u < 56
  | _ => True

theorem pageOf_glob : pageOf 0 = some ⟨.glob, 0, 0⟩ := rfl
theorem pageOf_hbm : pageOf 0x500 = some ⟨.hbm, 0, 0⟩ := rfl
theorem pageOf_lane {n : Nat} (h : n < 144) : pageOf (0x3000 + n) = some ⟨.lane, n, 0⟩ := by
  simp (disch := omega) only [pageOf, if_neg, if_pos, Nat.add_sub_cancel_left]
theorem pageOf_dma {c : Nat} (h : c < 64) : pageOf (0x610 + c) = some ⟨.dma, c, 0⟩ := by
  simp (disch := omega) only [pageOf, if_neg, if_pos, Nat.add_sub_cancel_left]
theorem pageOf_cu {u : Nat} (h : u < 56) : pageOf (0x700 + u) = some ⟨.cu, u, 0⟩ := by
  simp (disch := omega) only [pageOf, if_neg, if_pos, Nat.add_sub_cancel_left]

theorem itemAt_tickNow (c : Fin 8) : itemAt ⟨.glob, 0, 0⟩ (0x18 + c) = some (.tickNow c) := by revert c; decide
theorem itemAt_journal (k : Fin 2) : itemAt ⟨.hbm, 0, 0⟩ (0x02 + k) = some (.journal k) := by revert k; decide
theorem itemAt_classBytes (k : Fin 5) : itemAt ⟨.hbm, 0, 0⟩ (0x10 + k) = some (.classBytes k) := by revert k; decide

/-- The number of an item has eight bits. -/
theorem Item.number_lt {i : Item} (h : i.InRange) : i.place.2 < 256 := by
  cases i
  all_goals
    simp only [Item.InRange] at h
    simp only [Item.place]
    omega

/-- The place of an item that exists holds it. -/
theorem Item.itemAt_place {i : Item} (h : i.InRange) : ∃ p, pageOf i.place.1 = some p ∧ itemAt p i.place.2 = some i := by
  cases i
  case sbTx | sbRx | timeLast | gateSwap | gateStop | gateCancel | gateInfo => exact ⟨_, pageOf_lane h, rfl⟩
  case position | lastAddr | bytes | lastWhole => exact ⟨_, pageOf_dma h, rfl⟩
  case running | result => exact ⟨_, pageOf_cu h, rfl⟩
  case epoch c => exact ⟨_, rfl, itemAt_epoch ⟨c, h⟩⟩
  case tickNow c => exact ⟨_, pageOf_glob, itemAt_tickNow ⟨c, h⟩⟩
  case journal k => exact ⟨_, pageOf_hbm, itemAt_journal ⟨k, h⟩⟩
  case classBytes k => exact ⟨_, pageOf_hbm, itemAt_classBytes ⟨k, h⟩⟩
  case timeNow | timeSet | ppsInTs => exact ⟨⟨.clock, 0, 1⟩, rfl, rfl⟩
  case flashErase => exact ⟨⟨.powerBoot, 0, 1⟩, rfl, rfl⟩
  case eccLast => exact ⟨_, pageOf_hbm, rfl⟩
  case faultRec | invRequest => exact ⟨⟨.xlat, 0, 0⟩, rfl, rfl⟩
  case saveInfo | saveGen => exact ⟨⟨.powerBoot, 0, 0⟩, rfl, rfl⟩
  all_goals exact ⟨_, rfl, rfl⟩

/-- The page of the flash holds one item that exists. -/
theorem Item.eq_flashErase {i : Item} (h : i.InRange) (hp : i.place.1 = flashPage) : i = .flashErase := by
  have hf : flashPage = 0xA01 := rfl
  rw [hf] at hp
  cases i
  case flashErase => rfl
  all_goals
    simp only [Item.InRange] at h
    simp only [Item.place] at hp
    omega

/-! ## Read items (O27) -/

/-- MBX_CTL shows the valid that a mailbox was given. -/
theorem Dev.setMbx_valid (d : Dev) (acc pg : Nat) : ((d.setMbx acc pg false true).loc acc (A.MBX_CTL pg)).getLsbD 24 = true := by
  rw [Dev.setMbx, Dev.loc_setLoc_same, BitVec.getLsbD_or, show (w32 (b2n false * 2 ^ 16 + b2n true * 2 ^ 24)).getLsbD 24 = true from rfl,
    Bool.or_true]

/-- A granted read of an item by an accessor with no item waiting there shows its words, valid (R281). -/
theorem Dev.itemFetch_shows (al : Alcove) (d : Dev) (acc : Nat) {i : Item} (h : i.InRange) (hr : i.reads = true)
    (hx : d.present acc = true) (hg : d.grants acc i.place.1 = true) (hw : d.itemWaits acc i.place.1 = false) :
    (d.itemFetch al acc i).shows acc i.place.1 (d.itemWords al acc i) := by
  obtain ⟨p, hp, hi⟩ := Item.itemAt_place h
  rw [Dev.itemFetch_eq al d acc i p hp hi (Item.number_lt h) hr hx hg hw]
  exact ⟨fun k hk => Dev.mbxWord_capture _ _ _ _ _ _ k hk, Dev.setMbx_valid _ _ _⟩

/-- Settles O27: each command is a fetch on the module, and a fetch of an item that exists shows its words. -/
theorem readItemsCaptureTheirWords : Obligations.ReadItemsCaptureTheirWords := by
  unfold Obligations.ReadItemsCaptureTheirWords
  intro s t acc n c p k j x u hl d
  have fetch (i : Item) : (s.act t fun d => d.itemFetch s.alc acc i) = .next { s with dev := d.itemFetch s.alc acc i } :=
    s.act_live t _ hl
  refine ⟨fetch _, fetch _, fetch _, fetch _, fetch _, fetch _, fetch _, fetch _, fetch _, fetch _, fetch _, fetch _, fetch _, fetch _,
    fetch _, fetch _, fetch _, fetch _, fetch _, fetch _, fetch _, fetch _, fetch _, fetch _, fetch _, fetch _, ?_⟩
  intro hx m hm hg hw
  obtain ⟨hr, hd⟩ : m.InRange ∧ m.reads = true := by
    clear hg hw
    revert m
    simp [Item.InRange, Item.reads]
    omega
  exact Dev.itemFetch_shows _ _ _ hr hd hx hg hw

/-! ## Write items (O29) -/

/-- Nothing that a posted request writes is a register (R281). -/
theorem Dev.posted_is (d : Dev) (acc : Nat) (i : Item) (ws : List Word) (r : FieldRef) : (d.posted acc i ws).is r = d.is r :=
  Dev.posted_keeps d acc i ws (fun d => d.is r) fun _ _ _ _ => rfl

/-- An erase that is taken finds the flash at rest (R515). -/
theorem Dev.itemWrite_flashErase_taken {d e : Dev} {acc : Nat} {w0 w1 w2 w3 : Word}
    (h : d.itemWrite acc .flashErase w0 w1 w2 w3 = .taken e) : d.is F.FLASH_STATUS.busy = false := by
  simp only [Dev.itemWrite] at h
  split_ifs at h with _ _ hb
  exact Bool.eq_false_iff.2 hb

/-- An item that is taken does not wait for the flash (R515). -/
theorem Dev.flashHolds_taken {d e : Dev} {acc : Nat} {i : Item} {ws : List Word} (h : i.InRange) (ht : d.takesItem acc i ws e) :
    d.flashHolds acc (.send i.place.1 i.place.2 ws) = false := by
  by_cases hp : i.place.1 = flashPage
  · obtain rfl := Item.eq_flashErase h hp
    obtain ⟨-, -, hw⟩ := ht
    have hb := Dev.itemWrite_flashErase_taken hw
    rw [Dev.posted_is] at hb
    rw [Dev.flashHolds, hb, Bool.false_and, Bool.false_and]
  · exact d.flashHolds_send acc _ _ ws hp

/-- A command that sends an item which the module takes answers with its effect, go and valid clear (R281). -/
theorem State.act_itemSend (s : State) (t acc : Nat) {i : Item} {ws : List Word} {e : Dev} (hl : s.dev.live = true) (h : i.InRange)
    (hr : i.writes = true) (hd : i.door = false) (ht : (s.dev.reach t).takesItem acc i ws e) :
    (s.act t fun d => d.itemSend s.alc acc i ws) = .next { s with dev := e.took acc i.place.1 } := by
  obtain ⟨p, hp, hi⟩ := Item.itemAt_place h
  rw [State.act_live _ _ _ hl, Dev.itemSend_taken _ _ _ i ws e p hp hi (Item.number_lt h) hr hd ht (Dev.flashHolds_taken h ht)]

/-- Settles O29: each command sends an item that exists, of the write direction and for no door of the Alcove. -/
theorem writeItemsAreTaken : Obligations.WriteItemsAreTaken := by
  unfold Obligations.WriteItemsAreTaken
  intro s t acc n c k x u w0 w1 w2 w3 e hl sends
  refine ⟨?_, ?_, ?_, ?_, ?_, ?_, ?_, ?_, ?_, ?_, ?_, ?_, ?_, ?_, ?_, ?_, ?_, ?_⟩
  all_goals exact fun ht => s.act_itemSend t acc hl (by simp [Item.InRange]) rfl rfl ht

/-! ## Commands of the register map, the scan and the events (O53) -/

/-- Settles O53: three of the commands are accesses, which `State.access_live` runs, and the others act on the module alone. -/
theorem registerRowsComplete : Obligations.RegisterRowsComplete := by
  unfold Obligations.RegisterRowsComplete
  intro s
  refine ⟨?_, ?_, ?_, ?_, ?_, ?_, ?_, ?_⟩
  · intro t acc a v hl
    exact s.access_live t (fun al d => d.store al acc a.toNat v) hl
  · intro t acc a hl
    exact s.access_live t (fun al d => d.readOnce al acc a.toNat) hl
  · intro t acc page wr hl
    cases wr with
    | none => exact s.access_live t (fun al d => d.readOnce al acc (A.IND_DATA page.toNat)) hl
    | some v => exact s.access_live t (fun al d => d.store al acc (A.IND_DATA page.toNat) v) hl
  all_goals intros; exact State.act_live s _ _ ‹_›

end Sys2Proof.Machine

/-! # Host ports: the commands of host links, sessions, shapers and samplers

Every command of the family is an action on the module alone, but for the requests of an Aedwin session and the end of a bulk transfer,
whose accesses may put something at the doors of the Alcove. -/

namespace Sys2Proof.Machine

/-! ## Commands of host links, PTP, basic protocols and receivers (O54) -/

/-- Settles O54: the meaning of each of these commands is an action on the module alone, which `State.act_live` runs. -/
theorem hostRowsComplete : Obligations.HostRowsComplete := by
  unfold Obligations.HostRowsComplete
  intro s
  refine ⟨?_, ?_, ?_, ?_, ?_, ?_, ?_, ?_, ?_, ?_, ?_, ?_, ?_, ?_, ?_, ?_⟩
  all_goals intros; exact State.act_live s _ _ ‹_›

/-! ## Commands of Aedwin sessions, shapers and samplers (O55) -/

/-- A request of a session with a module that works: its effect on the module, with what it puts at the doors of the Alcove taken there
(R316, R485). -/
theorem State.access_aedRequest (s : State) (t op : Nat) (f : AedFrame) (hl : s.dev.live = true) :
    (s.access t fun al d => d.aedRequest al op f) =
      .next (State.settle { s with dev := (s.dev.reach t).aedRequest s.alc op f }) :=
  s.access_live t _ hl

/-- Settles O55: the ten requests and the end of a bulk transfer are accesses that may reach the Alcove, and the other commands act on the
module alone. -/
theorem aedwinRowsComplete : Obligations.AedwinRowsComplete := by
  unfold Obligations.AedwinRowsComplete
  intro s
  have request (op t : Nat) (f : AedFrame) (hl : s.dev.live = true) := s.access_aedRequest t op f hl
  refine ⟨?_, ?_, ?_, request 0x07, request 0x10, request 0x11, request 0x12, request 0x13, request 0x14, request 0x15,
    request 0x20, ?bulkDone, request 0x30, request 0x40, ?_, ?_, ?_, ?_, ?_, ?_, ?_, ?_, ?_⟩
  case bulkDone =>
    intro t p hl
    exact s.access_live t (fun al d => (d.bulkDone p).aedRunAll al) hl
  all_goals intros; exact State.act_live s _ _ ‹_›

end Sys2Proof.Machine

/-! # Traffic and scheduling: policers

First what the two writers of a bucket, a frame and POLICER_RESET, leave as it is; then the write of POL_CMD, which stores an index and
acts on it in one access; then the statements of the family. -/

namespace Sys2Proof.Machine

/-! ## Indirect words beside others -/

theorem indKey_inj {p a b : Nat} : indKey p a = indKey p b ↔ a = b := Nat.add_left_cancel_iff

theorem Dev.ind_setInd_other (d : Dev) (p : Nat) {a b : Nat} (w : Word) (h : b ≠ a) : (d.setInd p a w).ind p b = d.ind p b :=
  Tab.get_set_other _ _ _ _ _ (indKey_inj.not.2 h)

/-- An occurrence leaves the indirect words as they are. -/
theorem outsideEvents_ind : OutsideEvents fun d => d.regs.ind :=
  ⟨fun _ _ _ => rfl, fun _ _ => rfl, fun _ _ _ => rfl, fun _ _ => rfl, fun _ _ _ => rfl⟩

/-! ## What the fields of a filter keep (R334) -/

section
variable (d : Dev) {i w : Nat} (lsb width : Nat)

/-- A field of a filter reads alike where the indirect words are alike. -/
theorem Dev.flt_congr {e : Dev} (h : e.regs.ind = d.regs.ind) : e.flt i w lsb width = d.flt i w lsb width := by
  rw [Dev.flt, Dev.flt, Dev.ind, Dev.ind, h]

theorem Dev.flt_setInd {a : Nat} (v : Word) (h : 8 * i + w ≠ a) : (d.setInd fltPage a v).flt i w lsb width = d.flt i w lsb width := by
  rw [Dev.flt, Dev.flt, d.ind_setInd_other fltPage v h]

theorem Dev.flt_ind32 {a n : Nat} (h : 8 * i + w ≠ a) : (d.ind32 fltPage a n).flt i w lsb width = d.flt i w lsb width :=
  d.flt_setInd lsb width _ h

/-- Storing a field of a register leaves them as they are. -/
theorem Dev.flt_put (r : FieldRef) (v : Nat) : (d.put r v).flt i w lsb width = d.flt i w lsb width := rfl

/-- Storing a bucket changes the level word of its filter alone. -/
theorem Dev.flt_setPolicer (b : Bucket) (h : w ≠ 7) : (d.setPolicer i b).flt i w lsb width = d.flt i w lsb width :=
  Dev.flt_setInd _ lsb width _ (by omega)

/-- The event of a non-conforming frame leaves the filters as they are. -/
theorem Dev.flt_nonConf : d.nonConf.flt i w lsb width = d.flt i w lsb width := by
  unfold Dev.nonConf
  dsimp only
  split
  · rfl
  · exact d.flt_congr lsb width (outsideEvents_ind.raise _ _)

end

/-! ## A stored bucket -/

theorem Dev.setPolicer_policers (d : Dev) (i : Nat) (b : Bucket) :
    (d.setPolicer i b).policers = Tab.set (fun _ => Bucket.empty) d.policers i b :=
  Dev.setInd_policers _ _ _ _

/-- Storing a bucket leaves the active values and the HBM as they are. -/
theorem Dev.setPolicer_actv (d : Dev) (i : Nat) (b : Bucket) : (d.setPolicer i b).actv = d.actv := rfl
theorem Dev.setPolicer_hbm (d : Dev) (i : Nat) (b : Bucket) : (d.setPolicer i b).hbm = d.hbm := rfl

/-! ## A frame at its policer (O38) -/

/-- Credit of the elapsed time is added, and the sum capped at the burst (R334). -/
theorem Bucket.fill_level (b : Bucket) (t rate cap : Nat) :
    (b.fill t rate cap).level = min (b.level + ((t - b.last : Nat) : Int) * rate) ((cap * 256000 : Nat) : Int) := rfl

theorem Bucket.fill_level_le (b : Bucket) (t rate cap : Nat) : (b.fill t rate cap).level ≤ ((cap * 256000 : Nat) : Int) :=
  min_le_right _ _

section
variable (d : Dev) {rx : RxHdr} {i : Nat} (hf : (List.range 4096).find? (d.fltMatch rx) = some i)
include hf

/-- A frame that the level of its policer covers passes, is taken from the level and counted as conforming (R334). -/
theorem Dev.police_conforming (h : ((rx.len * 256000 : Nat) : Int) ≤ (d.policer i).level) :
    d.police rx = (true, (d.setPolicer i { d.policer i with
      level := (d.policer i).level - ((rx.len * 256000 : Nat) : Int) }).ind32 fltPage (8 * i + 5) 1) := by
  unfold Dev.police
  simp only [hf, bucketUnit]
  exact if_pos h

/-- Any other frame of the filter passes exactly when the filter only counts (R334). -/
theorem Dev.police_nonConforming (h : ¬ ((rx.len * 256000 : Nat) : Int) ≤ (d.policer i).level) :
    (d.police rx).1 = (d.flt i 0 3 1 == 1) := by
  have kept : (((d.setPolicer i (d.policer i)).ind32 fltPage (8 * i + 6) 1).nonConf).flt i 0 3 1 = d.flt i 0 3 1 := by
    rw [Dev.flt_nonConf, Dev.flt_ind32 _ _ _ (by omega), Dev.flt_setPolicer _ _ _ _ (by decide)]
  unfold Dev.police
  simp only [hf, bucketUnit, if_neg h, kept]

end

/-- Settles O38: a frame's filter and the level of its policer decide between the two ends of a policed frame. -/
theorem policerTestsEachFrame : Obligations.PolicerTestsEachFrame := by
  unfold Obligations.PolicerTestsEachFrame
  refine ⟨fun b t rate cap _ => ⟨b.fill_level t rate cap, rfl, b.fill_level_le t rate cap⟩, fun d rx i hf => ⟨?_, fun hc => ?_⟩⟩
  · by_cases hc : ((rx.len * 256000 : Nat) : Int) ≤ (d.policer i).level
    · exact iff_of_true (by rw [d.police_conforming hf hc]) (.inl hc)
    · rw [d.police_nonConforming hf hc, beq_iff_eq, or_iff_right hc]
  · rw [d.police_conforming hf hc, Dev.ind32, Dev.setInd_policers, Dev.setPolicer_policers, Tab.get_set_same]

/-! ## A register of one stored field and one command -/

/-- What the address of such a register must be: outside the header of its page, with an RW field `f` without storing rule and a command `g`
as its writable fields, neither with PRV suffix. -/
structure StoreCmdAt (a : Nat) (p : Page) (f g : Fld) : Prop where
  word  : wordAddr a = a
  page  : pageAt a = some p
  ofs   : 0x100 ≤ pageOfs a
  evt   : evtBits a = 0xFFFFFFFF
  two   : writeFlds a 0xFFFFFFFF = [f, g]
  rw    : f.acc = .rw
  clamp : f.clamp = .none
  cmd   : g.acc = .cmd
  prv   : f.prv = false ∧ g.prv = false

/-- A write of all bits of a word mixes nothing of the old word in. -/
theorem mixed_whole (w v : Word) : (w &&& ~~~(0xFFFFFFFF : Word)) ||| (v &&& 0xFFFFFFFF) = v := by
  rw [show (0xFFFFFFFF : Word) = BitVec.allOnes 32 from rfl, BitVec.and_allOnes, BitVec.not_allOnes, BitVec.and_zero, BitVec.zero_or]

/-- With no command outstanding all command bits written act (R275). -/
theorem toNat_unmasked (w : Word) : (w32 w.toNat &&& ~~~(0 : Word)).toNat = w.toNat := by
  rw [show ~~~(0 : Word) = BitVec.allOnes 32 from rfl, BitVec.and_allOnes, w32, BitVec.ofNat_toNat, BitVec.setWidth_eq]

/-- A write with the command bit set, of unlocked fields and nothing outstanding, at the level of the page: the field is stored, and then
the register acts with that bit. -/
theorem Dev.writeFields_storeCmd (d : Dev) (acc : Nat) {a : Nat} {p : Page} {f g : Fld} {v : Word} {e e' : Dev} (c : StoreCmdAt a p f g)
    (hl : d.get (F.PRIV_LEVEL.level (pageNo a)) ≤ d.levelOn acc (pageNo a)) (hk : ∀ x, d.fieldLocked a x = false)
    (hb : d.cmdBits a = 0) (hg : v &&& BitVec.ofNat 32 g.mask ≠ 0)
    (hs : d.storeWord acc a (putBits (d.stored a) f.lsb f.width (bitsOf v.toNat f.lsb f.width)) = (true, e))
    (ha : e.act1 d acc a (v &&& BitVec.ofNat 32 g.mask).toNat = (true, e')) : d.writeFields acc a p v 0xFFFFFFFF = (true, e') := by
  obtain ⟨hpf, hpg⟩ := c.prv
  have ho := c.ofs
  have h48 : pageOfs a ≠ 0x48 := by omega
  have hlt : ¬ d.levelOn acc (pageNo a) < d.get (F.PRIV_LEVEL.level (pageNo a)) := not_lt_of_ge hl
  have ones (w : Word) : 0xFFFFFFFF &&& w = w := BitVec.allOnes_and
  have hwf : d.wosSet a f = false := by simp [Dev.wosSet, c.rw]
  have hwg : d.wosSet a g = false := by simp [Dev.wosSet, c.cmd]
  have hnew : fieldNew p a f (bitsOf v.toNat f.lsb f.width) = bitsOf v.toNat f.lsb f.width := by
    simp [fieldNew, h48, Fld.store, c.clamp, bitsOf]
  have actf : (f.acc == Acc.cmd || f.acc == Acc.wo) = false := by rw [c.rw]; rfl
  have actg : (g.acc == Acc.cmd || g.acc == Acc.wo) = true := by rw [c.cmd]; rfl
  have hg' : (v &&& BitVec.ofNat 32 g.mask != 0) = true := bne_iff_ne.2 hg
  unfold Dev.writeFields
  simp only [c.evt, ones, c.two, hlt, mixed_whole, hpf, hpg, hk, hwf, hwg, hnew, actf, actg, hg', hb, cmdsOf, toNat_unmasked, hs, ha,
    List.filter_cons, List.filter_nil, List.foldl_cons, List.foldl_nil, List.any_cons, List.any_nil, List.isEmpty_cons, List.isEmpty_nil,
    Bool.not_true, Bool.not_false, Bool.true_or, Bool.false_or, Bool.or_self, Bool.false_and, Bool.false_eq_true, if_true, if_false,
    Nat.zero_or]
  simp

/-- Such a write of an accessor that may act there has that effect and no other. -/
theorem Dev.store_storeCmd (al : Alcove) (d : Dev) {acc a : Nat} {p : Page} {f g : Fld} {v : Word} {e e' : Dev} (c : StoreCmdAt a p f g)
    (hm : d.mayAct acc (pageNo a)) (hk : ∀ x, d.fieldLocked a x = false) (hb : d.cmdBits a = 0) (hg : v &&& BitVec.ofNat 32 g.mask ≠ 0)
    (hs : d.storeWord acc a (putBits (d.stored a) f.lsb f.width (bitsOf v.toNat f.lsb f.width)) = (true, e))
    (ha : e.act1 d acc a (v &&& BitVec.ofNat 32 g.mask).toNat = (true, e')) : d.store al acc a v = e' := by
  obtain ⟨hx, hgr, hl⟩ := hm
  rw [Dev.store_high al d v c.word c.page c.ofs hx hgr, d.writeFields_storeCmd acc c hl hk hb hg hs ha]

/-! ## POLICER_RESET (O39) -/

/-- POL_CMD holds the index of a policer below the command that resets it (R350). -/
theorem polCmd_storeCmdAt : StoreCmdAt A.POL_CMD ⟨.hostport, 0, 6⟩ (fp "index" 0 12 .rw 0) (fp "reset" 12 1 .cmd 0) := by
  constructor <;> decide
theorem actingAt_polCmd : actingAt A.POL_CMD = .polCmd := by decide

/-- What POLICER_RESET writes there: the index of its policer, and the command bit. -/
theorem bitsOf_polCmd (i : Fin 4096) : bitsOf (w32 (i + 4096)).toNat 0 12 = i := by
  rw [w32, BitVec.toNat_ofNat, bitsOf, Nat.shiftRight_zero]
  omega
theorem and_polCmd (i : Fin 4096) : w32 (i + 4096) &&& BitVec.ofNat 32 (2 ^ 12) = BitVec.ofNat 32 (2 ^ 12) := by
  have hb : (4096 + i.val).testBit 12 = true :=
    (Nat.testBit_two_pow_add_eq i.val 12).trans (by rw [Nat.testBit_lt_two_pow i.isLt]; rfl)
  refine BitVec.eq_of_toNat_eq ?_
  rw [BitVec.toNat_and, w32, BitVec.toNat_ofNat, Nat.mod_eq_of_lt (by omega), Nat.add_comm]
  exact (Nat.and_two_pow _ 12).trans (by rw [hb]; rfl)

/-- With the index stored the command resets the policer that it names. -/
theorem Dev.act1_polCmd (d old : Dev) (acc : Nat) (i : Fin 4096) :
    (d.put F.POL_CMD.index i).act1 old acc A.POL_CMD (2 ^ 12) = (true, (d.put F.POL_CMD.index i).policerReset i) := by
  have hi : (d.put F.POL_CMD.index i).get F.POL_CMD.index = i :=
    (d.get_put_same F.POL_CMD.index i (by decide)).trans (Nat.mod_eq_of_lt i.isLt)
  have hbit : bitOf (2 ^ 12) 12 = 1 := rfl
  simp only [Dev.act1, actingAt_polCmd, hi, hbit, if_true]

/-- POLICER_RESET by an accessor that may act on the page of the policers (R335). -/
theorem Dev.store_polCmd (al : Alcove) (d : Dev) (acc : Nat) (i : Fin 4096) (hm : d.mayAct acc (pageNo A.POL_CMD)) :
    d.store al acc A.POL_CMD (w32 (i + 4096)) = (d.put F.POL_CMD.index i).policerReset i := by
  have hbit := and_polCmd i
  refine Dev.store_storeCmd al d (e := d.put F.POL_CMD.index i) polCmd_storeCmdAt hm
    (fun x => d.fieldLocked_false x polCmd_storeCmdAt.page (by decide)) (by simp only [Dev.cmdBits, actingAt_polCmd]) ?_ ?_ ?_
  · exact fun h => absurd (hbit.symm.trans h) (by decide)
  · simp only [Dev.storeWord, actingAt_polCmd, fp, bitsOf_polCmd]
    rfl
  · exact (congrArg (fun w : Word => Dev.act1 _ d acc A.POL_CMD w.toNat) hbit).trans (d.act1_polCmd d acc i)

/-- Settles O39: the write stores an index, which no filter reads, and resets one policer. -/
theorem policerResetFillsTheBucket : Obligations.PolicerResetFillsTheBucket := by
  unfold Obligations.PolicerResetFillsTheBucket
  intro s t acc i hl hm
  refine ⟨((s.dev.reach t).put F.POL_CMD.index i).policerReset i, ?_, ?_, fun k hk => ?_, ?_, ?_⟩
  · exact (State.act_live s t _ hl).trans (by rw [Dev.store_polCmd _ _ _ i hm])
  · rw [Dev.policerReset, Dev.setPolicer_policers, Tab.get_set_same, Dev.flt_put, Dev.put_now, bucketUnit]
  · rw [Dev.policerReset, Dev.setPolicer_policers, Tab.get_set_other _ _ _ _ _ hk, Dev.put_policers]
  · exact (Dev.setPolicer_actv _ _ _).trans (outsideEvents_actv.put _ _ _)
  · exact (Dev.setPolicer_hbm _ _ _).trans (outsideEvents_hbm.put _ _ _)

end Sys2Proof.Machine

/-! # HBM and translation: bytes stored, the address map, and the commands of the family

A store of several bytes is a store of its first byte and then of the others (`Dev.storeBytes_cons`), so what it writes and what it keeps
follow from a store of one byte. -/

namespace Sys2Proof.Machine

/-! ## Bytes stored to HBM (R359, R364, R378) -/

section
variable (d : Dev) (a : Nat)

theorem Dev.storeBytes_nil : d.storeBytes a [] = d := rfl

theorem Dev.storeBytes_cons (b : Option Byte) (bs : List (Option Byte)) :
    d.storeBytes a (b :: bs) = (d.storeBytes a [b]).storeBytes (a + 1) bs := by
  cases b <;> rfl

/-- Storing bytes changes HBM alone. -/
theorem Dev.storeBytes_frame (bs : List (Option Byte)) : d.storeBytes a bs = { d with hbm := (d.storeBytes a bs).hbm } := rfl

/-- A byte of HBM after a store of one byte, which may not be enabled. -/
theorem Dev.get_storeByte (b : Option Byte) (j : Nat) :
    Tab.get (fun _ => 0) (d.storeBytes a [b]).hbm j =
      if j = a then b.getD (Tab.get (fun _ => 0) d.hbm j) else Tab.get (fun _ => 0) d.hbm j := by
  cases b with
  | none => exact (ite_self _).symm
  | some v => exact Tab.get_set _ d.hbm a j v

theorem Dev.wf_storeByte (b : Option Byte) (h : Memory.wf d.hbm = true) : Memory.wf (d.storeBytes a [b]).hbm = true := by
  cases b with
  | none => exact h
  | some v => exact Tab.wf_set _ d.hbm a v h

/-- A byte of HBM after a store: from the address on, what the store has for it, if anything. -/
theorem Dev.get_storeBytes (bs : List (Option Byte)) (j : Nat) :
    Tab.get (fun _ => 0) (d.storeBytes a bs).hbm j =
      if j < a then Tab.get (fun _ => 0) d.hbm j else (bs.getD (j - a) none).getD (Tab.get (fun _ => 0) d.hbm j) := by
  induction bs generalizing d a with
  | nil => rw [Dev.storeBytes_nil, List.getD_nil, Option.getD_none, ite_self]
  | cons b bs ih =>
    rw [Dev.storeBytes_cons, ih, Dev.get_storeByte]
    rcases lt_trichotomy j a with hlt | rfl | hgt
    · rw [if_pos (by omega), if_neg (by omega), if_pos hlt]
    · rw [if_pos (by omega), if_pos rfl, if_neg (by omega), Nat.sub_self, List.getD_cons_zero]
    · have hsucc : j - a = j - (a + 1) + 1 := by omega
      rw [if_neg (by omega), if_neg (by omega), if_neg (by omega), hsucc, List.getD_cons_succ]

/-- A byte outside the range of a store reads as before. -/
theorem Dev.get_storeBytes_outside (bs : List (Option Byte)) (j : Nat) (h : j < a ∨ a + bs.length ≤ j) :
    Tab.get (fun _ => 0) (d.storeBytes a bs).hbm j = Tab.get (fun _ => 0) d.hbm j := by
  rw [Dev.get_storeBytes]
  rcases h with hlt | hge
  · exact if_pos hlt
  · rw [if_neg (by omega), List.getD_eq_default _ _ (by omega), Option.getD_none]

/-- A store keeps the canonical form. -/
theorem Dev.wf_storeBytes (bs : List (Option Byte)) (h : Memory.wf d.hbm = true) : Memory.wf (d.storeBytes a bs).hbm = true := by
  induction bs generalizing d a with
  | nil => exact h
  | cons b bs ih =>
    rw [Dev.storeBytes_cons]
    exact ih _ _ (d.wf_storeByte a b h)

end

/-- Settles O34: `Dev.get_storeBytes` at an address of the range, and beside it. -/
theorem storedBytesReadBack : Obligations.StoredBytesReadBack := by
  unfold Obligations.StoredBytesReadBack
  intro d a bs
  refine ⟨fun k => ?_, d.get_storeBytes_outside a bs, d.wf_storeBytes a bs, d.storeBytes_frame a bs⟩
  rw [Dev.get_storeBytes, if_neg (by omega), Nat.add_sub_cancel_left]

/-! ## The address map (R360) -/

theorem granule_pos (order : Nat) : 0 < granule order := by
  unfold granule
  split
  · decide
  · split <;> decide

/-- The slot is the remainder of the granule's number. -/
theorem mapPa_slot (order s a : Nat) : (mapPa order s a).slot = a / granule order % s := rfl

theorem mapPa_ofs (order s a : Nat) :
    (mapPa order s a).ofs = a / granule order / s * granule order + a % granule order := rfl

/-- Which granule of its slot an offset lies in. -/
theorem mapPa_ofs_div (order s a : Nat) : (mapPa order s a).ofs / granule order = a / granule order / s := by
  have hlt := Nat.mod_lt a (granule_pos order)
  rw [mapPa_ofs, Nat.mul_comm, Nat.mul_add_div (granule_pos order), Nat.div_eq_of_lt hlt, Nat.add_zero]

/-- An address keeps its place within its granule. -/
theorem mapPa_ofs_mod (order s a : Nat) : (mapPa order s a).ofs % granule order = a % granule order := by
  rw [mapPa_ofs, Nat.mul_add_mod', Nat.mod_mod]

/-- The map gives every address back. -/
theorem paOf_mapPa (order s a : Nat) : paOf order s (mapPa order s a).slot (mapPa order s a).ofs = a := by
  rw [paOf, mapPa_ofs_div, mapPa_ofs_mod, mapPa_slot, Nat.div_add_mod', Nat.div_add_mod']

/-- A row has 48 banks, in plain order or rotated by the row. -/
theorem locIn_bank_lt (order slot o : Nat) : (locIn order slot o).bank < 48 := by
  unfold locIn
  dsimp only
  split <;> exact Nat.mod_lt _ (by decide)

theorem locIn_col_lt (order slot o : Nat) : (locIn order slot o).col < 32 := Nat.mod_lt _ (by decide)

/-- Settles O35, by `paOf_mapPa`; the ranges are those of the remainders that the map takes. -/
theorem addressMapHasAnInverse : Obligations.AddressMapHasAnInverse := by
  unfold Obligations.AddressMapHasAnInverse
  intro order s a hs
  exact ⟨paOf_mapPa order s a, Nat.mod_lt _ hs, locIn_bank_lt _ _ _, locIn_col_lt _ _ _⟩

/-! ## Commands of HBM and of translation (O56) -/

/-- Settles O56: the meaning of each of these commands is an action on the module alone, which `State.act_live` runs. -/
theorem memoryRowsComplete : Obligations.MemoryRowsComplete := by
  unfold Obligations.MemoryRowsComplete
  intro s
  refine ⟨?_, ?_, ?_, ?_, ?_, ?_, ?_, ?_, ?_, ?_, ?_, ?_, ?_, ?_, ?_, ?_, ?_, ?_, ?_, ?_, ?_⟩
  all_goals intros; exact State.act_live s _ _ ‹_›

end Sys2Proof.Machine

/-! # Translation: the modes of a space, and a walk to a small page -/

namespace Sys2Proof.Machine

/-! ## The modes of a space (R383) -/

section
variable (d : Dev) {asid : Nat} (va : Nat) (write : Bool)

theorem Dev.translate_off (h : d.get (F.SPACE_CTL.mode asid) = 0) : d.translate asid va write = .bad 1 0 := by
  simp only [Dev.translate, h]

theorem Dev.translate_identity (h : d.get (F.SPACE_CTL.mode asid) = 2) : d.translate asid va write = .ok va := by
  simp only [Dev.translate, h]

/-- In mode 1 an address that the translation cache does not hold is walked (R387). -/
theorem Dev.translate_uncached (h : d.get (F.SPACE_CTL.mode asid) = 1) (hc : d.leafFor asid va = none) :
    d.translate asid va write = (d.walk asid va write).res := by
  simp only [Dev.translate, h, hc]

end

/-- A unit enters with the space it names, whatever class it takes (R388). -/
theorem unitEntered_asid (r : XReq) : (unitEntered r).asid = r.asid := by
  unfold unitEntered
  split <;> rfl

/-- A unit of a space in mode 2 is looked up without a fault, a count or a walk. -/
theorem Dev.lookup_identity (d : Dev) {r : XReq} (h : d.get (F.SPACE_CTL.mode r.asid.val) = 2) : d.lookup r = (none, d) := by
  simp only [Dev.lookup, h]

/-- TRANSLATE of a space in mode 2 stops no master. -/
theorem exec_translate_identity (s : State) (t : Nat) (r : XReq) (hl : s.dev.live = true)
    (h : (s.dev.reach t).get (F.SPACE_CTL.mode r.asid.val) = 2) : exec (.translate t r) s = .next { s with dev := s.dev.reach t } := by
  have hr : (s.dev.reach t).lookup (unitEntered r) = (none, s.dev.reach t) :=
    Dev.lookup_identity _ (by rw [unitEntered_asid]; exact h)
  refine (State.act_live s t _ hl).trans ?_
  simp only [hr, Option.map_none, Dev.unitStops]

/-- Settles O36: the translation of each mode, and the lookup of TRANSLATE in mode 2. -/
theorem translationModes : Obligations.TranslationModes := by
  unfold Obligations.TranslationModes
  intro s t r write hl
  exact ⟨fun h => Dev.translate_off _ _ _ h, fun h => ⟨Dev.translate_identity _ _ _ h, exec_translate_identity s t r hl h⟩⟩

/-! ## A walk, level by level (R384, R385) -/

/-- A leaf that permits the access gives its page and the place in the page (R386). -/
theorem permRes_smallPage {asid va e level : Nat} {write : Bool} (h : bitOf e (if write then 3 else 2) = 1) :
    permRes (leafOf asid va e false) write va level = .ok (bitsOf e 8 40 * 256 + va % 65536) := by
  cases write <;> exact if_pos (beq_iff_eq.2 h)

section
variable (d : Dev) {asid va e : Nat} (write : Bool)

/-- With nothing in the walk cache, a walk from the root in which two well-formed tables follow one another comes to L2. -/
theorem Dev.walk_fromRoot {e0 e1 l1 l2 : Nat} (hc : (d.wcache.find? fun e => e.1 == wcacheKey asid va) = none)
    (hroot : d.rootOf asid + 4096 ≤ d.paEnd)
    (h0 : d.entryAt (d.rootOf asid) (bitsOf va 39 9) = some e0) (ht0 : tableEntry d.paEnd e0 = .ok l1)
    (h1 : d.entryAt l1 (bitsOf va 30 9) = some e1) (ht1 : tableEntry d.paEnd e1 = .ok l2) :
    d.walk asid va write =
      d.walkL2 asid va write l2 [(0, d.rootOf asid + 8 * bitsOf va 39 9), (1, l1 + 8 * bitsOf va 30 9)] := by
  simp only [Dev.walk, hc, if_neg (not_lt_of_ge hroot), h0, ht0, h1, ht1]

/-- A well-formed entry of L2 without the leaf bit leads to its table of L3. -/
theorem Dev.walkL2_table {l2 : Nat} (reads : List (Nat × Nat)) (he : d.entryAt l2 (bitsOf va 21 9) = some e)
    (valid : bitOf e 0 = 1) (table : bitOf e 1 = 0) (low : bitsOf e 4 4 = 0) (high : bitsOf e 48 8 = 0)
    (room : bitsOf e 8 40 * 256 + 256 ≤ d.paEnd) :
    d.walkL2 asid va write l2 reads =
      d.walkL3 asid va write (bitsOf e 8 40 * 256) (reads ++ [(2, l2 + 8 * bitsOf va 21 9)]) l2 := by
  have hvalid : ¬ bitOf e 0 = 0 := by omega
  have hform : ¬ (bitsOf e 4 4 ≠ 0 ∨ bitsOf e 48 8 ≠ 0) := by omega
  have htable : ¬ bitOf e 1 = 1 := by omega
  simp only [Dev.walkL2, he, if_neg hvalid, if_neg hform, if_neg htable, if_neg (not_lt_of_ge room)]

/-- A well-formed entry of L3 leads to its page, as far as its bits permit. -/
theorem Dev.walkL3_page {l3 : Nat} (reads : List (Nat × Nat)) (l2 : Nat) (he : d.entryAt l3 (bitsOf va 16 5) = some e)
    (valid : bitOf e 0 = 1) (leaf : bitOf e 1 = 1) (low : bitsOf e 4 4 = 0) (aligned : bitsOf e 8 8 = 0) (high : bitsOf e 48 8 = 0)
    (room : bitsOf e 8 40 * 256 + 65536 ≤ d.paEnd) :
    (d.walkL3 asid va write l3 reads l2).res = permRes (leafOf asid va e false) write va 3 := by
  have hvalid : ¬ bitOf e 0 = 0 := by omega
  have hform : ¬ (bitsOf e 4 4 ≠ 0 ∨ bitsOf e 48 8 ≠ 0 ∨ bitOf e 1 = 0 ∨ bitsOf e 8 8 ≠ 0) := by omega
  have hroom : ¬ d.paEnd < bitsOf e 8 40 * 256 + 2 ^ 16 := not_lt_of_ge room
  simp only [Dev.walkL3, he, if_neg hvalid, if_neg hform, if_neg hroom]

end

/-- Settles O37: the walk from the root to L2, then to L3, then to the page, whose leaf permits the access. -/
theorem walkReachesTheSmallPage : Obligations.WalkReachesTheSmallPage := by
  unfold Obligations.WalkReachesTheSmallPage
  rintro d asid va root l1 l2 l3 page write e0 e1 e2 e3 mode uncached cold rfl hroot h0 ht0 h1 ht1
    h2 valid2 table2 low2 high2 rfl room2 h3 valid3 leaf3 low3 aligned3 high3 rfl room3 permit
  calc d.translate asid va write
    _ = (d.walk asid va write).res := d.translate_uncached va write mode uncached
    _ = (d.walkL2 asid va write l2 _).res := by rw [d.walk_fromRoot write cold hroot h0 ht0 h1 ht1]
    _ = (d.walkL3 asid va write (bitsOf e2 8 40 * 256) _ l2).res := by
      rw [d.walkL2_table write _ h2 valid2 table2 low2 high2 room2]
    _ = permRes (leafOf asid va e3 false) write va 3 := d.walkL3_page write _ l2 h3 valid3 leaf3 low3 aligned3 high3 room3
    _ = .ok (bitsOf e3 8 40 * 256 + va % 65536) := permRes_smallPage permit

end Sys2Proof.Machine

/-! # DMA and check units: the commands of the family

Only the regions of check units reach past the module: a unit of the Alcove starts and ends the region of its exhibit there. -/

namespace Sys2Proof.Machine

/-! ## Regions of check units on a module that works (R434, R438, R479, R481) -/

section
variable (s : State) (t : Nat) (u : Fin 64) (hl : s.dev.live = true)
include hl

/-- A region that starts in the module (`Dev.noRegion`) starts in the Alcove too when its unit is one of the Alcove's. -/
theorem exec_cuRegionStart_live (p : Fin 8) :
    exec (.cuRegionStart t u p) s = .next (State.alcShow { s with
      dev := (s.dev.reach t).regionStart u p
      alc := if 56 ≤ u.val ∧ !(s.dev.reach t).noRegion u p then s.alc.regionStart (u.val - 56) else s.alc }) := by
  change execCuRegionStart t u p s = _
  simp only [execCuRegionStart, Dev.run_live _ _ _ hl, hl, true_and]

/-- The module ends the region of a unit of its own, which the Alcove does not see. -/
theorem exec_cuRegionEnd_module (ot : Nat) (up : List CopyUpset) (hu : u.val < 56) :
    exec (.cuRegionEnd t u ot up) s = .next { s with dev := (((s.dev.reach t).composeFor u).cuEnd u).retryItems } := by
  change execCuRegionEnd t u ot up s = _
  rw [execCuRegionEnd, if_pos hu, State.act_live s t _ hl]

/-- The Alcove ends the region in progress of a unit of its own, with the result that the unit has by then. -/
theorem exec_cuRegionEnd_alcove (ot : Nat) (up : List CopyUpset) (hu : 56 ≤ u.val) (hr : ((s.dev.reach t).cu u).inAlc = true) :
    exec (.cuRegionEnd t u ot up) s = .next (State.alcShow { s with
      dev := (s.dev.reach t).setCu u { (s.dev.reach t).cu u with inAlc := false }
      alc := s.alc.regionEnd ot (u.val - 56) ((cuPar (s.dev.reach t).actv u).result ((s.dev.reach t).cu u).v)
        ((s.dev.reach t).cu u).short ((s.dev.reach t).regionLabel u) ((s.dev.reach t).cu u).tick up }) := by
  change execCuRegionEnd t u ot up s = _
  simp only [execCuRegionEnd, if_neg (not_lt_of_ge hu), hl, hr, Bool.and_self, if_true]

end

/-! ## Commands of the DMA engine and of the check units (O57) -/

/-- Settles O57: the commands of the DMA engine act on the module alone, which `State.act_live` runs; the start and the end of a region
act on the Alcove too when the unit is one of its own. -/
theorem dmaAndCheckRowsComplete : Obligations.DmaAndCheckRowsComplete := by
  unfold Obligations.DmaAndCheckRowsComplete
  intro s
  refine ⟨?_, ?_, ?_, ?_, ?_, ?_, ?_, ?_, ?regionStart, ?regionEnd⟩
  case regionStart => exact fun t u p hl => exec_cuRegionStart_live s t u hl p
  case regionEnd =>
    exact fun t u ot up hl => ⟨exec_cuRegionEnd_module s t u hl ot up, exec_cuRegionEnd_alcove s t u hl ot up⟩
  all_goals intros; exact State.act_live s _ _ ‹_›

end Sys2Proof.Machine

/-! # Steps: how each command meets the module and the Alcove, and what every step keeps

Every arm of `exec` is one of a few ways of acting (`Way`): `exec_way` says once which one a command takes. What each way keeps of the
queue, of the test access port, of the Alcove's records and of a module that does not work then holds of every command. -/

namespace Sys2Proof.Machine

/-! ## The step itself (O1, O2) -/

/-- Settles O1: a step takes the front of the queue by definition. -/
theorem stepTakesTheFrontCommand : Obligations.StepTakesTheFrontCommand := by
  unfold Obligations.StepTakesTheFrontCommand
  intro c rest s
  rfl

/-- Settles O2: an empty queue idles, and the table gives no row any bits. -/
theorem emptyQueueIdles : Obligations.EmptyQueueIdles := by
  unfold Obligations.EmptyQueueIdles
  intro s
  refine ⟨fun h => ?_, fun nbits w => rfl⟩
  rw [step, h]

/-! ## The ways of acting -/

/-- Commands that may leave the test access port reset: those after which the module has its power again (log 145). -/
def mayResetTap (c : Instr) : Prop :=
  ∃ t, c = .pinReset t ∨ (∃ mv l, c = .powerOn t mv l) ∨ ∃ w, c = .saveComplete t w

/-- The ways in which a command acts on the machine: on the module alone, through its accesses, on power, on what the Alcove then shows the
module, on a start of the module, at a door of the Alcove, as a power-up of the Alcove or on the test access port. -/
inductive Way (s : State) : Instr → Res → Prop
  | act {c : Instr} (t : Nat) (f : Dev → Dev) : Way s c (.next { s with dev := s.dev.run t f })
  | access {c : Instr} (t : Nat) (f : Dev → Dev) : Way s c (.next (State.settle { s with dev := s.dev.run t f }))
  | power {c : Instr} (d : Dev) (hc : actsOnModule c = false) : Way s c (.next { s with dev := d })
  | shown {c : Instr} (d : Dev) (a : Alcove) (hc : actsOnModule c = false) (ha : s.alc.Ok → s.alc.Keeps a) :
      Way s c (.next (State.alcShow { s with dev := d, alc := a }))
  | start {c : Instr} (d e : Dev) (a : Alcove) (hc : actsOnModule c = false) (hr : mayResetTap c) (ha : s.alc.Ok → s.alc.Keeps a) :
      Way s c (.next (State.alcShow { s with dev := e, alc := a, tap := s.tap.after d e }))
  | pinReset (t : Nat) (d e : Dev) : Way s (.pinReset t) (.next { s with dev := e, tap := s.tap.after d e })
  | door {c : Instr} (d : Dev) (ot : Nat) (hc : actsOnModule c = false) :
      Way s c (.next (State.settle { s with dev := d, alc := s.alc.at ot }))
  | powerUp (t : Nat) (d : Dev) (opened : Bool) :
      Way s (.alcovePowerUp t opened) (.next (State.alcShow { s with dev := d, alc := s.alc.powerUp opened }).doorsOpen)
  | tap (t : Nat) (x : TapScan) (d : Dev) (p : Tap) : Way s (.tapInstruction t x) (.next { s with dev := d, tap := p })

/-- An operation that is done or left out keeps what it keeps when done. -/
theorem Alcove.Keeps.ite {a b : Alcove} (c : Prop) [Decidable c] (h : a.Ok) (k : a.Keeps b) : a.Keeps (if c then b else a) := by
  split
  · exact k
  · exact .refl h

/-- Nothing of the end of a save loses a record: the Alcove stays on after a trip, and loses its supply otherwise. -/
theorem Alcove.keeps_saveEnd (a : Alcove) (p : Option (Nat × Nat)) (f : Option Save) (h : a.Ok) :
    a.Keeps (match p, f with | some _, some x => if x.cause = 3 then a else a.powerDown | _, _ => a) := by
  split
  · split
    · exact .refl h
    · exact a.keeps_powerDown h
  · exact .refl h

theorem execThermalSample_way (s : State) (t ot : Nat) (tj : BitVec 8) : Way s (.thermalSample t ot tj) (execThermalSample t ot tj s) := by
  unfold execThermalSample
  dsimp only
  split
  · exact .act _ _
  · exact .shown _ _ rfl fun h => .ite _ h (s.alc.keeps_warning ot h)

theorem execCuRegionEnd_way (s : State) (t : Nat) (u : Fin 64) (ot : Nat) (up : List CopyUpset) :
    Way s (.cuRegionEnd t u ot up) (execCuRegionEnd t u ot up s) := by
  unfold execCuRegionEnd
  split
  · exact .act _ _
  · exact .shown _ _ rfl fun h => .ite _ h (s.alc.keeps_regionEnd _ _ _ _ _ _ _ h)

theorem execTapInstruction_way (s : State) (t : Nat) (x : TapScan) : Way s (.tapInstruction t x) (execTapInstruction t x s) := by
  unfold execTapInstruction
  dsimp only
  split
  · exact .power _ rfl
  · split
    · exact .tap _ _ _ _
    · exact .tap _ _ _ _

/-- Every command takes one of the ways. -/
theorem exec_way (c : Instr) (s : State) : Way s c (exec c s) := by
  cases c
  case registerWrite | rcRead | indData => exact .access _ _
  case aedKeepalive | aedRead | aedWrite | aedMaskedWrite | aedSequence | aedMailbox | aedSubscribe | aedBulkWrite | aedBulkDone |
    aedFence | aedCommitRequest => exact .access _ _
  case imageRecordWrite | imageRecordMasked | imageRecordMailbox | imageRecordIndirect | flashOpDone => exact .access _ _
  case ururiId | ururiRd | ururiWr | ururiWm | ururiInd | ururiIndw | ururiMbx | ururiEvt => exact .access _ _
  case declare | declTiming | loadExp | arm | endCmd | ack | identify | setParam | fwActivate => exact .door _ _ rfl
  case resetRelease | powerFailStop | holdCapacityMeasured | holdLevelChange => exact .power _ rfl
  case exhibitProgress t ot slot => exact .shown _ _ rfl (s.alc.keeps_progress ot slot)
  case expCopyCheck t ot slot up => exact .shown _ _ rfl (s.alc.keeps_copyCheck ot slot up)
  case sealChange t ot opened => exact .shown _ _ rfl (s.alc.keeps_sealChange ot opened)
  case otSave t ot => exact .shown _ _ rfl (s.alc.keeps_save ot 2)
  case alcClkCheck t ot ppb => exact .shown _ _ rfl (s.alc.keeps_clkCheck ot ppb)
  case alcWatchdog t ot => exact .shown _ _ rfl (s.alc.keeps_watchdog ot)
  case powerFail t ot ov => exact .shown _ _ rfl fun h => .ite _ h (s.alc.keeps_warning ot h)
  case cuRegionStart t u p => exact .shown _ _ rfl fun h => .ite _ h (s.alc.keeps_regionStart _ h)
  case powerOn t mv lost => exact .start _ _ _ rfl ⟨t, .inr (.inl ⟨mv, lost, rfl⟩)⟩ fun h => .ite _ h (s.alc.keeps_powerDown h)
  case saveComplete t whole => exact .start _ _ _ rfl ⟨t, .inr (.inr ⟨whole, rfl⟩)⟩ (s.alc.keeps_saveEnd _ _)
  case pinReset => exact .pinReset _ _ _
  case cuRegionEnd => exact execCuRegionEnd_way _ _ _ _ _
  case thermalSample => exact execThermalSample_way _ _ _ _
  case alcovePowerUp => exact .powerUp _ _ _
  case tapInstruction => exact execTapInstruction_way _ _ _
  all_goals exact .act _ _

/-! ## Every command answers and leaves the queue (O3) -/

/-- A test access port is left as it is or comes up reset (log 145). -/
theorem Tap.after_eq (p : Tap) (d e : Dev) : p.after d e = p ∨ p.after d e = .reset := by
  unfold Tap.after
  split
  · exact .inr rfl
  · exact .inl rfl

theorem State.doorsOpen_pending (s : State) : s.doorsOpen.pending = s.pending := by
  unfold State.doorsOpen
  split
  · exact State.settle_pending _
  · rfl

theorem State.doorsOpen_tap (s : State) : s.doorsOpen.tap = s.tap := by
  unfold State.doorsOpen
  split
  · exact State.settle_tap _
  · rfl

/-- Each way answers a next state and leaves the queue, and the test access port but for its own instruction and a start of the module. -/
theorem Way.answers {s : State} {c : Instr} {r : Res} (w : Way s c r) :
    ∃ u, r = .next u ∧ u.pending = s.pending ∧
      ((∀ t ir, c ≠ .tapInstruction t ir) → u.tap = s.tap ∨ (u.tap = .reset ∧ mayResetTap c)) := by
  cases w with
  | act t f => exact ⟨_, rfl, rfl, fun _ => .inl rfl⟩
  | access t f => exact ⟨_, rfl, State.settle_pending _, fun _ => .inl (State.settle_tap _)⟩
  | power d => exact ⟨_, rfl, rfl, fun _ => .inl rfl⟩
  | shown d a => exact ⟨_, rfl, rfl, fun _ => .inl rfl⟩
  | start d e a hc hr => exact ⟨_, rfl, rfl, fun _ => (s.tap.after_eq d e).imp_right fun h => ⟨h, hr⟩⟩
  | pinReset t d e => exact ⟨_, rfl, rfl, fun _ => (s.tap.after_eq d e).imp_right fun h => ⟨h, t, .inl rfl⟩⟩
  | door d ot => exact ⟨_, rfl, State.settle_pending _, fun _ => .inl (State.settle_tap _)⟩
  | powerUp t d opened => exact ⟨_, rfl, State.doorsOpen_pending _, fun _ => .inl (State.doorsOpen_tap _)⟩
  | tap t x d p => exact ⟨_, rfl, rfl, fun h => absurd rfl (h t x)⟩

/-- Settles O3: each way answers. -/
theorem everyCommandAnswers : Obligations.EveryCommandAnswers := by
  unfold Obligations.EveryCommandAnswers
  intro c s
  exact (exec_way c s).answers

/-! ## A module that does not work (O4) -/

/-- Of the ways open to a command of the module alone, both leave a module that does not work with its time moved on. -/
theorem Way.dead {s : State} {c : Instr} {r : Res} (w : Way s c r) (hl : s.dev.live = false) (hq : s.doorsShut)
    (hm : actsOnModule c = true) : ∃ t, r = .next { s with dev := s.dev.at t } := by
  cases w with
  | act t f => exact ⟨t, s.act_dead t f hl⟩
  | access t f => exact ⟨t, (s.access_dead t (fun _ => f) hl).trans (congrArg _ (State.settle_empty _ hq))⟩
  | power d hc | shown d a hc | start d e a hc | door d ot hc => exact absurd (hm.symm.trans hc) (by decide)
  | pinReset | powerUp | tap => cases hm

/-- Settles O4: a command of the module alone takes one of those two ways. -/
theorem stoppedModuleOnlyKeepsTime : Obligations.StoppedModuleOnlyKeepsTime := by
  unfold Obligations.StoppedModuleOnlyKeepsTime
  intro c s hl hq hm
  exact (exec_way c s).dead hl hq hm

/-! ## The Alcove over every step (O5, O6) -/

theorem Alcove.keeps_knock (a : Alcove) (k : Knock) (h : a.Ok) : a.Keeps (a.knock k) := by
  cases k with
  | word k w => exact a.keeps_stage k w h
  | cmd c x =>
    have hat := a.keeps_at (a.ot + x.gap) h
    exact hat.trans (Alcove.keeps_command _ c x.up x.img hat.ok)

/-- What a command has put at the Alcove loses nothing when it is taken (R485). -/
theorem Dev.keeps_alcNow (d : Dev) (a : Alcove) (h : a.Ok) : a.Keeps (d.alcNow a) :=
  .foldl Alcove.knock Alcove.keeps_knock d.alcq a h

theorem State.keeps_settle (s : State) (h : s.alc.Ok) : s.alc.Keeps (State.settle s).alc := by
  rcases s.settle_alc with he | he
  · rw [he]
    exact .refl h
  · have hn := s.dev.keeps_alcNow s.alc h
    rw [he]
    exact hn.trans (.same hn.ok rfl rfl rfl rfl)

theorem State.keeps_doorsOpen (s : State) (h : s.alc.Ok) : s.alc.Keeps s.doorsOpen.alc := by
  unfold State.doorsOpen
  split
  · exact State.keeps_settle { s with dev := s.dev.retryDoors s.alc } h
  · exact .refl h

/-- The Alcove has given its events to the module, and holds the rest of what it held. -/
theorem Alcove.Keeps.eventsShown {a b : Alcove} (k : a.Keeps b) : a.Keeps { b with evs := [] } :=
  k.trans (.same k.ok rfl rfl rfl rfl)

/-- No way but a power-up of the Alcove loses a record that is not acknowledged (R497). -/
theorem Way.keeps {s u : State} {c : Instr} (w : Way s c (.next u)) (h : s.alc.Ok) (hc : ∀ t o, c ≠ .alcovePowerUp t o) :
    s.alc.Keeps u.alc := by
  cases w with
  | act | power | pinReset | tap => exact .refl h
  | access t f => exact State.keeps_settle { s with dev := s.dev.run t f } h
  | shown d a hc ha | start d e a hc hr ha => exact (ha h).eventsShown
  | door d ot =>
    have hat := s.alc.keeps_at ot h
    exact hat.trans (State.keeps_settle { s with dev := d, alc := s.alc.at ot } hat.ok)
  | powerUp t d opened => exact absurd rfl (hc t opened)

theorem Alcove.After.trans {a b c : Alcove} (h : a.After b) (k : b.After c) : a.After c :=
  ⟨h.seals.trans k.seals, h.next.trans k.next, h.old.trans k.old⟩

/-- A power-up of the Alcove signs records in place and goes on from where it was; then the commands at its doors lose nothing (R492). -/
theorem execAlcovePowerUp_after (s u : State) (t : Nat) (opened : Bool) (hu : execAlcovePowerUp t opened s = .next u) (h : s.alc.Ok) :
    u.alc.Ok ∧ s.alc.After u.alc := by
  obtain ⟨hok, hafter⟩ := s.alc.powerUp_after opened h
  have hshown := (Alcove.Keeps.refl hok).eventsShown
  have k := hshown.trans (State.keeps_doorsOpen (State.alcShow { s with dev := s.dev.reach t, alc := s.alc.powerUp opened }) hshown.ok)
  obtain rfl := Host.Outcome.next.inj hu
  exact ⟨k.ok, hafter.trans k.after⟩

/-- No command but a power-up of the Alcove loses a record that is not acknowledged (R497). -/
theorem exec_keeps {c : Instr} {s u : State} (hu : exec c s = .next u) (h : s.alc.Ok) (hc : ∀ t o, c ≠ .alcovePowerUp t o) :
    s.alc.Keeps u.alc :=
  Way.keeps (hu ▸ exec_way c s) h hc

/-- A step idles or runs a command that was at the front of the queue. -/
theorem step_cases {s u : State} (hu : step s = .next u) :
    u = s ∨ ∃ c rest, s.pending = c :: rest ∧ exec c { s with pending := rest } = .next u := by
  unfold step at hu
  split at hu
  · exact .inl (Host.Outcome.next.inj hu).symm
  · exact .inr ⟨_, _, ‹_›, hu⟩

/-- Settles O5: a power-up goes on from where the Alcove was, and every other command loses nothing. -/
theorem alcoveStaysInBounds : Obligations.AlcoveStaysInBounds := by
  unfold Obligations.AlcoveStaysInBounds
  intro s u h hu
  obtain rfl | ⟨c, rest, -, hx⟩ := step_cases hu
  · exact ⟨h, .refl _⟩
  · by_cases hc : ∃ t o, c = .alcovePowerUp t o
    · obtain ⟨t, o, rfl⟩ := hc
      exact execAlcovePowerUp_after { s with pending := rest } u t o hx h
    · have k := exec_keeps hx h fun t o he => hc ⟨t, o, he⟩
      exact ⟨k.ok, k.after⟩

/-- Settles O6: every command but a power-up leaves the records that are not acknowledged. -/
theorem unacknowledgedRecordsStand : Obligations.UnacknowledgedRecordsStand := by
  unfold Obligations.UnacknowledgedRecordsStand
  intro s u h hu hc
  obtain rfl | ⟨c, rest, hp, hx⟩ := step_cases hu
  · exact fun q _ _ => rfl
  · exact (exec_keeps hx h fun t o he => hc t o rest (he ▸ hp)).recs

end Sys2Proof.Machine

/-! # Check units and clocks: the CRC engine, the choice of D, and the commands of clocks and time -/

namespace Sys2Proof.Machine

/-! ## The CRC engine (O40, O41) -/

/-- A shift of the register keeps the `w` bits that R433 gives it. -/
theorem CuPar.shift_lt (p : CuPar) (v : Nat) : p.shift v < 2 ^ p.w := by
  unfold CuPar.shift
  split
  · exact Nat.mod_lt _ (Nat.two_pow_pos _)
  · exact Nat.mod_lt _ (Nat.two_pow_pos _)

/-- A byte ends with a shift, so that the register holds `w` bits after it whatever it held before. -/
theorem CuPar.byte_lt (p : CuPar) (v : Nat) (b : Byte) : p.byte v b < 2 ^ p.w := by
  unfold CuPar.byte
  dsimp only
  rw [List.range_succ, List.foldl_concat]
  exact p.shift_lt _

/-- Settles O41, by induction on the bytes: before the first the value is given within the width, and each byte leaves it there. -/
theorem runningValueKeepsItsWidth : Obligations.RunningValueKeepsItsWidth := by
  unfold Obligations.RunningValueKeepsItsWidth
  intro p v bs _ _ hv
  induction bs generalizing v with
  | nil => exact hv
  | cons b bs ih => exact ih (p.byte v b) (p.byte_lt v b)

/-- Settles O40: the engine runs over the nine bytes of each parameter set. -/
theorem checkValuesOfTheTable : Obligations.CheckValuesOfTheTable := by
  unfold Obligations.CheckValuesOfTheTable
  intro m r
  refine ⟨?_, ?_, ?_, ?_, ?_, ?_, ?_, ?_, ?_⟩
  all_goals decide +kernel

/-! ## The choice of D (O47) -/

/-- The sets of the example at each D (R452): N is at least 16 at all of them. -/
theorem setAt_example :
    setAt 25939500 0 = { d := 0, n := 166, f := 214748 } ∧ setAt 25939500 1 = { d := 1, n := 83, f := 107374 } ∧
    setAt 25939500 2 = { d := 2, n := 41, f := 8442295 } := by decide

/-- At D = 2 the fractional spur of the example lies farthest off, and past 2 MHz (R453). -/
theorem spurOf_example :
    spurOf { d := 0, n := 166, f := 214748 } < spurOf { d := 2, n := 41, f := 8442295 } ∧
    spurOf { d := 1, n := 83, f := 107374 } < spurOf { d := 2, n := 41, f := 8442295 } ∧
    4000 * 2 ^ 24 ≤ spurOf { d := 2, n := 41, f := 8442295 } := by decide

/-- Settles O47: of the three sets that of D = 2 has the largest spur distance. -/
theorem spurRuleChoosesD : Obligations.SpurRuleChoosesD := by
  unfold Obligations.SpurRuleChoosesD
  obtain ⟨half, one, two⟩ := setAt_example
  obtain ⟨above0, above1, far⟩ := spurOf_example
  have best : setBest 25939500 = { d := 2, n := 41, f := 8442295 } := by
    simp [setBest, half, one, two, above1, above0.not_gt]
  refine ⟨best, ?_⟩
  rw [best, spurWarn, decide_eq_false (not_lt_of_ge far)]

/-! ## Commands of clocks and time (O58) -/

/-- Settles O58: the meaning of each of these commands is an action on the module alone, which `State.act_live` runs. -/
theorem clockRowsComplete : Obligations.ClockRowsComplete := by
  unfold Obligations.ClockRowsComplete
  intro s
  refine ⟨?_, ?_, ?_, ?_, ?_, ?_, ?_, ?_, ?_, ?_⟩
  all_goals intros; exact State.act_live s _ _ ‹_›

end Sys2Proof.Machine

/-! # The Alcove: its commands, its seal and its doors

First what each command of a statement does to an Alcove alone (ACK, a Seal command while sealed, a change of the seal), then the way of a
command through a door. -/

namespace Sys2Proof.Machine

/-! ## Acknowledgement (O11) -/

/-- The distance of a sequence number from the oldest record kept, as ACK takes it modulo 2^32 (R497). -/
theorem ackDistance {o q : Nat} (ho : o < 2 ^ 32) (hq : q < 2 ^ 32) :
    (q + 2 ^ 32 - o % 2 ^ 32) % 2 ^ 32 = if o ≤ q then q - o else q + 2 ^ 32 - o := by
  split <;> omega

/-- ACK of a record that is written and kept frees it and those before it (R497). -/
theorem Alcove.cmdAck_written (a : Alcove) {q : Nat} (hn : a.nextSeq < 2 ^ 32) (ho : a.oldest ≤ q) (hq : q < a.nextSeq) :
    a.cmdAck q = (0, 0, { a with oldest := q + 1, full := false }) := by
  unfold Alcove.cmdAck
  rw [ackDistance (by omega) (by omega), if_pos ho]
  dsimp only
  rw [if_neg (by omega), Nat.add_sub_cancel' ho]

/-- ACK of a number that no record kept has is refused (R497). -/
theorem Alcove.cmdAck_unwritten (a : Alcove) {q : Nat} (ho : a.oldest < 2 ^ 32) (hn : a.nextSeq < 2 ^ 32) (hq : q < 2 ^ 32)
    (h : a.nextSeq ≤ q ∨ q < a.oldest) : a.cmdAck q = (3, 0, a) := by
  have far : a.nextSeq - a.oldest ≤ if a.oldest ≤ q then q - a.oldest else q + 2 ^ 32 - a.oldest := by
    split <;> omega
  unfold Alcove.cmdAck
  rw [ackDistance ho hq]
  exact if_pos far

/-- Settles O11. -/
theorem acknowledgeFreesRecords : Obligations.AcknowledgeFreesRecords := by
  unfold Obligations.AcknowledgeFreesRecords
  intro a q hok hn hq
  have ho : a.oldest < 2 ^ 32 := lt_of_le_of_lt hok.order hn
  exact ⟨a.cmdAck_written hn, fun h => a.cmdAck_unwritten ho hn hq (.inl h), fun h => a.cmdAck_unwritten ho hn hq (.inr h)⟩

/-! ## The Seal door while sealed (O9) -/

/-- A Seal command finds the Alcove sealed (R490). -/
theorem Alcove.dispatch_sealed (a : Alcove) (c : AlcCmd) (up : List CopyUpset) (img : Option Nat) (hs : a.opened = false)
    (hd : c.sealDoor = true) (ho : bitsOf c.w0.toNat 0 8 = 0x20 ∨ bitsOf c.w0.toNat 0 8 = 0x21) : a.dispatch c up img = (6, 0, a) := by
  have hop : ¬ (bitsOf c.w0.toNat 0 8 ≠ 0x20 ∧ bitsOf c.w0.toNat 0 8 ≠ 0x21) := by tauto
  unfold Alcove.dispatch
  dsimp only
  rw [if_pos hd, if_neg hop, if_pos (by rw [hs]; rfl)]

/-- The reply of a door is the one given to it. -/
theorem Alcove.reply_get (a : Alcove) (key op status seq : Nat) :
    Tab.get (fun _ => Reply.idle) (a.reply key op status seq).replies key = { opcode := op, status := status, done := true, seq := seq } :=
  Tab.get_set_same _ _ _ _

/-- Settles O9: the command is dispatched to its refusal, and only the reply of the Seal door is written. -/
theorem sealedAlcoveRefusesSealCommands : Obligations.SealedAlcoveRefusesSealCommands := by
  unfold Obligations.SealedAlcoveRefusesSealCommands
  intro a c up img hon hs hd ho
  have he : a.command c up img = a.reply 18 (bitsOf c.w0.toNat 0 8) 6 0 := by
    unfold Alcove.command
    rw [if_neg (by rw [hon]; decide), a.dispatch_sealed c up img hs hd ho, if_pos hd]
  exact ⟨he, he ▸ a.reply_get 18 _ 6 0⟩

/-! ## Signed records (R498, R501) -/

/-- The bytes of a signed record of an Alcove: header, body and signature of both. -/
def Alcove.signedRecord (a : Alcove) (type : Nat) (body : List Byte) (labels : Bool) : List Byte :=
  a.header type false labels ++ recordBody body ++ ecdsaSign (a.header type false labels ++ recordBody body)

section
variable (a : Alcove) (type : Nat) (body : List Byte) (labels : Bool)

theorem Alcove.header_type : (a.header type false labels)[3]? = some (BitVec.ofNat 8 type) := by
  simp [Alcove.header]

theorem Alcove.header_seq : ((a.header type false labels).drop 4).take 4 = bytesLE 4 a.nextSeq := by
  simp only [Alcove.header, List.append_assoc]
  rw [← List.append_assoc (bytesLE 2 0xA1C0), List.drop_left' (by simp), List.take_left' (by simp)]

theorem recordBody_take : (recordBody body).take body.length = body := List.take_left

theorem Alcove.signedRecord_type : (a.signedRecord type body labels)[3]? = some (BitVec.ofNat 8 type) := by
  rw [Alcove.signedRecord, List.append_assoc, List.getElem?_append_left (by simp), Alcove.header_type]

theorem Alcove.signedRecord_seq : ((a.signedRecord type body labels).drop 4).take 4 = bytesLE 4 a.nextSeq := by
  rw [Alcove.signedRecord, List.append_assoc, List.drop_append_of_le_length (by simp), List.take_append_of_le_length (by simp),
    Alcove.header_seq]

variable {body} (hb : body.length ≤ 80)
include hb

theorem recordBody_length : (recordBody body).length = 80 := by
  simp [recordBody]
  omega

/-- A record has 192 bytes (R498). -/
theorem Alcove.signedRecord_length : (a.signedRecord type body labels).length = 192 := by
  simp [Alcove.signedRecord, recordBody_length hb]

/-- The body follows the 48 bytes of the header. -/
theorem Alcove.signedRecord_body : ((a.signedRecord type body labels).drop 48).take body.length = body := by
  rw [Alcove.signedRecord, List.append_assoc, List.drop_left' (by simp), List.take_append_of_le_length (by simp [recordBody_length hb, hb]),
    recordBody_take]

/-- The signature follows the 128 bytes that it signs (R501). -/
theorem Alcove.signedRecord_signature :
    (a.signedRecord type body labels).drop 128 = ecdsaSign ((a.signedRecord type body labels).take 128) := by
  have hl : (a.header type false labels ++ recordBody body).length = 128 := by simp [recordBody_length hb]
  rw [Alcove.signedRecord, List.drop_left' hl, List.take_left' hl]

end

/-! ## A change of the seal (O8) -/

/-- The body of a SEAL record (R500). -/
def Alcove.sealBody (a : Alcove) : List Byte := [BitVec.ofNat 8 (b2n a.opened), 0] ++ bytesLE 2 a.sealCount ++ bytesLE 8 a.ot

theorem Alcove.sealBody_length (a : Alcove) : a.sealBody.length = 12 := by simp [Alcove.sealBody]

/-- In a ring with room for it beside the ends of the open exhibits a SEAL record stands at the next sequence number, and beside the ring,
the number and the events nothing changes (R497, R500). -/
theorem Alcove.sealRecord_eq (a : Alcove) (h : a.exhibits.length + 1 < a.free) :
    ∃ es, a.sealRecord = { a with
      ring := Tab.set (fun _ => []) a.ring (a.nextSeq % ringSize) (a.signedRecord 0x05 a.sealBody false)
      nextSeq := a.nextSeq + 1
      evs := es } := by
  obtain ⟨es, he⟩ := a.push_eq 0x05 a.sealBody false (by omega)
  have hroom : (a.push 0x05 a.sealBody false true).exhibits.length < (a.push 0x05 a.sealBody false true).free := by
    rw [he]
    simp only [Alcove.exhibits, Alcove.free, Alcove.slot] at h ⊢
    omega
  refine ⟨es ++ [if a.opened then 770 else 771], ?_⟩
  change (a.push 0x05 a.sealBody false true).reserve.raise _ = _
  rw [Alcove.reserve_eq _ hroom, he]
  rfl

/-- The Alcove after a change of its seal and before the record of it (R488, R489). -/
def Alcove.turned (a : Alcove) (ot : Nat) (opened : Bool) : Alcove :=
  { (a.at ot).sealStore (if opened then min 65535 (a.sealCount + 1) else a.sealCount) with opened := opened, savedOpen := opened }

/-- The seal of an Alcove with power takes another state. -/
theorem Alcove.sealChange_eq (a : Alcove) (ot : Nat) (opened : Bool) (hon : a.on = true) (ho : a.opened ≠ opened) :
    a.sealChange ot opened = (a.turned ot opened).sealRecord := by
  unfold Alcove.sealChange
  dsimp only
  rw [if_neg]
  · rfl
  · simpa [Alcove.at, hon] using ho

/-- Settles O8: the record of the change is the one new entry of the ring. -/
theorem sealChangeRule : Obligations.SealChangeRule := by
  unfold Obligations.SealChangeRule
  intro s t ot opened hon ho hroom
  obtain ⟨es, he⟩ := (s.alc.turned ot opened).sealRecord_eq hroom
  have hb : (s.alc.turned ot opened).sealBody.length ≤ 80 := by
    rw [Alcove.sealBody_length]
    decide
  refine ⟨_, rfl, ?_⟩
  simp only [State.alcShow_alc, State.alcShow_pending, State.alcShow_tap, s.alc.sealChange_eq ot opened hon ho, he, Alcove.recordAt]
  refine ⟨rfl, rfl, ?_, rfl, rfl, rfl, rfl, rfl, trivial, trivial⟩
  rw [show (s.alc.turned ot opened).nextSeq = s.alc.nextSeq from rfl, Tab.get_set_same]
  refine ⟨Alcove.signedRecord_length _ _ _ hb, Alcove.signedRecord_type _ _ _ _, Alcove.signedRecord_seq _ _ _ _, ?_,
    Alcove.signedRecord_signature _ _ _ hb⟩
  have := Alcove.signedRecord_body (s.alc.turned ot opened) 0x05 false hb
  rw [Alcove.sealBody_length] at this
  rw [this]
  cases opened <;> rfl

end Sys2Proof.Machine

/-! # The doors of the Alcove: how a command reaches it -/

namespace Sys2Proof.Machine

/-! ## An item at a door (R485) -/

/-- The two items of the doors. -/
theorem Item.door_cases {i : Item} (h : i.door = true) : i = .alcCmd ∨ i = .sealCmd := by
  simpa [Item.door] using h

/-- The item of a door: of the Seal or the other. -/
def doorItem (sealing : Bool) : Item := if sealing then .sealCmd else .alcCmd

/-- The command of four words at a door. -/
def doorCmd (acc : Nat) (sealing : Bool) (ws : List Word) : AlcCmd where
  acc := acc
  sealDoor := sealing
  w0 := ws.getD 0 0
  w1 := ws.getD 1 0
  w2 := ws.getD 2 0
  w3 := ws.getD 3 0

/-- An item of a door waits while the Alcove is without supply (log 61). -/
theorem Dev.itemWrite_door_off (d : Dev) (acc : Nat) {i : Item} (w0 w1 w2 w3 : Word) (hoff : d.alcOn = false) (hd : i.door = true) :
    d.itemWrite acc i w0 w1 w2 w3 = .waits := by
  obtain rfl | rfl := Item.door_cases hd
  all_goals
    unfold Dev.itemWrite
    exact if_neg (by rw [hoff]; decide)

/-- While the Alcove has supply the item puts its command at the door. -/
theorem Dev.itemWrite_door_on (d : Dev) (acc : Nat) (sealing : Bool) (ws : List Word) (hon : d.alcOn = true) :
    d.itemWrite acc (doorItem sealing) (ws.getD 0 0) (ws.getD 1 0) (ws.getD 2 0) (ws.getD 3 0) =
      .taken (d.knock (doorCmd acc sealing ws)) := by
  cases sealing
  all_goals
    unfold Dev.itemWrite
    exact if_pos hon

theorem Dev.alcUnits_alcq (d : Dev) (a : Alcove) : (d.alcUnits a).alcq = d.alcq := by
  unfold Dev.alcUnits
  dsimp only
  rw [foldl_keeps fun d : Dev => d.alcq]
  intro d s
  rfl

/-- What the module has of the Alcove after a command at a door leaves what stands there. -/
theorem Dev.alcFollow_alcq (al : Alcove) (d : Dev) : (d.alcFollow al).alcq = d.alcq := by
  unfold Dev.alcFollow
  split
  · rfl
  · exact (foldl_keeps Dev.alcq _ outsideEvents_alcq.raise _ _).trans (d.alcUnits_alcq _)

section
variable (al : Alcove) (d : Dev) (acc : Nat) (sealing : Bool) (ws : List Word)

theorem doorItem_door : (doorItem sealing).door = true := by cases sealing <;> rfl

/-- The item of a door lies on its page, which is not that of the flash. -/
theorem doorItem_place : ∃ p, pageOf (doorItem sealing).place.1 = some p ∧ itemAt p (doorItem sealing).place.2 = some (doorItem sealing) ∧
    (doorItem sealing).place.2 < 256 ∧ (doorItem sealing).place.1 ≠ flashPage := by
  have hi : (doorItem sealing).InRange := by cases sealing <;> trivial
  obtain ⟨p, hp, hat⟩ := Item.itemAt_place hi
  exact ⟨p, hp, hat, Item.number_lt hi, by cases sealing <;> decide⟩

variable (hm : d.mayAct acc (doorItem sealing).place.1) (hw : d.itemWaits acc (doorItem sealing).place.1 = false)
include hm hw

/-- A granted request for a door, at the level of its page and with no item waiting there: its item is offered, and the module has what the
Alcove took (R281, R485). -/
theorem Dev.itemSend_door :
    d.itemSend al acc (doorItem sealing) ws =
      ((d.posted acc (doorItem sealing) ws).offerItem acc (doorItem sealing).place.1 (doorItem sealing)).2.alcFollow al := by
  obtain ⟨p, hp, hi, hn, hpage⟩ := doorItem_place sealing
  have hd := doorItem_door sealing
  obtain ⟨hx, hg, hl⟩ := hm
  generalize doorItem sealing = i at *
  obtain ⟨hc8, hc⟩ := d.posted_ctl acc i ws hn
  have hl' : ¬ (d.posted acc i ws).levelOn acc i.place.1 < (d.posted acc i ws).get (F.PRIV_LEVEL.level i.place.1) := by
    rw [Dev.posted_keeps d acc i ws (fun d => d.levelOn acc i.place.1) (fun _ _ _ _ => rfl),
      Dev.posted_keeps d acc i ws (fun d => d.get _) (fun _ _ _ _ => rfl)]
    omega
  have hw' : (d.posted acc i ws).itemWaits acc i.place.1 = false := by rw [Dev.posted_itemWaits, hw]
  unfold Dev.itemSend
  rw [Dev.access_eq al d acc (.send i.place.1 i.place.2 ws) hx hg (d.flashHolds_send acc _ _ ws hpage), Dev.access1, hp]
  show ((d.posted acc i ws).mbxGo al acc i.place.1 p).2 = _
  unfold Dev.mbxGo
  simp [hc8, hc, hl', hi, hw', hd, Dev.offerDoor]

/-- Such a request of a module with nothing at the doors leaves its command there, with what the Alcove finds as it takes it. -/
theorem Dev.itemSend_door_alcq (hon : d.alcOn = true) (hq : d.alcq = []) :
    (d.itemSend al acc (doorItem sealing) ws).alcq = [.cmd (doorCmd acc sealing ws) d.finding] := by
  have keeps {γ : Type} (g : Dev → γ) (h : ∀ (d : Dev) (b a : Nat) (w : Word), g (d.setLoc b a w) = g d) :=
    Dev.posted_keeps d acc (doorItem sealing) ws g h
  have hon' : (d.posted acc (doorItem sealing) ws).alcOn = true := (keeps Dev.alcOn fun _ _ _ _ => rfl).trans hon
  rw [Dev.itemSend_door al d acc sealing ws hm hw, Dev.alcFollow_alcq, Dev.offerItem]
  simp only [Dev.posted_mbxWord, Nat.reduceLT, Dev.itemWrite_door_on _ acc sealing ws hon']
  change (d.posted acc (doorItem sealing) ws).alcq ++ [.cmd _ (d.posted acc (doorItem sealing) ws).finding] = _
  rw [keeps Dev.alcq fun _ _ _ _ => rfl, keeps Dev.finding fun _ _ _ _ => rfl, hq]
  rfl

end

/-! ## A command through a door (O10) -/

/-- Nothing but one command put at a door is taken at once. -/
theorem Dev.alcNow_one (d : Dev) (a : Alcove) (c : AlcCmd) (x : Finding) (hq : d.alcq = [.cmd c x]) :
    d.alcNow a = (a.at (a.ot + x.gap)).command c x.up x.img := by
  rw [Dev.alcNow, hq]
  rfl

theorem Alcove.at_ot (a : Alcove) : a.at a.ot = a := by
  simp [Alcove.at]

/-- The end of a command that has put one command at a door: the Alcove has run it, and its events have gone to the module. -/
theorem State.settle_one (s : State) (c : AlcCmd) (x : Finding) (hq : s.dev.alcq = [.cmd c x]) :
    (State.settle s).alc = { (s.alc.at (s.alc.ot + x.gap)).command c x.up x.img with evs := [] } := by
  unfold State.settle
  rw [if_neg (by rw [hq]; exact Bool.false_ne_true), State.alcShow_alc, s.dev.alcNow_one s.alc c x hq]

/-- An accessor that may act on the page of a door of an Alcove with supply, with nothing else there, has its command run at the operating
time it names (R485, R486). -/
theorem State.door_runs (s : State) (t acc ot : Nat) (sealing : Bool) (ws : List Word) (up : List CopyUpset) (img : Option Nat)
    (hl : s.dev.live = true) (hq : (s.reached t).doorsShut) (hon : (s.dev.reach t).alcOn = true)
    (hm : (s.dev.reach t).mayAct acc (doorItem sealing).place.1) (hw : (s.dev.reach t).itemWaits acc (doorItem sealing).place.1 = false) :
    ∃ u, s.door t acc ot sealing ws up img = .next u ∧ u.pending = s.pending ∧ u.tap = s.tap ∧
      u.alc = { (s.alc.at ot).command (doorCmd acc sealing ws) up img with evs := [] } := by
  have hqueue := Dev.itemSend_door_alcq (s.alc.at ot)
    { s.dev.reach t with alcFind := some { up := up, img := img, gap := 0 } } acc sealing ws hm hw hon hq
  refine ⟨_, rfl, State.settle_pending _, State.settle_tap _, ?_⟩
  rw [Dev.run_live _ _ _ hl]
  refine (State.settle_one _ _ { up := up, img := img, gap := 0 } hqueue).trans ?_
  rw [Nat.add_zero, Alcove.at_ot]

/-- Settles O10: a door waits without supply, and each of the nine commands runs at its door with its words. -/
theorem alcoveCommandsReachTheAlcove : Obligations.AlcoveCommandsReachTheAlcove := by
  unfold Obligations.AlcoveCommandsReachTheAlcove
  refine ⟨fun d acc i w0 w1 w2 w3 hoff hd => d.itemWrite_door_off acc w0 w1 w2 w3 hoff hd, ?_⟩
  intro s t acc ot slot arg w1 w2 w3 up img hl hq hon
  have door (op : Nat) (up : List CopyUpset) := fun hm hw =>
    s.door_runs t acc ot false [alcWord op slot arg, w1, w2, w3] up none hl hq hon hm hw
  have sealDoor (op : Nat) (img : Option Nat) := fun hm hw =>
    s.door_runs t acc ot true [alcWord op slot arg, w1, w2, w3] [] img hl hq hon hm hw
  exact ⟨door 0x01 [], door 0x02 [], door 0x03 [], door 0x04 up, door 0x05 [], door 0x06 [], door 0x07 [], sealDoor 0x20 none,
    sealDoor 0x21 (img.map BitVec.toNat)⟩

end Sys2Proof.Machine

/-! # Power, boot and hold-up: resets and saves, and the commands of the family -/

namespace Sys2Proof.Machine

/-! ## A command that is refused (O16) -/

/-- A command bit at the level of its page, which no lock covers and with nothing outstanding, acts; one that RST_CMD refuses is recorded as
an ignored write (R276, R511). -/
theorem Dev.writeFields_cmd (d : Dev) (acc : Nat) {a k : Nat} {p : Page} {f : Fld} (c : CmdAt a k p f)
    (hl : d.get (F.PRIV_LEVEL.level (pageNo a)) ≤ d.levelOn acc (pageNo a)) (hp : f.prv = true → 2 ≤ d.levelOn acc (pageNo a))
    (hk : d.fieldLocked a f = false) (hb : d.cmdBits a = 0) :
    d.writeFields acc a p (w32 (2 ^ k)) (w32 (2 ^ k)) =
      (let r := d.act1 d acc a (2 ^ k)
       (r.1, if !r.1 ∧ actingAt a = .rstCmd then r.2.ignored (pageNo a) acc false else r.2)) := by
  have hlt : ¬ d.levelOn acc (pageNo a) < d.get (F.PRIV_LEVEL.level (pageNo a)) := not_lt_of_ge hl
  have hm : w32 (2 ^ k) &&& 0xFFFFFFFF = w32 (2 ^ k) := BitVec.and_allOnes
  have hq : (f.prv && decide (d.levelOn acc (pageNo a) < 2)) = false := by
    cases hf : f.prv
    · rfl
    · have := hp hf
      simp
      omega
  have hw : d.wosSet a f = false := by simp [Dev.wosSet, c.cmd]
  have hset : (w32 (2 ^ k) &&& (w32 (2 ^ k) &&& BitVec.ofNat 32 f.mask) != 0) = true := by
    rw [c.bit, bne_iff_ne]
    intro h
    have h2 := congrArg BitVec.toNat h
    rw [c.small] at h2
    exact absurd h2 (by simp)
  have hact : (f.acc == Acc.cmd) = true := by rw [c.cmd]; rfl
  have hc : (w32 ((w32 (2 ^ k) &&& (w32 (2 ^ k) &&& BitVec.ofNat 32 f.mask)).toNat) &&& ~~~(0 : Word)).toNat = 2 ^ k := by
    rw [c.bit, c.small, show ~~~(0 : Word) = BitVec.allOnes 32 from rfl, BitVec.and_allOnes, c.small]
  unfold Dev.writeFields writeFlds cmdsOf
  simp only [c.evt, hm, c.one, List.isEmpty_cons, Bool.false_eq_true, if_false, hlt, List.filter_cons, List.filter_nil, hact,
    Bool.true_or, Bool.not_true, Bool.false_or, hset, if_true, hq, Bool.not_false, hk, hw, Bool.false_and, List.foldl_cons,
    List.foldl_nil, List.any_cons, List.any_nil, Nat.zero_or, hb, hc, List.isEmpty_nil, Bool.or_self]
  simp

/-- A command bit of an accessor that may act there has its end with the access. -/
theorem Dev.cmd_writeFields (al : Alcove) (d : Dev) {acc : Nat} {r : FieldRef} {p : Page} {f : Fld} (c : CmdAt r.addr r.lsb p f)
    (hm : d.mayAct acc (pageNo r.addr)) : d.cmd al acc r = (d.writeFields acc r.addr p (w32 (2 ^ r.lsb)) (w32 (2 ^ r.lsb))).2 := by
  obtain ⟨hx, hg, -⟩ := hm
  unfold Dev.cmd Dev.writeBits
  rw [Dev.access_eq al d acc _ hx (by rw [Access.page, c.word]; exact hg) (Dev.flashHolds_high _ _ _ _ _ (by rw [c.word]; exact c.ofs)),
    Dev.access1, Dev.regWrite_high al d acc _ _ c.word c.page c.ofs]

/-- A command of RST_CMD that is refused sets refused and is recorded as an ignored write (R276, R511). -/
theorem Dev.cmd_rstRefused (al : Alcove) (d : Dev) {acc k : Nat} {f : Fld} (c : CmdAt A.RST_CMD k ⟨.powerBoot, 0, 0⟩ f)
    (hm : d.mayPriv acc (pageNo A.RST_CMD)) (hr : d.pwr.rstAt = none)
    (ha : d.act1 d acc A.RST_CMD (2 ^ k) = (false, d.put F.RST_STATUS.refused 1)) :
    d.cmd al acc ⟨A.RST_CMD, k, 1⟩ = (d.put F.RST_STATUS.refused 1).ignored (pageNo A.RST_CMD) acc false := by
  obtain ⟨hact, h2⟩ := hm
  rw [Dev.cmd_writeFields (r := ⟨A.RST_CMD, k, 1⟩) al d c hact, Dev.writeFields_cmd d acc c hact.2.2 (fun _ => h2)
    (d.fieldLocked_false _ c.page (by decide)) (d.cmdBits_rstCmd hr)]
  simp only [ha]
  exact if_pos ⟨rfl, actingAt_rstCmd⟩

/-- Settles O16: with a canvas enabled both commands of RST_CMD end in their refusal. -/
theorem resetRefusedWhileACanvasIsEnabled : Obligations.ResetRefusedWhileACanvasIsEnabled := by
  unfold Obligations.ResetRefusedWhileACanvasIsEnabled
  intro s t acc hl hm hc hr
  refine ⟨s.act_cmd t acc F.RST_CMD.module _ hl ?_, s.act_cmd t acc F.RST_CMD.standby _ hl ?_⟩
  · exact Dev.cmd_rstRefused _ _ rstModule_cmdAt hm hr (by simp [Dev.act1, actingAt_rstCmd, bitOf, Dev.rstModule, hc])
  · exact Dev.cmd_rstRefused _ _ rstStandby_cmdAt hm hr (by simp [Dev.act1, actingAt_rstCmd, bitOf, Dev.rstStandby, hc])

/-! ## What leaves the Alcove alone (O7) -/

/-- A command on the module alone, or on its power, leaves the Alcove as it is (R483). -/
theorem State.act_alc (s : State) (t : Nat) (f : Dev → Dev) : ∃ u, s.act t f = .next u ∧ u.alc = s.alc := ⟨_, rfl, rfl⟩
theorem State.power_alc (s : State) (t : Nat) (f : Dev → Dev) : ∃ u, s.power t f = .next u ∧ u.alc = s.alc := ⟨_, rfl, rfl⟩

/-- A low RESET_N resets the module and may reset the test access port, no more. -/
theorem execPinReset_alc (s : State) (t : Nat) : ∃ u, execPinReset t s = .next u ∧ u.alc = s.alc := ⟨_, rfl, rfl⟩

/-- Settles O7: of these commands all but the two of the RESET_N input act on the module alone. -/
theorem resetsAndOperationsLeaveTheAlcove : Obligations.ResetsAndOperationsLeaveTheAlcove := by
  unfold Obligations.ResetsAndOperationsLeaveTheAlcove
  intro s t acc k x ref n ok img a b dead sweeps
  simp only [List.forall_mem_cons]
  refine ⟨execPinReset_alc s t, s.power_alc t (fun d => d.resetRelease s.tap), ?_⟩
  have act (f : Dev → Dev) := s.act_alc t f
  exact ⟨act _, act _, act _, act _, act _, act _, act _, act _, act _, act _, act _, act _, act _, act _, act _, act _, act _,
    fun _ h => nomatch h⟩

/-! ## Saves (O44) -/

/-- The newest valid save lies in one of the two areas (R525). -/
theorem Dev.newestSave_mem (d : Dev) {n : Save} (h : d.newestSave = some n) : d.pwr.saveA = some n ∨ d.pwr.saveB = some n := by
  have valid {x : Option Save} {y : Save} (hx : x.filter (·.valid) = some y) : x = some y := (Option.filter_eq_some_iff.1 hx).1
  unfold Dev.newestSave at h
  split at h
  · next a b ha hb =>
    split at h
    · exact .inr (Option.some.inj h ▸ valid hb)
    · exact .inl (Option.some.inj h ▸ valid ha)
  · next a ha hb => exact .inl (Option.some.inj h ▸ valid ha)
  · exact .inr (valid h)

/-- Where a save goes: beside the newest valid one, or to the first area where there is none (R525). -/
theorem Dev.storeSave_cases (d : Dev) (x : Save) :
    (d.storeSave x = { d with pwr.saveA := some x } ∧ ∀ n, d.newestSave = some n → d.pwr.saveB = some n) ∨
    (d.storeSave x = { d with pwr.saveB := some x } ∧ ∀ n, d.newestSave = some n → d.pwr.saveA = some n) := by
  unfold Dev.storeSave
  split
  · next n hn =>
    split
    · next ha => exact .inr ⟨rfl, fun m hm => ha.trans (hn.symm.trans hm)⟩
    · next ha => exact .inl ⟨rfl, fun m hm => (d.newestSave_mem hm).resolve_left fun h => ha (by rw [h, ← hm, hn])⟩
  · next hn => exact .inl ⟨rfl, fun m hm => absurd (hn.symm.trans hm) (by simp)⟩

/-- Settles O44. -/
theorem saveSparesTheNewest : Obligations.SaveSparesTheNewest := by
  unfold Obligations.SaveSparesTheNewest
  intro d x
  obtain ⟨he, hn⟩ | ⟨he, hn⟩ := d.storeSave_cases x
  · exact ⟨.inl (by rw [he]), fun n h => .inr (by rw [he]; exact hn n h), d.storeSave_eq x⟩
  · exact ⟨.inr (by rw [he]), fun n h => .inl (by rw [he]; exact hn n h), d.storeSave_eq x⟩

/-! ## The end of a save (O45) -/

/-- The module with its save stored and its power gone, in standby after a thermal trip (R524, R530). A save of standby, cause 0, is written
nowhere (log 144). -/
def Dev.savedDown (d : Dev) (x : Save) (whole : Bool) : Dev :=
  let e := if x.cause = 0 then d else d.storeSave { x with valid := whole }
  { e with pwr := { e.pwr with
      fail := none, failing := none, vinBack := none, on := false, standby := x.cause == 3, kind := if x.cause = 3 then 4 else 0 } }

section
variable {d : Dev} {x : Save} (whole : Bool)

/-- Beside its saves and what it says of itself such a module is as before. -/
theorem Dev.savedDown_keeps : (d.savedDown x whole).pwr.flash = d.pwr.flash ∧ (d.savedDown x whole).pwr.resetN = d.pwr.resetN ∧
    (d.savedDown x whole).hbm = d.hbm := by
  unfold Dev.savedDown
  split
  · exact ⟨rfl, rfl, rfl⟩
  · rw [Dev.storeSave_eq]
    exact ⟨rfl, rfl, rfl⟩

variable {p : Nat × Nat} (hf : d.pwr.fail = some p) (hx : d.pwr.failing = some x)
include hf hx

/-- After a trip the module stays in standby, or leaves it where RESET_N is low (R510, R530). -/
theorem Dev.saveComplete_trip (hc : x.cause = 3) :
    d.saveComplete whole = if d.pwr.resetN then d.savedDown x whole else (d.savedDown x whole).standbyExit := by
  obtain ⟨-, hr, -⟩ := Dev.savedDown_keeps (d := d) (x := x) whole
  rw [← hr, Dev.saveComplete, hf, hx]
  exact if_pos hc

/-- After another cause it is off, or starts with the VIN that came back (R524). -/
theorem Dev.saveComplete_fail (hc : x.cause ≠ 3) :
    d.saveComplete whole = match d.pwr.vinBack with
      | some mv => (d.savedDown x whole).powerStart mv
      | none => d.savedDown x whole := by
  rw [Dev.saveComplete, hf, hx]
  exact if_neg hc

end

/-- What the end of a save makes of the module, shown by an Alcove or not. -/
structure Dev.SaveEnds (d e : Dev) (x : Save) : Prop where
  fail    : e.pwr.fail = none
  failing : e.pwr.failing = none
  on      : e.pwr.on = if x.cause = 3 then !d.pwr.resetN else d.pwr.vinBack.isSome
  standby : e.pwr.standby = (x.cause == 3 && d.pwr.resetN)
  kind    : e.pwr.kind = if x.cause = 3 then 4 else 0
  hbm     : e.pwr.on = false → e.hbm = d.hbm
  flash   : e.pwr.flash = d.pwr.flash

section
variable {d : Dev} {x : Save} (whole : Bool) {p : Nat × Nat} (hf : d.pwr.fail = some p) (hx : d.pwr.failing = some x)
include hf hx

/-- The four ends of a save: standby, its exit, power-down and a new start. -/
theorem Dev.saveComplete_ends : d.SaveEnds (d.saveComplete whole) x := by
  obtain ⟨hflash, -, hhbm⟩ := Dev.savedDown_keeps (d := d) (x := x) whole
  by_cases hc : x.cause = 3
  · have hk : (d.savedDown x whole).pwr.kind = 4 := if_pos hc
    have hs : (d.savedDown x whole).pwr.standby = true := beq_iff_eq.2 hc
    rw [Dev.saveComplete_trip whole hf hx hc]
    cases hr : d.pwr.resetN with
    | true =>
      exact ⟨rfl, rfl, by rw [if_pos hc, hr]; rfl, by rw [hc, hr]; exact hs, by rw [if_pos hc]; exact hk, fun _ => hhbm, hflash⟩
    | false =>
      obtain ⟨hon, hst, hfa, hfg, hkd, hfl⟩ := (d.savedDown x whole).standbyExit_pwr
      exact ⟨hfa, hfg, by rw [if_pos hc, hr]; exact hon, by rw [hr, Bool.and_false]; exact hst, by rw [if_pos hc]; exact hkd.trans (if_pos hk),
        fun h => absurd (hon.symm.trans h) (by decide), hfl.trans hflash⟩
  · have hk : (d.savedDown x whole).pwr.kind = 0 := if_neg hc
    have hs : (x.cause == 3) = false := beq_eq_false_iff_ne.2 hc
    rw [Dev.saveComplete_fail whole hf hx hc]
    cases hv : d.pwr.vinBack with
    | none =>
      exact ⟨rfl, rfl, by rw [if_neg hc, hv]; rfl, by rw [hs]; exact hs, by rw [if_neg hc]; exact hk, fun _ => hhbm, hflash⟩
    | some mv =>
      obtain ⟨hon, hst, hfa, hfg, hkd, hfl⟩ := (d.savedDown x whole).powerStart_pwr mv
      exact ⟨hfa, hfg, by rw [if_neg hc, hv]; exact hon, by rw [hs]; exact hst, by rw [if_neg hc]; exact hkd,
        fun h => absurd (hon.symm.trans h) (by decide), hfl.trans hflash⟩

end

/-- What the Alcove shows the module leaves the end of a save as it is. -/
theorem Dev.SaveEnds.alcShow {d : Dev} {x : Save} {s : State} (h : d.SaveEnds s.dev x) : d.SaveEnds (State.alcShow s).dev x := by
  have hp := State.alcShow_pwr s
  refine ⟨hp ▸ h.fail, hp ▸ h.failing, hp ▸ h.on, hp ▸ h.standby, hp ▸ h.kind, fun hoff => ?_, hp ▸ h.flash⟩
  have hoff' : s.dev.pwr.on = false := hp ▸ hoff
  have hlive : s.dev.live = false := by rw [Dev.live, hoff', Bool.false_and]
  exact (State.alcShow_hbm s hlive).trans (h.hbm hoff')

/-- Settles O45: the module ends its save in one of four ways, and the Alcove keeps its supply after a trip alone. -/
theorem saveCompletePowersDown : Obligations.SaveCompletePowersDown := by
  unfold Obligations.SaveCompletePowersDown
  intro s t whole p x hf hx d
  have hends := Dev.saveComplete_ends whole hf hx
  refine ⟨_, rfl, ?_⟩
  simp only [hf, hx, State.alcShow_pending, State.alcShow_alc]
  obtain ⟨hfail, hfailing, hon, hstandby, hkind, hhbm, hflash⟩ := Dev.SaveEnds.alcShow (s := { s with
    dev := (s.dev.reach t).saveComplete whole, alc := if x.cause = 3 then s.alc else s.alc.powerDown,
    tap := s.tap.after (s.dev.reach t) ((s.dev.reach t).saveComplete whole) }) hends
  refine ⟨hfail, hfailing, hon, hstandby, fun hc => ⟨?_, ?_⟩, fun hc => ⟨?_, ?_⟩, hhbm, hflash, trivial⟩
  · rw [hkind, if_pos hc]
  · rw [if_pos hc]
  · rw [hkind, if_neg hc]
  · rw [if_neg hc]
    rfl

end Sys2Proof.Machine

/-! # The test access port -/

namespace Sys2Proof.Machine

/-! ## The instruction in force (R562) -/

section
variable (p : Tap) (resetN : Bool)

/-- With RESET_N high now or as it was loaded, an instruction that drives lands is not in force. -/
theorem tapInForce_of_drives (hr : resetN = true ∨ p.high = true) (hd : (tapOp p.ir).drives = true) :
    tapInForce p resetN = .bypass := by
  have h : (resetN || p.high) = true := by simpa using hr
  rw [tapInForce, hd, h]
  rfl

/-- One that drives none is in force as itself. -/
theorem tapInForce_of_not_drives (hd : (tapOp p.ir).drives = false) : tapInForce p resetN = tapOp p.ir := by
  rw [tapInForce, hd]
  rfl

/-- With RESET_N low now and as it was loaded every instruction is in force as itself. -/
theorem tapInForce_low (hh : p.high = false) : tapInForce p false = tapOp p.ir := by
  rw [tapInForce, hh, Bool.or_self, Bool.and_false]
  rfl

/-- Under BYPASS the module drives every land. -/
theorem landDrive_bypass (h : tapInForce p resetN = .bypass) (l : Land) : landDrive p resetN l = .module := by
  unfold landDrive
  rw [h]
  split <;> rfl

end

/-! ## A scan (R557, R561) -/

/-- The identification code as the manual states it whole (R561, R562). -/
theorem idcodeWord_eq : idcodeWord = 0x1014454B := by decide

/-- What a port captures under IDCODE. -/
theorem Dev.drCapture_idcode (d : Dev) (p : Tap) (h : tapOp p.ir = .idcode) :
    d.drCapture p = (List.range 32).map (0x1014454B : Word).getLsbD := by
  rw [Dev.drCapture, tapInForce_of_not_drives p _ (by rw [h]; rfl), h, idcodeWord_eq]

section
variable (p : Tap) (d : Dev) (x : TapScan)

/-- A scan leaves the port with the instruction and with the level of RESET_N at its loading. -/
theorem tapShift_port : (tapShift p d x).1.ir = x.ir ∧ (tapShift p d x).1.high = d.pwr.resetN := by
  unfold tapShift
  dsimp only
  split
  · exact ⟨rfl, rfl⟩
  · split <;> exact ⟨rfl, rfl⟩

/-- Of the module it changes the outputs and the count of free values alone. -/
theorem tapShift_module : (tapShift p d x).2 = { d with out := (tapShift p d x).2.out, seed := (tapShift p d x).2.seed } := by
  unfold tapShift
  dsimp only
  split <;> rfl

/-- Under IDCODE 32 bits shifted give out the identification code (R561). -/
theorem tapShift_idcode (hi : tapOp x.ir = .idcode) (hl : x.dr.length = 32) :
    (tapShift p d x).2.out.head? = some (.tdo d.now ((List.range 32).map (0x1014454B : Word).getLsbD)) := by
  have hne : ¬ x.dr.isEmpty = true := by
    intro h
    rw [List.isEmpty_iff.1 h] at hl
    exact absurd hl (by decide)
  have hcap (e : Dev) : ((e.drCapture { p with ir := x.ir, high := d.pwr.resetN } ++ x.dr).take x.dr.length) =
      (List.range 32).map (0x1014454B : Word).getLsbD := by
    rw [e.drCapture_idcode _ hi, hl]
    exact List.take_left' (by simp)
  unfold tapShift
  dsimp only
  rw [if_neg hne, hcap]
  rfl

end

/-- On a module with power and with TRST_N high the instruction is shifted in. -/
theorem execTapInstruction_shift (s : State) (t : Nat) (x : TapScan) (hp : s.dev.pwr.on = true) (hx : x.trstN = true) :
    exec (.tapInstruction t x) s = .next { s with dev := (tapShift s.tap (s.dev.at t) x).2, tap := (tapShift s.tap (s.dev.at t) x).1 } := by
  change execTapInstruction t x s = _
  simp [execTapInstruction, hp, hx]

/-- With TRST_N low the port is reset, and its cells stand (log 145). -/
theorem execTapInstruction_reset (s : State) (t : Nat) (x : TapScan) (hp : s.dev.pwr.on = true) (hx : x.trstN = false) :
    exec (.tapInstruction t x) s = .next { s with dev := s.dev.at t, tap := { Tap.reset with cells := s.tap.cells } } := by
  change execTapInstruction t x s = _
  simp [execTapInstruction, hp, hx]

/-- Settles O12: a scan's port, module and bits, then the instructions by whether they drive lands. -/
theorem tapInstructionShiftsOnly : Obligations.TapInstructionShiftsOnly := by
  unfold Obligations.TapInstructionShiftsOnly
  refine ⟨fun s t x hp hx => ?_, execTapInstruction_reset, fun p resetN hr => ⟨fun hop => ?_, fun hop => ?_⟩, tapInForce_low⟩
  · obtain ⟨hir, hhigh⟩ := tapShift_port s.tap (s.dev.at t) x
    exact ⟨execTapInstruction_shift s t x hp hx, hir, hhigh, tapShift_module _ _ x, tapShift_idcode _ _ x⟩
  · have hd : (tapOp p.ir).drives = true := by
      rcases hop with h | h | h | h | h <;> rw [h] <;> rfl
    have hb := tapInForce_of_drives p resetN hr hd
    exact ⟨hb, landDrive_bypass p resetN hb⟩
  · have hd : (tapOp p.ir).drives = false := by
      rcases hop with h | h | h <;> rw [h] <;> rfl
    exact tapInForce_of_not_drives p resetN hd

end Sys2Proof.Machine

/-! # Rows of power, boot and service: each command completes with the effect of its rule

The commands that act on the module alone are run by `State.act_live`, those whose accesses may reach the Alcove by `State.settle_live`; the
Alcove's own, and those of power, have their effect whatever the module does. -/

namespace Sys2Proof.Machine

section
variable (s : State) (t : Nat)

/-- The accesses of a command to a module that works, with what they put at the Alcove taken there. -/
theorem State.settle_live (f : Dev → Dev) (hl : s.dev.live = true) :
    (.next (State.settle { s with dev := s.dev.run t f }) : Res) = .next (State.settle { s with dev := f (s.dev.reach t) }) := by
  rw [Dev.run_live _ _ _ hl]

/-- The charger acts where it runs (R523). -/
theorem State.power_charger (f : Dev → Dev) (hc : s.dev.chargerRuns = true) :
    (s.power t fun d => if s.dev.chargerRuns then f d else d) = .next { s with dev := f (s.dev.reach t) } := by
  simp only [State.power, hc, if_true]

/-- A sample short of the trip acts on the module alone (R528). -/
theorem execThermalSample_below (ot : Nat) (tj : BitVec 8) (hl : s.dev.live = true) (h : signedOf tj.toNat 8 < 110) :
    execThermalSample t ot tj s = .next { s with dev := (s.dev.reach t).thermSample (signedOf tj.toNat 8) } := by
  rw [execThermalSample, if_pos h, State.act_live _ _ _ hl]

/-- At 110 °C the module trips and the Alcove is warned (R530). -/
theorem execThermalSample_trip (ot : Nat) (tj : BitVec 8) (h : 110 ≤ signedOf tj.toNat 8) :
    execThermalSample t ot tj s = .next (State.alcShow { s with
      dev := (s.dev.reach t).thermTrip (signedOf tj.toNat 8)
      alc := if s.dev.pwr.on ∧ s.dev.pwr.fail.isNone then s.alc.warning ot else s.alc }) := by
  rw [execThermalSample, if_neg (not_lt_of_ge h)]
  rfl

end

/-! ## Commands of the Alcove, of power, boot, hold-up, flash and heat (O59) -/

/-- Settles O59. -/
theorem alcovePowerAndBootRowsComplete : Obligations.AlcovePowerAndBootRowsComplete := by
  unfold Obligations.AlcovePowerAndBootRowsComplete
  intro s
  refine ⟨?progress, ?copyCheck, ?otSave, ?clkCheck, ?powerUp, ?watchdog, ?_, ?_, ?_, ?write, ?masked, ?mailbox, ?indirect, ?_, ?_, ?_, ?_, ?_,
    ?pinReset, ?resetRelease, ?_, ?_, ?failStop, ?measured, ?level, ?flash, ?_, ?powerOn, ?powerFail, ?heat⟩
  case progress | copyCheck | otSave | clkCheck | powerUp | watchdog => intros; rfl
  case pinReset | resetRelease | failStop | powerOn | powerFail => intros; rfl
  case write | masked | mailbox | indirect | flash => intros; exact State.settle_live s _ _ ‹_›
  case measured => exact fun t ns hc => s.power_charger t (fun d => d.holdMeasured ns) hc
  case level => exact fun t mv hc => s.power_charger t (fun d => d.holdLevel mv.toNat) hc
  case heat => exact fun t ot tj hl => ⟨execThermalSample_below s t ot tj hl, execThermalSample_trip s t ot tj⟩
  all_goals intros; exact State.act_live s _ _ ‹_›

/-! ## Commands of operations, the monitor, self-tests and uploads (O60) -/

/-- Settles O60. -/
theorem serviceRowsComplete : Obligations.ServiceRowsComplete := by
  unfold Obligations.ServiceRowsComplete
  intro s
  refine ⟨?_, ?_, ?_, ?_, ?_, ?_, ?_, ?ident, ?_, ?_, ?rd, ?wr, ?wm, ?ind, ?indw, ?mbx, ?evt,
    ?_, ?_, ?_, ?_, ?_, ?_, ?_, ?_, ?_, ?_, ?_, ?_, ?_, ?_⟩
  case ident | rd | wr | wm | ind | indw | mbx | evt => intros; exact State.settle_live s _ _ ‹_›
  all_goals intros; exact State.act_live s _ _ ‹_›

end Sys2Proof.Machine

/-! # The reset state, the flash and the monitor's level -/

namespace Sys2Proof.Machine

/-! ## The reset state (O46) -/

/-- The Alcove as it leaves the factory is in bounds (log 6). -/
theorem Alcove.factory_ok : Alcove.factory.Ok := ⟨le_rfl, Nat.zero_le _, Nat.zero_le _⟩

/-- Settles O46: the machine holds its reset values, and those of the map are looked up for each register of a block. -/
theorem resetStateInBounds : Obligations.ResetStateInBounds := by
  unfold Obligations.ResetStateInBounds
  refine ⟨Alcove.factory_ok, rfl, rfl, rfl, rfl, ?activeGen, ?cascade, ?reference, ?canvases, ?lanes, ?spaces, ?channels, ?units, ?events⟩
  all_goals decide +kernel

/-! ## Flash (O49) -/

/-- Of the entries that a filter by index keeps a table reads as before, and the others read as unlisted. -/
theorem Tab.get_filter {α : Type} (d : Nat → α) (m : Tab α) (p : Nat → Bool) (k : Nat) :
    Tab.get d (m.filter fun e => p e.1) k = if p k then Tab.get d m k else d k := by
  induction m with
  | nil => exact (ite_self _).symm
  | cons e m ih =>
    by_cases hp : p e.1 = true
    · rw [List.filter_cons, if_pos hp, Tab.get, Tab.get, ih]
      split
      · next he => rw [if_pos (he ▸ hp)]
      · rfl
    · rw [List.filter_cons, if_neg hp, ih]
      split
      · next hk => rw [Tab.get, if_neg fun he : e.1 = k => hp (he ▸ hk)]
      · rfl

section
variable (d : Dev) {k : Nat} (hk : 4 * k < 0x18000000)

theorem Dev.flashWord_setFlash_other {j : Nat} (w : Word) (h : j ≠ k) : (d.setFlash k w).flashWord j = d.flashWord j := by
  unfold Dev.flashWord
  split
  · rfl
  · exact Tab.get_set_other _ _ _ _ _ h

include hk

/-- Below the calibration region the flash holds the words written to it (R514). -/
theorem Dev.flashWord_eq : d.flashWord k = Tab.get (fun _ => 0xFFFFFFFF) d.pwr.flash k := if_neg (by omega)

theorem Dev.flashWord_setFlash_same (w : Word) : (d.setFlash k w).flashWord k = w := by
  rw [Dev.flashWord_eq _ hk]
  exact Tab.get_set_same _ _ _ _

/-- An erase that verifies sets the words of its sector to ones and leaves the others (R515). -/
theorem Dev.flashWord_erase (sec : Nat) :
    (d.flashApply (.erase sec) true).flashWord k = if k / 16384 = sec then 0xFFFFFFFF else d.flashWord k := by
  rw [Dev.flashWord_eq _ hk, Dev.flashWord_eq _ hk]
  refine (Tab.get_filter _ d.pwr.flash (fun j => j / 16384 != sec) k).trans ?_
  by_cases h : k / 16384 = sec <;> simp [h]

end

/-- At the level of the flash's page a write of IND_DATA to a writable word is withheld while the flash is busy (R515). -/
theorem Dev.flashHolds_program (d : Dev) (acc : Nat) (v m : Word) (hb : d.is F.FLASH_STATUS.busy = true)
    (hl : d.get (F.PRIV_LEVEL.level flashPage) ≤ d.levelOn acc flashPage) (ha : (d.loc acc (A.IND_ADDR flashPage)).toNat < 0x08000000)
    (hw : d.flashWritable (4 * (d.loc acc (A.IND_ADDR flashPage)).toNat) = true) :
    d.flashHolds acc (.write (A.IND_DATA flashPage) v m) = true := by
  simp [Dev.flashHolds, hb, hl, wordAddr_indData, ha, hw]

/-- Settles O49: a program and an erase by what they store, and the access that is withheld by `Dev.access_waits`. -/
theorem flashProgramClearsBits : Obligations.FlashProgramClearsBits := by
  unfold Obligations.FlashProgramClearsBits
  refine ⟨fun d k w sec hk => ⟨?_, fun j hj => ?_, fun hs => ?_, fun hs => ?_⟩,
    fun d al acc x v hx => ⟨fun h => ?_, fun hb hl ha hw => ?_⟩⟩
  · exact d.flashWord_setFlash_same hk _
  · exact d.flashWord_setFlash_other _ hj
  · rw [d.flashWord_erase hk, if_pos hs]
  · rw [d.flashWord_erase hk, if_neg hs]
  · exact d.access_waits al acc x hx h
  · exact d.flashHolds_program acc v _ hb hl ha hw

/-! ## The level of the monitor (O48) -/

/-- A field that begins above another of its register reads as before the other was put. -/
theorem Dev.get_put_above (d : Dev) (r q : FieldRef) (v : Nat) (ha : q.addr = r.addr) (h : r.lsb + r.width ≤ q.lsb) :
    (d.put r v).get q = d.get q := by
  refine Nat.eq_of_testBit_eq fun i => ?_
  rw [Dev.get, Dev.get, testBit_bitsOf, testBit_bitsOf, Dev.put, ha, Dev.stored_setStored_same,
    testBit_putBits_other _ _ (.inr (by omega))]

/-- The module that has heard a line at this instant (R541). -/
def Dev.hears (d : Dev) : Dev := { d with stw.heard := d.now }

section
variable (d : Dev) (n : Nat)

/-- Above the ceiling the level is refused (R541). -/
theorem Dev.ururiLevel_above (h : d.get F.URURI_CTL.ceiling < n) : d.ururiLevel (some n) = d.say [] 2 := if_pos h

/-- Up to it the level is taken. -/
theorem Dev.ururiLevel_upTo (h : n ≤ d.get F.URURI_CTL.ceiling) : d.ururiLevel (some n) = (d.put F.URURI_CTL.level n).say [] 0 :=
  if_neg (not_lt_of_ge h)

/-- A level up to the ceiling fits its field, which holds two bits as that of the ceiling does, and leaves the ceiling. -/
theorem Dev.put_ururiLevel (h : n ≤ d.get F.URURI_CTL.ceiling) :
    (d.put F.URURI_CTL.level n).get F.URURI_CTL.level = n ∧
    (d.put F.URURI_CTL.level n).get F.URURI_CTL.ceiling = d.get F.URURI_CTL.ceiling := by
  have hc : d.get F.URURI_CTL.ceiling < 2 ^ 2 := Nat.mod_lt _ (by decide)
  refine ⟨?_, d.get_put_above _ _ _ rfl (by decide)⟩
  rw [d.get_put_same _ _ (by decide)]
  exact Nat.mod_eq_of_lt (lt_of_le_of_lt h hc)

end

/-- A line that is too long spells no command (R542). -/
theorem ururiLine_long (t : Nat) (line : List Byte) (h : 256 < line.length) : ururiLine t line = none := if_pos h

/-- A line that spells no command is answered ERR 01 by a module that works (R542). -/
theorem execUruriLine_none (t : Nat) (line : List Byte) (s : State) (hl : s.dev.live = true) (h : ururiLine t line = none) :
    execUruriLine t line s = .next { s with dev := (s.dev.reach t).hears.say [] 1 } := by
  rw [execUruriLine, h]
  exact s.act_live t _ hl

/-- Settles O48: the level by the side of the ceiling on which it lies, and a line by what it spells. -/
theorem ururiLevelUnderTheCeiling : Obligations.UruriLevelUnderTheCeiling := by
  unfold Obligations.UruriLevelUnderTheCeiling
  intro s t n hl
  have hrun : exec (.ururiLevel t (some n)) s = .next { s with dev := (s.dev.reach t).hears.ururiLevel (some n) } := s.act_live t _ hl
  refine ⟨fun h => ?_, fun h => ?_, fun line h => ?_⟩
  · rw [hrun, Dev.ururiLevel_above (s.dev.reach t).hears n h]
    rfl
  · obtain ⟨hlevel, hceiling⟩ := (s.dev.reach t).hears.put_ururiLevel n h
    exact ⟨by rw [hrun, Dev.ururiLevel_upTo (s.dev.reach t).hears n h]; rfl, rfl, hlevel, hceiling, rfl, rfl⟩
  · exact execUruriLine_none t line s hl (h.elim (ururiLine_long t line) id)

end Sys2Proof.Machine
